-- ==== Sys2Proof/Word.lean ====
section
/-!
DEFINITION. Word.lean: the word types of the HGL-3200 model and their plainest arithmetic.
Widths are the spec's: 64-bit data registers and 48-bit addresses (06 R163), 96-bit accumulators (R163), 16-bit master
identities (00 R18), bytes and 32-bit instruction words (06 R162).
-/
namespace Sys2Proof

/-- One byte. -/
abbrev Byte := BitVec 8
/-- A 64-bit data word (06 R163). -/
abbrev Word := BitVec 64
/-- A 48-bit address of the core view (01 R36). -/
abbrev Addr := BitVec 48
/-- A 96-bit accumulator (06 R163). -/
abbrev Acc := BitVec 96
/-- A 16-bit master identity (00 R18, 01 R33). -/
abbrev Mid := BitVec 16
/-- An abort code of the dictionary (16 R419 to R435). -/
abbrev Abort := BitVec 32

/-- The little-endian value of a list of bytes (00 Numbers and units: memory is little-endian). -/
def leNat : List Byte → Nat
  | [] => 0
  | b :: t => b.toNat + 256 * leNat t

/-- The `n` little-endian bytes of a number, the first the least significant. -/
def leBytes : Nat → Nat → List Byte
  | 0, _ => []
  | n + 1, v => BitVec.ofNat 8 v :: leBytes n (v / 256)

/-- The 64-bit word that a list of bytes spells. -/
def leWord (l : List Byte) : Word := BitVec.ofNat 64 (leNat l)

/-- Bits [hi:lo] of a number. -/
def bitsOf (v hi lo : Nat) : Nat := (v / 2 ^ lo) % 2 ^ (hi + 1 - lo)

/-- Bit `i` of a number. -/
def bitOf (v i : Nat) : Bool := (v / 2 ^ i) % 2 == 1

/-- 1 for true, 0 for false. -/
def b2n (b : Bool) : Nat := if b then 1 else 0

/-- Saturating: the smaller of a number and a limit. -/
def sat (limit v : Nat) : Nat := min limit v

end Sys2Proof
end

