-- ==== Sys2Proof/Syntax.lean ====
section
/-!
DEFINITION. Syntax.lean: the commands of the block, one constructor of `Instr` per row of spec/opcode_table.json, with
the row's operands. A Pullasor instruction names the hart that executes it (the queue of commands supplies the instruction
stream); a bounded wait that ends in time is a command of its own.
-/
namespace Sys2Proof

/-- A petal, 0 to 3 (01 R20). -/
abbrev Petal := Fin 4
/-- A cluster of a petal, 0 to 5 (00 R18). -/
abbrev Cluster := Fin 6
/-- A logical core of a cluster, 0 to 7 (00 R18). -/
abbrev Core := Fin 8
/-- A thread of a core, 0 to 7; thread 0 is the supervisor (00 R18). -/
abbrev Thr := Fin 8
/-- A logical port of the device, 0 to 31 (00 R4). -/
abbrev Port := Fin 32
/-- A task ID of a petal's matching store (05 R129). -/
abbrev TaskId := Fin 16384
/-- A register number of a data or address register (06 R163). -/
abbrev Reg := Fin 16
/-- A C register number of the table helper (10 R278). -/
abbrev CReg := Fin 32

/-- A core thread, written petal.cluster.core.thread (00 R18). -/
structure ThreadId where
  p : Petal
  c : Cluster
  k : Core
  t : Thr
deriving DecidableEq, Repr

/-- A logical core, written petal.cluster.core (00 R18, R19). -/
structure CoreId where
  p : Petal
  c : Cluster
  k : Core
deriving DecidableEq, Repr

/-- A hardware thread that runs Pullasor: a core thread (06 R163) or the Golne controller's one thread of the small
configuration (06 R194). -/
inductive Hart where
  | thr (t : ThreadId)
  | golne
deriving DecidableEq, Repr

/-- A principal that writes a dictionary entry, with the path it comes over (16 R423, R537). -/
inductive Writer where
  /-- A core thread through the dictionary window. -/
  | core (t : ThreadId)
  /-- The Golne controller through the window: agent 0 firmware, 1 boot path, 2 Sorrel (01 R33). -/
  | golne (agent : Fin 3)
  /-- The debugger, over JTAG or over the debug path of PCIe (01 R33). -/
  | debugger (pcie : Bool)
  /-- A physical function through its BAR2 window. -/
  | bar2 (pf : Fin 8)
  /-- An MCTP endpoint on SMBus, its EID, and the SPDM session its message is carried in. -/
  | smbus (eid : BitVec 8) (sess : Option Nat)
  /-- A physical function over MCTP on PCIe VDM, and the SPDM session its message is carried in. -/
  | vdm (pf : Fin 8) (sess : Option Nat)
  /-- The one SDO client on CAN FD. -/
  | can
deriving DecidableEq, Repr

/-- The unit whose mode word a mode write names (02 R42, R43). -/
inductive ModeUnit where
  | device
  | petal (p : Petal)
  | cluster (p : Petal) (c : Cluster)
deriving DecidableEq, Repr

/-- The unit whose drain status a drain event names (02 R53). -/
inductive DrainUnit where
  | device
  | petal (p : Petal)
deriving DecidableEq, Repr

/-- A unit with a pace monitor (01 R24 and its dictionary table). -/
inductive PaceUnit where
  | stem
  | cowslip
  | cluster (p : Petal) (c : Cluster)
  | teasel (p : Petal)
  | parser (p : Petal)
  | tables (p : Petal)
deriving DecidableEq, Repr

/-- The transfer that a word at a clock-domain crossing belongs to (01 R27). -/
inductive CrossXfer where
  | rxFrame (port : Port)
  | txFrame (port : Port)
  | hostWrite (m : BitVec 16)
  | hostRead (m : BitVec 16)
  | deviceRead (g : BitVec 16)
  | deviceWrite (g : BitVec 16)
  | dramRead (g : Fin 4)
  | dramWrite (g : Fin 4) (m : BitVec 16) (addr : BitVec 48)
  | other
deriving DecidableEq, Repr

/-- One transfer across the stem crossbar (01 R30 to R32): its ports, its master, its address, what it writes (none: a
read of `size` bytes), how often the link check fails before it passes, and, for a host's request, the BAR (0, 2 or 4 as 0, 1, 2)
whose offset the address is (14 R381). -/
structure StemXfer where
  src : Fin 13
  dst : Fin 13
  mid : BitVec 16
  addr : BitVec 48
  size : Nat
  wr : Option (List Byte)
  crcFailures : Fin 5
  slice : Fin 16
  bar : Option (Fin 3)
deriving DecidableEq, Repr

/-- One image that the boot path loads at a start step or a petal reload (17 R444). -/
structure LoadedImage where
  kind : BitVec 8
  target : BitVec 24
  version : BitVec 32
  meas : List Byte
  entry : BitVec 48
  body : List Byte
deriving DecidableEq, Repr

/-- What a start step found when it completed (17 R444 to R448): a first image kind whose verification failed, the DRAM
positions whose training failed, the DRAM positions whose spare failed too, and the images it loaded. -/
structure StepResult where
  verifyFail : Option (BitVec 8)
  trainFail : List (BitVec 8)
  spareFail : List (BitVec 8)
  load : List LoadedImage
deriving DecidableEq, Repr

/-- The address mode of a load or store, modes 0 to 2 of 06 R172. -/
inductive AddrMode where
  | disp (d : BitVec 12)
  | postInc (d : BitVec 12)
  | index (rb : Reg) (scale : BitVec 2)
deriving DecidableEq, Repr

/-- What a write of the wait census sets (09 R263, R266): a core's participation mask, or the wait group scope. -/
inductive CensusWrite where
  | mask (p : Petal) (lc : Fin 48) (v : BitVec 8)
  | scope (v : BitVec 8)
deriving DecidableEq, Repr

/-- The owner of a Cowslip job queue (13 R359). -/
inductive JobQueue where
  | petal (p : Petal)
  | golne
deriving DecidableEq, Repr

/-- An egress traffic manager's exit (14 R369): a logical port, or a host controller. -/
inductive Egress where
  | port (q : Port)
  | host (h : Fin 2)
deriving DecidableEq, Repr

/-- What an ECC check found (15 R400). -/
inductive EccOutcome where
  | clean
  | corrected
  | uncorrectable
deriving DecidableEq, Repr

/-- A memory whose corrected errors a counter of its own chapter counts (06 R191, 07 R200, 08 R245, 09 R269, 10 R290): the register
files, a cluster's instruction memory, a cluster's caches, the channel memory, the customer banks, a cluster's C registers; and a
clean line of a core's L1 or side buffer or of its cluster's L2, which is dropped, refetched and counted as corrected. -/
inductive EccPlace where
  | registers (p : Petal)
  | imem (p : Petal) (c : Cluster)
  | caches (p : Petal) (c : Cluster)
  | channels (p : Petal)
  | customerBanks (p : Petal)
  | cRegisters (p : Petal) (c : Cluster)
  | locks (p : Petal)
  | buffers (p : Petal)
  | queues (p : Petal)
  | cleanLine (k : CoreId) (addr : BitVec 48)
deriving DecidableEq, Repr

/-- What a unit reports (18 R467): a source, a corrected error that its chapter counts without a source, or an uncorrectable word of a
pool's state memory (12 R337). -/
inductive ErrReport where
  | source (src : BitVec 9)
  | corrected (place : EccPlace)
  | stateWord (p : Petal) (pool : Fin 5) (i : Nat)
deriving DecidableEq, Repr

/-- An operand that arrives (05 R132): its slot and what its lookup's error codes found (04 R124). -/
structure ArrivingOperand where
  bit : Fin 4
  ecc : EccOutcome
deriving DecidableEq, Repr

/-- An MCTP endpoint that sends a request (16 R432). -/
inductive MctpEndpoint where
  | pf (n : Fin 8)
  | smbus (eid : BitVec 8)
deriving DecidableEq, Repr

/-- A fault collector (18 R464). -/
inductive Collector where
  | petal (p : Petal)
  | device
deriving DecidableEq, Repr

/-- The class of a latched raise (18 R465). -/
inductive ErrClass where
  | ce
  | ucc
  | fatal
deriving DecidableEq, Repr

/-- Where a hang monitor found a handshake port hanging (18 R472). -/
inductive HangPlace where
  | petal (p : Petal) (port : BitVec 16)
  | stem (port : Fin 13)
deriving DecidableEq, Repr

/-- The commands: every row of spec/opcode_table.json, in the table's order. -/
inductive Instr where
  /-- DEVICE_RESET (R60): Device reset clears mode words and unit state and begins a new start of the device. -/
  | deviceReset
  /-- START_STEP_COMPLETE (R444): A step of the start sequence completes and the next step begins, or the device reaches running state 7. -/
  | startStepComplete (res : StepResult)
  /-- START_WATCHDOG_EXPIRY (R447): A start-step watchdog expires, so the start fails, a failure record is written and the device resets. -/
  | startWatchdogExpiry
  /-- MINIMAL_RETRY_EXPIRY (R448): 10 s after a failed MINIMAL start, the start is retried. -/
  | minimalRetryExpiry
  /-- GOLDEN_RETRY_EXPIRY (R448): While golden Golne firmware fails verification, the ROM repeats step 1 every 10 s. -/
  | goldenRetryExpiry (verifies : Bool)
  /-- FAILED_START_CLEAR_EXPIRY (R449): A start not forced into MINIMAL has run for the clear period, so the failed-start count and records clear. -/
  | failedStartClearExpiry
  /-- CLEAR_FAILED_STARTS (R449): An authenticated write of 1 to 0x2102.05 clears the failed-start count and the failure records. -/
  | clearFailedStarts (w : Writer) (v : BitVec 8)
  /-- RESTART (R450): A write of 0x0000_A55A to 0x2100.07 inside an owner session resets the device when it is drained or in MINIMAL. -/
  | restart (w : Writer) (v : BitVec 32)
  /-- PACE_READING (R24): Every 10 µs a unit's pace monitor produces a new reading. -/
  | paceReading (u : PaceUnit) (v : BitVec 16)
  /-- COUNT_WINDOW_BOUNDARY (R540): At each 1 ms boundary of device time, per-window counts and rate-limited events restart. -/
  | countWindowBoundary
  /-- CROSSING_WORD_IN (R27): A word written into a domain crossing FIFO is offered to the interior or to the destination domain. -/
  | crossingWordIn (d : Fin 18) (inward : Bool) (x : CrossXfer) (parityOk : Bool)
  /-- CLOCK_LOSS (R29): A domain clock stops or leaves its ±1 % window, so its crossing freezes and 0x025 is raised. -/
  | clockLoss (d : Fin 18)
  /-- CLOCK_RETURN (R29): A domain clock returns and its crossing FIFO resumes from its held contents. -/
  | clockReturn (d : Fin 18)
  /-- STEM_TRANSFER (R30): A transfer passes through the stem crossbar from one port to another, arbitrated by credit class. -/
  | stemTransfer (x : StemXfer)
  /-- MODE_AUTONOMOUS_WRITE (R49): A write of the AUTONOMOUS flag of the device mode word starts its entry or its exit. -/
  | modeAutonomousWrite (w : Writer) (u : ModeUnit) (gen : BitVec 16) (on : Bool)
  /-- MODE_DETERMINISTIC_WRITE (R49): A write of the DETERMINISTIC flag of a cluster word stops dispatch to the cluster for entry or starts its exit. -/
  | modeDeterministicWrite (w : Writer) (u : ModeUnit) (gen : BitVec 16) (on : Bool)
  /-- MODE_ECO_WRITE (R49): A write of the ECO flag of a device or petal word ramps the governor and selects clusters to park or unpark. -/
  | modeEcoWrite (w : Writer) (u : ModeUnit) (gen : BitVec 16) (on : Bool)
  /-- MODE_WITNESS_WRITE (R52): A write of the WITNESS flag of a petal word starts or stops witness copying. -/
  | modeWitnessWrite (w : Writer) (u : ModeUnit) (gen : BitVec 16) (on : Bool)
  /-- MODE_WITNESS_STRICT_WRITE (R52): A write of WITNESS_STRICT of a petal word selects strict back-pressure in place of copy drops. -/
  | modeWitnessStrictWrite (w : Writer) (u : ModeUnit) (gen : BitVec 16) (on : Bool)
  /-- MODE_MINIMAL_WRITE (R50): A write of the MINIMAL flag of the device word requests MINIMAL for the next start. -/
  | modeMinimalWrite (w : Writer) (u : ModeUnit) (gen : BitVec 16) (on : Bool)
  /-- MODE_DEBUG_WRITE (R54): A write of the DEBUG flag of a cluster word arms or disarms halts, and is refused without debug unlock. -/
  | modeDebugWrite (w : Writer) (u : ModeUnit) (gen : BitVec 16) (on : Bool)
  /-- MODE_DRAIN_WRITE (R53): A write of the DRAIN flag of a device or petal word starts a drain or reopens ingress. -/
  | modeDrainWrite (w : Writer) (u : ModeUnit) (gen : BitVec 16) (on : Bool)
  /-- DETERMINISTIC_ENTRY_COMPLETE (R49): The cluster's last task completes, so L1 is cleaned and bypassed, issue becomes single and dispatch resumes. -/
  | deterministicEntryComplete (p : Petal) (c : Cluster)
  /-- CLUSTER_PARKED (R49): Every task of a cluster chosen for parking has released, so the cluster is parked. -/
  | clusterParked (p : Petal) (c : Cluster)
  /-- DRAIN_COMPLETE (R53): The four drain steps have completed and the drain status moves to 2. -/
  | drainComplete (u : DrainUnit)
  /-- DRAIN_TIMEOUT (R53): The drain timeout expires first, so the drain status reads 3 and 0x028 is raised while the drain continues. -/
  | drainTimeout (u : DrainUnit)
  /-- HOST_LINKS_DOWN_EXPIRY (R48): Both host links have been down for the auto-entry time, which forces AUTONOMOUS through cause [1]. -/
  | hostLinksDownExpiry
  /-- HOST_LINK_UP_EXPIRY (R48): A host link has been up for the auto-entry time, which ends forcing cause [1]. -/
  | hostLinkUpExpiry
  /-- SWAP_HALT_WAIT_EXPIRY (R57): A halted thread has held a swap for 1 ms, so 0x02A names the thread. -/
  | swapHaltWaitExpiry (t : ThreadId)
  /-- STATE_MISMATCH_EXPIRY (R427): Requested and actual state have differed beyond the settle time, so 0x130 is raised and the mismatch is recorded. -/
  | stateMismatchExpiry (idx : BitVec 16)
  /-- FRAME_RECEIVE (R375): A MAC receives a frame, checks it, stamps its arrival and writes it into the crossing, or drops and counts it. -/
  | frameReceive (port : Port) (frame : List Byte) (fcsOk : Bool)
  /-- PARSE_WALK (R73): A walk engine walks the frame's headers along the active parse graph and builds the header vector. -/
  | parseWalk (p : Petal) (ecc : EccOutcome)
  /-- TASK_FORM (R129): Teasel forms a task with ID, order domain and sequence number, and issues its lookups. -/
  | taskForm (p : Petal)
  /-- PFC_REPEAT (R149): Each half quanta while a class stays at or above XON, the PFC frame is repeated. -/
  | pfcRepeat (port : Port) (cls : Fin 8)
  /-- PAUSE_HELD_EXPIRY (R149): An ingress pause lasting beyond the pause-held limit raises 0x060 + n. -/
  | pauseHeldExpiry (port : Port) (cls : Fin 8)
  /-- OPERAND_ARRIVE (R132): An operand arrives, fills its slot and sets its bit of the ready mask. -/
  | operandArrive (p : Petal) (task : TaskId) (operand : ArrivingOperand)
  /-- OPERAND_TIMEOUT (R134): An operand missing after the operand timeout is filled with error status and 0x050 + n is raised. -/
  | operandTimeout (p : Petal) (task : TaskId) (bit : Fin 4)
  /-- TASK_DISPATCH (R139): Teasel picks a ready task for the least-loaded eligible core and writes it into a thread slot. -/
  | taskDispatch (p : Petal)
  /-- TASK_RELEASE (R142): A task whose thread ended it and whose older tasks released drains, takes its disposition and passes the token. -/
  | taskRelease (p : Petal) (task : TaskId) (ecc : EccOutcome)
  /-- TASK_AGE_EXPIRY (R146): A task dispatched and unreleased beyond the task age limit raises 0x054 + n. -/
  | taskAgeExpiry (p : Petal) (task : TaskId)
  /-- EGRESS_STALL_EXPIRY (R156): A logical port has sent nothing for the stall time, so its queue heads are discarded at line rate. -/
  | egressStallExpiry (port : Port)
  /-- PARSE_BANK_ACTIVATE (R63): A write to 0x3100.01 checks the shadow parse bank and activates it, or refuses and raises 0x030 + n. -/
  | parseBankActivate (w : Writer) (p : Petal) (gen : BitVec 16) (bank : BitVec 8)
  /-- RULE_STORE_WRITE (R79): A rule store write places rules into mask groups as a commit, or is refused for a resource limit. -/
  | ruleStoreWrite (w : Writer) (p : Petal) (off : Nat) (data : List Byte)
  /-- TEMPLATE_WRITE (R85): An encapsulation template write is checked against the headroom of every installed list. -/
  | templateWrite (w : Writer) (p : Petal) (off : Nat) (data : List Byte)
  /-- TABLE_BATCH_SUBMIT (R99): A write to 0x5000.10 is checked whole and accepted as a commit or refused with a cause. -/
  | tableBatchSubmit (w : Writer) (off : Nat) (data : List Byte)
  /-- TABLE_COMMIT_APPLY (R93): The update engine applies a commit to the table copies of the petals. -/
  | tableCommitApply
  /-- PETAL_COPY_COMPLETE (R93): A petal's copy is complete, so its generation in use advances. -/
  | petalCopyComplete (p : Petal)
  /-- GENERATION_HOLD_EXPIRY (R95): A commit waiting for live generations beyond the hold time raises 0x041. -/
  | generationHoldExpiry (p : Petal)
  /-- MEMORY_RECLAIM (R96): No petal has a live generation older than a commit, so its replaced entries' memory is reclaimed. -/
  | memoryReclaim
  /-- LEARN_COMMIT (R115): The engine commits learn and move events at 64 events or 10 µs after the first. -/
  | learnCommit
  /-- LEARN_FILTER_EXPIRY (R114): A key leaves the recent-learn filter after 1 ms. -/
  | learnFilterExpiry (p : Petal) (key : BitVec 60)
  /-- TABLE_TICK (R116): The table tick advances the 16-bit tick count. -/
  | tableTick
  /-- AGING_SCAN (R117): The aging scan deletes through an aging commit every dynamic entry older than the age limit. -/
  | agingScan
  /-- CONTEXT_EXPIRY_SCAN (R123): The expiry scan marks for deletion each context older than the idle age. -/
  | contextExpiryScan
  /-- TRIE_BANK_FILL_COMPLETE (R125): The spare trie bank's fill completes and lookups read the spare. -/
  | trieBankFillComplete (p : Petal) (stage : Fin 12)
  /-- UNDEFINED_INSTRUCTION (R162): An undefined instruction word raises UNDEF, taking the emulation trap or faulting. -/
  | undefinedInstruction (h : Hart) (word : BitVec 32)
  /-- ADD (R169): Adds two data registers modulo 2^64. -/
  | add (h : Hart) (rd ra rb : Reg)
  /-- SUB (R169): Subtracts two data registers modulo 2^64. -/
  | sub (h : Hart) (rd ra rb : Reg)
  /-- AND (R169): Bitwise AND of two data registers. -/
  | and (h : Hart) (rd ra rb : Reg)
  /-- OR (R169): Bitwise OR of two data registers. -/
  | or (h : Hart) (rd ra rb : Reg)
  /-- XOR (R169): Bitwise XOR of two data registers. -/
  | xor (h : Hart) (rd ra rb : Reg)
  /-- ANDN (R169): Bitwise AND of a with not b. -/
  | andn (h : Hart) (rd ra rb : Reg)
  /-- SLL (R169): Shifts left logically by b[5:0]. -/
  | sll (h : Hart) (rd ra rb : Reg)
  /-- SRL (R169): Shifts right logically by b[5:0]. -/
  | srl (h : Hart) (rd ra rb : Reg)
  /-- SRA (R169): Shifts right arithmetically by b[5:0]. -/
  | sra (h : Hart) (rd ra rb : Reg)
  /-- ROR (R169): Rotates right by b[5:0]. -/
  | ror (h : Hart) (rd ra rb : Reg)
  /-- MUL (R169): Low 64 bits of the product. -/
  | mul (h : Hart) (rd ra rb : Reg)
  /-- MULHU (R169): High 64 bits of the unsigned product. -/
  | mulhu (h : Hart) (rd ra rb : Reg)
  /-- MULHS (R169): High 64 bits of the signed product. -/
  | mulhs (h : Hart) (rd ra rb : Reg)
  /-- MIN (R169): Signed minimum. -/
  | min (h : Hart) (rd ra rb : Reg)
  /-- MAX (R169): Signed maximum. -/
  | max (h : Hart) (rd ra rb : Reg)
  /-- MINU (R169): Unsigned minimum. -/
  | minu (h : Hart) (rd ra rb : Reg)
  /-- MAXU (R169): Unsigned maximum. -/
  | maxu (h : Hart) (rd ra rb : Reg)
  /-- SEL (R169): Selects a if c is non-zero, else b. -/
  | sel (h : Hart) (rd ra rb rc : Reg)
  /-- ADDI (R169): Adds a sign-extended 16-bit immediate. -/
  | addi (h : Hart) (rd ra : Reg) (imm : BitVec 16)
  /-- ANDI (R169): Bitwise AND with a zero-extended immediate. -/
  | andi (h : Hart) (rd ra : Reg) (imm : BitVec 16)
  /-- ORI (R169): Bitwise OR with a zero-extended immediate. -/
  | ori (h : Hart) (rd ra : Reg) (imm : BitVec 16)
  /-- XORI (R169): Bitwise XOR with a zero-extended immediate. -/
  | xori (h : Hart) (rd ra : Reg) (imm : BitVec 16)
  /-- SLLI (R169): Shifts left logically by an immediate. -/
  | slli (h : Hart) (rd ra : Reg) (sh : BitVec 6)
  /-- SRLI (R169): Shifts right logically by an immediate. -/
  | srli (h : Hart) (rd ra : Reg) (sh : BitVec 6)
  /-- SRAI (R169): Shifts right arithmetically by an immediate. -/
  | srai (h : Hart) (rd ra : Reg) (sh : BitVec 6)
  /-- RORI (R169): Rotates right by an immediate. -/
  | rori (h : Hart) (rd ra : Reg) (sh : BitVec 6)
  /-- IMMS (R169): Loads a sign-extended 16-bit constant. -/
  | imms (h : Hart) (rd : Reg) (imm : BitVec 16)
  /-- IMMZ (R169): Loads a zero-extended 16-bit constant. -/
  | immz (h : Hart) (rd : Reg) (imm : BitVec 16)
  /-- IMMH (R169): Loads a sign-extended constant shifted left by 16. -/
  | immh (h : Hart) (rd : Reg) (imm : BitVec 16)
  /-- IMMSH (R169): Shifts the register up by 16 and inserts the immediate at the bottom. -/
  | immsh (h : Hart) (rd : Reg) (imm : BitVec 16)
  /-- CEQ (R169): Sets 1 if equal. -/
  | ceq (h : Hart) (rd ra rb : Reg)
  /-- CNE (R169): Sets 1 if not equal. -/
  | cne (h : Hart) (rd ra rb : Reg)
  /-- CLT (R169): Sets 1 if signed less than. -/
  | clt (h : Hart) (rd ra rb : Reg)
  /-- CGE (R169): Sets 1 if signed greater or equal. -/
  | cge (h : Hart) (rd ra rb : Reg)
  /-- CLTU (R169): Sets 1 if unsigned less than. -/
  | cltu (h : Hart) (rd ra rb : Reg)
  /-- CGEU (R169): Sets 1 if unsigned greater or equal. -/
  | cgeu (h : Hart) (rd ra rb : Reg)
  /-- CEQI (R169): Sets 1 if equal to a sign-extended immediate. -/
  | ceqi (h : Hart) (rd ra : Reg) (imm : BitVec 16)
  /-- CNEI (R169): Sets 1 if not equal to a sign-extended immediate. -/
  | cnei (h : Hart) (rd ra : Reg) (imm : BitVec 16)
  /-- CLTI (R169): Sets 1 if signed less than an immediate. -/
  | clti (h : Hart) (rd ra : Reg) (imm : BitVec 16)
  /-- CLTUI (R169): Sets 1 if unsigned less than an immediate. -/
  | cltui (h : Hart) (rd ra : Reg) (imm : BitVec 16)
  /-- ADDA (R169): Adds a data register to an address register modulo 2^48. -/
  | adda (h : Hart) (rd ra rb : Reg)
  /-- SUBA (R169): Subtracts a data register from an address register modulo 2^48. -/
  | suba (h : Hart) (rd ra rb : Reg)
  /-- DIFA (R169): Sign-extended 48-bit difference of two address registers. -/
  | difa (h : Hart) (rd ra rb : Reg)
  /-- MVA (R169): Copies an address register. -/
  | mva (h : Hart) (rd ra : Reg)
  /-- MVDA (R164): Moves a data register into an address register, raising ADDR if bits [63:48] are non-zero. -/
  | mvda (h : Hart) (rd ra : Reg)
  /-- MVAD (R169): Moves an address register into a data register. -/
  | mvad (h : Hart) (rd ra : Reg)
  /-- CAEQ (R169): Compares address registers for equality. -/
  | caeq (h : Hart) (rd ra rb : Reg)
  /-- CANE (R169): Compares address registers for inequality. -/
  | cane (h : Hart) (rd ra rb : Reg)
  /-- CALTU (R169): Compares address registers, unsigned less than. -/
  | caltu (h : Hart) (rd ra rb : Reg)
  /-- CAGEU (R169): Compares address registers, unsigned greater or equal. -/
  | cageu (h : Hart) (rd ra rb : Reg)
  /-- ADDAI (R169): Adds a sign-extended immediate to an address register. -/
  | addai (h : Hart) (rd ra : Reg) (imm : BitVec 16)
  /-- BFX (R170): Extracts a bit field. -/
  | bfx (h : Hart) (rd ra rb : Reg)
  /-- BFXS (R170): Extracts a bit field and sign-extends it. -/
  | bfxs (h : Hart) (rd ra rb : Reg)
  /-- BFI (R170): Inserts a bit field. -/
  | bfi (h : Hart) (rd ra rb : Reg)
  /-- CLZ (R170): Counts leading zeros. -/
  | clz (h : Hart) (rd ra : Reg)
  /-- CTZ (R170): Counts trailing zeros. -/
  | ctz (h : Hart) (rd ra : Reg)
  /-- POPC (R170): Counts 1 bits. -/
  | popc (h : Hart) (rd ra : Reg)
  /-- PERM (R170): Permutes bytes of two registers by nibble selectors. -/
  | perm (h : Hart) (rd ra rb rc : Reg)
  /-- BSWAP (R170): Reverses the 8 bytes. -/
  | bswap (h : Hart) (rd ra : Reg)
  /-- BSWAPW (R170): Reverses the low 4 bytes. -/
  | bswapw (h : Hart) (rd ra : Reg)
  /-- BSWAPH (R170): Reverses the low 2 bytes. -/
  | bswaph (h : Hart) (rd ra : Reg)
  /-- BFXI (R170): Extracts a bit field given by the instruction. -/
  | bfxi (h : Hart) (rd ra : Reg) (pos width1 : BitVec 6)
  /-- BFXSI (R170): Extracts and sign-extends a bit field given by the instruction. -/
  | bfxsi (h : Hart) (rd ra : Reg) (pos width1 : BitVec 6)
  /-- BFII (R170): Inserts a bit field given by the instruction. -/
  | bfii (h : Hart) (rd ra : Reg) (pos width1 : BitVec 6)
  /-- MAC (R171): Adds the signed 32×32 product to an accumulator, or starts from 0 in its Z form. -/
  | mac (h : Hart) (ac : Fin 4) (ra rb : Reg) (z : Bool)
  /-- MACU (R171): Adds the unsigned 32×32 product to an accumulator, or starts from 0 in its Z form. -/
  | macu (h : Hart) (ac : Fin 4) (ra rb : Reg) (z : Bool)
  /-- SUM (R171): Adds the zero-extended register to an accumulator. -/
  | sum (h : Hart) (ac : Fin 4) (ra : Reg) (z : Bool)
  /-- SUMS (R171): Adds the sign-extended register to an accumulator. -/
  | sums (h : Hart) (ac : Fin 4) (ra : Reg) (z : Bool)
  /-- CSA (R171): Adds 1–8 bytes as 16-bit network-order words to an accumulator. -/
  | csa (h : Hart) (ac : Fin 4) (ra : Reg) (len1 : BitVec 3) (z : Bool)
  /-- MVAC (R171): Moves part of an accumulator (LO, HI, SAT or FOLD) into a data register. -/
  | mvac (h : Hart) (rd : Reg) (ac : Fin 4) (part : BitVec 2)
  /-- LDB (R173): Loads a byte, zero-extended. -/
  | ldb (h : Hart) (rt ra : Reg) (am : AddrMode)
  /-- LDBS (R173): Loads a byte, sign-extended. -/
  | ldbs (h : Hart) (rt ra : Reg) (am : AddrMode)
  /-- LDH (R173): Loads 2 bytes, zero-extended, optionally big-endian. -/
  | ldh (h : Hart) (rt ra : Reg) (am : AddrMode) (be : Bool)
  /-- LDHS (R173): Loads 2 bytes, sign-extended, optionally big-endian. -/
  | ldhs (h : Hart) (rt ra : Reg) (am : AddrMode) (be : Bool)
  /-- LDW (R173): Loads 4 bytes, zero-extended, optionally big-endian. -/
  | ldw (h : Hart) (rt ra : Reg) (am : AddrMode) (be : Bool)
  /-- LDWS (R173): Loads 4 bytes, sign-extended, optionally big-endian. -/
  | ldws (h : Hart) (rt ra : Reg) (am : AddrMode) (be : Bool)
  /-- LDD (R173): Loads 8 bytes, checked against the store buffer and the caches. -/
  | ldd (h : Hart) (rt ra : Reg) (am : AddrMode) (be : Bool)
  /-- LDA (R173): Loads 8 bytes into an address register, checked per R164. -/
  | lda (h : Hart) (rt ra : Reg) (am : AddrMode)
  /-- STB (R173): Stores a byte into the store buffer. -/
  | stb (h : Hart) (rt ra : Reg) (am : AddrMode)
  /-- STH (R173): Stores 2 bytes into the store buffer. -/
  | sth (h : Hart) (rt ra : Reg) (am : AddrMode) (be : Bool)
  /-- STW (R173): Stores 4 bytes into the store buffer. -/
  | stw (h : Hart) (rt ra : Reg) (am : AddrMode) (be : Bool)
  /-- STD (R173): Stores 8 bytes into the store buffer. -/
  | std (h : Hart) (rt ra : Reg) (am : AddrMode) (be : Bool)
  /-- STA (R173): Stores a zero-extended address register. -/
  | sta (h : Hart) (rt ra : Reg) (am : AddrMode)
  /-- STORE_DRAIN (R211): A store-buffer entry drains to L1, the merging buffer or its home point and is freed. -/
  | storeDrain (h : Hart)
  /-- MERGING_BUFFER_DRAIN (R228): A merging-buffer entry drains as one write to its home point and is freed on acceptance. -/
  | mergingBufferDrain (k : CoreId)
  /-- INSTRUCTION_FETCH (R203): The fetch unit reads a 16-byte block for the neediest thread. -/
  | instructionFetch (k : CoreId) (ecc : EccOutcome)
  /-- BEQ (R176): Branches if equal. -/
  | beq (h : Hart) (ra rb : Reg) (off : BitVec 15)
  /-- BNE (R176): Branches if not equal. -/
  | bne (h : Hart) (ra rb : Reg) (off : BitVec 15)
  /-- BLT (R176): Branches if signed less than. -/
  | blt (h : Hart) (ra rb : Reg) (off : BitVec 15)
  /-- BGE (R176): Branches if signed greater or equal. -/
  | bge (h : Hart) (ra rb : Reg) (off : BitVec 15)
  /-- BLTU (R176): Branches if unsigned less than. -/
  | bltu (h : Hart) (ra rb : Reg) (off : BitVec 15)
  /-- BGEU (R176): Branches if unsigned greater or equal. -/
  | bgeu (h : Hart) (ra rb : Reg) (off : BitVec 15)
  /-- BZ (R176): Branches if zero. -/
  | bz (h : Hart) (ra : Reg) (off : BitVec 15)
  /-- BNZ (R176): Branches if not zero. -/
  | bnz (h : Hart) (ra : Reg) (off : BitVec 15)
  /-- J (R176): Jumps by a word offset. -/
  | j (h : Hart) (off : BitVec 26)
  /-- JAL (R176): Jumps and writes the return address to A14. -/
  | jal (h : Hart) (off : BitVec 26)
  /-- JR (R176): Jumps to an address register. -/
  | jr (h : Hart) (ra : Reg)
  /-- JALR (R176): Jumps to an address register and links in A14. -/
  | jalr (h : Hart) (ra : Reg)
  /-- LDR (R178): Loads at the home point and sets the thread's reservation. -/
  | ldr (h : Hart) (rd ra : Reg)
  /-- STC (R178): Stores conditionally on the reservation and returns success or failure. -/
  | stc (h : Hart) (rd ra rb : Reg)
  /-- LKACQ (R293): Requests a lock at its tracking petal's lock unit: granted, waiting, busy, limit or pinned. -/
  | lkacq (h : Hart) (rd ra rb : Reg)
  /-- LKREL (R295): Releases a lock, optionally writing USER and clearing ABANDONED, and hands it to the first waiter. -/
  | lkrel (h : Hart) (rd ra rb : Reg)
  /-- TAS (R195): Golne test-and-set of a DRAM word at its home point. -/
  | tas (h : Hart) (rd ra : Reg)
  /-- FENCE (R181): Orders later accesses after earlier loads return and earlier stores are accepted. -/
  | fence (h : Hart)
  /-- FENCE_S (R181): Orders later stores after earlier stores are accepted. -/
  | fenceS (h : Hart)
  /-- FENCE_L (R181): Orders later accesses after earlier loads return. -/
  | fenceL (h : Hart)
  /-- ISYNC (R181): Waits for earlier stores and refetches from the next instruction. -/
  | isync (h : Hart)
  /-- TSLDB (R182): Loads a byte from the task slot. -/
  | tsldb (h : Hart) (rt : Reg) (x : Option Reg) (off : BitVec 10)
  /-- TSLDBS (R182): Loads a sign-extended byte from the task slot. -/
  | tsldbs (h : Hart) (rt : Reg) (x : Option Reg) (off : BitVec 10)
  /-- TSLDH (R182): Loads 2 bytes from the task slot. -/
  | tsldh (h : Hart) (rt : Reg) (x : Option Reg) (off : BitVec 10)
  /-- TSLDHS (R182): Loads 2 sign-extended bytes from the task slot. -/
  | tsldhs (h : Hart) (rt : Reg) (x : Option Reg) (off : BitVec 10)
  /-- TSLDW (R182): Loads 4 bytes from the task slot. -/
  | tsldw (h : Hart) (rt : Reg) (x : Option Reg) (off : BitVec 10)
  /-- TSLDWS (R182): Loads 4 sign-extended bytes from the task slot. -/
  | tsldws (h : Hart) (rt : Reg) (x : Option Reg) (off : BitVec 10)
  /-- TSLDD (R182): Loads 8 bytes from the task slot. -/
  | tsldd (h : Hart) (rt : Reg) (x : Option Reg) (off : BitVec 10)
  /-- TSSTB (R182): Stores a byte into the task slot. -/
  | tsstb (h : Hart) (rt : Reg) (x : Option Reg) (off : BitVec 10)
  /-- TSSTH (R182): Stores 2 bytes into the task slot. -/
  | tssth (h : Hart) (rt : Reg) (x : Option Reg) (off : BitVec 10)
  /-- TSSTW (R182): Stores 4 bytes into the task slot. -/
  | tsstw (h : Hart) (rt : Reg) (x : Option Reg) (off : BitVec 10)
  /-- TSSTD (R182): Stores 8 bytes into the task slot. -/
  | tsstd (h : Hart) (rt : Reg) (x : Option Reg) (off : BitVec 10)
  /-- TKWAIT (R183): Returns when the thread has a current task, waiting if needed. -/
  | tkwait (h : Hart)
  /-- TKEND (R141): Ends the task, making the prefetched task current. -/
  | tkend (h : Hart)
  /-- TKREL (R144): Releases the task early while the thread continues unordered work. -/
  | tkrel (h : Hart)
  /-- CHWR (R255): Stages a word for a channel, taking or waiting for the channel's hold. -/
  | chwr (h : Hart) (ra rb : Reg)
  /-- CHEND (R256): Appends the staged message to the channel FIFO, or waits on a full FIFO. -/
  | chend (h : Hart) (ra : Reg)
  /-- CHRCV (R257): Takes the oldest message of a channel into the receive buffer, or waits. -/
  | chrcv (h : Hart) (rd ra : Reg)
  /-- CHRD (R184): Reads a word of the last received message. -/
  | chrd (h : Hart) (rd : Reg) (n : Fin 8)
  /-- NOP (R185): Does nothing. -/
  | nop (h : Hart)
  /-- EVWAIT (R186): Waits for and returns the next event or fault record of the thread. -/
  | evwait (h : Hart) (rd : Reg)
  /-- BRK (R185): Halts the thread under armed DEBUG, otherwise counts and acts as NOP. -/
  | brk (h : Hart)
  /-- ERET (R185): Returns from an emulation trap to EPC and clears IT. -/
  | eret (h : Hart)
  /-- MFS (R185): Reads a system register. -/
  | mfs (h : Hart) (rd : Reg) (n : BitVec 8)
  /-- MTS (R185): Writes a system register. -/
  | mts (h : Hart) (ra : Reg) (n : BitVec 8)
  /-- THRES (R185): Supervisor resumes a parked thread at its TPC. -/
  | thres (h : Hart) (t : BitVec 4)
  /-- THRESA (R185): Supervisor resumes a parked thread at a given address. -/
  | thresa (h : Hart) (t : BitVec 4) (ra : Reg)
  /-- THPARK (R249): Supervisor parks a thread, ending any wait it is in. -/
  | thpark (h : Hart) (t : BitVec 4)
  /-- THRST (R189): Supervisor resets a thread, abandoning its locks and dropping its task in order. -/
  | thrst (h : Hart) (t : BitVec 4)
  /-- CRCC (R276): Bit helper CRC-32C step over k bytes. -/
  | crcc (h : Hart) (rd ra : Reg) (k1 : BitVec 3)
  /-- CRCE (R276): Bit helper IEEE 802.3 CRC-32 step over k bytes. -/
  | crce (h : Hart) (rd ra : Reg) (k1 : BitVec 3)
  /-- TPZ (R276): Bit helper Toeplitz step under a petal key. -/
  | tpz (h : Hart) (rd ra rb : Reg)
  /-- BMM (R276): Bit-matrix multiply with XOR. -/
  | bmm (h : Hart) (rd ra rb : Reg)
  /-- BMMO (R276): Bit-matrix multiply with OR. -/
  | bmmo (h : Hart) (rd ra rb : Reg)
  /-- BREV (R276): Reverses the 64 bits. -/
  | brev (h : Hart) (rd ra : Reg)
  /-- MIX (R276): Multiplicative mix and rotate. -/
  | mix (h : Hart) (rd ra : Reg) (n : BitVec 6)
  /-- MVDC (R279): Moves a data register into a C register. -/
  | mvdc (h : Hart) (c1 : CReg) (r : Reg)
  /-- MVCD (R279): Moves a C register into a data register once its scoreboard bit clears. -/
  | mvcd (h : Hart) (r : Reg) (c1 : CReg)
  /-- TLPM (R279): Table helper route lookup into a C register. -/
  | tlpm (h : Hart) (c1 c2 : CReg) (v6 : Bool)
  /-- TL2 (R279): Table helper destination L2 lookup. -/
  | tl2 (h : Hart) (c1 c2 : CReg)
  /-- TL2L (R279): Table helper L2 lookup with source check and learning. -/
  | tl2l (h : Hart) (c1 c2 : CReg) (r : Reg)
  /-- TCTX (R280): Table helper context lookup, optionally creating the context. -/
  | tctx (h : Hart) (c1 c2 : CReg) (create : Bool)
  /-- TCDEL (R279): Table helper context delete. -/
  | tcdel (h : Hart) (c1 : CReg) (r : Reg)
  /-- TBAT (R281): Table helper submits a batch from memory and returns its result. -/
  | tbat (h : Hart) (c1 : CReg) (r : Reg)
  /-- TADD (R281): Table helper atomic add at the home point. -/
  | tadd (h : Hart) (c1 c2 : CReg) (r : Reg)
  /-- TABLE_HELPER_RESULT (R282): A confirmed table helper operation's result is written to its C register, clearing its scoreboard bit. -/
  | tableHelperResult (t : ThreadId) (ok : Bool)
  /-- CUSTOMER_INSTRUCTION (R286): A customer opcode runs its microprogram in two phases around confirm. -/
  | customerInstruction (h : Hart) (opc : BitVec 8) (rd ra rb : Reg) (imm : BitVec 7)
  /-- CUSTOMER_BANK_ACTIVATE (R288): A write to 0x3381.01 checks the shadow customer bank and activates it per thread at task boundaries. -/
  | customerBankActivate (w : Writer) (p : Petal) (gen : BitVec 16) (bank : BitVec 8)
  /-- PAGE_CLASS_WRITE (R223): A page attribute change holds accesses, cleans the caches of the pages and applies the new classes. -/
  | pageClassWrite (w : Writer) (off : Nat) (data : List Byte)
  /-- CACHE_CLEAN (R236): Maintenance OP 0 writes dirty lines to their home point. -/
  | cacheClean (t : ThreadId) (sel : BitVec 2) (level : BitVec 2) (count : BitVec 8) (addr : BitVec 48)
  /-- CACHE_INVALIDATE (R236): Maintenance OP 1 removes lines without write-back. -/
  | cacheInvalidate (t : ThreadId) (sel : BitVec 2) (level : BitVec 2) (count : BitVec 8) (addr : BitVec 48)
  /-- CACHE_CLEAN_INVALIDATE (R236): Maintenance OP 2 cleans then removes lines. -/
  | cacheCleanInvalidate (t : ThreadId) (sel : BitVec 2) (level : BitVec 2) (count : BitVec 8) (addr : BitVec 48)
  /-- CACHE_PREFETCH_HINT (R230): Maintenance OP 3 prefetches lines into the side buffer. -/
  | cachePrefetchHint (t : ThreadId) (sel : BitVec 2) (level : BitVec 2) (count : BitVec 8) (addr : BitVec 48)
  /-- CACHE_LOCK_LINE (R238): Maintenance OP 4 assigns a line to a pinned L2 way, or refuses and raises 0x07C + n. -/
  | cacheLockLine (t : ThreadId) (sel : BitVec 2) (level : BitVec 2) (count : BitVec 8) (addr : BitVec 48)
  /-- CACHE_UNLOCK_LINE (R238): Maintenance OP 5 ends a line's pinned assignment. -/
  | cacheUnlockLine (t : ThreadId) (sel : BitVec 2) (level : BitVec 2) (count : BitVec 8) (addr : BitVec 48)
  /-- L2_LOCK_WORD_WRITE (R238): A lock word write changes L2 way modes, dropping, zeroing or discarding way contents. -/
  | l2LockWordWrite (w : Writer) (p : Petal) (c : Cluster) (bank : Fin 4) (v : BitVec 32)
  /-- SIDE_BUFFER_AGE_EXPIRY (R230): A prefetched line unused for 4,096 core steps is dropped. -/
  | sideBufferAgeExpiry (k : CoreId) (line : Nat)
  /-- EVICTION_ACCEPT (R233): The next level accepts a victim from the eviction buffer. -/
  | evictionAccept (k : CoreId) (declined : Bool)
  /-- THREAD_COMMAND_RESUME (R248): Thread command OP 1 resumes a parked thread at TPC. -/
  | threadCommandResume (w : Writer) (t : ThreadId)
  /-- THREAD_COMMAND_RESUME_AT (R248): Thread command OP 2 resumes a parked thread at ADDR. -/
  | threadCommandResumeAt (w : Writer) (t : ThreadId) (addr : BitVec 48)
  /-- THREAD_COMMAND_PARK (R248): Thread command OP 3 parks a thread. -/
  | threadCommandPark (w : Writer) (t : ThreadId)
  /-- THREAD_COMMAND_RESET (R248): Thread command OP 4 resets a thread as THRST. -/
  | threadCommandReset (w : Writer) (t : ThreadId)
  /-- SHARE_WORD_WRITE (R251): A share word or buffer budget write sets floors and ceilings, refused if limits break. -/
  | shareWordWrite (w : Writer) (k : CoreId) (sub : Fin 9) (v : BitVec 64)
  /-- CHANNEL_BINDING_WRITE (R254): A binding table write takes effect wholly if every changed channel is idle. -/
  | channelBindingWrite (w : Writer) (p : Petal) (off : Nat) (data : List Byte)
  /-- CHANNEL_HOLD_EXPIRY (R259): A halted or parked holder keeps a channel for the hold time, raising 0x048 + n. -/
  | channelHoldExpiry (p : Petal) (ch : BitVec 12)
  /-- CHANNEL_DISCARD_STAGING (R260): Channel command OP 1 frees a halted holder's staging and releases the hold. -/
  | channelDiscardStaging (w : Writer) (p : Petal) (m : BitVec 16) (ch : BitVec 12)
  /-- CHANNEL_FLUSH_FIFO (R260): Channel command OP 2 discards every message in a channel FIFO. -/
  | channelFlushFifo (w : Writer) (p : Petal) (ch : BitVec 12)
  /-- CHANNEL_POST (R261): Golne firmware posts a whole message to a channel with EXT set. -/
  | channelPost (w : Writer) (p : Petal) (hdr : BitVec 64) (words : List (BitVec 64))
  /-- WAIT_CENSUS_EVALUATION (R264): The census evaluates each wait group at least every 2 µs. -/
  | waitCensusEvaluation (p : Petal) (c : Cluster)
  /-- PARTICIPATION_MASK_WRITE (R266): A participation mask or scope change ends cycle suppression for the groups it affects. -/
  | participationMaskWrite (w : Writer) (x : CensusWrite)
  /-- LOCK_WINDOW_ACQUIRE (R304): A window read at OP 0 takes the lock or queues at the window priority. -/
  | lockWindowAcquire (m : BitVec 16) (off : BitVec 30) (size : Nat)
  /-- LOCK_WINDOW_TRY (R304): A window read at OP 1 takes the lock or returns BUSY. -/
  | lockWindowTry (m : BitVec 16) (off : BitVec 30) (size : Nat)
  /-- LOCK_WINDOW_POLL (R305): A window read at OP 2 reports the requester's standing on the lock. -/
  | lockWindowPoll (m : BitVec 16) (off : BitVec 30) (size : Nat)
  /-- LOCK_WINDOW_CANCEL (R304): A window write at OP 2 removes the requester's queued request. -/
  | lockWindowCancel (m : BitVec 16) (off : BitVec 30) (size : Nat)
  /-- LOCK_WINDOW_PEEK (R304): A window read at OP 3 returns the lock word image. -/
  | lockWindowPeek (m : BitVec 16) (off : BitVec 30) (size : Nat)
  /-- LOCK_WINDOW_RELEASE (R304): A window write at OP 3 releases the lock as LKREL. -/
  | lockWindowRelease (m : BitVec 16) (off : BitVec 30) (size : Nat) (data : BitVec 64)
  /-- PIN_LIST_WRITE (R302): Golne firmware or the boot path changes the pin list. -/
  | pinListWrite (w : Writer) (off : Nat) (data : List Byte)
  /-- FORCED_RELEASE (R303): A write to 0x9000.03 ends a lock's holder entry with ABANDONED and journals a pinned release. -/
  | forcedRelease (w : Writer) (v : BitVec 64)
  /-- MAILBOX_BINDING_WRITE (R307): A mailbox binding table write, refused once the table is locked. -/
  | mailboxBindingWrite (w : Writer) (off : Nat) (data : List Byte)
  /-- MAILBOX_MSG_WRITE (R308): The sender writes a message register into staging. -/
  | mailboxMsgWrite (m : BitVec 16) (mb : Fin 64) (reg : Fin 16) (v : BitVec 32)
  /-- MAILBOX_GO (R309): GO copies staging to the visible copy, sets FULL and wakes the receiver. -/
  | mailboxGo (m : BitVec 16) (mb : Fin 64) (ctrl : BitVec 32)
  /-- MAILBOX_TAKE (R309): TAKE with the current SEQ clears FULL, otherwise counts a stale take. -/
  | mailboxTake (m : BitVec 16) (mb : Fin 64) (ctrl : BitVec 32)
  /-- MAILBOX_STATUS_CLEAR (R308): The sender clears TIMEOUT or COLLISION by writing 1. -/
  | mailboxStatusClear (m : BitVec 16) (mb : Fin 64) (v : BitVec 32)
  /-- MAILBOX_TIMEOUT (R310): FULL still 1 at the end of the timeout sets TIMEOUT and raises 0x09A. -/
  | mailboxTimeout (mb : Fin 64)
  /-- BUFFER_ALLOCATE_READ (R320): A read of 0x33A4.01–05 allocates one buffer from a pool exactly. -/
  | bufferAllocateRead (m : BitVec 16) (p : Petal) (pool : Fin 5)
  /-- BUFFER_FREE_WRITE (R322): A write to 0x33A4.06 frees a chain, refusing unallocated or double frees. -/
  | bufferFreeWrite (m : BitVec 16) (p : Petal) (buf : BitVec 32)
  /-- FREE_LIST_REBUILD_COMPLETE (R321): A corrupt pool list has been rebuilt from the state memory and the pool is available again. -/
  | freeListRebuildComplete (p : Petal) (pool : Fin 5)
  /-- SPILL_VICTIM (R326): The spill engine encodes a chosen packet and writes its record in class SC2. -/
  | spillVictim (p : Petal)
  /-- SPILL_RECORD_ACCEPTED (R326): Every line of the record is accepted, so the packet's buffers are freed. -/
  | spillRecordAccepted (p : Petal)
  /-- REFILL_COMPLETE (R329): The record decodes and is written into buffers, and the slots are freed. -/
  | refillComplete (p : Petal) (blocksOk : Bool)
  /-- SKETCH_CLEAR (R334): A write of 1 to 0x33A6.03 clears every sketch counter, the ring and the marks. -/
  | sketchClear (w : Writer) (p : Petal) (v : BitVec 8)
  /-- FLOW_COUNTER_WRITEBACK (R336): At least every 10 ms the context cache writes modified flow counter records to DRAM. -/
  | flowCounterWriteback (p : Petal)
  /-- SLOT_FRAME_BOUNDARY (R342): At each 512 ns boundary Cowslip rebuilds the slot map if weights changed and applies class B frame entries. -/
  | slotFrameBoundary
  /-- SLOT_START (R343): At each slot start every lane receives its block budget and takes work by owner and reclaim. -/
  | slotStart
  /-- SEGMENT_COMPLETE (R343): A lane completes a segment and starts the next within its budget. -/
  | segmentComplete (lane : Fin 16) (laneOk : Bool)
  /-- COWSLIP_COMMIT (R354): A verified ingress operation commits at its SA's arbiter in selection order after the replay check. -/
  | cowslipCommit (op : Nat) (eccOk : Bool)
  /-- SA_IMPORT (R351): SA command OP 1 unwraps and seals a key into a library record. -/
  | saImport (w : Writer) (idx : BitVec 32) (body : List Byte)
  /-- SA_LOAD (R351): SA command OP 2 loads a resident SA from a library record. -/
  | saLoad (w : Writer) (idx : BitVec 32) (body : List Byte)
  /-- SA_UNLOAD (R353): SA command OP 3 unloads a resident SA, which drains. -/
  | saUnload (w : Writer) (idx : BitVec 32) (body : List Byte)
  /-- SA_ERASE (R351): SA command OP 4 erases a library record. -/
  | saErase (w : Writer) (idx : BitVec 32) (body : List Byte)
  /-- SA_DRAIN_COMPLETE (R353): The last operation of an unloaded SA commits and the SA becomes free. -/
  | saDrainComplete (idx : Fin 65536)
  /-- JOB_SUBMIT (R359): A doorbell write queues a Cowslip job descriptor. -/
  | jobSubmit (m : BitVec 16) (addr : BitVec 64)
  /-- JOB_COMPLETE (R359): A job writes its results and completion record and may notify with 0x0BC. -/
  | jobComplete (q : JobQueue)
  /-- QUEUE_OBJECT_WRITE (R366): A queue object write, with ENABLE transitions resetting indices or flushing. -/
  | queueObjectWrite (w : Writer) (p : Petal) (q : Fin 16384) (off : Nat) (data : List Byte)
  /-- PACKET_TRANSMIT (R369): The traffic manager chooses a queue by class and DWRR and starts a packet to the wire or a host ring. -/
  | packetTransmit (e : Egress)
  /-- PFC_FRAME_RECEIVE (R372): A received PFC frame pauses the classes it names and is consumed. -/
  | pfcFrameReceive (port : Port) (classes : BitVec 8) (quanta : List (BitVec 16))
  /-- LINK_PAUSE_RECEIVE (R372): A received link-level pause pauses every class when honoured. -/
  | linkPauseReceive (port : Port) (quanta : BitVec 16)
  /-- PAUSE_EXPIRY (R372): A received pause's quanta run out and the class resumes. -/
  | pauseExpiry (port : Port) (cls : Fin 8)
  /-- LANE_HEALTH_CHANGE (R374): Lane loss degrades a logical port to a narrower rate, or down, and returning lanes retrain it. -/
  | laneHealthChange (p : Petal) (lanes : BitVec 8)
  /-- TIME_OFFSET_WRITE (R376): A write to OFFSET takes effect whole at one ns boundary. -/
  | timeOffsetWrite (w : Writer) (v : BitVec 64)
  /-- PPS_IN_EDGE (R376): A rising edge on PPS_IN latches the 1588 time. -/
  | ppsInEdge
  /-- PPS_OUT_SECOND (R376): At each whole 1588 second PPS_OUT pulses high for 1 ms while enabled. -/
  | ppsOutSecond
  /-- DOORBELL (R384): An aligned doorbell write moves a queue's TAIL and CHEAD, or is ignored or discarded. -/
  | doorbell (fn : BitVec 16) (g : BitVec 16) (size : Nat) (v : BitVec 64)
  /-- HOST_TX_FETCH (R386): A host transmit queue fetches descriptors and data into buffers and forms a task when complete. -/
  | hostTxFetch (g : BitVec 16) (descs : List (List Byte)) (data : List Byte)
  /-- HOST_RECEIVE_WRITE (R385): A host receive queue writes its head packet into posted buffers and writes completions. -/
  | hostReceiveWrite (g : BitVec 16) (descs : List (List Byte))
  /-- MSIX_RAISE (R388): A completion with EOP or error raises the queue's vector, after its ITR holdoff. -/
  | msixRaise (g : BitVec 16)
  /-- HOST_READ_ERROR (R389): A host read error drops the transmit packet or disables the receive queue and raises 0x102. -/
  | hostReadError (g : BitVec 16)
  /-- FUNCTION_LEVEL_RESET (R390): A function-level reset disables the function's queues and frees its locks. -/
  | functionLevelReset (fn : BitVec 16)
  /-- BUS_MASTER_DISABLE (R390): Bus Master Enable cleared disables the function's queues and stops its DMA. -/
  | busMasterDisable (fn : BitVec 16)
  /-- PERST_ASSERT (R390): PERST0_N or PERST1_N asserted resets every function of the controller. -/
  | perstAssert (h : Fin 2)
  /-- PERST_DEASSERT (R529): PERST deasserts and the controller trains its link after step 3 of the start. -/
  | perstDeassert (h : Fin 2)
  /-- HOST_LINK_DOWN (R390): A host link goes down or takes a hot reset, resetting its functions. -/
  | hostLinkDown (h : Fin 2) (link : Fin 2)
  /-- HOST_LINK_UP (R379): A host link trains up at the negotiated rate. -/
  | hostLinkUp (h : Fin 2) (link : Fin 2) (width : BitVec 8) (rate : BitVec 8)
  /-- CXL_MEM_REQUEST (R392): A CXL.mem request reaches exported DRAM through the HDM decoder in class SC3. -/
  | cxlMemRequest (addr : Nat) (wr : Option (List Byte))
  /-- CXL_IDENTIFY_MEMORY_DEVICE (R394): The memory device command Identify Memory Device is answered. -/
  | cxlIdentifyMemoryDevice
  /-- CXL_GET_HEALTH_INFO (R394): The memory device command Get Health Info is answered. -/
  | cxlGetHealthInfo
  /-- CXL_UNSUPPORTED_COMMAND (R394): Any other memory device command returns Unsupported. -/
  | cxlUnsupportedCommand (opcode : BitVec 16)
  /-- DRAM_READ (R405): A DRAM read is queued by service class and issued to its channel. -/
  | dramRead (m : BitVec 16) (addr : BitVec 48) (sc : Fin 4) (keepOpen : Bool)
  /-- DRAM_READ_DATA (R400): Read data is checked by inline ECC and returned clean, corrected or poisoned. -/
  | dramReadData (g : Fin 4) (ecc : EccOutcome)
  /-- DRAM_WRITE (R403): A DRAM write is accepted into the group's write buffer. -/
  | dramWrite (m : BitVec 16) (addr : BitVec 48) (data : List Byte) (sc : Fin 4) (keepOpen : Bool)
  /-- AGE_LIMIT_PROMOTION (R404): A request older than its class's age limit is promoted ahead of all others. -/
  | ageLimitPromotion (g : Fin 4)
  /-- SCRUB_READ (R402): The scrubber reads a block and rewrites it corrected or poisoned. -/
  | scrubRead (addr : BitVec 48) (ecc : EccOutcome)
  /-- BANK_REFRESH (R410): A per-bank refresh keeps its bank busy for 140 ns. -/
  | bankRefresh (pos : Fin 32) (bank : Fin 8)
  /-- DRAM_TEMPERATURE_READ (R410): Every 16 ms the group reads channel temperature and sets the refresh multiplier. -/
  | dramTemperatureRead (g : Fin 4) (status : List (BitVec 8)) (hot : BitVec 8)
  /-- ZQ_CALIBRATION (R411): Every 64 ms ZQ calibration pauses a package's channels for 30 ns. -/
  | zqCalibration (pkg : Fin 9)
  /-- DQS_OSCILLATOR_CHECK (R411): Every 4 ms the DQS oscillator is read and the channel retrained if it drifted. -/
  | dqsOscillatorCheck (pos : Fin 32) (drifted : Bool) (passes : Bool)
  /-- PAGE_IDLE_CLOSE (R407): An open row idle for the open-page idle time closes. -/
  | pageIdleClose (pos : Fin 32) (bank : Fin 8)
  /-- DRAM_POWER_DOWN (R417): Under ECO a channel idle for 2 µs enters power-down. -/
  | dramPowerDown (pos : Fin 32)
  /-- DRAM_COPY_COMPLETE (R413): The channel copy finishes and the position switches to the spare, raising 0x124 + g. -/
  | dramCopyComplete (g : Fin 4)
  /-- DICTIONARY_WRITE (R424): A write to a dictionary entry with no behaviour of its own passes the ordered checks and takes effect by class. -/
  | dictionaryWrite (w : Writer) (idx : BitVec 16) (sub : BitVec 8) (gen : Option (BitVec 16)) (off : Nat) (data : List Byte)
  /-- GENERATION_STAGE_WRITE (R434): A 2-byte window write at slot offset 8 stages a generation for the master's next value write. -/
  | generationStageWrite (w : Writer) (idx : BitVec 16) (sub : BitVec 8) (gen : BitVec 16)
  /-- TIME80_SNAPSHOT_READ (R434): An 8-byte window read of a TIME80 entry takes a per-master snapshot, completed by a 2-byte read. -/
  | time80SnapshotRead (w : Writer) (idx : BitVec 16) (sub : BitVec 8) (rest : Bool)
  /-- BULK_READ (R435): A bulk request with OP 1 reads a DOMAIN or string entry into a buffer and writes a status. -/
  | bulkRead (w : Writer) (desc : List Byte)
  /-- BULK_WRITE (R435): A bulk request with OP 2 writes a DOMAIN or string entry from a buffer and writes a status. -/
  | bulkWrite (w : Writer) (desc : List Byte) (hostData : List Byte)
  /-- SDO_INITIATE_DOWNLOAD (R429): An SDO initiate download starts an expedited or segmented write. -/
  | sdoInitiateDownload (frame : List Byte)
  /-- SDO_DOWNLOAD_SEGMENT (R429): An SDO download segment carries data, applying the write on its last segment. -/
  | sdoDownloadSegment (frame : List Byte)
  /-- SDO_INITIATE_UPLOAD (R429): An SDO initiate upload reads an entry, expedited or segmented. -/
  | sdoInitiateUpload (frame : List Byte)
  /-- SDO_UPLOAD_SEGMENT (R429): An SDO upload segment request returns the next data. -/
  | sdoUploadSegment (frame : List Byte)
  /-- SDO_ABORT (R430): A client abort ends the transfer with no effect. -/
  | sdoAbort (frame : List Byte)
  /-- SDO_SEGMENT_TIMEOUT (R430): No next request within the segment timeout aborts with 0x0504_0000. -/
  | sdoSegmentTimeout
  /-- NMT_COMMAND (R428): An NMT command or a frame of bad length is counted and ignored or aborted. -/
  | nmtCommand (cob : BitVec 11) (frame : List Byte)
  /-- CAN_HEARTBEAT (R436): Each heartbeat time the device sends 0x05 on COB-ID 0x700 + N. -/
  | canHeartbeat
  /-- CAN_GRANT_TICK (R425): The CAN write grant counts down once per second. -/
  | canGrantTick
  /-- MCTP_SET_ENDPOINT_ID (R432): The bus owner's Set Endpoint ID assigns the EID. -/
  | mctpSetEndpointId (ep : MctpEndpoint) (eid : BitVec 8)
  /-- MCTP_GET_ENDPOINT_ID (R432): MCTP control Get Endpoint ID is answered. -/
  | mctpGetEndpointId (ep : MctpEndpoint)
  /-- MCTP_GET_ENDPOINT_UUID (R432): MCTP control Get Endpoint UUID is answered. -/
  | mctpGetEndpointUuid (ep : MctpEndpoint)
  /-- MCTP_GET_VERSION_SUPPORT (R432): MCTP control Get MCTP Version Support is answered. -/
  | mctpGetVersionSupport (ep : MctpEndpoint)
  /-- MCTP_GET_MESSAGE_TYPE_SUPPORT (R432): MCTP control Get Message Type Support is answered. -/
  | mctpGetMessageTypeSupport (ep : MctpEndpoint)
  /-- MCTP_GET_VDM_SUPPORT (R432): MCTP control Get Vendor Defined Message Support is answered. -/
  | mctpGetVdmSupport (ep : MctpEndpoint)
  /-- MCTP_DICT_READ (R432): A dictionary message with CMD 0x01 reads up to 1,024 bytes of an entry. -/
  | mctpDictRead (w : Writer) (msg : List Byte)
  /-- MCTP_DICT_WRITE (R432): A dictionary message with CMD 0x02 writes or accumulates an entry. -/
  | mctpDictWrite (w : Writer) (msg : List Byte)
  /-- SPDM_GET_VERSION (R433): SPDM GET_VERSION is answered. -/
  | spdmGetVersion (ep : MctpEndpoint)
  /-- SPDM_GET_CAPABILITIES (R433): SPDM GET_CAPABILITIES is answered. -/
  | spdmGetCapabilities (ep : MctpEndpoint)
  /-- SPDM_NEGOTIATE_ALGORITHMS (R460): SPDM NEGOTIATE_ALGORITHMS is answered. -/
  | spdmNegotiateAlgorithms (ep : MctpEndpoint)
  /-- SPDM_GET_DIGESTS (R433): SPDM GET_DIGESTS returns certificate digests. -/
  | spdmGetDigests (ep : MctpEndpoint)
  /-- SPDM_GET_CERTIFICATE (R460): SPDM GET_CERTIFICATE returns the slot 0 chain. -/
  | spdmGetCertificate (ep : MctpEndpoint) (off len : Nat)
  /-- SPDM_CHALLENGE (R433): SPDM CHALLENGE is answered with an alias-key signature. -/
  | spdmChallenge (ep : MctpEndpoint) (nonce : List Byte)
  /-- SPDM_GET_MEASUREMENTS (R461): SPDM GET_MEASUREMENTS returns the measurement blocks. -/
  | spdmGetMeasurements (ep : MctpEndpoint) (block : BitVec 8)
  /-- SPDM_KEY_EXCHANGE (R460): SPDM KEY_EXCHANGE opens a session with a role from the requester's principal root, or is refused at the limit. -/
  | spdmKeyExchange (ep : MctpEndpoint) (root : Option (Fin 4))
  /-- SPDM_FINISH (R433): SPDM FINISH completes session establishment. -/
  | spdmFinish (ep : MctpEndpoint) (sid : Nat)
  /-- SPDM_KEY_UPDATE (R433): SPDM KEY_UPDATE updates session keys. -/
  | spdmKeyUpdate (ep : MctpEndpoint) (sid : Nat)
  /-- SPDM_HEARTBEAT (R433): SPDM HEARTBEAT keeps a session alive. -/
  | spdmHeartbeat (ep : MctpEndpoint) (sid : Nat)
  /-- SPDM_END_SESSION (R433): SPDM END_SESSION closes a session. -/
  | spdmEndSession (ep : MctpEndpoint) (sid : Nat)
  /-- SPDM_HEARTBEAT_TIMEOUT (R433): A session's SPDM heartbeat timeout ends it. -/
  | spdmHeartbeatTimeout (sid : Nat)
  /-- ACKNOWLEDGED_SEQUENCE_WRITE (R454): A write advancing the acknowledged sequence frees slots and writes held records to flash in order. -/
  | acknowledgedSequenceWrite (w : Writer) (v : BitVec 64)
  /-- FLASH_PARTITION_WRITE (R456): An image is placed into a flash partition not in use. -/
  | flashPartitionWrite (w : Writer) (part : Fin 4) (off : Nat) (data : List Byte)
  /-- ACTIVATE_GOLNE_FIRMWARE (R459): Activation KIND 0x01 journals and restarts Golne firmware from the other slot. -/
  | activateGolneFirmware (w : Writer) (target : BitVec 24)
  /-- ACTIVATE_CLUSTER_FIRMWARE (R457): Activation KIND 0x02 journals and applies cluster firmware to target clusters one at a time. -/
  | activateClusterFirmware (w : Writer) (target : BitVec 24)
  /-- ACTIVATE_PARSE_GRAPH (R456): Activation KIND 0x03 journals and activates a parse graph. -/
  | activateParseGraph (w : Writer) (target : BitVec 24)
  /-- ACTIVATE_CUSTOMER_BANK (R456): Activation KIND 0x04 journals and activates a customer microcode bank. -/
  | activateCustomerBank (w : Writer) (target : BitVec 24)
  /-- ACTIVATE_COWSLIP_FIRMWARE (R456): Activation KIND 0x05 journals and applies Cowslip firmware at the next frame boundary. -/
  | activateCowslipFirmware (w : Writer) (target : BitVec 24)
  /-- CLUSTER_ACTIVATION_DRAINED (R457): A target cluster's tasks have released, so its threads are reset, the image written and the threads restarted. -/
  | clusterActivationDrained
  /-- ACTIVATION_DRAIN_LIMIT_EXPIRY (R457): A cluster's drain exceeds the drain limit, so remaining targets keep the old image and 0x13C is raised. -/
  | activationDrainLimitExpiry
  /-- GOLNE_ACTIVATION_TIMEOUT (R459): New Golne firmware not in service within 2 s rolls back and raises 0x13E. -/
  | golneActivationTimeout
  /-- ERROR_RAISE (R467): A unit raises a source with class and syndrome, which is latched, listed, counted, logged and delivered.
A report without a source has no use for the syndrome. -/
  | errorRaise (report : ErrReport) (syn : BitVec 19) (unit : Option (BitVec 32))
  /-- STATUS_WORD_CLEAR (R468): Writing back the exact value read clears a collector status word, its timer and its list. -/
  | statusWordClear (w : Writer) (col : Collector) (cls : ErrClass) (v : BitVec 64)
  /-- ESCALATION_EXPIRY (R470): A class's escalation timer expires before clear, taking the CE, UCC or FATAL action and raising 0x14B. -/
  | escalationExpiry (col : Collector) (cls : ErrClass) (units : List (Option (BitVec 32)))
  /-- HANG_DETECTED (R472): A handshake request unacknowledged for the hang limit raises FATAL or isolates a crossbar port. -/
  | hangDetected (x : HangPlace)
  /-- PETAL_HALT (R477): A latched FATAL raise halts the petal: isolation, discard of its work, then dump. -/
  | petalHalt (p : Petal)
  /-- PETAL_HALT_COMMAND (R473): A write to 0x2220.07 raises FATAL cause 4 for a petal. -/
  | petalHaltCommand (w : Writer) (v : BitVec 8)
  /-- DUMP_COMPLETE (R495): The dump and its summary are written, raising 0x14C. -/
  | dumpComplete (p : Petal) (unreadable : Bool) (truncated : Bool)
  /-- PETAL_RESTART (R479): After the dump and a cleared or expired FATAL word, an allowed petal restarts automatically. -/
  | petalRestart (p : Petal)
  /-- PETAL_RESTART_COMMAND (R479): A write to 0x2220.06 restarts a halted petal once its dump ends. -/
  | petalRestartCommand (w : Writer) (v : BitVec 8)
  /-- PETAL_RESTART_COMPLETE (R477): The petal's threads start at ENTRY, ingress resumes and 0x144 + n is raised, or 0x151 on a bad image. -/
  | petalRestartComplete (p : Petal) (res : StepResult)
  /-- PORT_RESET_COMMAND (R480): A write to 0x2220.0A reinitialises an isolated crossbar port. -/
  | portResetCommand (w : Writer) (v : BitVec 8)
  /-- DUMP_ACKNOWLEDGE (R494): Writing a slot's DUMPNO to 0x2220.03 releases the dump slot. -/
  | dumpAcknowledge (w : Writer) (v : BitVec 64)
  /-- GOLNE_FIRMWARE_FAULT (R481): A Golne firmware fault restarts the firmware while collectors and Sorrel keep running. -/
  | golneFirmwareFault
  /-- GOLNE_FIRMWARE_BACK (R481): Golne firmware is back in service and 0x150 is raised. -/
  | golneFirmwareBack
  /-- ROOT_UNIT_FAULT (R482): A root unit fault stores 0x15F in MRAM and resets the device. -/
  | rootUnitFault (syn : BitVec 19)
  /-- WEAR_READING (R485): Every 10 s Sorrel reads wear rings and raises a wear warning or wear trigger. -/
  | wearReading (unit : BitVec 32) (loss : Nat)
  /-- SORREL_SWAP_COMMAND (R484): Sorrel command OP 1 queues a swap of a unit. -/
  | sorrelSwapCommand (w : Writer) (v : BitVec 64)
  /-- SORREL_RETIRE_SPARE (R484): Sorrel command OP 2 retires a free spare. -/
  | sorrelRetireSpare (w : Writer) (v : BitVec 64)
  /-- SORREL_CANCEL_TRIGGER (R484): Sorrel command OP 3 cancels a queued trigger. -/
  | sorrelCancelTrigger (w : Writer) (v : BitVec 64)
  /-- SWAP_START (R487): Sorrel starts a queued swap or repair whose pool is free, or reports no spare with 0x149. -/
  | swapStart
  /-- SWAP_COMPLETE (R487): A swap completes, retiring the old unit, logging the swap and raising 0x148. -/
  | swapComplete (unit : BitVec 32)
  /-- MIGRATION_FINISH_LIMIT_EXPIRY (R488): Threads not finished within the finish limit are checkpointed and the core migration proceeds. -/
  | migrationFinishLimitExpiry (k : CoreId)
  /-- COUNTER_CHAIN_WRITE (R498): A chain bit change chains a counter into the next and zeroes it. -/
  | counterChainWrite (w : Writer) (blk : Fin 5) (off : Nat) (data : List Byte)
  /-- COUNTER_SNAPSHOT (R499): A write of 1 to the snapshot entry copies every counter of the block at one instant. -/
  | counterSnapshot (w : Writer) (blk : Fin 5) (v : BitVec 8)
  /-- HISTOGRAM_CLEAR (R504): A write of 1 to a histogram unit's clear entry zeroes its bins and sample count. -/
  | histogramClear (w : Writer) (p : Petal) (u : Fin 16) (v : BitVec 8)
  /-- PERMIT_PRESENT (R506): A permit written to 0x8000.01 is checked, journaled and grants debug unlock, or is refused. -/
  | permitPresent (w : Writer) (permit : List Byte)
  /-- UNLOCK_EXPIRY (R507): The unlock time runs out, ending debug unlock. -/
  | unlockExpiry
  /-- RELOCK (R507): A write of 1 to 0x8000.03 ends debug unlock at once. -/
  | relock (w : Writer) (v : BitVec 8)
  /-- DEBUG_HALT (R508): Halt command OP 1 halts a thread at its next instruction boundary. -/
  | debugHalt (w : Writer) (t : ThreadId)
  /-- DEBUG_RESUME (R508): Halt command OP 2 resumes a halted thread. -/
  | debugResume (w : Writer) (t : ThreadId)
  /-- DEBUG_STEP (R508): Halt command OP 3 issues one instruction and halts again. -/
  | debugStep (w : Writer) (t : ThreadId)
  /-- DEBUG_CLUSTER_HALT (R508): Halt command OP 4 halts every thread of the cluster. -/
  | debugClusterHalt (w : Writer) (k : CoreId)
  /-- DEBUG_THREAD_STATE_WRITE (R511): The debugger writes a halted thread's architectural state. -/
  | debugThreadStateWrite (w : Writer) (t : ThreadId) (off : Nat) (data : List Byte)
  /-- DEBUG_MEMORY_ACCESS (R511): A read or write of 0x8010.02 performs one aligned 8-byte access as the debugger. -/
  | debugMemoryAccess (w : Writer) (wr : Option (BitVec 64))
  /-- TAP_RESET (R512): TRST_N resets the JTAG TAP only. -/
  | tapReset
  /-- JTAG_EXTEST (R512): JTAG EXTEST drives the boundary scan. -/
  | jtagExtest (pins : List Bool)
  /-- JTAG_IDCODE (R512): JTAG IDCODE returns 0x2320_0A5B. -/
  | jtagIdcode
  /-- JTAG_SAMPLE_PRELOAD (R512): JTAG SAMPLE/PRELOAD samples the boundary scan. -/
  | jtagSamplePreload (pins : List Bool)
  /-- JTAG_PERMIT (R512): JTAG PERMIT presents a permit at Update-DR. -/
  | jtagPermit (permit : List Byte)
  /-- JTAG_DICT (R512): JTAG DICT starts a dictionary access at Update-DR. -/
  | jtagDict (dr : BitVec 96)
  /-- JTAG_MEM (R512): JTAG MEM starts a memory access through 0x8010. -/
  | jtagMem (dr : BitVec 113)
  /-- JTAG_BYPASS (R512): JTAG BYPASS and unassigned codes shift a 1-bit register. -/
  | jtagBypass (code : BitVec 8)
  /-- TANSY_LANE_WRITE (R513): A Tansy lane write routes a petal signal to a TMUX pin while unlocked. -/
  | tansyLaneWrite (w : Writer) (lane : Fin 16) (v : BitVec 16)
  /-- VIN_APPLY (R443): VIN reaches the module, standby comes up and a start of cause 1 begins. -/
  | vinApply
  /-- STANDBY_GOOD (R529): Standby is good, standby domains start and module outputs leave high impedance. -/
  | standbyGood
  /-- UNDERVOLTAGE_LOCKOUT (R516): VIN below 5.6 V turns every rail off. -/
  | undervoltageLockout
  /-- OVERVOLTAGE_CUTOFF (R516): VIN above 62 V for 10 µs turns the main rails off. -/
  | overvoltageCutoff
  /-- VIN_MEASUREMENT (R517): Every 10 µs VIN is measured and averaged. -/
  | vinMeasurement (avgMv : BitVec 32)
  /-- VIN_RESTORE_EXPIRY (R517): VIN at 9.3 V or more for 100 ms ends forcing cause [0]. -/
  | vinRestoreExpiry
  /-- INPUT_POWER_MEASUREMENT (R518): Every 10 µs input power is compared with the cap and pace targets lowered. -/
  | inputPowerMeasurement (watts : BitVec 16) (ma : BitVec 32)
  /-- POWER_CAP_RESTORE_EXPIRY (R518): Input power 5 % below the cap for 10 ms restores targets and parked clusters. -/
  | powerCapRestoreExpiry
  /-- INPUT_LIMIT_TRIP (R519): Input current over the limit for 10 ms powers the module down. -/
  | inputLimitTrip
  /-- RAIL_FAULT (R521): A non-core rail out of ±5 % for 100 µs powers the module down. -/
  | railFault
  /-- PHASE_FAULT (R524): A regulator phase fault turns the phase off, raises 0x175 and triggers Sorrel. -/
  | phaseFault (phase : Fin 14)
  /-- JUNCTION_SENSOR_READ (R526): Every 1 ms junction sensors are read and the thermal throttle limit adjusted. -/
  | junctionSensorRead (highest : BitVec 32)
  /-- THERMAL_SHUTDOWN (R526): A reading of 110 °C or more for 1 ms powers the module down. -/
  | thermalShutdown
  /-- HP_EN_ASSERT (R529): HP_EN asserted ramps the main rails and continues the start from step 3. -/
  | hpEnAssert
  /-- RAILS_GOOD (R529): Every rail is within ±3 %, so PWRGD is asserted. -/
  | railsGood
  /-- HP_EN_DEASSERT (R530): HP_EN falls, PWRGD drops and the main rails turn off, unclean if not drained. -/
  | hpEnDeassert
  /-- ATTN_ASSERT (R48): ATTN_N asserted forces device DRAIN through cause [4]. -/
  | attnAssert
  /-- ATTN_DEASSERT (R48): ATTN_N deasserted ends forcing cause [4]. -/
  | attnDeassert
  /-- SURPRISE_REMOVAL (R532): The module is withdrawn without HP_EN deasserted and every link and path stops. -/
  | surpriseRemoval
  /-- OPTICS_INSERT (R533): Optics inserted in a cage are read and admitted or left in low-power mode. -/
  | opticsInsert (cage : Fin 4) (maxPower : BitVec 8)
  /-- OPTICS_REMOVE (R533): Optics removed from a cage affect only their port. -/
  | opticsRemove (cage : Fin 4)
  /-- CAGE_OVERCURRENT (R533): A cage overcurrent turns its rail off and raises 0x176. -/
  | cageOvercurrent (cage : Fin 4)
  /-- CAGE_POWER_RESTORE (R533): A write of 1 to 0x2064.05 + n restores a cage rail turned off by a fault. -/
  | cagePowerRestore (w : Writer) (cage : Fin 4) (v : BitVec 8)
  /-- NUMVFS_WRITE (R380): The host sets NumVFs of PF p, which brings VFs first to first + NumVFs − 1 into being or disables them, the latter a holder reset under R300. -/
  | numvfsWrite (pf : Fin 8) (n : BitVec 16)
  /-- MSIX_VECTOR_UNMASK (R388): A host write that clears a vector's mask bit sends the message held by its pending bit, per the PCIe masking and pending rules that R388 applies. -/
  | msixVectorUnmask (fn : BitVec 16) (vec : BitVec 11)
  /-- JOURNAL_RECORD_COMMITTED (R453): A journal record's flash write and verification complete, or the record is held or counted lost, so the event it records (activation, unlock, forced release, start) takes effect. -/
  | journalRecordCommitted (flashOk : Bool)
  /-- CAN_ERROR_PASSIVE_OR_BUS_OFF (R436): CAN bus errors move the CAN FD controller into or out of error passive or bus-off under ISO 11898-1, which sets or clears bit [4] of 0x1001.00. -/
  | canErrorPassiveOrBusOff (on : Bool)
deriving DecidableEq, Repr

end Sys2Proof
end

