-- ==== Sys2Proof/Decode.lean ====
section
/-!
DEFINITION. Decode.lean: the table's rows give no bits, so `decodeTableWord` spells no command (DEDUCED, assumption 2). The
Pullasor instructions among the commands have words of their own (06 R162, R167 to R185; 10 R276, R279, R284): `encodeWord`
writes the word that EINST and the tag records show, and `decodeWord` reads one, refusing every undefined word.
-/
namespace Sys2Proof

/-- The command that a word spells by the table's bits: none, since no row of the table gives bits (DEDUCED, assumption 2). -/
def decodeTableWord (_nbits _w : Nat) : Option Instr := none

/-! ## Formats (06 R167, R171; 10 R276, R279) -/

/-- REG: major, rd, ra, rb, rc, func. -/
def encReg (maj rd ra rb rc f : Nat) : Nat := maj * 2 ^ 26 + rd * 2 ^ 22 + ra * 2 ^ 18 + rb * 2 ^ 14 + rc * 2 ^ 10 + f

/-- IMM: major, rd, ra, sub, imm16. -/
def encImm (maj rd ra sub imm : Nat) : Nat := maj * 2 ^ 26 + rd * 2 ^ 22 + ra * 2 ^ 18 + sub * 2 ^ 16 + imm

/-- CONST: rd, op, imm16. -/
def encConst (rd op imm : Nat) : Nat := 0x04 * 2 ^ 26 + rd * 2 ^ 22 + op * 2 ^ 19 + imm

/-- BFIM: rd, ra, op, pos, width − 1. -/
def encBfim (rd ra op pos w1 : Nat) : Nat := 0x0C * 2 ^ 26 + rd * 2 ^ 22 + ra * 2 ^ 18 + op * 2 ^ 16 + pos * 2 ^ 10 + w1 * 2 ^ 4

/-- func of an accumulator instruction: operation, Z, part, length − 1. -/
def encAcc (op : Nat) (z : Bool) (part len1 : Nat) : Nat := op * 2 ^ 6 + b2n z * 2 ^ 5 + part * 2 ^ 3 + len1

/-- Bits [14:0] of MEM but for BE: the mode and its operands. -/
def encMode : AddrMode → Nat
  | .disp d => d.toNat
  | .postInc d => 2 ^ 13 + d.toNat
  | .index rb scale => 2 * 2 ^ 13 + rb.val * 2 ^ 8 + scale.toNat * 2 ^ 6

/-- MEM: major, rt, ra, size, mode, BE. -/
def encMem (maj rt ra size : Nat) (am : AddrMode) (be : Bool) : Nat :=
  maj * 2 ^ 26 + rt * 2 ^ 22 + ra * 2 ^ 18 + size * 2 ^ 15 + b2n be * 2 ^ 12 + encMode am

/-- TSLOT: rt, the register of X, size, S, off10. -/
def encSlot (rt : Nat) (x : Option Reg) (size s off : Nat) : Nat :=
  0x13 * 2 ^ 26 + rt * 2 ^ 22 + (match x with | some r => r.val * 2 ^ 18 + 2 ^ 13 | none => 0) + size * 2 ^ 15 + s * 2 ^ 14 + off

/-- BR: ra, rb, cond, off15. -/
def encBr (ra rb cond off : Nat) : Nat := 0x18 * 2 ^ 26 + ra * 2 ^ 22 + rb * 2 ^ 18 + cond * 2 ^ 15 + off

/-- Bit helper: rd, ra, rb, func, imm8. -/
def encBit (rd ra rb f imm : Nat) : Nat := 0x3C * 2 ^ 26 + rd * 2 ^ 22 + ra * 2 ^ 18 + rb * 2 ^ 14 + f * 2 ^ 8 + imm

/-- Table helper: c1, c2, r, func, opt. -/
def encTab (c1 c2 r f opt : Nat) : Nat := 0x3D * 2 ^ 26 + c1 * 2 ^ 21 + c2 * 2 ^ 16 + r * 2 ^ 12 + f * 2 ^ 6 + opt

/-! ## Words -/

/-- The word of a Pullasor instruction, as a number; 0 for a command that is none. -/
def encodeNat : Instr → Nat
  | .add _ rd ra rb => encReg 0x01 rd.val ra.val rb.val 0 0
  | .sub _ rd ra rb => encReg 0x01 rd.val ra.val rb.val 0 1
  | .and _ rd ra rb => encReg 0x01 rd.val ra.val rb.val 0 2
  | .or _ rd ra rb => encReg 0x01 rd.val ra.val rb.val 0 3
  | .xor _ rd ra rb => encReg 0x01 rd.val ra.val rb.val 0 4
  | .andn _ rd ra rb => encReg 0x01 rd.val ra.val rb.val 0 5
  | .sll _ rd ra rb => encReg 0x01 rd.val ra.val rb.val 0 6
  | .srl _ rd ra rb => encReg 0x01 rd.val ra.val rb.val 0 7
  | .sra _ rd ra rb => encReg 0x01 rd.val ra.val rb.val 0 8
  | .ror _ rd ra rb => encReg 0x01 rd.val ra.val rb.val 0 9
  | .mul _ rd ra rb => encReg 0x01 rd.val ra.val rb.val 0 10
  | .mulhu _ rd ra rb => encReg 0x01 rd.val ra.val rb.val 0 11
  | .mulhs _ rd ra rb => encReg 0x01 rd.val ra.val rb.val 0 12
  | .min _ rd ra rb => encReg 0x01 rd.val ra.val rb.val 0 13
  | .max _ rd ra rb => encReg 0x01 rd.val ra.val rb.val 0 14
  | .minu _ rd ra rb => encReg 0x01 rd.val ra.val rb.val 0 15
  | .maxu _ rd ra rb => encReg 0x01 rd.val ra.val rb.val 0 16
  | .sel _ rd ra rb rc => encReg 0x01 rd.val ra.val rb.val rc.val 0x011
  | .addi _ rd ra imm => encImm 2 rd.val ra.val 0 imm.toNat
  | .andi _ rd ra imm => encImm 2 rd.val ra.val 1 imm.toNat
  | .ori _ rd ra imm => encImm 2 rd.val ra.val 2 imm.toNat
  | .xori _ rd ra imm => encImm 2 rd.val ra.val 3 imm.toNat
  | .ceqi _ rd ra imm => encImm 10 rd.val ra.val 0 imm.toNat
  | .cnei _ rd ra imm => encImm 10 rd.val ra.val 1 imm.toNat
  | .clti _ rd ra imm => encImm 10 rd.val ra.val 2 imm.toNat
  | .cltui _ rd ra imm => encImm 10 rd.val ra.val 3 imm.toNat
  | .addai _ rd ra imm => encImm 8 rd.val ra.val 0 imm.toNat
  | .slli _ rd ra sh => encImm 3 rd.val ra.val 0 sh.toNat
  | .srli _ rd ra sh => encImm 3 rd.val ra.val 1 sh.toNat
  | .srai _ rd ra sh => encImm 3 rd.val ra.val 2 sh.toNat
  | .rori _ rd ra sh => encImm 3 rd.val ra.val 3 sh.toNat
  | .imms _ rd imm => encConst rd.val 0 imm.toNat
  | .immz _ rd imm => encConst rd.val 1 imm.toNat
  | .immh _ rd imm => encConst rd.val 2 imm.toNat
  | .immsh _ rd imm => encConst rd.val 3 imm.toNat
  | .ceq _ rd ra rb => encReg 0x09 rd.val ra.val rb.val 0 0
  | .cne _ rd ra rb => encReg 0x09 rd.val ra.val rb.val 0 1
  | .clt _ rd ra rb => encReg 0x09 rd.val ra.val rb.val 0 2
  | .cge _ rd ra rb => encReg 0x09 rd.val ra.val rb.val 0 3
  | .cltu _ rd ra rb => encReg 0x09 rd.val ra.val rb.val 0 4
  | .cgeu _ rd ra rb => encReg 0x09 rd.val ra.val rb.val 0 5
  | .adda _ rd ra rb => encReg 0x07 rd.val ra.val rb.val 0 0
  | .suba _ rd ra rb => encReg 0x07 rd.val ra.val rb.val 0 1
  | .difa _ rd ra rb => encReg 0x07 rd.val ra.val rb.val 0 2
  | .caeq _ rd ra rb => encReg 0x07 rd.val ra.val rb.val 0 6
  | .cane _ rd ra rb => encReg 0x07 rd.val ra.val rb.val 0 7
  | .caltu _ rd ra rb => encReg 0x07 rd.val ra.val rb.val 0 8
  | .cageu _ rd ra rb => encReg 0x07 rd.val ra.val rb.val 0 9
  | .mva _ rd ra => encReg 0x07 rd.val ra.val 0 0 3
  | .mvda _ rd ra => encReg 0x07 rd.val ra.val 0 0 4
  | .mvad _ rd ra => encReg 0x07 rd.val ra.val 0 0 5
  | .bfx _ rd ra rb => encReg 0x05 rd.val ra.val rb.val 0 0
  | .bfxs _ rd ra rb => encReg 0x05 rd.val ra.val rb.val 0 1
  | .bfi _ rd ra rb => encReg 0x05 rd.val ra.val rb.val 0 2
  | .clz _ rd ra => encReg 0x05 rd.val ra.val 0 0 3
  | .ctz _ rd ra => encReg 0x05 rd.val ra.val 0 0 4
  | .popc _ rd ra => encReg 0x05 rd.val ra.val 0 0 5
  | .bswap _ rd ra => encReg 0x05 rd.val ra.val 0 0 7
  | .bswapw _ rd ra => encReg 0x05 rd.val ra.val 0 0 8
  | .bswaph _ rd ra => encReg 0x05 rd.val ra.val 0 0 9
  | .perm _ rd ra rb rc => encReg 0x05 rd.val ra.val rb.val rc.val 6
  | .bfxi _ rd ra pos w1 => encBfim rd.val ra.val 0 pos.toNat w1.toNat
  | .bfxsi _ rd ra pos w1 => encBfim rd.val ra.val 1 pos.toNat w1.toNat
  | .bfii _ rd ra pos w1 => encBfim rd.val ra.val 2 pos.toNat w1.toNat
  | .mac _ ac ra rb z => encReg 0x06 ac.val ra.val rb.val 0 (encAcc 0 z 0 0)
  | .macu _ ac ra rb z => encReg 0x06 ac.val ra.val rb.val 0 (encAcc 1 z 0 0)
  | .sum _ ac ra z => encReg 0x06 ac.val ra.val 0 0 (encAcc 2 z 0 0)
  | .sums _ ac ra z => encReg 0x06 ac.val ra.val 0 0 (encAcc 3 z 0 0)
  | .csa _ ac ra len1 z => encReg 0x06 ac.val ra.val 0 0 (encAcc 4 z 0 len1.toNat)
  | .mvac _ rd ac part => encReg 0x06 rd.val ac.val 0 0 (encAcc 5 false part.toNat 0)
  | .ldb _ rt ra am => encMem 16 rt.val ra.val 0 am false
  | .ldbs _ rt ra am => encMem 16 rt.val ra.val 1 am false
  | .ldh _ rt ra am be => encMem 16 rt.val ra.val 2 am be
  | .ldhs _ rt ra am be => encMem 16 rt.val ra.val 3 am be
  | .ldw _ rt ra am be => encMem 16 rt.val ra.val 4 am be
  | .ldws _ rt ra am be => encMem 16 rt.val ra.val 5 am be
  | .ldd _ rt ra am be => encMem 16 rt.val ra.val 6 am be
  | .lda _ rt ra am => encMem 16 rt.val ra.val 7 am false
  | .stb _ rt ra am => encMem 17 rt.val ra.val 0 am false
  | .sth _ rt ra am be => encMem 17 rt.val ra.val 2 am be
  | .stw _ rt ra am be => encMem 17 rt.val ra.val 4 am be
  | .std _ rt ra am be => encMem 17 rt.val ra.val 6 am be
  | .sta _ rt ra am => encMem 17 rt.val ra.val 7 am false
  | .beq _ ra rb off => encBr ra.val rb.val 0 off.toNat
  | .bne _ ra rb off => encBr ra.val rb.val 1 off.toNat
  | .blt _ ra rb off => encBr ra.val rb.val 2 off.toNat
  | .bge _ ra rb off => encBr ra.val rb.val 3 off.toNat
  | .bltu _ ra rb off => encBr ra.val rb.val 4 off.toNat
  | .bgeu _ ra rb off => encBr ra.val rb.val 5 off.toNat
  | .bz _ ra off => encBr ra.val 0 6 off.toNat
  | .bnz _ ra off => encBr ra.val 0 7 off.toNat
  | .j _ off => 0x19 * 2 ^ 26 + off.toNat
  | .jal _ off => 0x1A * 2 ^ 26 + off.toNat
  | .jr _ ra => encReg 0x1B 0 ra.val 0 0 0
  | .jalr _ ra => encReg 0x1B 0 ra.val 0 0 1
  | .ldr _ rd ra => encReg 0x12 rd.val ra.val 0 0 0
  | .stc _ rd ra rb => encReg 0x12 rd.val ra.val rb.val 0 1
  | .tas _ rd ra => encReg 0x12 rd.val ra.val 0 0 2
  | .lkacq _ rd ra rb => encReg 0x12 rd.val ra.val rb.val 0 3
  | .lkrel _ rd ra rb => encReg 0x12 rd.val ra.val rb.val 0 4
  | .fence _ => encReg 0 0 0 0 0 1
  | .fenceS _ => encReg 0 0 1 0 0 1
  | .fenceL _ => encReg 0 0 2 0 0 1
  | .isync _ => encReg 0 0 0 0 0 2
  | .tsldb _ rt x off => encSlot rt.val x 0 0 off.toNat
  | .tsldbs _ rt x off => encSlot rt.val x 1 0 off.toNat
  | .tsldh _ rt x off => encSlot rt.val x 2 0 off.toNat
  | .tsldhs _ rt x off => encSlot rt.val x 3 0 off.toNat
  | .tsldw _ rt x off => encSlot rt.val x 4 0 off.toNat
  | .tsldws _ rt x off => encSlot rt.val x 5 0 off.toNat
  | .tsldd _ rt x off => encSlot rt.val x 6 0 off.toNat
  | .tsstb _ rt x off => encSlot rt.val x 0 1 off.toNat
  | .tssth _ rt x off => encSlot rt.val x 2 1 off.toNat
  | .tsstw _ rt x off => encSlot rt.val x 4 1 off.toNat
  | .tsstd _ rt x off => encSlot rt.val x 6 1 off.toNat
  | .tkwait _ => encReg 0 0 0 0 0 3
  | .tkend _ => encReg 0 0 0 0 0 4
  | .tkrel _ => encReg 0 0 0 0 0 5
  | .chwr _ ra rb => encReg 0x14 0 ra.val rb.val 0 0
  | .chend _ ra => encReg 0x14 0 ra.val 0 0 1
  | .chrcv _ rd ra => encReg 0x14 rd.val ra.val 0 0 2
  | .chrd _ rd i => encReg 0x14 rd.val 0 i.val 0 3
  | .nop _ => encReg 0 0 0 0 0 0
  | .evwait _ rd => encReg 0 rd.val 0 0 0 6
  | .brk _ => encReg 0 0 0 0 0 7
  | .eret _ => encReg 0 0 0 0 0 8
  | .mfs _ rd n => encImm 0x0B rd.val 0 0 n.toNat
  | .mts _ ra n => encImm 0x0B 0 ra.val 1 n.toNat
  | .thres _ t => encReg 0 0 0 t.toNat 0 0x010
  | .thresa _ t ra => encReg 0 0 ra.val t.toNat 0 0x011
  | .thpark _ t => encReg 0 0 0 t.toNat 0 0x012
  | .thrst _ t => encReg 0 0 0 t.toNat 0 0x013
  | .crcc _ rd ra k1 => encBit rd.val ra.val 0 0 k1.toNat
  | .crce _ rd ra k1 => encBit rd.val ra.val 0 1 k1.toNat
  | .tpz _ rd ra rb => encBit rd.val ra.val rb.val 2 0
  | .bmm _ rd ra rb => encBit rd.val ra.val rb.val 3 0
  | .bmmo _ rd ra rb => encBit rd.val ra.val rb.val 4 0
  | .brev _ rd ra => encBit rd.val ra.val 0 5 0
  | .mix _ rd ra n => encBit rd.val ra.val 0 6 n.toNat
  | .mvdc _ c1 r => encTab c1.val 0 r.val 0 0
  | .mvcd _ r c1 => encTab c1.val 0 r.val 1 0
  | .tlpm _ c1 c2 v6 => encTab c1.val c2.val 0 2 (b2n v6)
  | .tl2 _ c1 c2 => encTab c1.val c2.val 0 3 0
  | .tl2l _ c1 c2 r => encTab c1.val c2.val r.val 4 0
  | .tctx _ c1 c2 create => encTab c1.val c2.val 0 5 (b2n create)
  | .tcdel _ c1 r => encTab c1.val 0 r.val 6 0
  | .tbat _ c1 r => encTab c1.val 0 r.val 7 0
  | .tadd _ c1 c2 r => encTab c1.val c2.val r.val 8 0
  | .customerInstruction _ opc rd ra rb imm =>
    (0x3E + opc.toNat / 128) * 2 ^ 26 + opc.toNat % 128 * 2 ^ 19 + rd.val * 2 ^ 15 + ra.val * 2 ^ 11 + rb.val * 2 ^ 7 + imm.toNat
  | .undefinedInstruction _ word => word.toNat
  | _ => 0

/-- The word of a Pullasor instruction (06 R162). -/
def encodeWord (i : Instr) : BitVec 32 := BitVec.ofNat 32 (encodeNat i)

/-- A register number from a field. -/
def regOf (n : Nat) : Reg := ⟨n % 16, Nat.mod_lt _ (by decide)⟩

/-- A C register number from a field. -/
def cregOf (n : Nat) : CReg := ⟨n % 32, Nat.mod_lt _ (by decide)⟩

/-- An accumulator number from a field. -/
def accOf (n : Nat) : Fin 4 := ⟨n % 4, Nat.mod_lt _ (by decide)⟩

/-- A decoded instruction where a condition on its "must be 0" fields holds (06 R162). -/
def given (c : Bool) (i : Instr) : Option Instr := if c then some i else none

/-- Major 0x01: integer (06 R169). -/
def decInt (h : Hart) (rd ra rb rc f : Nat) : Option Instr :=
  match f with
  | 0 => given (rc == 0) (.add h (regOf rd) (regOf ra) (regOf rb))
  | 1 => given (rc == 0) (.sub h (regOf rd) (regOf ra) (regOf rb))
  | 2 => given (rc == 0) (.and h (regOf rd) (regOf ra) (regOf rb))
  | 3 => given (rc == 0) (.or h (regOf rd) (regOf ra) (regOf rb))
  | 4 => given (rc == 0) (.xor h (regOf rd) (regOf ra) (regOf rb))
  | 5 => given (rc == 0) (.andn h (regOf rd) (regOf ra) (regOf rb))
  | 6 => given (rc == 0) (.sll h (regOf rd) (regOf ra) (regOf rb))
  | 7 => given (rc == 0) (.srl h (regOf rd) (regOf ra) (regOf rb))
  | 8 => given (rc == 0) (.sra h (regOf rd) (regOf ra) (regOf rb))
  | 9 => given (rc == 0) (.ror h (regOf rd) (regOf ra) (regOf rb))
  | 10 => given (rc == 0) (.mul h (regOf rd) (regOf ra) (regOf rb))
  | 11 => given (rc == 0) (.mulhu h (regOf rd) (regOf ra) (regOf rb))
  | 12 => given (rc == 0) (.mulhs h (regOf rd) (regOf ra) (regOf rb))
  | 13 => given (rc == 0) (.min h (regOf rd) (regOf ra) (regOf rb))
  | 14 => given (rc == 0) (.max h (regOf rd) (regOf ra) (regOf rb))
  | 15 => given (rc == 0) (.minu h (regOf rd) (regOf ra) (regOf rb))
  | 16 => given (rc == 0) (.maxu h (regOf rd) (regOf ra) (regOf rb))
  | 17 => given (true) (.sel h (regOf rd) (regOf ra) (regOf rb) (regOf rc))
  | _ => none

/-- Major 0x09: compare (06 R169). -/
def decCmp (h : Hart) (rd ra rb rc f : Nat) : Option Instr :=
  match f with
  | 0 => given (rc == 0) (.ceq h (regOf rd) (regOf ra) (regOf rb))
  | 1 => given (rc == 0) (.cne h (regOf rd) (regOf ra) (regOf rb))
  | 2 => given (rc == 0) (.clt h (regOf rd) (regOf ra) (regOf rb))
  | 3 => given (rc == 0) (.cge h (regOf rd) (regOf ra) (regOf rb))
  | 4 => given (rc == 0) (.cltu h (regOf rd) (regOf ra) (regOf rb))
  | 5 => given (rc == 0) (.cgeu h (regOf rd) (regOf ra) (regOf rb))
  | _ => none

/-- Major 0x07: address (06 R169). -/
def decAddr (h : Hart) (rd ra rb rc f : Nat) : Option Instr :=
  match f with
  | 0 => given (rc == 0) (.adda h (regOf rd) (regOf ra) (regOf rb))
  | 1 => given (rc == 0) (.suba h (regOf rd) (regOf ra) (regOf rb))
  | 2 => given (rc == 0) (.difa h (regOf rd) (regOf ra) (regOf rb))
  | 3 => given (rb == 0 && rc == 0) (.mva h (regOf rd) (regOf ra))
  | 4 => given (rb == 0 && rc == 0) (.mvda h (regOf rd) (regOf ra))
  | 5 => given (rb == 0 && rc == 0) (.mvad h (regOf rd) (regOf ra))
  | 6 => given (rc == 0) (.caeq h (regOf rd) (regOf ra) (regOf rb))
  | 7 => given (rc == 0) (.cane h (regOf rd) (regOf ra) (regOf rb))
  | 8 => given (rc == 0) (.caltu h (regOf rd) (regOf ra) (regOf rb))
  | 9 => given (rc == 0) (.cageu h (regOf rd) (regOf ra) (regOf rb))
  | _ => none

/-- Major 0x05: bit (06 R170). -/
def decBit (h : Hart) (rd ra rb rc f : Nat) : Option Instr :=
  match f with
  | 0 => given (rc == 0) (.bfx h (regOf rd) (regOf ra) (regOf rb))
  | 1 => given (rc == 0) (.bfxs h (regOf rd) (regOf ra) (regOf rb))
  | 2 => given (rc == 0) (.bfi h (regOf rd) (regOf ra) (regOf rb))
  | 3 => given (rb == 0 && rc == 0) (.clz h (regOf rd) (regOf ra))
  | 4 => given (rb == 0 && rc == 0) (.ctz h (regOf rd) (regOf ra))
  | 5 => given (rb == 0 && rc == 0) (.popc h (regOf rd) (regOf ra))
  | 6 => given (true) (.perm h (regOf rd) (regOf ra) (regOf rb) (regOf rc))
  | 7 => given (rb == 0 && rc == 0) (.bswap h (regOf rd) (regOf ra))
  | 8 => given (rb == 0 && rc == 0) (.bswapw h (regOf rd) (regOf ra))
  | 9 => given (rb == 0 && rc == 0) (.bswaph h (regOf rd) (regOf ra))
  | _ => none

/-- Major 0x12: atomic and lock (06 R178, R180, R194). -/
def decAtomic (h : Hart) (rd ra rb rc f : Nat) : Option Instr :=
  match f with
  | 0 => given (rb == 0 && rc == 0) (.ldr h (regOf rd) (regOf ra))
  | 1 => given (rc == 0) (.stc h (regOf rd) (regOf ra) (regOf rb))
  | 2 => given (rb == 0 && rc == 0) (.tas h (regOf rd) (regOf ra))
  | 3 => given (rc == 0) (.lkacq h (regOf rd) (regOf ra) (regOf rb))
  | 4 => given (rc == 0) (.lkrel h (regOf rd) (regOf ra) (regOf rb))
  | _ => none

/-- Major 0x14: thread channel (06 R184). -/
def decChan (h : Hart) (rd ra rb rc f : Nat) : Option Instr :=
  match f with
  | 0 => given (rd == 0 && rc == 0) (.chwr h (regOf ra) (regOf rb))
  | 1 => given (rd == 0 && rb == 0 && rc == 0) (.chend h (regOf ra))
  | 2 => given (rb == 0 && rc == 0) (.chrcv h (regOf rd) (regOf ra))
  | 3 => given (ra == 0 && rb < 8 && rc == 0) (.chrd h (regOf rd) ⟨rb % 8, Nat.mod_lt _ (by decide)⟩)
  | _ => none

/-- Major 0x1B: register jump (06 R176). -/
def decJump (h : Hart) (rd ra rb rc f : Nat) : Option Instr :=
  match f with
  | 0 => given (rd == 0 && rb == 0 && rc == 0) (.jr h (regOf ra))
  | 1 => given (rd == 0 && rb == 0 && rc == 0) (.jalr h (regOf ra))
  | _ => none

/-- Major 0x00: system (06 R181, R183, R185). -/
def decSystem (h : Hart) (rd ra rb rc f : Nat) : Option Instr :=
  match f with
  | 0 => given (rd == 0 && ra == 0 && rb == 0 && rc == 0) (.nop h)
  | 1 => if rd == 0 && rb == 0 && rc == 0 then
      match ra with
      | 0 => some (.fence h)
      | 1 => some (.fenceS h)
      | 2 => some (.fenceL h)
      | _ => none
    else none
  | 2 => given (rd == 0 && ra == 0 && rb == 0 && rc == 0) (.isync h)
  | 3 => given (rd == 0 && ra == 0 && rb == 0 && rc == 0) (.tkwait h)
  | 4 => given (rd == 0 && ra == 0 && rb == 0 && rc == 0) (.tkend h)
  | 5 => given (rd == 0 && ra == 0 && rb == 0 && rc == 0) (.tkrel h)
  | 6 => given (ra == 0 && rb == 0 && rc == 0) (.evwait h (regOf rd))
  | 7 => given (rd == 0 && ra == 0 && rb == 0 && rc == 0) (.brk h)
  | 8 => given (rd == 0 && ra == 0 && rb == 0 && rc == 0) (.eret h)
  | 16 => given (rd == 0 && ra == 0 && 1 ≤ rb && rb ≤ 7 && rc == 0) (.thres h (BitVec.ofNat 4 rb))
  | 17 => given (rd == 0 && 1 ≤ rb && rb ≤ 7 && rc == 0) (.thresa h (BitVec.ofNat 4 rb) (regOf ra))
  | 18 => given (rd == 0 && ra == 0 && 1 ≤ rb && rb ≤ 7 && rc == 0) (.thpark h (BitVec.ofNat 4 rb))
  | 19 => given (rd == 0 && ra == 0 && 1 ≤ rb && rb ≤ 7 && rc == 0) (.thrst h (BitVec.ofNat 4 rb))
  | _ => none

/-- Major 0x06: accumulator (06 R171). -/
def decAcc (h : Hart) (rd ra rb rc f : Nat) : Option Instr :=
  let op := f / 64
  let z := bitOf f 5
  let part := bitsOf f 4 3
  let len := f % 8
  match op with
  | 0 => given (rd < 4 && rc == 0 && part == 0 && len == 0) (.mac h (accOf rd) (regOf ra) (regOf rb) z)
  | 1 => given (rd < 4 && rc == 0 && part == 0 && len == 0) (.macu h (accOf rd) (regOf ra) (regOf rb) z)
  | 2 => given (rd < 4 && rb == 0 && rc == 0 && part == 0 && len == 0) (.sum h (accOf rd) (regOf ra) z)
  | 3 => given (rd < 4 && rb == 0 && rc == 0 && part == 0 && len == 0) (.sums h (accOf rd) (regOf ra) z)
  | 4 => given (rd < 4 && rb == 0 && rc == 0 && part == 0) (.csa h (accOf rd) (regOf ra) (BitVec.ofNat 3 len) z)
  | 5 => given (ra < 4 && rb == 0 && rc == 0 && !z && len == 0) (.mvac h (regOf rd) (accOf ra) (BitVec.ofNat 2 part))
  | _ => none

/-- Majors 0x02, 0x03, 0x08, 0x0A and 0x0B: immediates and system registers (06 R169, R185). -/
def decImm (h : Hart) (maj rd ra sub imm : Nat) : Option Instr :=
  match maj, sub with
  | 2, 0 => some (.addi h (regOf rd) (regOf ra) (BitVec.ofNat 16 imm))
  | 2, 1 => some (.andi h (regOf rd) (regOf ra) (BitVec.ofNat 16 imm))
  | 2, 2 => some (.ori h (regOf rd) (regOf ra) (BitVec.ofNat 16 imm))
  | 2, 3 => some (.xori h (regOf rd) (regOf ra) (BitVec.ofNat 16 imm))
  | 10, 0 => some (.ceqi h (regOf rd) (regOf ra) (BitVec.ofNat 16 imm))
  | 10, 1 => some (.cnei h (regOf rd) (regOf ra) (BitVec.ofNat 16 imm))
  | 10, 2 => some (.clti h (regOf rd) (regOf ra) (BitVec.ofNat 16 imm))
  | 10, 3 => some (.cltui h (regOf rd) (regOf ra) (BitVec.ofNat 16 imm))
  | 8, 0 => some (.addai h (regOf rd) (regOf ra) (BitVec.ofNat 16 imm))
  | 3, 0 => given (imm < 64) (.slli h (regOf rd) (regOf ra) (BitVec.ofNat 6 imm))
  | 3, 1 => given (imm < 64) (.srli h (regOf rd) (regOf ra) (BitVec.ofNat 6 imm))
  | 3, 2 => given (imm < 64) (.srai h (regOf rd) (regOf ra) (BitVec.ofNat 6 imm))
  | 3, 3 => given (imm < 64) (.rori h (regOf rd) (regOf ra) (BitVec.ofNat 6 imm))
  | 11, 0 => given (imm < 256) (.mfs h (regOf rd) (BitVec.ofNat 8 imm))
  | 11, 1 => given (imm < 256 && rd == 0) (.mts h (regOf ra) (BitVec.ofNat 8 imm))
  | _, _ => none

/-- Major 0x04: constants (06 R169). -/
def decConst (h : Hart) (w : Nat) : Option Instr :=
  if bitsOf w 18 16 ≠ 0 then none
  else match bitsOf w 21 19 with
  | 0 => some (.imms h (regOf (bitsOf w 25 22)) (BitVec.ofNat 16 (w % 2 ^ 16)))
  | 1 => some (.immz h (regOf (bitsOf w 25 22)) (BitVec.ofNat 16 (w % 2 ^ 16)))
  | 2 => some (.immh h (regOf (bitsOf w 25 22)) (BitVec.ofNat 16 (w % 2 ^ 16)))
  | 3 => some (.immsh h (regOf (bitsOf w 25 22)) (BitVec.ofNat 16 (w % 2 ^ 16)))
  | _ => none

/-- Major 0x0C: bit fields, immediate (06 R170). -/
def decBfim (h : Hart) (w : Nat) : Option Instr :=
  if w % 16 ≠ 0 then none
  else match bitsOf w 17 16 with
  | 0 => some (.bfxi h (regOf (bitsOf w 25 22)) (regOf (bitsOf w 21 18)) (BitVec.ofNat 6 (bitsOf w 15 10)) (BitVec.ofNat 6 (bitsOf w 9 4)))
  | 1 => some (.bfxsi h (regOf (bitsOf w 25 22)) (regOf (bitsOf w 21 18)) (BitVec.ofNat 6 (bitsOf w 15 10)) (BitVec.ofNat 6 (bitsOf w 9 4)))
  | 2 => some (.bfii h (regOf (bitsOf w 25 22)) (regOf (bitsOf w 21 18)) (BitVec.ofNat 6 (bitsOf w 15 10)) (BitVec.ofNat 6 (bitsOf w 9 4)))
  | _ => none

/-- The address mode of a MEM word; mode 3 and non-zero bits [5:0] of mode 2 are undefined (06 R167, R172). -/
def decMode (w : Nat) : Option AddrMode :=
  match bitsOf w 14 13 with
  | 0 => some (.disp (BitVec.ofNat 12 w))
  | 1 => some (.postInc (BitVec.ofNat 12 w))
  | 2 => if w % 64 = 0 then some (.index (regOf (bitsOf w 11 8)) (BitVec.ofNat 2 (bitsOf w 7 6))) else none
  | _ => none

/-- Major 0x10: loads (06 R172, R173). BE goes with sizes 2 to 6 alone; `LDA` in mode 1 with rt = ra is undefined. -/
def decLoad (h : Hart) (w : Nat) : Option Instr :=
  let rt := regOf (bitsOf w 25 22)
  let ra := regOf (bitsOf w 21 18)
  match decMode w with
  | none => none
  | some am => match bitsOf w 17 15, bitOf w 12 with
    | 0, false => some (.ldb h rt ra am)
    | 1, false => some (.ldbs h rt ra am)
    | 2, be => some (.ldh h rt ra am be)
    | 3, be => some (.ldhs h rt ra am be)
    | 4, be => some (.ldw h rt ra am be)
    | 5, be => some (.ldws h rt ra am be)
    | 6, be => some (.ldd h rt ra am be)
    | 7, false => given (!(bitsOf w 14 13 == 1 && rt == ra)) (.lda h rt ra am)
    | _, _ => none

/-- Major 0x11: stores (06 R172, R173). -/
def decStore (h : Hart) (w : Nat) : Option Instr :=
  let rt := regOf (bitsOf w 25 22)
  let ra := regOf (bitsOf w 21 18)
  match decMode w with
  | none => none
  | some am => match bitsOf w 17 15, bitOf w 12 with
    | 0, false => some (.stb h rt ra am)
    | 2, be => some (.sth h rt ra am be)
    | 4, be => some (.stw h rt ra am be)
    | 6, be => some (.std h rt ra am be)
    | 7, false => some (.sta h rt ra am)
    | _, _ => none

/-- Major 0x13: the task slot (06 R182). -/
def decSlot (h : Hart) (w : Nat) : Option Instr :=
  let rt := regOf (bitsOf w 25 22)
  let off := BitVec.ofNat 10 w
  let x := if bitOf w 13 then some (regOf (bitsOf w 21 18)) else none
  if bitsOf w 12 10 ≠ 0 || (!bitOf w 13 && bitsOf w 21 18 ≠ 0) then none
  else match bitsOf w 17 15, bitOf w 14 with
  | 0, false => some (.tsldb h rt x off)
  | 1, false => some (.tsldbs h rt x off)
  | 2, false => some (.tsldh h rt x off)
  | 3, false => some (.tsldhs h rt x off)
  | 4, false => some (.tsldw h rt x off)
  | 5, false => some (.tsldws h rt x off)
  | 6, false => some (.tsldd h rt x off)
  | 0, true => some (.tsstb h rt x off)
  | 2, true => some (.tssth h rt x off)
  | 4, true => some (.tsstw h rt x off)
  | 6, true => some (.tsstd h rt x off)
  | _, _ => none

/-- Major 0x18: branches (06 R176). -/
def decBranch (h : Hart) (w : Nat) : Option Instr :=
  let ra := regOf (bitsOf w 25 22)
  let rb := regOf (bitsOf w 21 18)
  let off := BitVec.ofNat 15 w
  match bitsOf w 17 15 with
  | 0 => some (.beq h ra rb off)
  | 1 => some (.bne h ra rb off)
  | 2 => some (.blt h ra rb off)
  | 3 => some (.bge h ra rb off)
  | 4 => some (.bltu h ra rb off)
  | 5 => some (.bgeu h ra rb off)
  | 6 => given (bitsOf w 21 18 == 0) (.bz h ra off)
  | _ => given (bitsOf w 21 18 == 0) (.bnz h ra off)

/-- Major 0x3C: the bit helper (10 R276). -/
def decBitHelper (h : Hart) (w : Nat) : Option Instr :=
  let rd := regOf (bitsOf w 25 22)
  let ra := regOf (bitsOf w 21 18)
  let rb := regOf (bitsOf w 17 14)
  let imm := w % 2 ^ 8
  let rb0 := bitsOf w 17 14 == 0
  match bitsOf w 13 8 with
  | 0 => given (rb0 && imm < 8) (.crcc h rd ra (BitVec.ofNat 3 imm))
  | 1 => given (rb0 && imm < 8) (.crce h rd ra (BitVec.ofNat 3 imm))
  | 2 => given (imm == 0) (.tpz h rd ra rb)
  | 3 => given (imm == 0) (.bmm h rd ra rb)
  | 4 => given (imm == 0) (.bmmo h rd ra rb)
  | 5 => given (rb0 && imm == 0) (.brev h rd ra)
  | 6 => given (rb0 && imm < 64) (.mix h rd ra (BitVec.ofNat 6 imm))
  | _ => none

/-- Major 0x3D: the table helper (10 R279). -/
def decTable (h : Hart) (w : Nat) : Option Instr :=
  let c1 := cregOf (bitsOf w 25 21)
  let c2n := bitsOf w 20 16
  let c2 := cregOf c2n
  let rn := bitsOf w 15 12
  let r := regOf rn
  let opt := w % 2 ^ 6
  match bitsOf w 11 6 with
  | 0 => given (c2n == 0 && opt == 0) (.mvdc h c1 r)
  | 1 => given (c2n == 0 && opt == 0) (.mvcd h r c1)
  | 2 => given (rn == 0 && opt < 2 && (opt == 0 || c2n ≤ 30)) (.tlpm h c1 c2 (opt == 1))
  | 3 => given (rn == 0 && opt == 0) (.tl2 h c1 c2)
  | 4 => given (opt == 0) (.tl2l h c1 c2 r)
  | 5 => given (rn == 0 && opt < 2 && c2n ≤ 27) (.tctx h c1 c2 (opt == 1))
  | 6 => given (c2n == 0 && opt == 0) (.tcdel h c1 r)
  | 7 => given (c2n == 0 && opt == 0) (.tbat h c1 r)
  | 8 => given (opt == 0) (.tadd h c1 c2 r)
  | _ => none

/-- What the full configuration lacks and the small one has, or the other way round (06 R194): true where a hart has the
instruction. -/
def hasInstr (h : Hart) (maj f : Nat) : Bool :=
  match h with
  | .thr _ => !(maj == 0x12 && f == 2)
  | .golne =>
    !(maj == 0x06 || maj == 0x13 || maj == 0x14 || 0x3C ≤ maj || (maj == 0x12 && f ≤ 1) ||
      (maj == 0x00 && ((3 ≤ f && f ≤ 5) || 0x010 ≤ f)))

/-- The instruction that a word is for a hart, none for an undefined word (06 R162, R168, R194). -/
def decodeNat (h : Hart) (w : Nat) : Option Instr :=
  let maj := bitsOf w 31 26
  let rd := bitsOf w 25 22
  let ra := bitsOf w 21 18
  let rb := bitsOf w 17 14
  let rc := bitsOf w 13 10
  let f := w % 2 ^ 10
  if !hasInstr h maj f then none
  else match maj with
  | 0x00 => decSystem h rd ra rb rc f
  | 0x01 => decInt h rd ra rb rc f
  | 0x04 => decConst h w
  | 0x05 => decBit h rd ra rb rc f
  | 0x06 => decAcc h rd ra rb rc f
  | 0x07 => decAddr h rd ra rb rc f
  | 0x09 => decCmp h rd ra rb rc f
  | 0x0C => decBfim h w
  | 0x10 => decLoad h w
  | 0x11 => decStore h w
  | 0x12 => decAtomic h rd ra rb rc f
  | 0x13 => decSlot h w
  | 0x14 => decChan h rd ra rb rc f
  | 0x18 => decBranch h w
  | 0x19 => some (.j h (BitVec.ofNat 26 w))
  | 0x1A => some (.jal h (BitVec.ofNat 26 w))
  | 0x1B => decJump h rd ra rb rc f
  | 0x3C => decBitHelper h w
  | 0x3D => decTable h w
  | 0x3E => some (customer h 0 w)
  | 0x3F => some (customer h 128 w)
  | _ => decImm h maj rd ra (bitsOf w 17 16) (w % 2 ^ 16)
where
  /-- The customer block's instruction (06 R193). -/
  customer (h : Hart) (hi w : Nat) : Instr :=
    .customerInstruction h (BitVec.ofNat 8 (hi + bitsOf w 25 19)) (regOf (bitsOf w 18 15)) (regOf (bitsOf w 14 11))
      (regOf (bitsOf w 10 7)) (BitVec.ofNat 7 w)

/-- Whether an instruction has no meaning for a hart: it belongs to the other configuration (06 R194), or its operands are
a combination that the spec leaves undefined (06 R172, R185; 10 R279). -/
def undefinedFor (h : Hart) (i : Instr) : Bool :=
  match i with
  | .lda _ rt ra (.postInc _) => rt == ra
  | .thres _ t => small h || t.toNat == 0 || 8 ≤ t.toNat
  | .thresa _ t _ => small h || t.toNat == 0 || 8 ≤ t.toNat
  | .thpark _ t => small h || t.toNat == 0 || 8 ≤ t.toNat
  | .thrst _ t => small h || t.toNat == 0 || 8 ≤ t.toNat
  | .tas _ _ _ => !small h
  | .tlpm _ _ c2 v6 => small h || (v6 && c2.val == 31)
  | .tctx _ _ c2 _ => small h || 28 ≤ c2.val
  | .mac _ _ _ _ _ => small h
  | .macu _ _ _ _ _ => small h
  | .sum _ _ _ _ => small h
  | .sums _ _ _ _ => small h
  | .csa _ _ _ _ _ => small h
  | .mvac _ _ _ _ => small h
  | .ldr _ _ _ => small h
  | .stc _ _ _ _ => small h
  | .tsldb _ _ _ _ => small h
  | .tsldbs _ _ _ _ => small h
  | .tsldh _ _ _ _ => small h
  | .tsldhs _ _ _ _ => small h
  | .tsldw _ _ _ _ => small h
  | .tsldws _ _ _ _ => small h
  | .tsldd _ _ _ _ => small h
  | .tsstb _ _ _ _ => small h
  | .tssth _ _ _ _ => small h
  | .tsstw _ _ _ _ => small h
  | .tsstd _ _ _ _ => small h
  | .tkwait _ => small h
  | .tkend _ => small h
  | .tkrel _ => small h
  | .chwr _ _ _ => small h
  | .chend _ _ => small h
  | .chrcv _ _ _ => small h
  | .chrd _ _ _ => small h
  | .crcc _ _ _ _ => small h
  | .crce _ _ _ _ => small h
  | .tpz _ _ _ _ => small h
  | .bmm _ _ _ _ => small h
  | .bmmo _ _ _ _ => small h
  | .brev _ _ _ => small h
  | .mix _ _ _ _ => small h
  | .mvdc _ _ _ => small h
  | .mvcd _ _ _ => small h
  | .tl2 _ _ _ => small h
  | .tl2l _ _ _ _ => small h
  | .tcdel _ _ _ => small h
  | .tbat _ _ _ => small h
  | .tadd _ _ _ _ => small h
  | .customerInstruction _ _ _ _ _ _ => small h
  | .undefinedInstruction _ _ => true
  | _ => false
where
  /-- A hart of the small configuration. -/
  small : Hart → Bool
    | .golne => true
    | .thr _ => false

/-- The instruction that a word is for a hart (06 R162). -/
def decodeWord (h : Hart) (w : BitVec 32) : Option Instr := decodeNat h w.toNat

/-- The hart that a Pullasor instruction is for; none for a command that is no defined instruction. -/
def hartOfInstr : Instr → Option Hart
  | .add h _ _ _ => some h
  | .sub h _ _ _ => some h
  | .and h _ _ _ => some h
  | .or h _ _ _ => some h
  | .xor h _ _ _ => some h
  | .andn h _ _ _ => some h
  | .sll h _ _ _ => some h
  | .srl h _ _ _ => some h
  | .sra h _ _ _ => some h
  | .ror h _ _ _ => some h
  | .mul h _ _ _ => some h
  | .mulhu h _ _ _ => some h
  | .mulhs h _ _ _ => some h
  | .min h _ _ _ => some h
  | .max h _ _ _ => some h
  | .minu h _ _ _ => some h
  | .maxu h _ _ _ => some h
  | .sel h _ _ _ _ => some h
  | .addi h _ _ _ => some h
  | .andi h _ _ _ => some h
  | .ori h _ _ _ => some h
  | .xori h _ _ _ => some h
  | .slli h _ _ _ => some h
  | .srli h _ _ _ => some h
  | .srai h _ _ _ => some h
  | .rori h _ _ _ => some h
  | .imms h _ _ => some h
  | .immz h _ _ => some h
  | .immh h _ _ => some h
  | .immsh h _ _ => some h
  | .ceq h _ _ _ => some h
  | .cne h _ _ _ => some h
  | .clt h _ _ _ => some h
  | .cge h _ _ _ => some h
  | .cltu h _ _ _ => some h
  | .cgeu h _ _ _ => some h
  | .ceqi h _ _ _ => some h
  | .cnei h _ _ _ => some h
  | .clti h _ _ _ => some h
  | .cltui h _ _ _ => some h
  | .adda h _ _ _ => some h
  | .suba h _ _ _ => some h
  | .difa h _ _ _ => some h
  | .mva h _ _ => some h
  | .mvda h _ _ => some h
  | .mvad h _ _ => some h
  | .caeq h _ _ _ => some h
  | .cane h _ _ _ => some h
  | .caltu h _ _ _ => some h
  | .cageu h _ _ _ => some h
  | .addai h _ _ _ => some h
  | .bfx h _ _ _ => some h
  | .bfxs h _ _ _ => some h
  | .bfi h _ _ _ => some h
  | .clz h _ _ => some h
  | .ctz h _ _ => some h
  | .popc h _ _ => some h
  | .perm h _ _ _ _ => some h
  | .bswap h _ _ => some h
  | .bswapw h _ _ => some h
  | .bswaph h _ _ => some h
  | .bfxi h _ _ _ _ => some h
  | .bfxsi h _ _ _ _ => some h
  | .bfii h _ _ _ _ => some h
  | .mac h _ _ _ _ => some h
  | .macu h _ _ _ _ => some h
  | .sum h _ _ _ => some h
  | .sums h _ _ _ => some h
  | .csa h _ _ _ _ => some h
  | .mvac h _ _ _ => some h
  | .ldb h _ _ _ => some h
  | .ldbs h _ _ _ => some h
  | .ldh h _ _ _ _ => some h
  | .ldhs h _ _ _ _ => some h
  | .ldw h _ _ _ _ => some h
  | .ldws h _ _ _ _ => some h
  | .ldd h _ _ _ _ => some h
  | .lda h _ _ _ => some h
  | .stb h _ _ _ => some h
  | .sth h _ _ _ _ => some h
  | .stw h _ _ _ _ => some h
  | .std h _ _ _ _ => some h
  | .sta h _ _ _ => some h
  | .beq h _ _ _ => some h
  | .bne h _ _ _ => some h
  | .blt h _ _ _ => some h
  | .bge h _ _ _ => some h
  | .bltu h _ _ _ => some h
  | .bgeu h _ _ _ => some h
  | .bz h _ _ => some h
  | .bnz h _ _ => some h
  | .j h _ => some h
  | .jal h _ => some h
  | .jr h _ => some h
  | .jalr h _ => some h
  | .ldr h _ _ => some h
  | .stc h _ _ _ => some h
  | .lkacq h _ _ _ => some h
  | .lkrel h _ _ _ => some h
  | .tas h _ _ => some h
  | .fence h => some h
  | .fenceS h => some h
  | .fenceL h => some h
  | .isync h => some h
  | .tsldb h _ _ _ => some h
  | .tsldbs h _ _ _ => some h
  | .tsldh h _ _ _ => some h
  | .tsldhs h _ _ _ => some h
  | .tsldw h _ _ _ => some h
  | .tsldws h _ _ _ => some h
  | .tsldd h _ _ _ => some h
  | .tsstb h _ _ _ => some h
  | .tssth h _ _ _ => some h
  | .tsstw h _ _ _ => some h
  | .tsstd h _ _ _ => some h
  | .tkwait h => some h
  | .tkend h => some h
  | .tkrel h => some h
  | .chwr h _ _ => some h
  | .chend h _ => some h
  | .chrcv h _ _ => some h
  | .chrd h _ _ => some h
  | .nop h => some h
  | .evwait h _ => some h
  | .brk h => some h
  | .eret h => some h
  | .mfs h _ _ => some h
  | .mts h _ _ => some h
  | .thres h _ => some h
  | .thresa h _ _ => some h
  | .thpark h _ => some h
  | .thrst h _ => some h
  | .crcc h _ _ _ => some h
  | .crce h _ _ _ => some h
  | .tpz h _ _ _ => some h
  | .bmm h _ _ _ => some h
  | .bmmo h _ _ _ => some h
  | .brev h _ _ => some h
  | .mix h _ _ _ => some h
  | .mvdc h _ _ => some h
  | .mvcd h _ _ => some h
  | .tlpm h _ _ _ => some h
  | .tl2 h _ _ => some h
  | .tl2l h _ _ _ => some h
  | .tctx h _ _ _ => some h
  | .tcdel h _ _ => some h
  | .tbat h _ _ => some h
  | .tadd h _ _ _ => some h
  | .customerInstruction h _ _ _ _ _ => some h
  | _ => none

end Sys2Proof
end

