-- ==== Sys2Proof/Config.lean ====
section
/-!
DEFINITION. Config.lean: what the spec leaves open. Every constant here is opaque: it has no body, so nothing can be
proved about its value, and a statement about the model holds whatever it is.
-/
namespace Sys2Proof.Config

/-- A free 64-bit value, numbered by the state's counter `fresh` (DESIGN CHOICE, assumption 3). -/
opaque freeWord : Nat → BitVec 64
/-- Free bytes, numbered by the state's counter `fresh` (DESIGN CHOICE, assumption 3). -/
opaque freeByte : Nat → Nat → BitVec 8
/-- The bytes that the on-die random bit generator has drawn at the device reset before the model's first state, by the key
of the entry's byte (05 R130, 12 R334; DESIGN CHOICE, assumption 3). -/
opaque drawn : Nat → BitVec 8
/-- The two hashes of an L2 key, of which bucket numbers are taken (04 R110: the hashes are not given; DESIGN CHOICE, assumption 6). -/
opaque l2Hash : Bool → Nat → Nat
/-- Which entry of a full L2 bucket moves to its other bucket, by the new key and the moves left (04 R110; DESIGN CHOICE, assumption 6). -/
opaque l2Victim : Nat → Nat → Nat
/-- Whether a rule group's hash table of this many rules has no place for a further rule (03 R79; DESIGN CHOICE, assumption 6). -/
opaque ruleFails : Nat → List (BitVec 8) → Bool
/-- Whether the SA lookup index of this many SAs has no place for a further key (13 R351; DESIGN CHOICE, assumption 6). -/
opaque saFails : Nat → List (BitVec 8) → Bool
/-- A free choice, numbered by the state's counter `fresh`: the victim way of a pseudo-LRU cache, whose tree the spec does
not give (08 R220; DESIGN CHOICE, assumption 6). -/
opaque freeChoice : Nat → Nat
/-- The further steps that a variable result takes, of a thread's master ID and its count of issue steps (07 R208; DESIGN
CHOICE, assumption 45). -/
opaque freeSteps : Nat → Nat → Nat
/-- The bytes that a cipher suite makes of a key block, an SA's numbers and a packet (13 R346 to R356; DESIGN CHOICE, assumption 7). -/
opaque cipher : List (BitVec 8) → List (BitVec 8) → List (BitVec 8)
/-- Whether an integrity value verifies under a key block (13 R347 to R356; DESIGN CHOICE, assumption 7). -/
opaque icvOk : List (BitVec 8) → List (BitVec 8) → Bool
/-- A hash of bytes: SHA-384 (17 R442, R451; DESIGN CHOICE, assumption 7). -/
opaque sha384 : List (BitVec 8) → List (BitVec 8)
/-- Whether a signature verifies: the key, the signed bytes and the signature (17 R442, 19 R505; DESIGN CHOICE, assumption 7). -/
opaque sigOk : List (BitVec 8) → List (BitVec 8) → List (BitVec 8) → Bool
/-- A signature made by one of the device's keys (17 R451, R460; DESIGN CHOICE, assumption 7). -/
opaque sign : Nat → List (BitVec 8) → List (BitVec 8)
/-- The body that the fold coder makes of a block (12 R327: the choice of matches is not given; DESIGN CHOICE, assumption 7). -/
opaque foldCode : List (BitVec 8) → List (BitVec 8)
/-- Craviril's vendor identifier, entry 0x1018.01 (16 R436; DESIGN CHOICE, assumption 12). -/
opaque vendorId : BitVec 32
/-- The module's serial number, entry 0x1018.04 (16 R436; DESIGN CHOICE, assumption 12). -/
opaque serial : BitVec 64
/-- Craviril's image and permit signing key, whose hash is fixed in the ROM (17 R442; DESIGN CHOICE, assumption 7). -/
opaque cravirilKey : List (BitVec 8)
/-- The public key of the alias key pair that the ROM derives for a measurement of Golne firmware (17 R440; DESIGN CHOICE, assumption 7). -/
opaque aliasKey : List (BitVec 8) → List (BitVec 8)
/-- The dictionary entry, as (index, sub), that a counter mirrors, by block (0 to 3 a petal, 4 the device) and number
(19 R496; DESIGN CHOICE, assumption 12). -/
opaque counterMirror : Nat → Nat → Option (Nat × Nat)
/-- The events counted so far by a counter that mirrors no entry: block, number, device time (19 R496; DESIGN CHOICE, assumption 12). -/
opaque otherEvents : Nat → Nat → Nat → Nat
/-- The time-averaged highest junction reading after one more reading (20 R527, 0x2062.05; DEDUCED, assumption 21). -/
opaque lifeAverage : BitVec 32 → BitVec 32 → BitVec 32
/-- The version string of the Golne firmware that runs, by its image table record (16 R436, 0x100A.00; DESIGN CHOICE, assumption 12). -/
opaque versionText : List (BitVec 8) → List (BitVec 8)
/-- The bytes of a CONST DOMAIN entry whose text the spec does not give, by the key of the byte: event names of counters,
signal names (19 R496, R513; DESIGN CHOICE, assumption 12). -/
opaque constByte : Nat → BitVec 8
/-- The MCTP endpoint's UUID (16, before R432; PRESUMED, assumption 24). -/
opaque uuid : List (BitVec 8)
/-- The MCTP version entries, 4 bytes each (16, before R432; PRESUMED, assumption 24). -/
opaque mctpVersions : List (BitVec 8)
/-- The SPDM capability flags (16 R433; PRESUMED, assumption 24). -/
opaque spdmCapabilities : List (BitVec 8)
/-- SPDM's encoding of the algorithms of 17 R460 (PRESUMED, assumption 24). -/
opaque spdmAlgorithms : List (BitVec 8)
/-- The SHA-384 of the ROM (17 R440, R461; DESIGN CHOICE, assumption 7). -/
opaque romMeasurement : List (BitVec 8)
/-- What refresh multiplier the temperature statuses of a group's channels ask for, as a power of 2 modulo 3 (15 R410:
the status encoding is not given; DESIGN CHOICE, assumption 6). -/
opaque refreshAsk : List (BitVec 8) → Nat

/-- How many shared places an output port of the stem crossbar has beside those reserved for each credit class: the spec gives no
number (05 R154; DESIGN CHOICE, assumption 41). -/
opaque stemShared : Nat

/-- The UDP source port that a template takes from a flow hash (03 R84: the spec names the hash and not the function; DESIGN CHOICE,
assumption 6). -/
opaque flowPort : Nat → BitVec 16

end Sys2Proof.Config
end

