-- ==== Sys2Proof/Machine/DictTable.lean ====
section
/-!
DEFINITION. Machine/DictTable.lean: the object dictionary's entries (16 R418 to R437, 00 R536), one row per row of the
dictionary tables of the spec's chapters: the index and sub range, the strides at which petals, clusters, cores, ports and
units repeat it (R21, R536), its type (R420), access (00 R6), change class (00 R10 to R13), default, and the values that
are not reserved (00 R9) where the row names them; an empty list means every value of the type.
-/
namespace Sys2Proof.Machine

/-- A scalar type of 16 R420. -/
inductive Scal where
  | bool | u8 | u16 | u32 | u64 | i32 | i64 | bits32
deriving DecidableEq, Repr

/-- The type of an entry (16 R420): a scalar, a fixed octet string, a string, a TIME80, or a DOMAIN with its capacity and
record size in bytes. -/
inductive EntryTy where
  | scal (t : Scal)
  | ostr (n : Nat)
  | vstr
  | time80
  | dom (cap rec : Nat)
deriving DecidableEq, Repr

/-- The access code of an entry (00 R6). -/
inductive Acc6 where
  | con | ro | rw | wo | rws
deriving DecidableEq, Repr

/-- The change class of an entry: S, B or L (00 R10 to R13). -/
inductive Cls where
  | stopped | boundary | live
deriving DecidableEq, Repr

/-- One row of a dictionary table. `fam` is (stride, count, stride, count): the row's indices repeat at
`lo + s1 * i + s2 * j` for i and j below the counts. -/
structure EntrySpec where
  lo : Nat
  hi : Nat
  slo : Nat
  shi : Nat
  fam : Nat × Nat × Nat × Nat
  ty : EntryTy
  acc : Acc6
  cls : Cls
  dflt : Nat
  valid : List (Nat × Nat)
deriving DecidableEq, Repr

/-- Dictionary rows, part 1. -/
def dictRows1 : List EntrySpec := [
  ⟨0x2010, 0x2010, 0x10, 0x10, (1, 1, 1, 1), .scal .u16, .ro, .live, 0, []⟩,
  ⟨0x2010, 0x2010, 0x11, 0x11, (1, 1, 1, 1), .scal .u16, .ro, .live, 0, []⟩,
  ⟨0x2010, 0x2010, 0x12, 0x12, (1, 1, 1, 1), .scal .u16, .ro, .live, 0, []⟩,
  ⟨0x2010, 0x2010, 0x20, 0x20, (1, 1, 1, 1), .scal .u16, .rw, .live, 800, [(0, 0), (256, 1600)]⟩,
  ⟨0x3010, 0x3010, 0x10, 0x15, (1024, 4, 1, 1), .scal .u16, .ro, .live, 0, []⟩,
  ⟨0x3010, 0x3010, 0x16, 0x16, (1024, 4, 1, 1), .scal .u16, .ro, .live, 0, []⟩,
  ⟨0x3010, 0x3010, 0x17, 0x17, (1024, 4, 1, 1), .scal .u16, .ro, .live, 0, []⟩,
  ⟨0x3010, 0x3010, 0x18, 0x18, (1024, 4, 1, 1), .scal .u16, .ro, .live, 0, []⟩,
  ⟨0x3010, 0x3010, 0x19, 0x19, (1024, 4, 1, 1), .scal .u16, .ro, .live, 0, []⟩,
  ⟨0x2000, 0x2000, 0x01, 0x01, (1, 1, 1, 1), .scal .bits32, .rws, .live, 0, []⟩,
  ⟨0x2000, 0x2000, 0x02, 0x02, (1, 1, 1, 1), .scal .bits32, .ro, .live, 0, []⟩,
  ⟨0x2000, 0x2000, 0x03, 0x03, (1, 1, 1, 1), .scal .u16, .ro, .live, 0, []⟩,
  ⟨0x2000, 0x2000, 0x04, 0x04, (1, 1, 1, 1), .scal .bits32, .ro, .live, 0, []⟩,
  ⟨0x2000, 0x2000, 0x05, 0x05, (1, 1, 1, 1), .scal .bits32, .ro, .live, 0, []⟩,
  ⟨0x2000, 0x2000, 0x06, 0x06, (1, 1, 1, 1), .scal .bits32, .ro, .live, 0, []⟩,
  ⟨0x2000, 0x2000, 0x07, 0x07, (1, 1, 1, 1), .scal .u8, .ro, .live, 0, []⟩,
  ⟨0x2000, 0x2000, 0x08, 0x08, (1, 1, 1, 1), .scal .u32, .rw, .live, 100000, [(1000, 10000000)]⟩,
  ⟨0x2000, 0x2000, 0x09, 0x09, (1, 1, 1, 1), .scal .u16, .rw, .live, 1280, [(800, 1600)]⟩,
  ⟨0x2000, 0x2000, 0x0A, 0x0A, (1, 1, 1, 1), .scal .u8, .rw, .boundary, 255, [(0, 31), (255, 255)]⟩,
  ⟨0x2000, 0x2000, 0x0B, 0x0B, (1, 1, 1, 1), .scal .u32, .rw, .live, 0, [(0, 60000)]⟩,
  ⟨0x2000, 0x2000, 0x0C, 0x0C, (1, 1, 1, 1), .scal .u64, .ro, .live, 0, []⟩,
  ⟨0x3000, 0x3000, 0x01, 0x01, (1024, 4, 1, 1), .scal .bits32, .rws, .live, 0, []⟩,
  ⟨0x3000, 0x3000, 0x02, 0x02, (1024, 4, 1, 1), .scal .bits32, .ro, .live, 0, []⟩,
  ⟨0x3000, 0x3000, 0x03, 0x03, (1024, 4, 1, 1), .scal .u16, .ro, .live, 0, []⟩,
  ⟨0x3000, 0x3000, 0x04, 0x04, (1024, 4, 1, 1), .scal .bits32, .ro, .live, 0, []⟩,
  ⟨0x3000, 0x3000, 0x05, 0x05, (1024, 4, 1, 1), .scal .bits32, .ro, .live, 0, []⟩,
  ⟨0x3000, 0x3000, 0x06, 0x06, (1024, 4, 1, 1), .scal .bits32, .ro, .live, 0, []⟩,
  ⟨0x3000, 0x3000, 0x07, 0x07, (1024, 4, 1, 1), .scal .u8, .ro, .live, 0, []⟩,
  ⟨0x3000, 0x3000, 0x08, 0x08, (1024, 4, 1, 1), .scal .u16, .rw, .stopped, 0, [(0, 16383)]⟩,
  ⟨0x3000, 0x3000, 0x09, 0x09, (1024, 4, 1, 1), .scal .u64, .ro, .live, 0, []⟩,
  ⟨0x3000, 0x3000, 0x0A, 0x0A, (1024, 4, 1, 1), .scal .u8, .rw, .live, 0, [(0, 5)]⟩,
  ⟨0x3001, 0x3006, 0x01, 0x01, (1024, 4, 1, 1), .scal .bits32, .rws, .live, 0, []⟩,
  ⟨0x3001, 0x3006, 0x02, 0x02, (1024, 4, 1, 1), .scal .bits32, .ro, .live, 0, []⟩,
  ⟨0x3001, 0x3006, 0x03, 0x03, (1024, 4, 1, 1), .scal .u16, .ro, .live, 0, []⟩,
  ⟨0x3001, 0x3006, 0x04, 0x04, (1024, 4, 1, 1), .scal .bits32, .ro, .live, 0, []⟩,
  ⟨0x3100, 0x3100, 0x01, 0x01, (1024, 4, 1, 1), .scal .u8, .rws, .boundary, 0, [(0, 1)]⟩,
  ⟨0x3100, 0x3100, 0x02, 0x02, (1024, 4, 1, 1), .scal .u8, .ro, .live, 0, []⟩,
  ⟨0x3100, 0x3100, 0x03, 0x03, (1024, 4, 1, 1), .scal .u16, .ro, .live, 0, []⟩,
  ⟨0x3100, 0x3100, 0x04, 0x04, (1024, 4, 1, 1), .scal .u16, .rw, .boundary, 512, [(64, 512)]⟩,
  ⟨0x3100, 0x3100, 0x05, 0x05, (1024, 4, 1, 1), .scal .u8, .rw, .boundary, 24, [(1, 24)]⟩,
  ⟨0x3100, 0x3100, 0x07, 0x07, (1024, 4, 1, 1), .scal .u16, .rw, .boundary, 33024, []⟩,
  ⟨0x3100, 0x3100, 0x09, 0x09, (1024, 4, 1, 1), .scal .u32, .ro, .live, 0, []⟩,
  ⟨0x3101, 0x3101, 0x00, 0x00, (1024, 4, 1, 1), .dom 32768 128, .rws, .stopped, 0, []⟩,
  ⟨0x3102, 0x3102, 0x00, 0x00, (1024, 4, 1, 1), .dom 32768 128, .rws, .stopped, 0, []⟩,
  ⟨0x3103, 0x3103, 0x01, 0x06, (1024, 4, 1, 1), .scal .bits32, .rw, .boundary, 0, []⟩,
  ⟨0x3103, 0x3103, 0x07, 0x07, (1024, 4, 1, 1), .scal .u32, .rw, .live, 0, []⟩,
  ⟨0x3104, 0x3104, 0x01, 0x06, (1024, 4, 1, 1), .scal .u64, .ro, .live, 0, []⟩,
  ⟨0x3104, 0x3104, 0x07, 0x07, (1024, 4, 1, 1), .scal .u64, .ro, .live, 0, []⟩,
  ⟨0x3104, 0x3104, 0x08, 0x08, (1024, 4, 1, 1), .scal .u64, .ro, .live, 0, []⟩,
  ⟨0x3104, 0x3104, 0x0A, 0x0A, (1024, 4, 1, 1), .scal .u64, .ro, .live, 0, []⟩,
  ⟨0x3105, 0x3105, 0x01, 0x01, (1024, 4, 1, 1), .scal .u16, .ro, .live, 0, []⟩,
  ⟨0x3105, 0x3105, 0x02, 0x02, (1024, 4, 1, 1), .scal .u16, .ro, .live, 0, []⟩,
  ⟨0x3105, 0x3105, 0x03, 0x03, (1024, 4, 1, 1), .scal .u64, .ro, .live, 0, []⟩,
  ⟨0x3105, 0x3105, 0x10, 0x1F, (1024, 4, 1, 1), .scal .u16, .rw, .boundary, 0, []⟩,
  ⟨0x3106, 0x3106, 0x01, 0x08, (1024, 4, 1, 1), .scal .u16, .rw, .boundary, 0, [(0, 4095)]⟩,
  ⟨0x3107, 0x3107, 0x00, 0x00, (1024, 4, 1, 1), .dom 3145728 96, .rw, .boundary, 0, []⟩,
  ⟨0x3107, 0x3107, 0x01, 0x01, (1024, 4, 1, 1), .dom 262144 8, .ro, .live, 0, []⟩,
  ⟨0x3108, 0x3108, 0x00, 0x00, (1024, 4, 1, 1), .dom 294912 72, .rw, .boundary, 0, []⟩,
  ⟨0x3109, 0x3109, 0x00, 0x00, (1024, 4, 1, 1), .dom 131072 128, .rw, .boundary, 0, []⟩,
  ⟨0x310A, 0x310A, 0x01, 0x01, (1024, 4, 1, 1), .scal .u64, .ro, .live, 0, []⟩,
  ⟨0x310A, 0x310A, 0x02, 0x02, (1024, 4, 1, 1), .scal .u64, .ro, .live, 0, []⟩,
  ⟨0x310A, 0x310A, 0x03, 0x03, (1024, 4, 1, 1), .scal .u64, .ro, .live, 0, []⟩,
  ⟨0x310A, 0x310A, 0x04, 0x04, (1024, 4, 1, 1), .scal .u64, .ro, .live, 0, []⟩,
  ⟨0x5000, 0x5000, 0x01, 0x01, (1, 1, 1, 1), .scal .u32, .ro, .live, 0, []⟩,
  ⟨0x5000, 0x5000, 0x02, 0x02, (1, 1, 1, 1), .scal .u32, .rw, .live, 10000, [(100, 10000000)]⟩,
  ⟨0x5000, 0x5000, 0x03, 0x03, (1, 1, 1, 1), .scal .u64, .ro, .live, 0, []⟩,
  ⟨0x5000, 0x5000, 0x04, 0x04, (1, 1, 1, 1), .scal .u64, .ro, .live, 0, []⟩,
  ⟨0x5000, 0x5000, 0x07, 0x07, (1, 1, 1, 1), .dom 256 16, .ro, .live, 0, []⟩,
  ⟨0x5000, 0x5000, 0x10, 0x10, (1, 1, 1, 1), .dom 16777216 1, .rws, .live, 0, []⟩,
  ⟨0x5001, 0x5001, 0x01, 0x04, (1, 1, 1, 1), .scal .u32, .ro, .live, 0, []⟩,
  ⟨0x5001, 0x5001, 0x05, 0x08, (1, 1, 1, 1), .scal .u32, .ro, .live, 0, []⟩,
  ⟨0x5100, 0x5100, 0x01, 0x01, (1, 1, 1, 1), .scal .u32, .ro, .live, 0, []⟩,
  ⟨0x5100, 0x5100, 0x02, 0x02, (1, 1, 1, 1), .scal .u32, .ro, .live, 0, []⟩,
  ⟨0x5100, 0x5100, 0x03, 0x03, (1, 1, 1, 1), .scal .u32, .rw, .boundary, 0, []⟩,
  ⟨0x5100, 0x5100, 0x04, 0x04, (1, 1, 1, 1), .scal .u32, .rw, .boundary, 0, []⟩,
  ⟨0x5100, 0x5100, 0x06, 0x06, (1, 1, 1, 1), .scal .u64, .ro, .live, 0, []⟩,
  ⟨0x5200, 0x5200, 0x01, 0x01, (1, 1, 1, 1), .scal .u32, .ro, .live, 0, []⟩,
  ⟨0x5200, 0x5200, 0x02, 0x02, (1, 1, 1, 1), .scal .u16, .rw, .live, 1000, [(1, 1000)]⟩,
  ⟨0x5200, 0x5200, 0x03, 0x03, (1, 1, 1, 1), .scal .u16, .rw, .live, 300, [(0, 32767)]⟩,
  ⟨0x5200, 0x5200, 0x04, 0x04, (1, 1, 1, 1), .scal .u8, .rw, .live, 4, [(1, 255)]⟩]

/-- Dictionary rows, part 2. -/
def dictRows2 : List EntrySpec := [
  ⟨0x5200, 0x5200, 0x05, 0x05, (1, 1, 1, 1), .scal .u16, .rw, .live, 1, [(1, 32767)]⟩,
  ⟨0x5200, 0x5200, 0x06, 0x06, (1, 1, 1, 1), .scal .u64, .ro, .live, 0, []⟩,
  ⟨0x5200, 0x5200, 0x07, 0x07, (1, 1, 1, 1), .scal .u64, .ro, .live, 0, []⟩,
  ⟨0x5200, 0x5200, 0x08, 0x08, (1, 1, 1, 1), .scal .u64, .ro, .live, 0, []⟩,
  ⟨0x5200, 0x5200, 0x09, 0x09, (1, 1, 1, 1), .scal .u64, .ro, .live, 0, []⟩,
  ⟨0x5200, 0x5200, 0x0A, 0x0A, (1, 1, 1, 1), .scal .u64, .ro, .live, 0, []⟩,
  ⟨0x5200, 0x5200, 0x0B, 0x0B, (1, 1, 1, 1), .scal .bool, .ro, .live, 0, [(0, 1)]⟩,
  ⟨0x5200, 0x5200, 0x20, 0x3F, (1, 1, 1, 1), .scal .u32, .rw, .boundary, 0, []⟩,
  ⟨0x5300, 0x5300, 0x01, 0x01, (1, 1, 1, 1), .scal .u32, .ro, .live, 0, []⟩,
  ⟨0x5300, 0x5300, 0x03, 0x03, (1, 1, 1, 1), .scal .bits32, .rw, .boundary, 0, []⟩,
  ⟨0x5300, 0x5300, 0x04, 0x04, (1, 1, 1, 1), .scal .u16, .rw, .live, 0, [(0, 32767)]⟩,
  ⟨0x5300, 0x5300, 0x05, 0x05, (1, 1, 1, 1), .scal .u64, .ro, .live, 0, []⟩,
  ⟨0x5300, 0x5300, 0x06, 0x06, (1, 1, 1, 1), .scal .u64, .ro, .live, 0, []⟩,
  ⟨0x5300, 0x5300, 0x07, 0x07, (1, 1, 1, 1), .scal .u32, .rw, .live, 0, []⟩,
  ⟨0x5300, 0x5300, 0x10, 0x17, (1, 1, 1, 1), .scal .u16, .rw, .boundary, 0, []⟩,
  ⟨0x5400, 0x5400, 0x01, 0x20, (1, 1, 1, 1), .scal .bits32, .rw, .boundary, 0, []⟩,
  ⟨0x2020, 0x2020, 0x01, 0x08, (1, 1, 1, 1), .scal .u32, .rw, .live, 0, [(0, 0)]⟩,
  ⟨0x3200, 0x3200, 0x01, 0x01, (1024, 4, 1, 1), .scal .u16, .ro, .live, 0, []⟩,
  ⟨0x3200, 0x3200, 0x02, 0x02, (1024, 4, 1, 1), .scal .u16, .rw, .live, 1024, [(64, 8192)]⟩,
  ⟨0x3200, 0x3200, 0x03, 0x03, (1024, 4, 1, 1), .scal .u32, .rw, .live, 100, [(1, 100000)]⟩,
  ⟨0x3200, 0x3200, 0x04, 0x04, (1024, 4, 1, 1), .scal .u32, .rw, .live, 10000, [(0, 10000000)]⟩,
  ⟨0x3200, 0x3200, 0x05, 0x05, (1024, 4, 1, 1), .scal .u8, .rw, .live, 12, [(1, 16)]⟩,
  ⟨0x3200, 0x3200, 0x06, 0x06, (1024, 4, 1, 1), .scal .u32, .rw, .live, 2000, [(0, 0), (10, 1000000)]⟩,
  ⟨0x3200, 0x3200, 0x07, 0x07, (1024, 4, 1, 1), .scal .u64, .ro, .live, 0, []⟩,
  ⟨0x3200, 0x3200, 0x08, 0x08, (1024, 4, 1, 1), .scal .u64, .ro, .live, 0, []⟩,
  ⟨0x3200, 0x3200, 0x09, 0x09, (1024, 4, 1, 1), .scal .u64, .ro, .live, 0, []⟩,
  ⟨0x3200, 0x3200, 0x0A, 0x0A, (1024, 4, 1, 1), .scal .u64, .ro, .live, 0, []⟩,
  ⟨0x3200, 0x3200, 0x0B, 0x0B, (1024, 4, 1, 1), .scal .u64, .ro, .live, 0, []⟩,
  ⟨0x3200, 0x3200, 0x0D, 0x0D, (1024, 4, 1, 1), .scal .u64, .ro, .live, 0, []⟩,
  ⟨0x3200, 0x3200, 0x0E, 0x0E, (1024, 4, 1, 1), .scal .u64, .ro, .live, 0, []⟩,
  ⟨0x3200, 0x3200, 0x0F, 0x0F, (1024, 4, 1, 1), .scal .u16, .rw, .live, 14336, []⟩,
  ⟨0x3200, 0x3200, 0x10, 0x10, (1024, 4, 1, 1), .scal .u16, .rw, .live, 13312, []⟩,
  ⟨0x3201, 0x3201, 0x01, 0x01, (1024, 4, 1, 1), .ostr 44, .rws, .stopped, 0, []⟩,
  ⟨0x3201, 0x3201, 0x02, 0x02, (1024, 4, 1, 1), .ostr 44, .rws, .stopped, 0, []⟩,
  ⟨0x3202, 0x3202, 0x01, 0x08, (1024, 4, 1, 1), .scal .bits32, .rw, .boundary, 16434824, []⟩,
  ⟨0x3203, 0x3203, 0x01, 0x08, (1024, 4, 1, 1), .scal .u16, .rw, .live, 1536, [(16, 16384)]⟩,
  ⟨0x3203, 0x3203, 0x11, 0x18, (1024, 4, 1, 1), .scal .u16, .rw, .live, 1024, []⟩,
  ⟨0x3203, 0x3203, 0x21, 0x28, (1024, 4, 1, 1), .scal .u16, .rw, .live, 2048, []⟩,
  ⟨0x3203, 0x3203, 0x30, 0x30, (1024, 4, 1, 1), .scal .u64, .rw, .live, 0, []⟩,
  ⟨0x3203, 0x3203, 0x31, 0x31, (1024, 4, 1, 1), .scal .u16, .rw, .live, 65535, [(1, 65535)]⟩,
  ⟨0x3203, 0x3203, 0x32, 0x32, (1024, 4, 1, 1), .scal .u32, .rw, .live, 100, [(1, 60000)]⟩,
  ⟨0x3203, 0x3203, 0x39, 0x39, (1024, 4, 1, 1), .scal .u64, .ro, .live, 0, []⟩,
  ⟨0x3203, 0x3203, 0x41, 0x48, (1024, 4, 1, 1), .scal .u64, .ro, .live, 0, []⟩,
  ⟨0x3203, 0x3203, 0x51, 0x58, (1024, 4, 1, 1), .scal .u64, .ro, .live, 0, []⟩,
  ⟨0x3204, 0x3204, 0x01, 0x01, (1024, 4, 1, 1), .scal .u32, .rw, .live, 1000, [(10, 1000000)]⟩,
  ⟨0x3204, 0x3204, 0x02, 0x02, (1024, 4, 1, 1), .scal .u64, .ro, .live, 0, []⟩,
  ⟨0x3204, 0x3204, 0x03, 0x03, (1024, 4, 1, 1), .scal .u64, .ro, .live, 0, []⟩,
  ⟨0x3205, 0x3205, 0x01, 0x30, (1024, 4, 1, 1), .scal .u8, .rw, .live, 255, []⟩,
  ⟨0x3300, 0x3300, 0x01, 0x01, (1024, 4, 1, 1), .scal .u64, .ro, .live, 0, []⟩,
  ⟨0x3300, 0x3300, 0x02, 0x02, (1024, 4, 1, 1), .scal .u64, .ro, .live, 0, []⟩,
  ⟨0x3300, 0x3300, 0x03, 0x03, (1024, 4, 1, 1), .scal .u64, .ro, .live, 0, []⟩,
  ⟨0x3300, 0x3300, 0x04, 0x04, (1024, 4, 1, 1), .scal .u64, .ro, .live, 0, []⟩,
  ⟨0x3300, 0x3300, 0x05, 0x05, (1024, 4, 1, 1), .scal .u64, .ro, .live, 0, []⟩,
  ⟨0x3300, 0x3300, 0x06, 0x06, (1024, 4, 1, 1), .scal .u64, .ro, .live, 0, []⟩,
  ⟨0x3300, 0x3300, 0x07, 0x07, (1024, 4, 1, 1), .scal .u64, .ro, .live, 0, []⟩,
  ⟨0x3300, 0x3300, 0x08, 0x08, (1024, 4, 1, 1), .scal .u64, .ro, .live, 0, []⟩,
  ⟨0x3320, 0x3320, 0x01, 0x01, (1024, 4, 1, 6), .scal .bits32, .rw, .live, 4099, []⟩,
  ⟨0x3320, 0x3320, 0x02, 0x02, (1024, 4, 1, 6), .scal .u64, .ro, .live, 0, []⟩,
  ⟨0x3320, 0x3320, 0x03, 0x03, (1024, 4, 1, 6), .scal .u64, .ro, .live, 0, []⟩,
  ⟨0x3320, 0x3320, 0x04, 0x04, (1024, 4, 1, 6), .scal .u64, .ro, .live, 0, []⟩,
  ⟨0x3320, 0x3320, 0x05, 0x05, (1024, 4, 1, 6), .scal .u64, .ro, .live, 0, []⟩,
  ⟨0x3320, 0x3320, 0x06, 0x06, (1024, 4, 1, 6), .scal .u64, .ro, .live, 0, []⟩,
  ⟨0x3320, 0x3320, 0x07, 0x07, (1024, 4, 1, 6), .scal .u64, .ro, .live, 0, []⟩,
  ⟨0x3320, 0x3320, 0x08, 0x08, (1024, 4, 1, 6), .scal .u64, .ro, .live, 0, []⟩,
  ⟨0x3320, 0x3320, 0x09, 0x09, (1024, 4, 1, 6), .scal .u64, .ro, .live, 0, []⟩,
  ⟨0x3320, 0x3320, 0x0A, 0x0A, (1024, 4, 1, 6), .scal .u64, .ro, .live, 0, []⟩,
  ⟨0x2030, 0x2030, 0x00, 0x00, (1, 1, 1, 1), .dom 7040 1, .rws, .live, 0, []⟩,
  ⟨0x3328, 0x3328, 0x01, 0x04, (1024, 4, 1, 6), .scal .bits32, .rw, .live, 0, []⟩,
  ⟨0x3328, 0x3328, 0x06, 0x06, (1024, 4, 1, 6), .scal .u64, .ro, .live, 0, []⟩,
  ⟨0x3328, 0x3328, 0x07, 0x07, (1024, 4, 1, 6), .scal .u64, .ro, .live, 0, []⟩,
  ⟨0x3328, 0x3328, 0x08, 0x08, (1024, 4, 1, 6), .scal .u64, .ro, .live, 0, []⟩,
  ⟨0x3328, 0x3328, 0x09, 0x09, (1024, 4, 1, 6), .scal .u64, .ro, .live, 0, []⟩,
  ⟨0x3328, 0x3328, 0x0A, 0x0A, (1024, 4, 1, 6), .scal .u64, .ro, .live, 0, []⟩,
  ⟨0x3328, 0x3328, 0x0B, 0x0B, (1024, 4, 1, 6), .scal .u64, .ro, .live, 0, []⟩,
  ⟨0x3328, 0x3328, 0x0C, 0x0C, (1024, 4, 1, 6), .scal .u64, .ro, .live, 0, []⟩,
  ⟨0x3328, 0x3328, 0x0D, 0x0D, (1024, 4, 1, 6), .scal .u64, .ro, .live, 0, []⟩,
  ⟨0x3328, 0x3328, 0x0E, 0x0E, (1024, 4, 1, 6), .scal .u64, .ro, .live, 0, []⟩,
  ⟨0x3328, 0x3328, 0x0F, 0x0F, (1024, 4, 1, 6), .scal .u64, .ro, .live, 0, []⟩,
  ⟨0x3328, 0x3328, 0x10, 0x10, (1024, 4, 1, 6), .scal .u64, .ro, .live, 0, []⟩,
  ⟨0x3330, 0x3330, 0x01, 0x01, (1024, 4, 1, 1), .scal .u64, .wo, .live, 0, []⟩]

/-- Dictionary rows, part 3. -/
def dictRows3 : List EntrySpec := [
  ⟨0x3330, 0x3330, 0x02, 0x02, (1024, 4, 1, 1), .scal .bits32, .rw, .live, 5, []⟩,
  ⟨0x2040, 0x2040, 0x01, 0x01, (1, 1, 1, 1), .scal .u8, .rw, .live, 0, [(0, 1)]⟩,
  ⟨0x3340, 0x3340, 0x01, 0x01, (1024, 4, 1, 1), .scal .u16, .ro, .live, 0, []⟩,
  ⟨0x3340, 0x3340, 0x02, 0x02, (1024, 4, 1, 1), .scal .u16, .ro, .live, 0, []⟩,
  ⟨0x3340, 0x3340, 0x03, 0x03, (1024, 4, 1, 1), .scal .u64, .ro, .live, 0, []⟩,
  ⟨0x3340, 0x3340, 0x04, 0x04, (1024, 4, 1, 1), .scal .u32, .rw, .live, 1000, [(1, 1000000)]⟩,
  ⟨0x3340, 0x3340, 0x05, 0x05, (1024, 4, 1, 1), .scal .u64, .ro, .live, 0, []⟩,
  ⟨0x3340, 0x3340, 0x06, 0x06, (1024, 4, 1, 1), .scal .u64, .ro, .live, 0, []⟩,
  ⟨0x3340, 0x3340, 0x07, 0x07, (1024, 4, 1, 1), .scal .u64, .ro, .live, 0, []⟩,
  ⟨0x3340, 0x3340, 0x08, 0x08, (1024, 4, 1, 1), .scal .u64, .ro, .live, 0, []⟩,
  ⟨0x3340, 0x3340, 0x09, 0x09, (1024, 4, 1, 1), .scal .u64, .ro, .live, 0, []⟩,
  ⟨0x3340, 0x3340, 0x0A, 0x0A, (1024, 4, 1, 1), .scal .u64, .ro, .live, 0, []⟩,
  ⟨0x3341, 0x3341, 0x00, 0x00, (1024, 4, 1, 1), .dom 65536 16, .rws, .stopped, 0, []⟩,
  ⟨0x3342, 0x3342, 0x01, 0x01, (1024, 4, 1, 1), .scal .u64, .wo, .live, 0, []⟩,
  ⟨0x3342, 0x3342, 0x02, 0x02, (1024, 4, 1, 1), .dom 72 1, .wo, .live, 0, []⟩,
  ⟨0x3342, 0x3342, 0x03, 0x03, (1024, 4, 1, 1), .dom 16384 4, .ro, .live, 0, []⟩,
  ⟨0x3350, 0x3350, 0x01, 0x08, (1024, 4, 1, 48), .scal .u64, .rw, .live, 144115190225436672, []⟩,
  ⟨0x3350, 0x3350, 0x09, 0x09, (1024, 4, 1, 48), .scal .u16, .rw, .live, 512, []⟩,
  ⟨0x3350, 0x3350, 0x0A, 0x0A, (1024, 4, 1, 48), .scal .u8, .rw, .live, 254, []⟩,
  ⟨0x3350, 0x3350, 0x0B, 0x0B, (1024, 4, 1, 48), .scal .u64, .wo, .live, 0, []⟩,
  ⟨0x3350, 0x3350, 0x0C, 0x0C, (1024, 4, 1, 48), .scal .u64, .ro, .live, 0, []⟩,
  ⟨0x3350, 0x3350, 0x0D, 0x0D, (1024, 4, 1, 48), .scal .u64, .ro, .live, 0, []⟩,
  ⟨0x3350, 0x3350, 0x0E, 0x0E, (1024, 4, 1, 48), .scal .u64, .ro, .live, 0, []⟩,
  ⟨0x3350, 0x3350, 0x0F, 0x0F, (1024, 4, 1, 48), .scal .u64, .ro, .live, 0, []⟩,
  ⟨0x3380, 0x3380, 0x01, 0x01, (1024, 4, 1, 1), .scal .bits32, .rw, .live, 0, []⟩,
  ⟨0x3380, 0x3380, 0x02, 0x05, (1024, 4, 1, 1), .ostr 52, .rws, .live, 0, []⟩,
  ⟨0x3380, 0x3380, 0x06, 0x06, (1024, 4, 1, 1), .scal .u16, .rw, .live, 1024, [(16, 4096)]⟩,
  ⟨0x3380, 0x3380, 0x07, 0x07, (1024, 4, 1, 1), .scal .u64, .ro, .live, 0, []⟩,
  ⟨0x3380, 0x3380, 0x08, 0x08, (1024, 4, 1, 1), .scal .u64, .ro, .live, 0, []⟩,
  ⟨0x3380, 0x3380, 0x09, 0x09, (1024, 4, 1, 1), .scal .u64, .ro, .live, 0, []⟩,
  ⟨0x3380, 0x3380, 0x0A, 0x0A, (1024, 4, 1, 1), .scal .u64, .ro, .live, 0, []⟩,
  ⟨0x3381, 0x3381, 0x01, 0x01, (1024, 4, 1, 1), .scal .u8, .rws, .boundary, 0, [(0, 1)]⟩,
  ⟨0x3381, 0x3381, 0x02, 0x02, (1024, 4, 1, 1), .scal .u8, .ro, .live, 0, []⟩,
  ⟨0x3381, 0x3381, 0x03, 0x03, (1024, 4, 1, 1), .scal .u16, .ro, .live, 0, []⟩,
  ⟨0x3381, 0x3381, 0x04, 0x04, (1024, 4, 1, 1), .scal .u32, .ro, .live, 0, []⟩,
  ⟨0x3382, 0x3382, 0x00, 0x00, (1024, 4, 1, 1), .dom 34816 1, .rws, .stopped, 0, []⟩,
  ⟨0x3383, 0x3383, 0x00, 0x00, (1024, 4, 1, 1), .dom 34816 1, .rws, .stopped, 0, []⟩,
  ⟨0x3388, 0x3388, 0x01, 0x01, (1024, 4, 1, 6), .scal .u64, .ro, .live, 0, []⟩,
  ⟨0x3388, 0x3388, 0x02, 0x02, (1024, 4, 1, 6), .scal .u64, .ro, .live, 0, []⟩,
  ⟨0x3388, 0x3388, 0x03, 0x03, (1024, 4, 1, 6), .scal .u64, .ro, .live, 0, []⟩,
  ⟨0x3388, 0x3388, 0x04, 0x04, (1024, 4, 1, 6), .scal .u64, .ro, .live, 0, []⟩,
  ⟨0x9000, 0x9000, 0x01, 0x01, (1, 1, 1, 1), .scal .u8, .rws, .stopped, 255, [(0, 51), (255, 255)]⟩,
  ⟨0x9000, 0x9000, 0x02, 0x02, (1, 1, 1, 1), .scal .u8, .rw, .live, 16, [(0, 31)]⟩,
  ⟨0x9000, 0x9000, 0x03, 0x03, (1, 1, 1, 1), .scal .u64, .wo, .live, 0, []⟩,
  ⟨0x9000, 0x9000, 0x04, 0x04, (1, 1, 1, 1), .dom 512 8, .rws, .live, 0, []⟩,
  ⟨0x9000, 0x9000, 0x05, 0x05, (1, 1, 1, 1), .scal .u64, .ro, .live, 0, []⟩,
  ⟨0x9000, 0x9000, 0x06, 0x06, (1, 1, 1, 1), .scal .u64, .ro, .live, 0, []⟩,
  ⟨0x9000, 0x9000, 0x07, 0x07, (1, 1, 1, 1), .scal .u64, .ro, .live, 0, []⟩,
  ⟨0x9010, 0x9010, 0x00, 0x00, (1, 1, 1, 1), .dom 512 8, .rws, .stopped, 0, []⟩,
  ⟨0x9011, 0x9011, 0x01, 0x01, (1, 1, 1, 1), .scal .bool, .ro, .live, 0, [(0, 1)]⟩,
  ⟨0x9040, 0x9040, 0x01, 0x01, (1, 64, 1, 1), .scal .u32, .rw, .live, 1000, [(1, 1000000)]⟩,
  ⟨0x9040, 0x9040, 0x02, 0x02, (1, 64, 1, 1), .scal .u64, .ro, .live, 0, []⟩,
  ⟨0x9040, 0x9040, 0x03, 0x03, (1, 64, 1, 1), .scal .u64, .ro, .live, 0, []⟩,
  ⟨0x9040, 0x9040, 0x04, 0x04, (1, 64, 1, 1), .scal .u64, .ro, .live, 0, []⟩,
  ⟨0x9040, 0x9040, 0x05, 0x05, (1, 64, 1, 1), .scal .u64, .ro, .live, 0, []⟩,
  ⟨0x3390, 0x3390, 0x01, 0x01, (1024, 4, 1, 1), .scal .u16, .ro, .live, 0, []⟩,
  ⟨0x3390, 0x3390, 0x02, 0x02, (1024, 4, 1, 1), .scal .u16, .ro, .live, 0, []⟩,
  ⟨0x3390, 0x3390, 0x03, 0x03, (1024, 4, 1, 1), .scal .u64, .ro, .live, 0, []⟩,
  ⟨0x3390, 0x3390, 0x04, 0x04, (1024, 4, 1, 1), .scal .u64, .ro, .live, 0, []⟩,
  ⟨0x3390, 0x3390, 0x05, 0x05, (1024, 4, 1, 1), .scal .u64, .ro, .live, 0, []⟩,
  ⟨0x3390, 0x3390, 0x06, 0x06, (1024, 4, 1, 1), .scal .u64, .ro, .live, 0, []⟩,
  ⟨0x3390, 0x3390, 0x07, 0x07, (1024, 4, 1, 1), .scal .u64, .ro, .live, 0, []⟩,
  ⟨0x2050, 0x2050, 0x01, 0x01, (1, 1, 1, 1), .scal .u8, .rws, .stopped, 52, [(0, 52)]⟩,
  ⟨0x33A0, 0x33A0, 0x01, 0x01, (1024, 4, 1, 1), .scal .u32, .rw, .stopped, 32768, [(64, 131072)]⟩,
  ⟨0x33A0, 0x33A0, 0x02, 0x02, (1024, 4, 1, 1), .scal .u32, .rw, .stopped, 8192, [(64, 32768)]⟩,
  ⟨0x33A0, 0x33A0, 0x03, 0x03, (1024, 4, 1, 1), .scal .u32, .rw, .stopped, 4096, [(64, 16384)]⟩,
  ⟨0x33A0, 0x33A0, 0x04, 0x04, (1024, 4, 1, 1), .scal .u32, .rw, .stopped, 1024, [(64, 8192)]⟩,
  ⟨0x33A0, 0x33A0, 0x05, 0x05, (1024, 4, 1, 1), .scal .u32, .rw, .stopped, 409, [(64, 3276)]⟩,
  ⟨0x33A1, 0x33A1, 0x01, 0x01, (1024, 4, 1, 1), .scal .u32, .rw, .live, 1024, []⟩,
  ⟨0x33A1, 0x33A1, 0x02, 0x02, (1024, 4, 1, 1), .scal .u32, .rw, .live, 256, []⟩,
  ⟨0x33A1, 0x33A1, 0x03, 0x03, (1024, 4, 1, 1), .scal .u32, .rw, .live, 128, []⟩,
  ⟨0x33A1, 0x33A1, 0x04, 0x04, (1024, 4, 1, 1), .scal .u32, .rw, .live, 32, []⟩,
  ⟨0x33A1, 0x33A1, 0x05, 0x05, (1024, 4, 1, 1), .scal .u32, .rw, .live, 8, []⟩,
  ⟨0x33A2, 0x33A2, 0x01, 0x01, (1024, 4, 1, 1), .scal .u32, .rw, .live, 2048, []⟩,
  ⟨0x33A2, 0x33A2, 0x02, 0x02, (1024, 4, 1, 1), .scal .u32, .rw, .live, 512, []⟩,
  ⟨0x33A2, 0x33A2, 0x03, 0x03, (1024, 4, 1, 1), .scal .u32, .rw, .live, 256, []⟩,
  ⟨0x33A2, 0x33A2, 0x04, 0x04, (1024, 4, 1, 1), .scal .u32, .rw, .live, 64, []⟩,
  ⟨0x33A2, 0x33A2, 0x05, 0x05, (1024, 4, 1, 1), .scal .u32, .rw, .live, 24, []⟩,
  ⟨0x33A2, 0x33A2, 0x11, 0x11, (1024, 4, 1, 1), .scal .u32, .rw, .live, 4096, []⟩,
  ⟨0x33A2, 0x33A2, 0x12, 0x12, (1024, 4, 1, 1), .scal .u32, .rw, .live, 1024, []⟩]

/-- Dictionary rows, part 4. -/
def dictRows4 : List EntrySpec := [
  ⟨0x33A2, 0x33A2, 0x13, 0x13, (1024, 4, 1, 1), .scal .u32, .rw, .live, 512, []⟩,
  ⟨0x33A2, 0x33A2, 0x14, 0x14, (1024, 4, 1, 1), .scal .u32, .rw, .live, 128, []⟩,
  ⟨0x33A2, 0x33A2, 0x15, 0x15, (1024, 4, 1, 1), .scal .u32, .rw, .live, 48, []⟩,
  ⟨0x33A3, 0x33A3, 0x01, 0x01, (1024, 4, 1, 1), .scal .u32, .ro, .live, 32768, []⟩,
  ⟨0x33A3, 0x33A3, 0x02, 0x02, (1024, 4, 1, 1), .scal .u32, .ro, .live, 8192, []⟩,
  ⟨0x33A3, 0x33A3, 0x03, 0x03, (1024, 4, 1, 1), .scal .u32, .ro, .live, 4096, []⟩,
  ⟨0x33A3, 0x33A3, 0x04, 0x04, (1024, 4, 1, 1), .scal .u32, .ro, .live, 1024, []⟩,
  ⟨0x33A3, 0x33A3, 0x05, 0x05, (1024, 4, 1, 1), .scal .u32, .ro, .live, 409, []⟩,
  ⟨0x33A3, 0x33A3, 0x06, 0x06, (1024, 4, 1, 1), .scal .u64, .ro, .live, 0, []⟩,
  ⟨0x33A3, 0x33A3, 0x07, 0x07, (1024, 4, 1, 1), .scal .u64, .ro, .live, 0, []⟩,
  ⟨0x33A3, 0x33A3, 0x08, 0x08, (1024, 4, 1, 1), .scal .u64, .ro, .live, 0, []⟩,
  ⟨0x33A3, 0x33A3, 0x09, 0x09, (1024, 4, 1, 1), .scal .u64, .ro, .live, 0, []⟩,
  ⟨0x33A3, 0x33A3, 0x0A, 0x0A, (1024, 4, 1, 1), .scal .u64, .ro, .live, 0, []⟩,
  ⟨0x33A3, 0x33A3, 0x0B, 0x0B, (1024, 4, 1, 1), .scal .u64, .ro, .live, 0, []⟩,
  ⟨0x33A3, 0x33A3, 0x0C, 0x0C, (1024, 4, 1, 1), .scal .u64, .ro, .live, 0, []⟩,
  ⟨0x33A3, 0x33A3, 0x0D, 0x0D, (1024, 4, 1, 1), .scal .u64, .ro, .live, 0, []⟩,
  ⟨0x33A4, 0x33A4, 0x01, 0x05, (1024, 4, 1, 1), .scal .u64, .ro, .live, 0, []⟩,
  ⟨0x33A4, 0x33A4, 0x06, 0x06, (1024, 4, 1, 1), .scal .u32, .wo, .live, 0, []⟩,
  ⟨0x33A5, 0x33A5, 0x01, 0x01, (1024, 4, 1, 1), .scal .u8, .rws, .stopped, 255, []⟩,
  ⟨0x33A5, 0x33A5, 0x02, 0x02, (1024, 4, 1, 1), .scal .u8, .rws, .stopped, 1, [(1, 4)]⟩,
  ⟨0x33A5, 0x33A5, 0x03, 0x03, (1024, 4, 1, 1), .scal .u32, .rw, .live, 262144, [(16384, 16777216)]⟩,
  ⟨0x33A5, 0x33A5, 0x04, 0x04, (1024, 4, 1, 1), .scal .u64, .ro, .live, 0, []⟩,
  ⟨0x33A5, 0x33A5, 0x05, 0x05, (1024, 4, 1, 1), .scal .u64, .ro, .live, 0, []⟩,
  ⟨0x33A5, 0x33A5, 0x06, 0x06, (1024, 4, 1, 1), .scal .u64, .ro, .live, 0, []⟩,
  ⟨0x33A5, 0x33A5, 0x07, 0x07, (1024, 4, 1, 1), .scal .u64, .ro, .live, 0, []⟩,
  ⟨0x33A5, 0x33A5, 0x08, 0x08, (1024, 4, 1, 1), .scal .u64, .ro, .live, 0, []⟩,
  ⟨0x33A5, 0x33A5, 0x09, 0x09, (1024, 4, 1, 1), .scal .u64, .ro, .live, 0, []⟩,
  ⟨0x33A5, 0x33A5, 0x0A, 0x0A, (1024, 4, 1, 1), .scal .u64, .ro, .live, 0, []⟩,
  ⟨0x33A5, 0x33A5, 0x0B, 0x0B, (1024, 4, 1, 1), .scal .u32, .ro, .live, 0, []⟩,
  ⟨0x33A6, 0x33A6, 0x01, 0x01, (1024, 4, 1, 1), .scal .u8, .rw, .live, 0, [(0, 2)]⟩,
  ⟨0x33A6, 0x33A6, 0x02, 0x02, (1024, 4, 1, 1), .scal .u64, .rw, .live, 0, []⟩,
  ⟨0x33A6, 0x33A6, 0x03, 0x03, (1024, 4, 1, 1), .scal .bool, .wo, .live, 0, [(0, 1)]⟩,
  ⟨0x33A6, 0x33A6, 0x04, 0x04, (1024, 4, 1, 1), .dom 1572864 6, .ro, .live, 0, []⟩,
  ⟨0x33A6, 0x33A6, 0x05, 0x05, (1024, 4, 1, 1), .dom 184 46, .rws, .stopped, 0, []⟩,
  ⟨0x33A6, 0x33A6, 0x06, 0x06, (1024, 4, 1, 1), .dom 4096 16, .ro, .live, 0, []⟩,
  ⟨0x4C00, 0x4C00, 0x01, 0x01, (1, 1, 1, 1), .scal .bool, .rw, .boundary, 0, [(0, 1)]⟩,
  ⟨0x4C00, 0x4C00, 0x02, 0x02, (1, 1, 1, 1), .scal .u64, .ro, .live, 3607438346664555024, []⟩,
  ⟨0x4C00, 0x4C00, 0x03, 0x03, (1, 1, 1, 1), .scal .bits32, .ro, .live, 65535, []⟩,
  ⟨0x4C00, 0x4C00, 0x04, 0x04, (1, 1, 1, 1), .scal .u8, .ro, .live, 2, []⟩,
  ⟨0x4C00, 0x4C00, 0x05, 0x05, (1, 1, 1, 1), .scal .u8, .rw, .boundary, 255, []⟩,
  ⟨0x4C00, 0x4C00, 0x06, 0x06, (1, 1, 1, 1), .scal .u8, .rw, .boundary, 255, []⟩,
  ⟨0x4C00, 0x4C00, 0x07, 0x07, (1, 1, 1, 1), .scal .u8, .rw, .boundary, 255, [(0, 63), (255, 255)]⟩,
  ⟨0x4C00, 0x4C00, 0x08, 0x08, (1, 1, 1, 1), .scal .u8, .rw, .boundary, 255, [(0, 63), (255, 255)]⟩,
  ⟨0x4C00, 0x4C00, 0x09, 0x09, (1, 1, 1, 1), .scal .u32, .rw, .live, 0, []⟩,
  ⟨0x4C01, 0x4C01, 0x01, 0x04, (1, 1, 1, 1), .scal .u8, .rw, .boundary, 4, [(0, 16)]⟩,
  ⟨0x4C02, 0x4C02, 0x01, 0x01, (1, 1, 1, 1), .scal .u8, .rws, .stopped, 255, [(0, 51), (255, 255)]⟩,
  ⟨0x4C03, 0x4C03, 0x01, 0x20, (1, 1, 1, 1), .scal .bits32, .rw, .boundary, 0, []⟩,
  ⟨0x4C04, 0x4C04, 0x01, 0x20, (1, 1, 1, 1), .scal .u64, .rw, .boundary, 0, []⟩,
  ⟨0x4C05, 0x4C05, 0x00, 0x00, (1, 1, 1, 1), .dom 262144 4, .rw, .boundary, 0, []⟩,
  ⟨0x4C10, 0x4C10, 0x00, 0x00, (1, 1, 1, 1), .dom 16777216 1, .rws, .live, 0, []⟩,
  ⟨0x4C10, 0x4C10, 0x01, 0x01, (1, 1, 1, 1), .scal .u32, .ro, .live, 0, []⟩,
  ⟨0x4C11, 0x4C11, 0x00, 0x00, (1, 1, 1, 1), .dom 9437184 144, .ro, .live, 0, []⟩,
  ⟨0x4C12, 0x4C12, 0x01, 0x06, (1, 1, 1, 1), .scal .u64, .ro, .live, 0, []⟩,
  ⟨0x4C12, 0x4C12, 0x07, 0x07, (1, 1, 1, 1), .scal .u64, .ro, .live, 0, []⟩,
  ⟨0x4C12, 0x4C12, 0x08, 0x08, (1, 1, 1, 1), .scal .u64, .ro, .live, 0, []⟩,
  ⟨0x4C12, 0x4C12, 0x09, 0x09, (1, 1, 1, 1), .scal .u64, .ro, .live, 0, []⟩,
  ⟨0x4C12, 0x4C12, 0x0A, 0x0A, (1, 1, 1, 1), .scal .u64, .ro, .live, 0, []⟩,
  ⟨0x4C12, 0x4C12, 0x0B, 0x0B, (1, 1, 1, 1), .scal .u64, .ro, .live, 0, []⟩,
  ⟨0x4C20, 0x4C20, 0x01, 0x01, (1, 1, 1, 1), .scal .u64, .wo, .live, 0, []⟩,
  ⟨0x4C20, 0x4C20, 0x02, 0x02, (1, 1, 1, 1), .scal .u64, .ro, .live, 0, []⟩,
  ⟨0x4C20, 0x4C20, 0x03, 0x03, (1, 1, 1, 1), .scal .u64, .ro, .live, 0, []⟩,
  ⟨0x33B0, 0x33B0, 0x01, 0x01, (1024, 4, 1, 1), .dom 65536 16, .rw, .boundary, 0, []⟩,
  ⟨0x33B0, 0x33B0, 0x02, 0x02, (1024, 4, 1, 1), .dom 98304 24, .ro, .live, 0, []⟩,
  ⟨0x33B0, 0x33B0, 0x03, 0x03, (1024, 4, 1, 1), .scal .u16, .ro, .live, 0, []⟩,
  ⟨0x33B0, 0x33B0, 0x04, 0x04, (1024, 4, 1, 1), .scal .u64, .ro, .live, 0, []⟩,
  ⟨0x4000, 0x4000, 0x01, 0x01, (16, 32, 1, 1), .scal .u8, .rw, .live, 1, [(0, 1)]⟩,
  ⟨0x4000, 0x4000, 0x02, 0x02, (16, 32, 1, 1), .scal .u8, .ro, .live, 1, []⟩,
  ⟨0x4000, 0x4000, 0x03, 0x03, (16, 32, 1, 1), .scal .u16, .ro, .live, 0, []⟩,
  ⟨0x4000, 0x4000, 0x04, 0x04, (16, 32, 1, 1), .scal .u8, .ro, .live, 0, []⟩,
  ⟨0x4000, 0x4000, 0x05, 0x05, (16, 32, 1, 1), .scal .u16, .rw, .boundary, 9216, [(64, 16383)]⟩,
  ⟨0x4000, 0x4000, 0x06, 0x06, (16, 32, 1, 1), .scal .u64, .rw, .live, 0, []⟩,
  ⟨0x4000, 0x4000, 0x07, 0x07, (16, 32, 1, 1), .scal .u8, .rw, .live, 0, []⟩,
  ⟨0x4000, 0x4000, 0x08, 0x08, (16, 32, 1, 1), .scal .u64, .rw, .live, 72340172838076673, []⟩,
  ⟨0x4000, 0x4000, 0x09, 0x09, (16, 32, 1, 1), .scal .u8, .rw, .live, 20, [(0, 63)]⟩,
  ⟨0x4000, 0x4000, 0x0A, 0x11, (16, 32, 1, 1), .scal .u64, .rw, .live, 0, []⟩,
  ⟨0x4000, 0x4000, 0x12, 0x12, (16, 32, 1, 1), .scal .bool, .rw, .live, 1, [(0, 1)]⟩,
  ⟨0x4000, 0x4000, 0x13, 0x13, (16, 32, 1, 1), .scal .u8, .rw, .live, 0, []⟩,
  ⟨0x4000, 0x4000, 0x14, 0x1C, (16, 32, 1, 1), .scal .u64, .ro, .live, 0, []⟩,
  ⟨0x4200, 0x4200, 0x01, 0x01, (16, 4, 1, 1), .scal .u8, .rw, .stopped, 0, [(0, 3)]⟩,
  ⟨0x4200, 0x4200, 0x02, 0x02, (16, 4, 1, 1), .scal .bits32, .ro, .live, 0, []⟩]

/-- Dictionary rows, part 5. -/
def dictRows5 : List EntrySpec := [
  ⟨0x4200, 0x4200, 0x03, 0x03, (16, 4, 1, 1), .scal .u64, .ro, .live, 0, []⟩,
  ⟨0x4300, 0x4300, 0x01, 0x01, (1, 1, 1, 1), .time80, .ro, .live, 0, []⟩,
  ⟨0x4300, 0x4300, 0x02, 0x02, (1, 1, 1, 1), .scal .i64, .rw, .live, 0, []⟩,
  ⟨0x4300, 0x4300, 0x03, 0x03, (1, 1, 1, 1), .scal .i32, .rw, .live, 0, []⟩,
  ⟨0x4300, 0x4300, 0x04, 0x04, (1, 1, 1, 1), .time80, .ro, .live, 0, []⟩,
  ⟨0x4300, 0x4300, 0x05, 0x05, (1, 1, 1, 1), .scal .bool, .rw, .live, 0, [(0, 1)]⟩,
  ⟨0x4400, 0x4400, 0x01, 0x01, (64, 2, 1, 1), .scal .u8, .rws, .stopped, 1, [(0, 3)]⟩,
  ⟨0x4400, 0x4400, 0x02, 0x02, (64, 2, 1, 1), .scal .u8, .ro, .live, 0, []⟩,
  ⟨0x4400, 0x4400, 0x03, 0x03, (64, 2, 1, 1), .scal .u16, .ro, .live, 0, []⟩,
  ⟨0x4400, 0x4400, 0x04, 0x04, (64, 2, 1, 1), .scal .u8, .ro, .live, 0, []⟩,
  ⟨0x4400, 0x4400, 0x06, 0x06, (64, 2, 1, 1), .scal .u8, .ro, .live, 0, []⟩,
  ⟨0x4400, 0x4400, 0x05, 0x05, (64, 2, 1, 1), .scal .u8, .ro, .live, 0, []⟩,
  ⟨0x4400, 0x4400, 0x07, 0x07, (64, 2, 1, 1), .scal .u8, .ro, .live, 0, []⟩,
  ⟨0x4400, 0x4400, 0x08, 0x08, (64, 2, 1, 1), .scal .u64, .ro, .live, 0, []⟩,
  ⟨0x4400, 0x4400, 0x09, 0x09, (64, 2, 1, 1), .scal .u64, .ro, .live, 0, []⟩,
  ⟨0x4400, 0x4400, 0x0A, 0x0A, (64, 2, 1, 1), .scal .u64, .ro, .live, 0, []⟩,
  ⟨0x4480, 0x4480, 0x01, 0x01, (1, 8, 1, 1), .scal .u16, .rws, .stopped, 0, []⟩,
  ⟨0x4480, 0x4480, 0x02, 0x02, (1, 8, 1, 1), .scal .u16, .rws, .stopped, 0, [(0, 2047)]⟩,
  ⟨0x4480, 0x4480, 0x03, 0x03, (1, 8, 1, 1), .scal .u16, .rws, .stopped, 64, [(1, 2048)]⟩,
  ⟨0x4480, 0x4480, 0x04, 0x04, (1, 8, 1, 1), .scal .u8, .rws, .stopped, 8, [(1, 64)]⟩,
  ⟨0x4500, 0x4500, 0x01, 0x01, (1, 1, 1, 1), .scal .u8, .rws, .stopped, 0, [(0, 32)]⟩,
  ⟨0x4500, 0x4500, 0x02, 0x02, (1, 1, 1, 1), .scal .u8, .rws, .stopped, 0, []⟩,
  ⟨0x4500, 0x4500, 0x03, 0x03, (1, 1, 1, 1), .dom 128 8, .rws, .stopped, 0, []⟩,
  ⟨0x4500, 0x4500, 0x04, 0x04, (1, 1, 1, 1), .scal .u64, .ro, .live, 0, []⟩,
  ⟨0x4500, 0x4500, 0x05, 0x05, (1, 1, 1, 1), .scal .u64, .ro, .live, 0, []⟩,
  ⟨0x4500, 0x4500, 0x06, 0x06, (1, 1, 1, 1), .scal .u64, .ro, .live, 0, []⟩,
  ⟨0x6000, 0x63FF, 0x01, 0x10, (1024, 4, 1, 1), .dom 128 1, .rw, .live, 0, []⟩,
  ⟨0x4800, 0x4800, 0x01, 0x01, (1, 1, 1, 1), .scal .u8, .rws, .live, 8, [(8, 16)]⟩,
  ⟨0x4800, 0x4800, 0x02, 0x02, (1, 1, 1, 1), .scal .u8, .ro, .live, 8, []⟩,
  ⟨0x4800, 0x4800, 0x03, 0x03, (1, 1, 1, 1), .scal .u16, .ro, .live, 0, []⟩,
  ⟨0x4800, 0x4800, 0x04, 0x04, (1, 1, 1, 1), .scal .bool, .rws, .live, 1, [(0, 1)]⟩,
  ⟨0x4800, 0x4800, 0x05, 0x05, (1, 1, 1, 1), .scal .bool, .ro, .live, 1, [(0, 1)]⟩,
  ⟨0x4800, 0x4800, 0x06, 0x06, (1, 1, 1, 1), .scal .u8, .rw, .live, 0, [(0, 2)]⟩,
  ⟨0x4800, 0x4800, 0x07, 0x07, (1, 1, 1, 1), .scal .u16, .rw, .live, 200, [(20, 10000)]⟩,
  ⟨0x4800, 0x4800, 0x08, 0x08, (1, 1, 1, 1), .scal .u16, .rw, .live, 24, [(1, 168)]⟩,
  ⟨0x4800, 0x4800, 0x09, 0x09, (1, 1, 1, 1), .scal .u8, .rw, .live, 4, [(1, 8)]⟩,
  ⟨0x4800, 0x4800, 0x10, 0x10, (1, 1, 1, 1), .scal .u32, .rw, .live, 500, [(100, 100000)]⟩,
  ⟨0x4800, 0x4800, 0x11, 0x11, (1, 1, 1, 1), .scal .u32, .rw, .live, 1000, [(100, 100000)]⟩,
  ⟨0x4800, 0x4800, 0x12, 0x12, (1, 1, 1, 1), .scal .u32, .rw, .live, 4000, [(100, 100000)]⟩,
  ⟨0x4800, 0x4800, 0x13, 0x13, (1, 1, 1, 1), .scal .u32, .rw, .live, 8000, [(100, 100000)]⟩,
  ⟨0x4810, 0x4810, 0x01, 0x01, (16, 4, 1, 1), .scal .u64, .ro, .live, 0, []⟩,
  ⟨0x4810, 0x4810, 0x02, 0x02, (16, 4, 1, 1), .scal .u64, .ro, .live, 0, []⟩,
  ⟨0x4810, 0x4810, 0x03, 0x03, (16, 4, 1, 1), .scal .u64, .ro, .live, 0, []⟩,
  ⟨0x4810, 0x4810, 0x04, 0x04, (16, 4, 1, 1), .scal .u64, .ro, .live, 0, []⟩,
  ⟨0x4810, 0x4810, 0x05, 0x05, (16, 4, 1, 1), .scal .u64, .ro, .live, 0, []⟩,
  ⟨0x4810, 0x4810, 0x06, 0x06, (16, 4, 1, 1), .scal .u64, .ro, .live, 0, []⟩,
  ⟨0x4810, 0x4810, 0x07, 0x07, (16, 4, 1, 1), .scal .u64, .ro, .live, 0, []⟩,
  ⟨0x4810, 0x4810, 0x08, 0x08, (16, 4, 1, 1), .scal .u64, .ro, .live, 0, []⟩,
  ⟨0x4810, 0x4810, 0x09, 0x09, (16, 4, 1, 1), .scal .u64, .ro, .live, 0, []⟩,
  ⟨0x4810, 0x4810, 0x0A, 0x0A, (16, 4, 1, 1), .scal .u8, .ro, .live, 1, []⟩,
  ⟨0x4810, 0x4810, 0x0B, 0x0B, (16, 4, 1, 1), .scal .bool, .ro, .live, 1, [(0, 1)]⟩,
  ⟨0x4810, 0x4810, 0x0C, 0x0C, (16, 4, 1, 1), .scal .u32, .ro, .live, 0, []⟩,
  ⟨0x4900, 0x4900, 0x03, 0x03, (1, 32, 1, 1), .scal .u64, .ro, .live, 0, []⟩,
  ⟨0x4900, 0x4900, 0x04, 0x04, (1, 32, 1, 1), .scal .u64, .ro, .live, 0, []⟩,
  ⟨0x4900, 0x4900, 0x05, 0x05, (1, 32, 1, 1), .scal .u64, .ro, .live, 0, []⟩,
  ⟨0x4900, 0x4900, 0x06, 0x06, (1, 32, 1, 1), .scal .u64, .ro, .live, 0, []⟩,
  ⟨0x4900, 0x4900, 0x07, 0x07, (1, 32, 1, 1), .scal .u8, .ro, .live, 0, []⟩,
  ⟨0x1000, 0x1000, 0x00, 0x00, (1, 1, 1, 1), .scal .u32, .con, .live, 838860800, []⟩,
  ⟨0x1001, 0x1001, 0x00, 0x00, (1, 1, 1, 1), .scal .u8, .ro, .live, 0, []⟩,
  ⟨0x1008, 0x1008, 0x00, 0x00, (1, 1, 1, 1), .vstr, .con, .live, 0, []⟩,
  ⟨0x100A, 0x100A, 0x00, 0x00, (1, 1, 1, 1), .vstr, .ro, .live, 0, []⟩,
  ⟨0x1017, 0x1017, 0x00, 0x00, (1, 1, 1, 1), .scal .u16, .rw, .live, 1000, []⟩,
  ⟨0x1018, 0x1018, 0x01, 0x01, (1, 1, 1, 1), .scal .u32, .con, .live, 0, []⟩,
  ⟨0x1018, 0x1018, 0x02, 0x02, (1, 1, 1, 1), .scal .u32, .con, .live, 12800, []⟩,
  ⟨0x1018, 0x1018, 0x03, 0x03, (1, 1, 1, 1), .scal .u32, .con, .live, 131073, []⟩,
  ⟨0x1018, 0x1018, 0x04, 0x04, (1, 1, 1, 1), .scal .u32, .con, .live, 0, []⟩,
  ⟨0x1E00, 0x1E00, 0x01, 0x01, (1, 1, 1, 1), .scal .u32, .rws, .live, 0, []⟩,
  ⟨0x1E00, 0x1E00, 0x02, 0x02, (1, 1, 1, 1), .scal .bool, .rws, .live, 0, [(0, 1)]⟩,
  ⟨0x1E00, 0x1E00, 0x03, 0x03, (1, 1, 1, 1), .scal .u32, .rws, .live, 0, [(0, 86400)]⟩,
  ⟨0x1E00, 0x1E00, 0x04, 0x04, (1, 1, 1, 1), .scal .u64, .ro, .live, 0, []⟩,
  ⟨0x1E00, 0x1E00, 0x05, 0x05, (1, 1, 1, 1), .scal .u64, .ro, .live, 0, []⟩,
  ⟨0x1E10, 0x1E10, 0x01, 0x01, (1, 1, 1, 1), .scal .u8, .rws, .live, 32, [(1, 127)]⟩,
  ⟨0x1E10, 0x1E10, 0x02, 0x02, (1, 1, 1, 1), .scal .u8, .rws, .live, 1, [(0, 1)]⟩,
  ⟨0x1E10, 0x1E10, 0x03, 0x03, (1, 1, 1, 1), .scal .u32, .rw, .live, 1000, [(10, 10000)]⟩,
  ⟨0x1E10, 0x1E10, 0x04, 0x04, (1, 1, 1, 1), .scal .u32, .rw, .live, 0, []⟩,
  ⟨0x1E10, 0x1E10, 0x05, 0x05, (1, 1, 1, 1), .scal .u32, .rw, .live, 0, []⟩,
  ⟨0x1E10, 0x1E10, 0x06, 0x06, (1, 1, 1, 1), .scal .u64, .ro, .live, 0, []⟩,
  ⟨0x1E10, 0x1E10, 0x07, 0x07, (1, 1, 1, 1), .scal .u64, .ro, .live, 0, []⟩,
  ⟨0x1E10, 0x1E10, 0x08, 0x08, (1, 1, 1, 1), .scal .u64, .ro, .live, 0, []⟩,
  ⟨0x1E20, 0x1E20, 0x01, 0x01, (1, 1, 1, 1), .scal .u8, .rws, .live, 29, [(8, 119)]⟩]

/-- Dictionary rows, part 6. -/
def dictRows6 : List EntrySpec := [
  ⟨0x1E20, 0x1E20, 0x02, 0x02, (1, 1, 1, 1), .scal .u64, .ro, .live, 0, []⟩,
  ⟨0x1E20, 0x1E20, 0x03, 0x03, (1, 1, 1, 1), .scal .u8, .ro, .live, 0, []⟩,
  ⟨0x1E20, 0x1E20, 0x04, 0x04, (1, 1, 1, 1), .scal .u64, .ro, .live, 0, []⟩,
  ⟨0x1E30, 0x1E30, 0x01, 0x01, (1, 1, 1, 1), .scal .u64, .wo, .live, 0, []⟩,
  ⟨0x1E30, 0x1E30, 0x02, 0x02, (1, 1, 1, 1), .scal .u64, .ro, .live, 0, []⟩,
  ⟨0x1E40, 0x1E40, 0x01, 0x01, (1, 1, 1, 1), .scal .u64, .ro, .live, 0, []⟩,
  ⟨0x1E40, 0x1E40, 0x02, 0x02, (1, 1, 1, 1), .scal .u16, .ro, .live, 0, []⟩,
  ⟨0x1E40, 0x1E40, 0x03, 0x03, (1, 1, 1, 1), .scal .u64, .ro, .live, 0, []⟩,
  ⟨0x1E50, 0x1E50, 0x01, 0x01, (1, 1, 1, 1), .ostr 24, .ro, .live, 0, []⟩,
  ⟨0x1E50, 0x1E50, 0x02, 0x02, (1, 1, 1, 1), .scal .u64, .ro, .live, 0, []⟩,
  ⟨0x1E50, 0x1E50, 0x03, 0x03, (1, 1, 1, 1), .scal .u32, .rw, .live, 1000, [(0, 1000000)]⟩,
  ⟨0x1E60, 0x1E60, 0x00, 0x00, (1, 1, 1, 1), .dom 16777216 8, .con, .live, 0, []⟩,
  ⟨0x2100, 0x2100, 0x01, 0x01, (1, 1, 1, 1), .scal .u8, .ro, .live, 0, []⟩,
  ⟨0x2100, 0x2100, 0x02, 0x02, (1, 1, 1, 1), .scal .u8, .ro, .live, 0, []⟩,
  ⟨0x2100, 0x2100, 0x03, 0x03, (1, 1, 1, 1), .scal .u32, .ro, .live, 0, []⟩,
  ⟨0x2100, 0x2100, 0x04, 0x04, (1, 1, 1, 1), .scal .u8, .rws, .live, 0, [(0, 1)]⟩,
  ⟨0x2100, 0x2100, 0x05, 0x05, (1, 1, 1, 1), .scal .u8, .ro, .live, 0, []⟩,
  ⟨0x2100, 0x2100, 0x06, 0x06, (1, 1, 1, 1), .scal .u16, .ro, .live, 0, []⟩,
  ⟨0x2100, 0x2100, 0x07, 0x07, (1, 1, 1, 1), .scal .u32, .wo, .live, 0, []⟩,
  ⟨0x2100, 0x2100, 0x08, 0x08, (1, 1, 1, 1), .dom 1960 56, .ro, .live, 0, []⟩,
  ⟨0x2101, 0x2101, 0x01, 0x01, (1, 1, 1, 1), .scal .u16, .ro, .live, 0, []⟩,
  ⟨0x2102, 0x2102, 0x01, 0x01, (1, 1, 1, 1), .scal .u8, .ro, .live, 0, []⟩,
  ⟨0x2102, 0x2102, 0x02, 0x02, (1, 1, 1, 1), .scal .u8, .rws, .live, 3, [(1, 7)]⟩,
  ⟨0x2102, 0x2102, 0x03, 0x03, (1, 1, 1, 1), .scal .u32, .rws, .live, 600, [(60, 86400)]⟩,
  ⟨0x2102, 0x2102, 0x04, 0x04, (1, 1, 1, 1), .dom 112 16, .ro, .live, 0, []⟩,
  ⟨0x2102, 0x2102, 0x05, 0x05, (1, 1, 1, 1), .scal .bool, .rws, .live, 0, [(0, 1)]⟩,
  ⟨0x2110, 0x2110, 0x01, 0x01, (1, 1, 1, 1), .scal .u64, .ro, .live, 1, []⟩,
  ⟨0x2110, 0x2110, 0x02, 0x02, (1, 1, 1, 1), .scal .u64, .rws, .live, 0, []⟩,
  ⟨0x2110, 0x2110, 0x03, 0x03, (1, 1, 1, 1), .scal .u64, .ro, .live, 0, []⟩,
  ⟨0x2110, 0x2110, 0x04, 0x04, (1, 1, 1, 1), .scal .u32, .ro, .live, 0, []⟩,
  ⟨0x2110, 0x2110, 0x06, 0x06, (1, 1, 1, 1), .scal .u64, .ro, .live, 0, []⟩,
  ⟨0x2110, 0x2110, 0x07, 0x07, (1, 1, 1, 1), .scal .u32, .rw, .live, 4096, [(0, 65536)]⟩,
  ⟨0x2110, 0x2110, 0x08, 0x08, (1, 1, 1, 1), .dom 33554432 512, .ro, .live, 0, []⟩,
  ⟨0x2110, 0x2110, 0x09, 0x09, (1, 1, 1, 1), .dom 8388608 512, .ro, .live, 0, []⟩,
  ⟨0x2120, 0x2120, 0x01, 0x01, (1, 1, 1, 1), .dom 16777216 1, .ro, .live, 0, []⟩,
  ⟨0x2120, 0x2120, 0x02, 0x02, (1, 1, 1, 1), .dom 16384 1024, .ro, .live, 0, []⟩,
  ⟨0x2120, 0x2120, 0x03, 0x03, (1, 1, 1, 1), .dom 512 128, .rws, .live, 0, []⟩,
  ⟨0x2120, 0x2120, 0x04, 0x04, (1, 1, 1, 1), .dom 512 128, .rws, .live, 0, []⟩,
  ⟨0x2120, 0x2120, 0x05, 0x05, (1, 1, 1, 1), .ostr 32, .wo, .live, 0, []⟩,
  ⟨0x2120, 0x2120, 0x06, 0x06, (1, 1, 1, 1), .dom 20 4, .rws, .live, 0, []⟩,
  ⟨0x2130, 0x2130, 0x00, 0x00, (1, 1, 1, 1), .dom 16777216 1, .rws, .live, 0, []⟩,
  ⟨0x2130, 0x2130, 0x01, 0x01, (1, 1, 1, 1), .scal .u64, .wo, .live, 0, []⟩,
  ⟨0x2130, 0x2130, 0x02, 0x02, (1, 1, 1, 1), .scal .u32, .ro, .live, 0, []⟩,
  ⟨0x2130, 0x2130, 0x04, 0x04, (1, 1, 1, 1), .scal .u32, .rw, .live, 10000, [(100, 1000000)]⟩,
  ⟨0x2131, 0x2131, 0x01, 0x04, (1, 1, 1, 1), .dom 25165824 1, .rws, .live, 0, []⟩,
  ⟨0x2200, 0x2200, 0x01, 0x03, (1, 1, 1, 1), .scal .u64, .rws, .live, 0, []⟩,
  ⟨0x2200, 0x2200, 0x04, 0x04, (1, 1, 1, 1), .dom 512 8, .ro, .live, 0, []⟩,
  ⟨0x2200, 0x2200, 0x05, 0x07, (1, 1, 1, 1), .scal .u32, .rw, .live, 10000, [(1, 10000000)]⟩,
  ⟨0x2200, 0x2200, 0x08, 0x08, (1, 1, 1, 1), .scal .u32, .rw, .live, 1000, [(10, 1000000)]⟩,
  ⟨0x2200, 0x2200, 0x09, 0x09, (1, 1, 1, 1), .scal .u64, .ro, .live, 0, []⟩,
  ⟨0x2200, 0x2200, 0x0A, 0x0A, (1, 1, 1, 1), .scal .u64, .ro, .live, 0, []⟩,
  ⟨0x2200, 0x2200, 0x0B, 0x0B, (1, 1, 1, 1), .dom 512 8, .ro, .live, 0, []⟩,
  ⟨0x2210, 0x2210, 0x01, 0x01, (1, 4, 1, 1), .scal .u64, .rws, .live, 0, []⟩,
  ⟨0x2210, 0x2210, 0x02, 0x02, (1, 4, 1, 1), .scal .u64, .rws, .live, 0, []⟩,
  ⟨0x2210, 0x2210, 0x03, 0x03, (1, 4, 1, 1), .scal .u64, .rws, .live, 0, []⟩,
  ⟨0x2210, 0x2210, 0x05, 0x05, (1, 4, 1, 1), .scal .u32, .rw, .live, 10000, [(1, 10000000)]⟩,
  ⟨0x2210, 0x2210, 0x06, 0x06, (1, 4, 1, 1), .scal .u32, .rw, .live, 10000, [(1, 10000000)]⟩,
  ⟨0x2210, 0x2210, 0x07, 0x07, (1, 4, 1, 1), .scal .u32, .rw, .live, 10000, [(1, 10000000)]⟩,
  ⟨0x2210, 0x2210, 0x09, 0x09, (1, 4, 1, 1), .scal .u64, .ro, .live, 0, []⟩,
  ⟨0x2210, 0x2210, 0x0A, 0x0A, (1, 4, 1, 1), .scal .u64, .ro, .live, 0, []⟩,
  ⟨0x2210, 0x2210, 0x04, 0x04, (1, 4, 1, 1), .dom 128 8, .ro, .live, 0, []⟩,
  ⟨0x2210, 0x2210, 0x0B, 0x0B, (1, 4, 1, 1), .dom 128 8, .ro, .live, 0, []⟩,
  ⟨0x2220, 0x2220, 0x02, 0x02, (1, 1, 1, 1), .scal .u64, .ro, .live, 0, []⟩,
  ⟨0x2220, 0x2220, 0x03, 0x03, (1, 1, 1, 1), .scal .u64, .wo, .live, 0, []⟩,
  ⟨0x2220, 0x2220, 0x04, 0x04, (1, 1, 1, 1), .scal .u64, .ro, .live, 0, []⟩,
  ⟨0x2220, 0x2220, 0x05, 0x05, (1, 1, 1, 1), .scal .bool, .rws, .live, 1, [(0, 1)]⟩,
  ⟨0x2220, 0x2220, 0x06, 0x06, (1, 1, 1, 1), .scal .u8, .wo, .live, 0, [(0, 3)]⟩,
  ⟨0x2220, 0x2220, 0x07, 0x07, (1, 1, 1, 1), .scal .u8, .wo, .live, 0, [(0, 3)]⟩,
  ⟨0x2220, 0x2220, 0x08, 0x08, (1, 1, 1, 1), .scal .u64, .ro, .live, 0, []⟩,
  ⟨0x2220, 0x2220, 0x09, 0x09, (1, 1, 1, 1), .scal .u64, .ro, .live, 0, []⟩,
  ⟨0x2220, 0x2220, 0x0A, 0x0A, (1, 1, 1, 1), .scal .u8, .wo, .live, 0, [(0, 12)]⟩,
  ⟨0x2221, 0x2221, 0x00, 0x03, (1, 1, 1, 1), .dom 266338304 1, .rws, .live, 0, []⟩,
  ⟨0x2222, 0x2222, 0x00, 0x00, (1, 1, 1, 1), .dom 1048576 8192, .ro, .live, 0, []⟩,
  ⟨0x2300, 0x2300, 0x01, 0x01, (1, 1, 1, 1), .scal .bits32, .rws, .live, 7, []⟩,
  ⟨0x2300, 0x2300, 0x02, 0x02, (1, 1, 1, 1), .scal .u64, .rws, .live, 0, []⟩,
  ⟨0x2300, 0x2300, 0x04, 0x04, (1, 1, 1, 1), .scal .u32, .rw, .live, 3600, [(60, 604800)]⟩,
  ⟨0x2300, 0x2300, 0x05, 0x05, (1, 1, 1, 1), .scal .u16, .rw, .live, 41, [(8, 256)]⟩,
  ⟨0x2300, 0x2300, 0x06, 0x06, (1, 1, 1, 1), .scal .u32, .rw, .live, 86400, [(3600, 2592000)]⟩,
  ⟨0x2300, 0x2300, 0x07, 0x07, (1, 1, 1, 1), .scal .u8, .ro, .live, 0, []⟩,
  ⟨0x2300, 0x2300, 0x08, 0x08, (1, 1, 1, 1), .scal .u32, .rw, .live, 10, [(1, 10000)]⟩]

/-- Dictionary rows, part 7. -/
def dictRows7 : List EntrySpec := [
  ⟨0x2301, 0x2301, 0x01, 0x01, (1, 1, 1, 1), .scal .u32, .rw, .live, 64, []⟩,
  ⟨0x2301, 0x2301, 0x02, 0x02, (1, 1, 1, 1), .scal .u32, .rw, .live, 32, []⟩,
  ⟨0x2301, 0x2301, 0x03, 0x03, (1, 1, 1, 1), .scal .u32, .rw, .live, 32, []⟩,
  ⟨0x2301, 0x2301, 0x04, 0x04, (1, 1, 1, 1), .scal .u32, .rw, .live, 256, []⟩,
  ⟨0x2301, 0x2301, 0x05, 0x05, (1, 1, 1, 1), .scal .u32, .rw, .live, 4, []⟩,
  ⟨0x2301, 0x2301, 0x06, 0x06, (1, 1, 1, 1), .scal .u32, .rw, .live, 1, []⟩,
  ⟨0x2301, 0x2301, 0x07, 0x07, (1, 1, 1, 1), .scal .u32, .rw, .live, 16, []⟩,
  ⟨0x2301, 0x2301, 0x08, 0x08, (1, 1, 1, 1), .scal .u32, .rw, .live, 4, []⟩,
  ⟨0x2302, 0x2302, 0x00, 0x00, (1, 1, 1, 1), .dom 8192 32, .ro, .live, 0, []⟩,
  ⟨0x2303, 0x2303, 0x00, 0x00, (1, 1, 1, 1), .dom 16777216 8, .ro, .live, 0, []⟩,
  ⟨0x2304, 0x2304, 0x00, 0x00, (1, 1, 1, 1), .dom 16777216 16, .ro, .live, 0, []⟩,
  ⟨0x2400, 0x2400, 0x00, 0x00, (1, 1, 1, 1), .dom 4096 8, .rws, .live, 0, []⟩,
  ⟨0x2400, 0x2400, 0x01, 0x01, (1, 1, 1, 1), .dom 65536 16, .ro, .live, 0, []⟩,
  ⟨0x2400, 0x2400, 0x02, 0x02, (1, 1, 1, 1), .dom 4096 8, .ro, .live, 0, []⟩,
  ⟨0x2400, 0x2400, 0x03, 0x03, (1, 1, 1, 1), .scal .u64, .ro, .live, 0, []⟩,
  ⟨0x2400, 0x2400, 0x04, 0x04, (1, 1, 1, 1), .scal .u64, .ro, .live, 0, []⟩,
  ⟨0x2400, 0x2400, 0x05, 0x05, (1, 1, 1, 1), .dom 8192 16, .ro, .live, 0, []⟩,
  ⟨0x7000, 0x7000, 0x01, 0x01, (256, 5, 1, 1), .dom 4096 4, .ro, .live, 0, []⟩,
  ⟨0x7000, 0x7000, 0x02, 0x02, (256, 5, 1, 1), .dom 128 1, .rw, .live, 0, []⟩,
  ⟨0x7000, 0x7000, 0x03, 0x03, (256, 5, 1, 1), .scal .bool, .wo, .live, 0, [(0, 1)]⟩,
  ⟨0x7000, 0x7000, 0x04, 0x04, (256, 5, 1, 1), .dom 4096 4, .ro, .live, 0, []⟩,
  ⟨0x7000, 0x7000, 0x05, 0x05, (256, 5, 1, 1), .dom 49152 48, .con, .live, 0, []⟩,
  ⟨0x7500, 0x7500, 0x01, 0x01, (1, 4, 1, 1), .scal .bits32, .rw, .live, 0, []⟩,
  ⟨0x7500, 0x7500, 0x02, 0x02, (1, 4, 1, 1), .scal .u64, .rw, .live, 0, []⟩,
  ⟨0x7500, 0x7500, 0x03, 0x03, (1, 4, 1, 1), .scal .u64, .rw, .stopped, 0, []⟩,
  ⟨0x7500, 0x7500, 0x04, 0x04, (1, 4, 1, 1), .scal .u8, .rw, .stopped, 10, [(10, 24)]⟩,
  ⟨0x7500, 0x7500, 0x05, 0x05, (1, 4, 1, 1), .scal .u64, .ro, .live, 0, []⟩,
  ⟨0x7500, 0x7500, 0x06, 0x06, (1, 4, 1, 1), .scal .u64, .rw, .live, 0, []⟩,
  ⟨0x7500, 0x7500, 0x07, 0x07, (1, 4, 1, 1), .scal .u64, .ro, .live, 0, []⟩,
  ⟨0x7600, 0x7600, 0x01, 0x01, (16, 4, 1, 16), .scal .bits32, .rw, .live, 0, []⟩,
  ⟨0x7600, 0x7600, 0x02, 0x02, (16, 4, 1, 16), .scal .u32, .rw, .stopped, 2147483648, []⟩,
  ⟨0x7600, 0x7600, 0x03, 0x03, (16, 4, 1, 16), .scal .u16, .rw, .stopped, 64, [(1, 65535)]⟩,
  ⟨0x7600, 0x7600, 0x04, 0x04, (16, 4, 1, 16), .dom 512 8, .ro, .live, 0, []⟩,
  ⟨0x7600, 0x7600, 0x05, 0x05, (16, 4, 1, 16), .scal .bool, .wo, .live, 0, [(0, 1)]⟩,
  ⟨0x7600, 0x7600, 0x06, 0x06, (16, 4, 1, 16), .scal .u64, .ro, .live, 0, []⟩,
  ⟨0x8000, 0x8000, 0x01, 0x01, (1, 1, 1, 1), .dom 256 1, .rws, .live, 0, []⟩,
  ⟨0x8000, 0x8000, 0x02, 0x02, (1, 1, 1, 1), .scal .u32, .ro, .live, 0, []⟩,
  ⟨0x8000, 0x8000, 0x03, 0x03, (1, 1, 1, 1), .scal .bool, .wo, .live, 0, [(0, 1)]⟩,
  ⟨0x8010, 0x8010, 0x01, 0x02, (1, 1, 1, 1), .scal .u64, .rw, .live, 0, []⟩,
  ⟨0x8200, 0x8200, 0x01, 0x10, (1, 1, 1, 1), .scal .u16, .rw, .live, 0, []⟩,
  ⟨0x8201, 0x8204, 0x00, 0x00, (1, 1, 1, 1), .dom 131072 32, .con, .live, 0, []⟩,
  ⟨0x2060, 0x2060, 0x01, 0x01, (1, 1, 1, 1), .scal .u16, .rws, .live, 1600, [(800, 1600)]⟩,
  ⟨0x2060, 0x2060, 0x02, 0x02, (1, 1, 1, 1), .scal .u16, .rws, .live, 300, [(100, 300)]⟩,
  ⟨0x2060, 0x2060, 0x03, 0x03, (1, 1, 1, 1), .scal .u16, .ro, .live, 300, []⟩,
  ⟨0x2060, 0x2060, 0x04, 0x04, (1, 1, 1, 1), .scal .u16, .ro, .live, 0, []⟩,
  ⟨0x2060, 0x2060, 0x10, 0x14, (1, 1, 1, 1), .scal .u16, .ro, .live, 1600, []⟩,
  ⟨0x2060, 0x2060, 0x18, 0x1C, (1, 1, 1, 1), .scal .u16, .ro, .live, 750, []⟩,
  ⟨0x2061, 0x2061, 0x01, 0x01, (1, 1, 1, 1), .scal .u32, .ro, .live, 0, []⟩,
  ⟨0x2061, 0x2061, 0x02, 0x02, (1, 1, 1, 1), .scal .u32, .ro, .live, 0, []⟩,
  ⟨0x2061, 0x2061, 0x03, 0x03, (1, 1, 1, 1), .scal .u64, .ro, .live, 0, []⟩,
  ⟨0x2061, 0x2061, 0x04, 0x04, (1, 1, 1, 1), .scal .u64, .ro, .live, 0, []⟩,
  ⟨0x2061, 0x2061, 0x05, 0x05, (1, 1, 1, 1), .scal .u64, .ro, .live, 0, []⟩,
  ⟨0x2062, 0x2062, 0x01, 0x01, (1, 1, 1, 1), .scal .i32, .ro, .live, 0, []⟩,
  ⟨0x2062, 0x2062, 0x02, 0x02, (1, 1, 1, 1), .scal .u8, .rws, .live, 100, [(96, 105)]⟩,
  ⟨0x2062, 0x2062, 0x03, 0x03, (1, 1, 1, 1), .scal .bool, .ro, .live, 0, [(0, 1)]⟩,
  ⟨0x2062, 0x2062, 0x04, 0x04, (1, 1, 1, 1), .scal .u64, .ro, .live, 0, []⟩,
  ⟨0x2062, 0x2062, 0x05, 0x05, (1, 1, 1, 1), .scal .i32, .ro, .live, 0, []⟩,
  ⟨0x2063, 0x2063, 0x00, 0x00, (1, 1, 1, 1), .dom 112 8, .ro, .live, 0, []⟩,
  ⟨0x2063, 0x2063, 0x01, 0x01, (1, 1, 1, 1), .scal .u64, .ro, .live, 0, []⟩,
  ⟨0x2064, 0x2064, 0x01, 0x04, (1, 1, 1, 1), .scal .u32, .ro, .live, 0, []⟩,
  ⟨0x2064, 0x2064, 0x05, 0x08, (1, 1, 1, 1), .scal .bool, .wo, .live, 0, [(0, 1)]⟩,
  ⟨0x2065, 0x2065, 0x01, 0x01, (1, 1, 1, 1), .scal .bits32, .ro, .live, 0, []⟩,
  ⟨0x8100, 0x8100, 0x01, 0x01, (64, 4, 1, 48), .scal .u64, .wo, .live, 0, []⟩,
  ⟨0x8100, 0x8100, 0x02, 0x02, (64, 4, 1, 48), .scal .u64, .ro, .live, 0, []⟩,
  ⟨0x8100, 0x8100, 0x03, 0x08, (64, 4, 1, 48), .scal .u64, .rw, .live, 0, []⟩,
  ⟨0x8100, 0x8100, 0x09, 0x0F, (64, 4, 1, 48), .scal .u64, .ro, .live, 0, []⟩,
  ⟨0x8100, 0x8100, 0x10, 0x17, (64, 4, 1, 48), .dom 512 1, .rw, .live, 0, []⟩]

/-- Every row of the dictionary tables. -/
def dictRows : List EntrySpec :=
  dictRows1 ++ dictRows2 ++ dictRows3 ++ dictRows4 ++ dictRows5 ++ dictRows6 ++ dictRows7

/-- Whether a row defines an index (00 R536). -/
def EntrySpec.hasIdx (e : EntrySpec) (idx : Nat) : Bool :=
  if idx < e.lo then false
  else
    let x := idx - e.lo
    let w := e.hi - e.lo + 1
    let i := x / e.fam.1
    let r := if e.fam.2.1 ≤ 1 then x else x % e.fam.1
    let i := if e.fam.2.1 ≤ 1 then 0 else i
    let j := if e.fam.2.2.2 ≤ 1 then 0 else r / e.fam.2.2.1
    let r := if e.fam.2.2.2 ≤ 1 then r else r % e.fam.2.2.1
    (i < e.fam.2.1 || i == 0) && (j < e.fam.2.2.2 || j == 0) && r < w

/-- Whether a row defines an index and sub (00 R536). -/
def EntrySpec.has (e : EntrySpec) (idx sub : Nat) : Bool :=
  e.slo ≤ sub && sub ≤ e.shi && e.hasIdx idx

/-- The row that defines an entry, if one does. -/
def entrySpec (idx sub : Nat) : Option EntrySpec := dictRows.find? (fun e => e.has idx sub)

/-- Whether any row defines the index (16 R419). -/
def indexDefined (idx : Nat) : Bool := dictRows.any (fun e => e.hasIdx idx)

/-- The bytes of a scalar type (16 R420). -/
def Scal.size : Scal → Nat
  | .bool => 1 | .u8 => 1 | .u16 => 2 | .u32 => 4 | .u64 => 8 | .i32 => 4 | .i64 => 8 | .bits32 => 4

/-- The type code of the object directory (16 R437). -/
def EntryTy.code : EntryTy → Nat
  | .scal .bool => 0 | .scal .u8 => 1 | .scal .u16 => 2 | .scal .u32 => 3 | .scal .u64 => 4 | .scal .i32 => 5
  | .scal .i64 => 6 | .scal .bits32 => 7 | .vstr => 8 | .ostr _ => 9 | .time80 => 10 | .dom _ _ => 11

/-- The default value of an entry's scalar; 0 for an entry no row defines. -/
def entryDefault (idx sub : Nat) : Nat :=
  match entrySpec idx sub with
  | some e => e.dflt
  | none => 0

end Sys2Proof.Machine
end

