-- ==== Sys2Proof/Machine/Tab.lean ====
section
/-!
DEFINITION. Machine/Tab.lean: sparse tables, the one container of the model: a list of (key, value) pairs with strictly
rising keys. A table whose unlisted keys read as a default is kept canonical by `Tab.set`: it lists no entry that
equals the default, so equal tables are equal data.
-/
namespace Sys2Proof.Machine

/-- A sparse table: (key, value) pairs, keys strictly rising. -/
abbrev Tab (α : Type) := List (Nat × α)

/-- The value listed at a key. -/
def Tab.find {α : Type} : Tab α → Nat → Option α
  | [], _ => none
  | (k, v) :: t, i => if k = i then some v else Tab.find t i

/-- The value at a key; an unlisted key reads as `d`. -/
def Tab.get {α : Type} (d : α) (t : Tab α) (i : Nat) : α := (Tab.find t i).getD d

/-- The table with `v` at key `i`. -/
def Tab.put {α : Type} : Tab α → Nat → α → Tab α
  | [], i, v => [(i, v)]
  | (k, w) :: t, i, v =>
    if i < k then (i, v) :: (k, w) :: t
    else if i = k then (i, v) :: t
    else (k, w) :: Tab.put t i v

/-- The table without key `i`. -/
def Tab.erase {α : Type} (t : Tab α) (i : Nat) : Tab α := t.filter (fun e => !(e.1 == i))

/-- The table with `v` at key `i`, where an unlisted key reads as `d`: the value `d` is not listed. -/
def Tab.set {α : Type} [DecidableEq α] (d : α) (t : Tab α) (i : Nat) (v : α) : Tab α :=
  if v = d then Tab.erase t i else Tab.put t i v

/-- The keys of a table rise strictly. -/
def Tab.rising {α : Type} : Tab α → Bool
  | [] => true
  | [_] => true
  | (k, _) :: (l, w) :: t => k < l && Tab.rising ((l, w) :: t)

/-- The canonical form: keys rise strictly, and no entry equals the value that an unlisted key reads as. -/
def Tab.wf {α : Type} [DecidableEq α] (d : α) (t : Tab α) : Bool :=
  Tab.rising t && t.all (fun e => !(decide (e.2 = d)))

/-- The value of a table changed by a function. -/
def Tab.upd {α : Type} (d : α) (t : Tab α) (i : Nat) (f : α → α) : Tab α := Tab.put t i (f (Tab.get d t i))

/-- The table `a` laid over the table `b`: where both list a key, `a`'s value stands. The fuel is the sum of the lengths. -/
def Tab.lay {α : Type} : Nat → Tab α → Tab α → Tab α
  | 0, a, _ => a
  | _ + 1, [], b => b
  | _ + 1, a, [] => a
  | n + 1, (k, v) :: a, (l, w) :: b =>
    if k < l then (k, v) :: Tab.lay n a ((l, w) :: b)
    else if l < k then (l, w) :: Tab.lay n ((k, v) :: a) b
    else (k, v) :: Tab.lay n a b

/-- `n` bytes of a byte table from key `i` on; an unlisted byte reads 0. -/
def Tab.bytes (t : Tab Byte) (i : Nat) : Nat → List Byte
  | 0 => []
  | n + 1 => Tab.get 0 t i :: Tab.bytes t (i + 1) n

/-- A byte table with the bytes `l` written from key `i` on. -/
def Tab.setBytes (t : Tab Byte) (i : Nat) : List Byte → Tab Byte
  | [] => t
  | b :: l => Tab.setBytes (Tab.set 0 t i b) (i + 1) l

/-- A byte table with every key from `i` to `i + n - 1` unlisted: those bytes read 0. -/
def Tab.clearRange (t : Tab Byte) (i n : Nat) : Tab Byte := t.filter (fun e => e.1 < i || i + n ≤ e.1)

end Sys2Proof.Machine
end

