-- ==== Sys2Proof/Machine/State.lean ====
section
/-!
DEFINITION. Machine/State.lean: everything the spec gives the block, as plain data. Scalar dictionary entries and the
registers that they show live in `dict` under the key `index * 256 + sub`, with the default of the dictionary tables;
DOMAIN and OSTRING entries live in `doms` as bytes. State that no entry shows has a field of its own.
-/
namespace Sys2Proof.Machine

/-! ## Threads (06, 07, 09) -/

/-- The thread states of 09 R247; `notStarted` is a thread that the boot path has not started yet (06 R166, 09 R246). -/
inductive TState where
  | notStarted | running | taskWait | recvWait | sendWait | eventWait | lockWait | parkedFault | parkedSup | halted
  | fetchWait | sparing
deriving DecidableEq, Repr

/-- What a waiting instruction still has to do when its wait ends. -/
inductive Wait where
  | none
  | task
  | recv (rd : Reg) (ch : Nat)
  | sendWord (ch : Nat) (w : Word)
  | sendEnd (ch : Nat)
  | event (rd : Reg)
  | lock (rd : Reg) (addr : Nat) (prio : Nat)
deriving DecidableEq, Repr

/-- A store-buffer entry: the bytes of one store within one aligned 8-byte word, with the PC of the store (07 R211). -/
structure SbEntry where
  bytes : List (Nat × Byte)
  pc : Addr
deriving DecidableEq, Repr

/-- An event queue record (06 R186): KIND 1 names the faulting thread; KIND 0 names its source. -/
structure EvRec where
  kind1 : Bool
  src : Nat
  syn : Nat
deriving DecidableEq, Repr

/-- A word in a staging area or a FIFO, with the poison mark of 09 R269. -/
structure ChWord where
  w : Word
  poison : Bool
deriving DecidableEq, Repr

/-- An outstanding table operation of a thread (10 R278 to R282): the instruction, its PC, what its C register will read, and
the generation that a lookup without a task holds until then (04 R94). The operation itself is done at its confirm. -/
structure TableOp where
  instr : Instr
  pc : Addr
  val : Word
  gen : Option Nat
deriving DecidableEq, Repr

/-- The streaming detector of a thread (08 R227). -/
structure Stream where
  line : Nat
  got : List Nat
  count : Nat
  mode : Bool
deriving DecidableEq, Repr

/-- The stride prefetcher's watch on a thread (08 R231). -/
structure Stride where
  last : Nat
  stride : Int
  run : Nat
deriving DecidableEq, Repr

/-- One hardware thread: its registers (06 R163 to R166), its buffers (07, 08) and its waits, staging and fault record
(09), and how many channel waits it has entered (09 R266). The Golne controller's one thread is of the same shape, with the parts that 06
R194 leaves out unused. -/
structure Thread where
  d : Tab Word
  a : Tab Addr
  ac : Tab Acc
  c : Tab Word
  pc : Addr
  it : Bool
  tvec : Word
  epc : Word
  ecause : Word
  einst : Word
  steps : Word
  prio : Word
  evsyn : Word
  tcause : Word
  tpc : Addr
  tfpc : Addr
  st : TState
  wait : Wait
  parkAsked : Bool
  haltAsked : Nat
  haltCause : Nat
  haltFrom : TState
  resv : Option Nat
  evq : List EvRec
  sb : List SbEntry
  fetch : List Nat
  rstack : List Addr
  lines : List Nat
  stream : Stream
  stride : Stride
  staged : List (Nat × ChWord)
  stagedEnd : List Nat
  discard : List Nat
  recvBuf : List ChWord
  recvCh : Nat
  cBusy : List Nat
  tops : List TableOp
  bank : Nat
  due : Nat
  inh : Nat
  passBp : Bool
  waits : Nat
deriving DecidableEq, Repr

/-- A thread after device reset (06 R166, 07 R219, 09 R270): every register 0, every buffer empty, not started. -/
def Thread.reset : Thread :=
  { d := [], a := [], ac := [], c := [], pc := 0, it := false, tvec := 0, epc := 0, ecause := 0, einst := 0, steps := 0,
    prio := 0, evsyn := 0, tcause := 0, tpc := 0, tfpc := 0, st := .notStarted, wait := .none, parkAsked := false,
    haltAsked := 0, haltCause := 0, haltFrom := .running, resv := none, evq := [], sb := [], fetch := [], rstack := [],
    lines := [], stream := ⟨0, [], 0, false⟩, stride := ⟨0, 0, 0⟩, staged := [], stagedEnd := [], discard := [],
    recvBuf := [], recvCh := 0, cBusy := [], tops := [], bank := 0, due := 0, inh := 0, passBp := false, waits := 0 }

/-! ## Cores and clusters (07, 08) -/

/-- A cache line held by an L1 cache, a side buffer or an eviction buffer (08 R220, R230, R233): its address, its way, its
64 bytes, its dirty and poison marks, and the thread that prefetched it (side buffer). -/
structure Line where
  addr : Nat
  way : Nat
  data : List Byte
  dirty : Bool
  poison : Bool
  owner : Nat
deriving DecidableEq, Repr

/-- A merging-buffer entry (08 R228): its line, its bytes, the threads with bytes in it and the thread that allocated it. -/
structure MergeEntry where
  addr : Nat
  bytes : Tab Byte
  threads : List Nat
  owner : Nat
  poison : Bool
deriving DecidableEq, Repr

/-- One logical core: L1 and side buffer, merging and eviction buffers (08), predictor (07 R204), and the tag generator of
the sampler (19 R500). -/
structure CoreSt where
  l1 : List Line
  side : List Line
  merge : List MergeEntry
  evict : List Line
  pred : Tab Nat
  lfsr : Nat
  isolated : Bool
deriving DecidableEq, Repr

/-- A core after device reset (08 R234, 07 R219): empty caches, cleared predictor. The tag generator's seed is a free value
of Config, numbered by the state (19 R500), so it is filled at the first sample. -/
def CoreSt.reset : CoreSt :=
  { l1 := [], side := [], merge := [], evict := [], pred := [], lfsr := 0, isolated := false }

/-- An L2 entry (08 R232, R238): the line address, its data, whether the data is valid, and whether the entry is a pinned
assignment. -/
structure L2Entry where
  addr : Nat
  data : List Byte
  valid : Bool
  pinned : Bool
deriving DecidableEq, Repr

/-- One cluster: L2 entries keyed `(bank * 512 + set) * 16 + way` (08 R220), the reasons it is parked and the reasons that
Teasel holds dispatch to it (02 R49, 05 R138), and the uncorrectable marks of its instruction memory (07 R200). -/
structure ClusterSt where
  l2 : Tab L2Entry
  parked : List Nat
  hold : List Nat
  entry : Addr
  imemBad : List Nat
  started : Bool
deriving DecidableEq, Repr

/-- A cluster after device reset (08 R234). -/
def ClusterSt.reset : ClusterSt := { l2 := [], parked := [], hold := [], entry := 0, imemBad := [], started := false }

/-! ## Pipelines (07) -/

/-- An instruction of a core that has issued and not retired (07 R207, R208): its thread, the ports that may run it (0 ALU0, 1
ALU1, 2 load/store, 3 branch, 4 helper), its result tag, the registers that it writes, the tags that its reservation station
still waits for, whether it still holds the station, and the steps that its result takes once it has left the station. -/
structure Flight where
  thread : Nat
  ports : List Nat
  tag : Option Nat
  dest : List Nat
  needs : List Nat
  held : Bool
  left : Nat
deriving DecidableEq, Repr

/-- The pipeline of one logical core (07 R205 to R207): the instructions in flight, oldest first; for each priority, 1 plus the
thread last granted; for each thread, the steps in which it could issue and was not chosen; and the instruction that opened
the present step and may still be followed in it: its thread, the next PC and its word. -/
structure Pipe where
  flights : List Flight
  grants : Tab Nat
  waits : Tab Nat
  first : Option (Nat × Addr × Nat)
deriving DecidableEq, Repr

/-- A pipeline after device reset: empty (07 R219); no thread has been granted (DESIGN CHOICE, assumption 45). -/
def Pipe.reset : Pipe := { flights := [], grants := [], waits := [], first := none }

/-! ## Thread channels (09) -/

/-- A thread channel (09 R253 to R260): its FIFO of at most 4 messages, the master that holds it, the waiting senders in
the order of their slots' rotation, and whether the held-channel event of this hold has been raised. -/
structure Chan where
  fifo : List (List ChWord)
  times : List Nat
  holder : Option Nat
  lastSlot : Nat
  waiting : List Nat
  raised : Bool
deriving DecidableEq, Repr

/-- A channel after device reset: empty (09 R270). -/
def Chan.reset : Chan := { fifo := [], times := [], holder := none, lastSlot := 3, waiting := [], raised := false }

/-! ## Fault collectors (18) -/

/-- A fault collector's lists and timers (18 R466 to R470); the status words are dictionary entries. An entry of a
list is a word of R466 and whether a unit of the collector's own raised it. -/
structure Coll where
  ucc : List (Nat × Bool)
  fatal : List (Nat × Bool)
  ceTimer : Bool
  uccTimer : Bool
  fatalTimer : Bool
deriving DecidableEq, Repr

/-- A collector after device reset: empty, no timer running (18, the closing text of its dictionary table). -/
def Coll.reset : Coll := { ucc := [], fatal := [], ceTimer := false, uccTimer := false, fatalTimer := false }

/-! ## Locks (11) -/

/-- A holder table entry (11 R292): the holder's master ID, its priority, and the lock's ABANDONED bit. -/
structure Holder where
  mid : Nat
  hprio : Nat
  aban : Bool
deriving DecidableEq, Repr

/-- A waiter record (11 R294): the lock, the requester, its waiting priority, and the register of the `LKACQ` that waits;
none for a window request. -/
structure Waiter where
  key : Nat
  mid : Nat
  prio : Nat
  rd : Option Reg
  since : Nat
deriving DecidableEq, Repr

/-! ## DRAM (15) -/

/-- A read waiting in a group's read queue (15 R403 to R407). -/
structure DramReq where
  mid : Nat
  addr : Nat
  sc : Nat
  keepOpen : Bool
  promoted : Bool
  since : Nat
deriving DecidableEq, Repr

/-- A request that waits in the frozen crossing of its group (01 R29): a read, or a write with its bytes. -/
structure DramHeld where
  req : DramReq
  wr : Option (List Byte)
deriving DecidableEq, Repr

/-- A DRAM controller group: its read queue, the lines of its write buffer (the bytes are visible in memory from their
acceptance on), the open row of each bank by `position * 8 + bank`, the positions in power-down, the channels over
temperature, the copy to the spare: position and next row (15 R403 to R417), and what waits in its frozen crossing (01 R29). -/
structure DramGroup where
  reads : List DramReq
  wbuf : List Nat
  openRows : Tab Nat
  sleeping : List Nat
  hot : Nat
  copy : Option (Nat × Nat)
  held : List DramHeld
deriving DecidableEq, Repr

/-- A group after reset: empty queues, no open row, no copy (15 R416). -/
def DramGroup.reset : DramGroup :=
  { reads := [], wbuf := [], openRows := [], sleeping := [], hot := 0, copy := none, held := [] }

/-! ## Management paths (16) -/

/-- An SPDM secured session (16 R433): its number, the endpoint that opened it, whether its role is owner, and whether
FINISH has completed it. -/
structure Session where
  id : Nat
  ep : MctpEndpoint
  owner : Bool
  finished : Bool
deriving DecidableEq, Repr

/-! ## Packets, parsing and edits (03, 05, 12) -/

/-- A frame in a port's crossing, waiting for its walk (03, 14 R375): its logical port, its bytes with the FCS, its arrival
time in ns and its ingress class. -/
structure RxFrame where
  port : Nat
  bytes : List Byte
  stamp : Nat
  cls : Nat
deriving DecidableEq, Repr

/-- An offset entry of the header vector (03 R70) with what the edits need of its header: type, tunnel level, byte offset,
length, STACK kind, IPV and CSUM of its node. -/
structure Hdr where
  ty : Nat
  level : Nat
  off : Nat
  len : Nat
  stack : Nat
  ipv : Nat
  csum : Nat
deriving DecidableEq, Repr

/-- A field entry of the header vector (03 R70): field ID, value bytes, and the bits of the frame it was extracted from. -/
structure VField where
  id : Nat
  bytes : List Byte
  bit : Nat
  width : Nat
deriving DecidableEq, Repr

/-- An entry of the header vector, in walk order (03 R70, R71). -/
inductive VEnt where
  | hdr (h : Hdr)
  | field (f : VField)
deriving DecidableEq, Repr

/-- The timestamp request of a host-transmit packet (14 R386): the completion that waits (queue and number, for TS), and
for ONE_STEP the offset of the PTP header and UDP0. -/
structure TsReq where
  cpl : Option (Nat × Nat)
  oneStep : Option (Nat × Bool)
deriving DecidableEq, Repr

/-- A packet in buffers, with what its descriptor and the units carry of it (05 R136; 03 R71, R86; 13 R356; 14 R386). -/
structure Pkt where
  task : Nat
  seq : Nat
  dom : Nat
  pstat : Nat
  gen : Nat
  tstamp : Nat
  len : Nat
  src : Nat
  cls : Nat
  rule : Nat
  flags : Nat
  buf : Nat
  hq : Nat
  hash : Nat
  lenIn : Nat
  vec : List VEnt
  cow : List Byte
  edits : List Byte
  ts : Option TsReq
  copied : Bool
  home : Nat
  key : List Byte
deriving DecidableEq, Repr

/-- A lookup that a task's operand waits for (04 R102 to R104): its keys as the vector gave them at formation. -/
structure Looks where
  route : Option (Option (Bool × Nat))
  dst : Option (Option Nat)
  src : Option (Option Nat)
  port : Nat
deriving DecidableEq, Repr

/-- A task in a petal's matching store (05 R129 to R146): its packet, its ready mask, its lookups and words, its context,
the thread and slot it is in, and how far its release has come. -/
structure Task where
  id : Nat
  order : Nat
  pkt : Pkt
  mask : Nat
  late : Nat
  looks : Looks
  route : Nat
  l2 : Nat
  ctx : Nat
  ctxIdx : Option Nat
  held : Bool
  cowOp : Bool
  thr : Option Nat
  pref : Bool
  ended : Bool
  early : Bool
  strictDrop : Bool
  readyAt : Nat
  dq : Nat
  disp : Nat
  formAt : Nat
  dispAt : Nat
deriving DecidableEq, Repr

/-- A thread's task slots (05 R135, R140, R141): the bytes of the current slot, its task, whether `TKREL` has ended that
task, whether it has released, what R144 then protects (context address, first buffer), and the prefetch slot. -/
structure Slot where
  bytes : Tab Byte
  cur : Option Nat
  rel : Bool
  gone : Bool
  guardCtx : Option Nat
  guardBufs : List (Nat × Nat)
  next : Option Nat
  nextBytes : Tab Byte
deriving DecidableEq, Repr

/-- A thread's slots after reset: empty. -/
def Slot.reset : Slot :=
  { bytes := [], cur := none, rel := false, gone := false, guardCtx := none, guardBufs := [], next := none, nextBytes := [] }

/-- A buffer pool (12 R314 to R321): its count at the last carving, its list head, the buffers' states (unlisted: FRESH),
the buffers whose state word is uncorrectable, and whether its list is being rebuilt. -/
structure Pool where
  cnt : Nat
  head : Option Nat
  states : Tab Nat
  bad : List Nat
  rebuild : Bool
deriving DecidableEq, Repr

/-- A packet in an egress queue (14 R367): its place in admission order, the slots of its spill record when it is spilled
(12 R325), whether its Cowslip operation is awaited (13 R348), whether it is dropped at its queue position, by the counter
0x4C12 sub that counts it, and whether it is a witness copy. -/
structure QPkt where
  seq : Nat
  pkt : Pkt
  spill : Option (List Nat)
  cow : Bool
  doomed : Nat
  witness : Bool
  prot : Bool
deriving DecidableEq, Repr

/-- A completion of a host ring, in ring order (14 R387): tag, length, status, flags and time, and whether it may be
written yet. -/
structure Cpl where
  num : Nat
  tag : Nat
  len : Nat
  status : Nat
  flags : Nat
  hash : Nat
  src : Nat
  time : List Byte
  ready : Bool
deriving DecidableEq, Repr

/-- A hardware queue beside its object's words (14 R365 to R388): its packets, its deficit, the completions not yet written,
the numbers given so far, whether a host receive write has been granted, and the state of its interrupt holdoff (one more
than the time of its last message; 0 before the first). -/
structure QueueSt where
  pk : List QPkt
  deficit : Nat
  cpls : List Cpl
  nextSeq : Nat
  nextCpl : Nat
  started : Bool
  irqDue : Bool
  lastMsg : Nat
deriving DecidableEq, Repr

/-- A queue after reset: empty. -/
def QueueSt.reset : QueueSt :=
  { pk := [], deficit := 0, cpls := [], nextSeq := 0, nextCpl := 0, started := false,
    irqDue := false, lastMsg := 0 }

/-- A spill that a petal's engine has begun (12 R326): the victim's queue and place, and its slots. -/
structure SpillJob where
  queue : Nat
  seq : Nat
  slots : List Nat
deriving DecidableEq, Repr

/-- A learn or move event (04 R112, R114): its key (MAC * 4096 + FID), the logical port and the petal that queued it. -/
structure LearnEv where
  key : Nat
  port : Nat
  petal : Nat
deriving DecidableEq, Repr

/-- A witness copy that strict WITNESS has not accepted yet (02 R52; 05 R142, R158): the packet, the copy's bytes, and the task whose
entry of the matching store it holds; none for a packet that formed no task. -/
structure WitCopy where
  pkt : Pkt
  data : List Byte
  task : Option Nat
deriving DecidableEq, Repr

/-- A petal's packet path: the frames in its crossing, the packets to form, its matching store (05), its buffers (12), its
queues (14), its learn queue and filter (04 R114), its contexts' cache (04 R123; 12 R336), its sketch (12 R334) and its
policers' levels (14 R368), the witness copies that wait (02 R52), the operands that their timeout has overtaken, by task ID and
bit (05 R134), and the microwords of its customer banks that hold an uncorrectable error, as 4096 * bank + address (10 R290). -/
structure PetalSt where
  parseOn : Bool
  rx : List RxFrame
  form : List (Pkt × Bool)
  tasks : List Task
  order : Nat
  seqs : Tab Nat
  lasts : Tab Nat
  paused : List Nat
  storePause : Bool
  carved : Bool
  pools : Tab Pool
  owners : Tab Nat
  queues : Tab QueueSt
  spillRun : Bool
  spill : Option SpillJob
  slots : List Nat
  filter : List Nat
  ctxRes : List Nat
  ctxOld : Tab (List Byte)
  fcnt : Tab (Nat × Nat)
  sketch : Tab Nat
  marks : List Nat
  shapes : Tab Int
  pols : Tab (Nat × Nat × Nat)
  rrRx : Tab Nat
  lookGens : List Nat
  copies : List WitCopy
  lateOps : List (Nat × Nat)
  microBad : List Nat
deriving DecidableEq, Repr

/-- A petal's packet path after device reset: everything empty. -/
def PetalSt.reset : PetalSt :=
  { parseOn := false, rx := [], form := [], tasks := [], order := 0, seqs := [], lasts := [], paused := [], storePause := false,
    carved := false, pools := [], owners := [], queues := [], spillRun := false, spill := none, slots := [], filter := [],
    ctxRes := [], ctxOld := [], fcnt := [], sketch := [], marks := [], shapes := [], pols := [], rrRx := [], lookGens := [],
    copies := [], lateOps := [], microBad := [] }

/-! ## Forwarding tables (04) -/

/-- A route (04 R98): IPv6, prefix length, the prefix's bits as a number of PLEN bits, and its result. -/
structure Route where
  v6 : Bool
  plen : Nat
  bits : Nat
  result : Nat
deriving DecidableEq, Repr

/-- An L2 entry (04 R109, R110): key (MAC * 4096 + FID), port, result, STATIC, the move count, and whether it stands in the second of
its key's two buckets. -/
structure L2Ent where
  key : Nat
  port : Nat
  result : Nat
  static : Bool
  moves : Nat
  second : Bool
deriving DecidableEq, Repr

/-- The content of the tables in one generation (04 R90 to R92): the routes, the L2 entries, and the class B (table
generation) entries of 03 and 04: scalars by dictionary key, bytes of the rule stores, action lists and templates. -/
structure TabSnap where
  routes : List Route
  l2 : List L2Ent
  ent : Tab Nat
  recs : Tab Byte
deriving DecidableEq, Repr

/-- A generation's content that differs from reset nowhere: every table empty (04 R127). -/
def TabSnap.reset : TabSnap := { routes := [], l2 := [], ent := [], recs := [] }

/-- A commit that the engine has accepted and not applied yet (04 R92, R93): its generation, its content, and the L2 keys
whose timestamps and move windows start anew when it is applied (R100, R113). -/
structure Commit where
  gen : Nat
  snap : TabSnap
  stamp : List Nat
  winStart : List Nat
deriving DecidableEq, Repr

/-- The table update engine (04): the accepted commits that wait, the content of each generation that a petal may still
use, the newest first, the generation applied last, timestamps per copy by key * 4 + petal, move windows by key, learn
events, the tick count, the trie bank fills in progress (petal * 96 + stage * 8 + bank), and the overflow index: the stamp
of each overflow entry in use, by petal * 16384 + entry (04 R118, R123). -/
structure TableSt where
  queue : List Commit
  applied : Nat
  gens : List (Nat × TabSnap)
  accepted : TabSnap
  stamps : Tab Nat
  windows : Tab Nat
  flapped : List Nat
  learn : List LearnEv
  ticks : Nat
  fills : List Nat
  ovf : Tab Nat
deriving DecidableEq, Repr

/-- The update engine after device reset: generation 0, every table empty (04 R127). -/
def TableSt.reset : TableSt :=
  { queue := [], applied := 0, gens := [(0, TabSnap.reset)], accepted := TabSnap.reset, stamps := [], windows := [],
    flapped := [], learn := [], ticks := 0, fills := [], ovf := [] }

/-! ## Cowslip (13) -/

/-- A resident SA (13 R352, R353): its parameter block, its key block (never shown), its number (ingress: lowest acceptable
PN, or highest received SN; egress: the next number), the marked numbers of an ESP window, its packet count, and whether it
is stopped, draining and past its soft limit. -/
structure Sa where
  blk : List Byte
  keyBlk : List Byte
  num : Nat
  marks : List Nat
  pkts : Nat
  stopped : Bool
  draining : Bool
  softDone : Bool
deriving DecidableEq, Repr

/-- What a Cowslip operation serves (13): a task's ingress check, a queued packet's protection, or a job. -/
inductive CowFor where
  | ingress (task order : Nat)
  | egress (queue : Nat) (seq : Nat)
  | job (mid : Nat) (addr : Nat)
deriving DecidableEq, Repr

/-- A Cowslip operation (13 R343 to R361): its number, petal, owner of its slots (4: Golne), what it serves, its SA and PN or
SN, its status when it is known (0 while it is not), the blocks not yet run, the lane that runs its segment, and whether a
segment has been retried; the lane that ran the last one, whose number its accesses carry (01 R34); and what was selected at
formation: the selector word in force then (00 R15), the header's offset, and its kind, 1 MACsec or 2 ESP (13 R347). -/
structure CowOp where
  id : Nat
  petal : Nat
  owner : Nat
  srv : CowFor
  sa : Option Nat
  num : Nat
  status : Nat
  left : Nat
  lane : Option Nat
  retried : Bool
  ran : Nat
  word : Nat
  off : Nat
  kind : Nat
  since : Nat
deriving DecidableEq, Repr

/-- An operation as it is queued: no SA, no number, no status, no block. -/
def CowOp.fresh (id owner : Nat) (srv : CowFor) (since : Nat) : CowOp :=
  { id := id, petal := owner % 4, owner := owner, srv := srv, sa := none, num := 0, status := 0, left := 0, lane := none,
    retried := false, ran := 0, word := 0, off := 0, kind := 0, since := since }

/-- A cipher lane (13 R343): the blocks left of its budget and those of the segment it runs. -/
structure LaneSt where
  budget : Nat
  seg : Nat
deriving DecidableEq, Repr

/-- The Cowslip engine (13): resident SAs, operations in order of selection, lanes, the slot in progress, the library
records that this storage key has sealed: record bytes and key block by index (DESIGN CHOICE, assumption 7), and the lane isolation in
effect, which a write changes at the next frame boundary (R345). -/
structure CowSt where
  sas : Tab Sa
  ops : List CowOp
  lanes : Tab LaneSt
  slot : Nat
  nextId : Nat
  seals : Tab (List Byte × List Byte)
  iso : Nat
deriving DecidableEq, Repr

/-- Cowslip after device reset (13 R363): no SA, no operation, a new storage key. -/
def CowSt.reset : CowSt := { sas := [], ops := [], lanes := [], slot := 0, nextId := 1, seals := [], iso := 0 }


/-! ## Sorrel (18) -/

/-- A swap or repair that Sorrel runs (18 R486, R487): its unit ID, its trigger (0 escalation, 1 command, 2 CE rate, 3 wear,
4 DRAM, 5 phase), the old and the new physical index, its start time in ns, and the pool's spare record. -/
structure Swap where
  unit : Nat
  trig : Nat
  old : Nat
  new : Nat
  start : Nat
deriving DecidableEq, Repr

/-! ## Mailboxes (11) -/

/-- A mailbox (11 R308, R309): its staging and visible copies of MSG0 to MSG15, its STATUS fields,
and whether its
timeout timer runs. -/
structure Mbox where
  stage : Tab Nat
  vis : Tab Nat
  seq : Nat
  len : Nat
  timeout : Bool
  collision : Bool
  full : Bool
  timer : Bool
deriving DecidableEq, Repr

/-- A mailbox after device reset: cleared (11 R312). -/
def Mbox.reset : Mbox :=
  { stage := [], vis := [], seq := 0, len := 0, timeout := false, collision := false, full := false, timer := false }

/-! ## Journal, activation and start (17) -/

/-- What takes effect once a journal record is committed (17 R453): nothing, a live activation (R456), a permit's unlock
(19 R506), a forced release of a pinned lock (11 R303), a parse bank (03 R63) or a customer bank (10 R288) that a write
activates, or a completed start (R444 step 6). -/
inductive JEff where
  | none
  | activate
  | unlock (permit : List Byte)
  | forced (key : Nat)
  | parseBank (p : Petal) (bank : Nat)
  | custBank (p : Petal) (bank : Nat)
deriving DecidableEq, Repr

/-- A journal record that waits for its commit (17 R451, R452): the fields that its cause gives, and its effect. -/
structure JReq where
  type : Nat
  nmeas : Nat
  reason : Nat
  info : Nat
  entries : List Byte
  eff : JEff
deriving DecidableEq, Repr

/-- A live activation in progress (17 R456 to R459): its kind, its requester's master ID, its image, the targets left, and
whether the first of them is being drained. -/
structure Act where
  kind : Nat
  mid : Nat
  img : List Byte
  left : List Nat
  draining : Bool
deriving DecidableEq, Repr

/-- A bulk request that waits while Golne firmware restarts (16 R431, R435): its principal, its descriptor, and the data that
a function's buffer in host memory holds for a write. -/
structure Bulk where
  w : Writer
  desc : List Byte
  host : List Byte
deriving DecidableEq, Repr

/-- The one SDO transfer that is open (16 R428 to R430): a download or an upload, its entry, the segment form, the declared
size, the bytes collected or not yet sent and the next toggle. -/
structure Sdo where
  down : Bool
  idx : Nat
  sub : Nat
  big : Bool
  size : Nat
  data : List Byte
  toggle : Bool
deriving DecidableEq, Repr

/-- An accumulation of MCTP writes with MORE (16 R432): its endpoint, entry, first offset, and the bytes so far. -/
structure Accum where
  ep : MctpEndpoint
  idx : Nat
  sub : Nat
  off : Nat
  data : List Byte
deriving DecidableEq, Repr

/-- A transfer that waits at its stem output port, and the device time at which it came (01 R31; 05 R155). -/
structure StemWait where
  x : StemXfer
  since : Nat
deriving DecidableEq, Repr

/-! ## Outputs -/

/-- What the block sends out or answers: the model's record of its outputs, newest first (DESIGN CHOICE, assumption 11). -/
inductive Output where
  /-- A refused dictionary write or read with its abort code (16 R424). -/
  | abort (mid : Nat) (idx sub : Nat) (code : Abort)
  /-- An access fault answered to a master (01 R35 to R38). -/
  | accessFault (mid : Nat) (addr : Nat)
  /-- Data answered to a read of a master. -/
  | readData (mid : Nat) (addr : Nat) (data : List Byte)
  /-- Data answered to a read of a master, marked poisoned (15 R400). -/
  | poisonData (mid : Nat) (addr : Nat) (data : List Byte)
  /-- A frame sent at a logical port; the mark tells a bad FCS (01 R27). -/
  | frameTx (port : Nat) (frame : List Byte) (badFcs : Bool)
  /-- A PFC frame sent (05 R149): port, class mask, quanta. -/
  | pfcTx (port : Nat) (classes : Nat) (quanta : Nat)
  /-- A CAN FD frame sent (16 R428): COB-ID and bytes. -/
  | can (cob : Nat) (frame : List Byte)
  /-- An MCTP message answered (16 R432). -/
  | mctp (ep : MctpEndpoint) (msg : List Byte)
  /-- An SPDM response (16 R433): the response code and its content. -/
  | spdm (ep : MctpEndpoint) (code : Nat) (data : List Byte)
  /-- An MSI-X message (14 R388): master ID of the function and vector. -/
  | msix (fn : Nat) (vec : Nat)
  /-- A write to host memory with a function's requester ID (14 R385 to R388). -/
  | hostWrite (fn : Nat) (addr : Nat) (data : List Byte)
  /-- A read of host memory that the device issues (14 R384). -/
  | hostRead (fn : Nat) (addr : Nat) (len : Nat)
  /-- A completion answered to a host read: true for Completer Abort (16 R434). -/
  | hostCompletion (mid : Nat) (abort : Bool) (data : List Byte)
  /-- Bits shifted out at the JTAG port (19 R512). -/
  | jtag (bits : Nat) (width : Nat)
  /-- A CXL mailbox answer (14 R394): return code and payload. -/
  | cxl (code : Nat) (data : List Byte)
  /-- An edge on PPS_OUT (14 R376). -/
  | ppsOut
deriving DecidableEq, Repr

/-! ## The state -/

/-- The state of the block: everything the spec gives it. -/
structure State where
  /-- Device time in ns, the domain 13 timer (06 TIME, 00 R540). -/
  time : Nat
  /-- The commands that are waiting, first in, first out. -/
  pending : List Instr
  /-- Scalar dictionary entries by `index * 256 + sub`; unlisted: the default of the dictionary tables (16 R418). -/
  dict : Tab Nat
  /-- Bytes of DOMAIN and OSTRING entries by `(index * 256 + sub) * 2 ^ 28 + offset`; unlisted: 0, or `domDefault`. -/
  doms : Tab Byte
  /-- Memory by die address (01 R36), one entry per listed byte; unlisted: 0 (DESIGN CHOICE, assumption 5). -/
  mem : List Host.Cell
  /-- Poisoned 32-byte blocks of memory, by address / 32 (15 R400). -/
  poison : List Nat
  /-- The MODEL's counter of free values: the next number given to Config's free constants (DESIGN CHOICE, assumption 3). -/
  fresh : Nat
  /-- The MODEL's record of what the block sent, newest first (DESIGN CHOICE, assumption 11). -/
  out : List Output
  /-- Counts and once-per-window marks of the current 1 ms window (00 R540). -/
  win : Tab Nat
  /-- Threads by master ID; 0x2000 is Golne's (06, 07, 09). -/
  threads : Tab Thread
  /-- Cores by 64 * petal + 8 * cluster + core (08). -/
  cores : Tab CoreSt
  /-- Clusters by 8 * petal + cluster (02, 07, 08). -/
  clusters : Tab ClusterSt
  /-- Thread channels by 4096 * petal + number (09 R253). -/
  chans : Tab Chan
  /-- Wait groups whose declaration is suppressed (09 R266), by 8 * petal + group. -/
  census : Tab Nat
  /-- Fault collectors: petals 0 to 3, device 4 (18 R464). -/
  colls : Tab Coll
  /-- Mode transitions in progress: unit, flag bit, true for an entry (02 R49, R59). -/
  trans : List (Nat × Nat × Bool)
  /-- Staged generations by master and entry (16 R434). -/
  staged : Tab Nat
  /-- TIME80 snapshots by master and entry (16 R434). -/
  snaps : Tab (List Byte)
  /-- The step of R477 that a petal's halt has reached, by petal; unlisted: not halted. -/
  halts : Tab Nat
  /-- Petals with a latched FATAL whose halt has not begun yet (18 R477). -/
  haltDue : List Nat
  /-- Unmasked MSI-X vectors, by master ID * 2048 + vector (14 R388; DESIGN CHOICE, assumption 12). -/
  msixOpen : List Nat
  /-- Pending MSI-X vectors (14 R388). -/
  msixPend : List Nat
  /-- Master IDs of functions whose Bus Master Enable is set (14 R390). -/
  busMaster : List Nat
  /-- The holder tables of the lock units, by lock word (11 R292). -/
  holders : Tab Holder
  /-- The waiter pools of the lock units, in arrival order (11 R294). -/
  waiters : List Waiter
  /-- DRAM controller groups DG0 to DG3 (15). -/
  drams : Tab DramGroup
  /-- SPDM sessions open (16 R433). -/
  sessions : List Session
  /-- Host controllers whose PERST is asserted (14 R379, R390). -/
  perst : List Nat
  /-- The packet paths of the petals (03, 05, 12, 14). -/
  petals : Tab PetalSt
  /-- The threads' task slots, by master ID (05 R135). -/
  slots : Tab Slot
  /-- The forwarding tables and their update engine (04). -/
  tables : TableSt
  /-- The Cowslip engine (13). -/
  cow : CowSt
  /-- Received pauses in force, by logical port * 8 + class (14 R372). -/
  rxPause : List Nat
  /-- Logical ports whose egress stall has been reported and not ended (05 R156). -/
  stalled : List Nat
  /-- Own-scope mode flags in effect, by unit (device 32, petal 24 + p, cluster 6p + c) (02 R46, R49). -/
  modes : Tab Nat
  /-- One more than the requested value whose mismatch has been reported, by index (16 R427). -/
  mism : Tab Nat
  /-- Triggers in Sorrel's queue, in order of arrival: unit ID and trigger (18 R486). -/
  sorrel : List (Nat × Nat)
  /-- Swaps and repairs in progress (18 R486, R487). -/
  swaps : List Swap
  /-- Mailboxes 0 to 63 (11 R308). -/
  mboxes : Tab Mbox
  /-- Triggers of swaps that a petal's halt abandoned, queued again at its restart (18 R489). -/
  requeue : List (Nat × Nat)
  /-- Repair rows used of an SRAM macro, by unit ID (01 R39, 18 R487). -/
  repairs : Tab Nat
  /-- Corrected errors within the CE window: unit ID and time (18 R484). -/
  ceTimes : List (Nat × Nat)
  /-- Uncorrectable DRAM errors within the CE window: position, row, time (18 R484). -/
  ueTimes : List (Nat × Nat × Nat)
  /-- Physical units whose wear warning has been raised, by their place in the spare map (18 R485). -/
  wearWarned : List Nat
  /-- Records written to the swap log so far (18, 0x2302.00). -/
  swapLogged : Nat
  /-- What is subtracted of a counter's running total (19 R498), by block * 1024 + counter; unlisted: 0. -/
  cntBase : Tab Int
  /-- Journal records that wait for their commit, in the arbiter's order (17 R453). -/
  journal : List JReq
  /-- The hash of the previous journal record, kept in MRAM (17 R453; DEDUCED, assumption 19). -/
  lastHash : List Byte
  /-- Sequence numbers of the records in the hold store (17 R455). -/
  heldSeqs : List Nat
  /-- The Golne firmware slot that MRAM marks active: GOLNE_B (17 R444; DEDUCED, assumption 19). -/
  golneB : Bool
  /-- Golne firmware restarts and is not in service (16 R431, 18 R481). -/
  golneDown : Bool
  /-- The live activation in progress (17 R456). -/
  act : Option Act
  /-- MINIMAL was requested in the device mode word when this start began (17 R448). -/
  minStart : Bool
  /-- DRAM is left unused after a training failure under MINIMAL (17 R445). -/
  noDram : Bool
  /-- Event sources and syndromes raised at the next start (20 R519 to R531). -/
  nextRaise : List (Nat × Nat)
  /-- The last accepted PSEQ, kept in MRAM (19 R505; DEDUCED, assumption 19). -/
  pseq : Nat
  /-- The measurement of the permit in force; empty while Tansy is locked (17 R461). -/
  unlockMeas : List Byte
  /-- The time at which the unlock's duration runs out (19 R506). -/
  unlockEnd : Nat
  /-- The petal mask of the permit in force (19 R505). -/
  unlockPetals : Nat
  /-- Golden Golne firmware has failed verification; the ROM repeats step 1 (17 R448). -/
  romStuck : Bool
  /-- A failed MINIMAL start waits for its retry (17 R448). -/
  minRetry : Bool
  /-- The module's power: 0 off, 1 VIN applied, 2 standby good (20 R516, R529). -/
  power : Nat
  /-- The unacknowledged dump of each slot: its DUMPNO, by petal; MRAM marks a dump pending while there is one (18 R490). -/
  dumps : Tab Nat
  /-- The syndrome of source 0x15F that MRAM holds for the next start (18 R482). -/
  rootSyn : Option Nat
  /-- Isolated stem crossbar ports, in the order of 01 R30's list: petals 0 to 3, DG0 to DG3, H0, H1, Cowslip, Golne, table engine (18 R480). -/
  isoPorts : List Nat
  /-- Petals halted and when, for the limit of 18 R479. -/
  haltTimes : List (Nat × Nat)
  /-- Halted petals whose restart Golne firmware has asked for while the dump runs (18 R479). -/
  restartAsked : List Nat
  /-- Clock domains whose clock is lost, 1 to 18 (01 R29). -/
  frozen : List Nat
  /-- The CAN controller is error passive or bus-off (16 R436). -/
  canErr : Bool
  /-- The limit that the power cap sets on each rail's target, petals 0 to 3 and the stem; unlisted: 0x0640 (20 R518). -/
  capLimit : Tab Nat
  /-- Clusters parked, or held for parking, for the power cap, by 6 * petal + cluster, in order (20 R518). -/
  capParked : List Nat
  /-- The limit that throttling sets on every rail's target (20 R526). -/
  heatLimit : Nat
  /-- After an overvoltage cut-off or a rail fault the module waits for HP_EN to fall and rise (20 R521). -/
  railLock : Bool
  /-- Consecutive readings below the pace floor, by the monitor's entry, index * 256 + sub (01 R26). -/
  paceLow : Tab Nat
  /-- Consecutive readings back above the floor of each monitor that holds its rail at 0.90 V, by its entry (20 R523). -/
  boost : Tab Nat
  /-- Bulk requests that wait while Golne firmware restarts, in the order submitted (16 R435). -/
  bulk : List Bulk
  /-- The SDO transfer that is open (16 R428). -/
  sdo : Option Sdo
  /-- Accumulations of MCTP writes, by endpoint (16 R432). -/
  accums : List Accum
  /-- The EID of each MCTP binding: 0 SMBus, 1 H0, 2 H1; 0 until it is set (16, before R432). -/
  eids : Tab Nat
  /-- The level of the pin DBG_EN_N: while it is high, PERMIT, DICT and MEM act as BYPASS (19 R512; DESIGN CHOICE, assumption 25). -/
  dbgEnHigh : Bool
  /-- The JTAG instruction register (19 R512). -/
  tapIr : Nat
  /-- The boundary-scan cells (19 R512). -/
  tapPins : List Bool
  /-- EXTEST drives the pins from the boundary-scan cells (19 R512). -/
  tapDrive : Bool
  /-- What Capture-DR of DICT returns: the last access's data, DONE and status (19 R512). -/
  tapDict : Nat
  /-- What Capture-DR of MEM returns (19 R512). -/
  tapMem : Nat
  /-- Transfers that wait at a stem output port, oldest first (01 R31). -/
  stem : List StemWait
  /-- The input port that a stem output port served last, by output port * 16 + credit class (01 R31). -/
  stemRr : Tab Nat
  /-- Words that wait in the frozen crossing into a clock domain, with their parity, by domain (01 R29). -/
  cross : Tab (List (CrossXfer × Bool))
  /-- Bytes of the MSI-X tables as written, by master ID * 2 ^ 15 + offset (14 R381). -/
  msixTab : Tab Byte
  /-- The target of each core rail, 0 to 3 of the petals and 4 of the stem, at which a pace reading last found it (20 R522). -/
  paceSet : Tab Nat
  /-- The pipelines of the cores, by core key (07 R205 to R207). -/
  pipes : Tab Pipe
  /-- The 8-byte words of L2 scratch and of packet data that hold an uncorrectable error, as memory keys divided by 8 (08 R245, 12 R337). -/
  scratchBad : List Nat
  /-- The device time at which each histogram unit was last enabled, by its entry's index (19 R503). -/
  histOn : Tab Nat
  /-- For each petal, the FATAL, UCC and CE words and the UCC list of its collector as they stood at its last halt (18 R491). -/
  haltWords : Tab (List Byte)
deriving DecidableEq, Repr

/-- The machine right after device reset (00 R7, 02 R60 and each chapter's reset rule), nothing pending. -/
def State.reset : State :=
  { time := 0,
    pending := [],
    dict := [],
    doms := [],
    mem := [],
    poison := [],
    fresh := 0,
    out := [],
    win := [],
    threads := [],
    cores := [],
    clusters := [],
    chans := [],
    census := [],
    colls := [],
    trans := [],
    staged := [],
    snaps := [],
    halts := [],
    haltDue := [],
    msixOpen := [],
    msixPend := [],
    busMaster := [],
    holders := [],
    waiters := [],
    drams := [],
    sessions := [],
    perst := [],
    petals := [],
    slots := [],
    tables := TableSt.reset,
    cow := CowSt.reset,
    rxPause := [],
    stalled := [],
    modes := [],
    mism := [],
    sorrel := [],
    swaps := [],
    mboxes := [],
    requeue := [],
    repairs := [],
    ceTimes := [],
    ueTimes := [],
    wearWarned := [],
    swapLogged := 0,
    cntBase := [],
    journal := [],
    lastHash := List.replicate 48 0,
    heldSeqs := [],
    golneB := false,
    golneDown := false,
    act := none,
    minStart := false,
    noDram := false,
    nextRaise := [],
    pseq := 0,
    unlockMeas := [],
    unlockEnd := 0,
    unlockPetals := 0,
    romStuck := false,
    minRetry := false,
    power := 2,
    dumps := [],
    rootSyn := none,
    isoPorts := [],
    haltTimes := [],
    restartAsked := [],
    frozen := [],
    canErr := false,
    capLimit := [],
    capParked := [],
    heatLimit := 0x0640,
    railLock := false,
    paceLow := [],
    boost := [],
    bulk := [],
    sdo := none,
    accums := [],
    eids := [],
    dbgEnHigh := false,
    tapIr := 1,
    tapPins := [],
    tapDrive := false,
    tapDict := 0,
    tapMem := 0,
    stem := [],
    stemRr := [],
    cross := [],
    msixTab := [],
    paceSet := [],
    pipes := [],
    scratchBad := [],
    histOn := [],
    haltWords := [] }

/-! ## Faults and refusals -/

/-- Why a step stops with a fault. No command of this block ends so: the spec gives every command an effect. -/
inductive Fault where
  /-- Never raised by a command (kept so that the type is inhabited): safe. -/
  | never
deriving DecidableEq, Repr

/-- Why a step refuses a command. -/
inductive Refusal where
  /-- A command that the model gives no meaning: raised only by an arm of Dispatch.lean; safe. -/
  | notModelled (mnemonic : String)
deriving DecidableEq, Repr

/-- The outcome of a command's meaning. -/
abbrev Out := Host.Outcome State Fault Refusal

end Sys2Proof.Machine
end

