-- ==== Sys2Proof/Machine/Ops.lean ====
section
/-!
DEFINITION. Machine/Ops.lean: the named operations over the dictionary, the DOMAIN bytes, memory, threads and free
values, and the raise of an event source (18 R465 to R476), on which every meaning rests.
-/
namespace Sys2Proof

/-! ## Identities (00 R18, 01 R33) -/

/-- The master ID of a core thread (00 R18). -/
def ThreadId.mid (t : ThreadId) : Nat := t.p.val * 1024 + t.c.val * 128 + t.k.val * 16 + t.t.val

/-- The logical core number 0 to 47 in the petal (09, before R248). -/
def ThreadId.lc (t : ThreadId) : Nat := 8 * t.c.val + t.k.val

/-- The core of a thread. -/
def ThreadId.core (t : ThreadId) : CoreId := ⟨t.p, t.c, t.k⟩

/-- The key of a core in `State.cores`. -/
def CoreId.key (k : CoreId) : Nat := 64 * k.p.val + 8 * k.c.val + k.k.val

/-- The logical core number 0 to 47 of a core. -/
def CoreId.lc (k : CoreId) : Nat := 8 * k.c.val + k.k.val

/-- Thread `t` of a core. -/
def CoreId.thread (k : CoreId) (t : Thr) : ThreadId := ⟨k.p, k.c, k.k, t⟩

/-- The supervisor of a thread's core (00 R18). -/
def ThreadId.sup (t : ThreadId) : ThreadId := { t with t := 0 }

/-- The master ID of a principal (01 R33, 16 R537). -/
def Writer.mid : Writer → Nat
  | .core t => t.mid
  | .golne a => 0x2000 + a.val
  | .debugger pcie => 0x3000 + 0x800 * b2n pcie
  | .bar2 pf => 0x1000 + pf.val
  | .smbus eid _ => 0x2003 + 4 + eid.toNat * 16
  | .vdm pf _ => 0x1000 + pf.val
  | .can => 0x2003

end Sys2Proof

namespace Sys2Proof.Machine

/-! ## The dictionary's scalars (16 R418) -/

/-- The key of a dictionary entry. -/
def dk (idx sub : Nat) : Nat := idx * 256 + sub

/-- The value of a scalar entry; an entry never written reads its default (16 R418). -/
def State.dget (s : State) (idx sub : Nat) : Nat := Tab.get (entryDefault idx sub) s.dict (dk idx sub)

/-- The state with a scalar entry set; the default is not listed. -/
def State.dset (s : State) (idx sub v : Nat) : State :=
  { s with dict := Tab.set (entryDefault idx sub) s.dict (dk idx sub) v }

/-- A U64 counter entry advanced by `n`, modulo 2^64. -/
def State.bumpBy (s : State) (idx sub n : Nat) : State := s.dset idx sub ((s.dget idx sub + n) % 2 ^ 64)

/-- A U64 counter entry advanced by 1. -/
def State.bump (s : State) (idx sub : Nat) : State := s.bumpBy idx sub 1

/-- The index of a petal's entry: its petal 0 index plus 0x400 for each petal (01 R21). -/
def pix (base : Nat) (p : Petal) : Nat := base + 0x400 * p.val

/-! ## DOMAIN and OSTRING bytes -/

/-- The key of a byte of a DOMAIN or OSTRING entry. -/
def domKey (idx sub off : Nat) : Nat := dk idx sub * 2 ^ 28 + off

/-- The kind of an event source: 0 event, 1 CE, 2 UCC, 3 FATAL, as the event tables of the chapters give it (18 R465). -/
def srcKind (src : Nat) : Nat :=
  if src = 0x022 || src = 0x042 || src = 0x0B8 || (0x118 ≤ src && src ≤ 0x11B) then 1
  else if (0x140 ≤ src && src ≤ 0x143) || src = 0x15F then 3
  else if src = 0x023 || src = 0x025 || src = 0x026 || src = 0x027 || (0x034 ≤ src && src ≤ 0x037) || src = 0x043
      || src = 0x04E || (0x05C ≤ src && src ≤ 0x05F) || (0x06C ≤ src && src ≤ 0x07B) || (0x080 ≤ src && src ≤ 0x083)
      || (0x08C ≤ src && src ≤ 0x08F) || src = 0x09B || (0x0A4 ≤ src && src ≤ 0x0A7) || (0x0AC ≤ src && src ≤ 0x0AF)
      || src = 0x0B7 || src = 0x0B9 || (0x110 ≤ src && src ≤ 0x113) || (0x11C ≤ src && src ≤ 0x123) || src = 0x14F then 2
  else 0

/-- The fixed page class of a page of DRAM, general, if it has one (08 R222). -/
def fixedPage (i : Nat) : Option Nat :=
  let a := i * 0x200000
  if (0xD30000000 ≤ a && a ≤ 0xDAFFFFFFF) || (0xDB8000000 ≤ a && a ≤ 0xDB87FFFFF) then some 1
  else if (0xDB0000000 ≤ a && a ≤ 0xDB7FFFFFF) || (0xDB8800000 ≤ a && a ≤ 0xDBFFFFFFF) then some 2
  else none

/-- The physical units of the spare map, in its order (18, 0x2303.00; DEDUCED, assumption 18): the unit ID that unit `r` serves as
manufactured, none for a spare, and its physical index. Kinds 1 to 7 follow one another. -/
def mapUnit (r : Nat) : Option Nat × Nat :=
  let nine := fun (k q : Nat) (i : Nat) => if i < 8 then some (k + q + i) else none
  if r < 432 then
    let i := r % 216
    let q := i / 9
    (nine ((r / 216 + 1) * 2 ^ 28) (q / 6 * 2 ^ 26 + q % 6 * 2 ^ 23) (i % 9), i % 9)
  else if r < 864 then
    let i := r - 432
    let q := i / 9
    (nine (3 * 2 ^ 28) (q / 12 * 2 ^ 26 + q % 12 * 2 ^ 16) (i % 9), i % 9)
  else if r < 900 then
    let i := r - 864
    (nine (4 * 2 ^ 28) (i / 9 * 8) (i % 9), i % 9)
  else if r < 918 then
    let i := r - 900
    (if i < 16 then some (5 * 2 ^ 28 + i) else none, i)
  else if r < 932 then
    let i := r - 918
    (if i < 12 then some (6 * 2 ^ 28 + i) else none, i)
  else
    let i := r - 932
    (if i % 17 < 16 then some (7 * 2 ^ 28 + i / 17 * 2 ^ 16 + i % 17) else none, i % 17)

/-- The units of the spare map: 216 cores, 216 instruction-memory banks, 432 trie banks, 36 DRAM channels, 18 lanes, 14
phases, 221 stem slices (01 R39). -/
def mapUnits : Nat := 1153

/-- The place in the spare map of worn-monitored unit `w` of the wear table (18 R485): cores, trie banks, lanes, slices. -/
def wornUnit (w : Nat) : Nat := if w < 216 then w else if w < 666 then (if w < 648 then w + 216 else w + 252) else w + 266

/-- The bytes of a spare map record as manufactured. -/
def mapRecord (r : Nat) : List Byte :=
  let u := mapUnit r
  leBytes 4 (u.1.getD 0) ++ [if u.1.isNone then 1 else 0, BitVec.ofNat 8 u.2, 0, 0]

/-- What a byte of a DOMAIN entry reads before anything is written: 0, but for the route table (18 R474: LOG 1 for every
source, GOLNE 1 for CE, UCC and FATAL), the keys drawn at reset (05 R130, 12 R334), a queue object's limits and weight
(14 R365), the page attribute table's fixed pages (08 R222), the spare map as manufactured (18) and the phase table (20). -/
def domDefault (idx sub off : Nat) : Byte :=
  if idx = 0x2400 && sub = 0 then
    if off % 8 = 7 then (if srcKind (off / 8) = 0 then 0x20 else 0x60) else 0
  else if (0x3000 ≤ idx && idx < 0x4000) && (((idx - 0x3000) % 0x400 = 0x201 && (sub = 1 || sub = 2)) ||
      ((idx - 0x3000) % 0x400 = 0x3A6 && sub = 5)) then Config.drawn (domKey idx sub off)
  else if 0x6000 ≤ idx && idx < 0x7000 then
    if off = 9 then 1 else if off = 11 then 4 else if off = 12 then 1 else 0
  else if idx = 0x2030 && sub = 0 then
    BitVec.ofNat 8 (((List.range 4).map (fun j => ((fixedPage (off * 4 + j)).getD 0) * 4 ^ j)).sum)
  else if idx = 0x2303 && sub = 0 then
    if off / 8 < mapUnits then (mapRecord (off / 8)).getD (off % 8) 0 else 0
  else if idx = 0x2304 && sub = 0 then
    (let r := wornUnit (off / 16)
     if mapUnits ≤ r then 0
     else if off % 16 < 4 then (leBytes 4 ((mapUnit r).1.getD 0)).getD (off % 16) 0
     else if off % 16 < 6 then Config.drawn (domKey idx sub off) else 0)
  else if idx = 0x2063 && sub = 0 then
    (if off % 8 = 0 then (if off / 8 < 12 then BitVec.ofNat 8 (off / 8) else 0xFF)
     else if off % 8 = 1 then (if off / 8 < 12 then 0 else 1) else 0)
  else 0

/-- One byte of a DOMAIN or OSTRING entry. -/
def State.domByte (s : State) (idx sub off : Nat) : Byte :=
  Tab.get (domDefault idx sub off) s.doms (domKey idx sub off)

/-- `n` bytes of a DOMAIN or OSTRING entry from an offset on. -/
def State.domRead (s : State) (idx sub off : Nat) : Nat → List Byte
  | 0 => []
  | n + 1 => s.domByte idx sub off :: s.domRead idx sub (off + 1) n

/-- Bytes written into a DOMAIN or OSTRING entry from an offset on. -/
def State.domWrite (s : State) (idx sub off : Nat) : List Byte → State
  | [] => s
  | b :: l =>
    State.domWrite { s with doms := Tab.set (domDefault idx sub off) s.doms (domKey idx sub off) b } idx sub (off + 1) l

/-- A little-endian number of `n` bytes of a DOMAIN entry. -/
def State.domNat (s : State) (idx sub off n : Nat) : Nat := leNat (s.domRead idx sub off n)

/-- Every byte of a DOMAIN entry at an offset of at least `off` and below `off + n` back at its default. -/
def State.domClear (s : State) (idx sub off n : Nat) : State :=
  { s with doms := Tab.clearRange s.doms (domKey idx sub off) n }

/-! ## Memory -/

/-- What a byte of memory that nothing has written reads as: 0 (DESIGN CHOICE, assumption 5). -/
def memDefault : Byte := 0

/-- One byte of memory. -/
def State.memByte (s : State) (a : Nat) : Byte := Tab.get memDefault s.mem a

/-- The memory's canonical form: addresses rise strictly and no entry equals `memDefault`. -/
def Memory.wf (m : List Host.Cell) : Bool := Tab.wf memDefault m

/-- `n` bytes of memory. -/
def State.memRead (s : State) (a : Nat) : Nat → List Byte
  | 0 => []
  | n + 1 => s.memByte a :: s.memRead (a + 1) n

/-- The memory with one byte written. -/
def memPut (m : List Host.Cell) (a : Nat) (b : Byte) : List Host.Cell := Tab.set memDefault m a b

/-- The memory with bytes written from an address on. -/
def memPutAll (m : List Host.Cell) (a : Nat) : List Byte → List Host.Cell
  | [] => m
  | b :: l => memPutAll (memPut m a b) (a + 1) l

/-- The state with bytes written to memory from an address on. -/
def State.memWrite (s : State) (a : Nat) (l : List Byte) : State := { s with mem := memPutAll s.mem a l }

/-- The memory with listed (address, byte) pairs written. -/
def memPutPairs (m : List Host.Cell) : List (Nat × Byte) → List Host.Cell
  | [] => m
  | (a, b) :: l => memPutPairs (memPut m a b) l

/-- A little-endian number of `n` bytes of memory. -/
def State.memNat (s : State) (a n : Nat) : Nat := leNat (s.memRead a n)

/-- The memory with every byte of a range back at `memDefault`. -/
def State.memClear (s : State) (a n : Nat) : State := { s with mem := Tab.clearRange s.mem a n }

/-- The die address of packet buffer byte `off` of petal `p` (01 R36). -/
def pbAddr (p off : Nat) : Nat := 0x002080000000 + 0x02000000 * p + off

/-- The internal key of a byte of cluster `c`'s L2 scratch, which has no address of its own in the map (01 R36). -/
def scratchAddr (p c off : Nat) : Nat := 2 ^ 48 + (6 * p + c) * 0x200000 + off

/-- The die address of byte `off` of a cluster's instruction memory, in the Golne controller's window (01 R36). -/
def imemAddr (p c off : Nat) : Nat := 0x001100000000 + 0x40000 * (6 * p + c) + off

/-! ## Free values, outputs, window counts -/

/-- The next number for a free value. -/
def State.tick (s : State) : State := { s with fresh := s.fresh + 1 }

/-- The state with an output recorded. -/
def State.emit (s : State) (o : Output) : State := { s with out := o :: s.out }

/-- The count of a key in the current 1 ms window (00 R540). -/
def State.winGet (s : State) (k : Nat) : Nat := Tab.get 0 s.win k

/-- The state with a window count advanced (00 R540). -/
def State.winBump (s : State) (k : Nat) : State := { s with win := Tab.set 0 s.win k (s.winGet k + 1) }

/-! ## Identities -/

/-- The core thread that a master ID names, if it names one (00 R18, 01 R35). -/
def threadOf (m : Nat) : Option ThreadId :=
  if h : m < 4096 ∧ (m / 128) % 8 < 6 ∧ (m / 8) % 2 = 0 then
    some ⟨⟨m / 1024, by omega⟩, ⟨(m / 128) % 8, h.2.1⟩, ⟨(m / 16) % 8, by omega⟩, ⟨m % 8, by omega⟩⟩
  else none

/-- The key of a hart in `State.threads`: its master ID (00 R18, 01 R33). -/
def hartKey : Hart → Nat
  | .thr t => t.mid
  | .golne => 0x2000

/-- The key of a cluster in `State.clusters`. -/
def clKey (p : Petal) (c : Cluster) : Nat := 8 * p.val + c.val

/-- The index of a cluster's pipeline entry (07, Pipeline control). -/
def pipeIdx (p : Petal) (c : Cluster) : Nat := 0x3320 + 0x400 * p.val + c.val

/-- The index of a cluster's cache entry (08, after R245). -/
def cacheIdx (p : Petal) (c : Cluster) : Nat := 0x3328 + 0x400 * p.val + c.val

/-- The index of a core's entry (09, before R248). -/
def coreIdx (p : Petal) (lc : Nat) : Nat := 0x3350 + 0x400 * p.val + lc

/-! ## Threads, cores, clusters -/

/-- A thread's record. -/
def State.thr (s : State) (h : Hart) : Thread := Tab.get Thread.reset s.threads (hartKey h)

/-- The state with a thread's record replaced. -/
def State.setThr (s : State) (h : Hart) (t : Thread) : State := { s with threads := Tab.put s.threads (hartKey h) t }

/-- The state with a thread's record changed. -/
def State.updThr (s : State) (h : Hart) (f : Thread → Thread) : State := s.setThr h (f (s.thr h))

/-- A core's record. -/
def State.core (s : State) (k : CoreId) : CoreSt := Tab.get CoreSt.reset s.cores k.key

/-- The state with a core's record changed. -/
def State.updCore (s : State) (k : CoreId) (f : CoreSt → CoreSt) : State :=
  { s with cores := Tab.put s.cores k.key (f (s.core k)) }

/-- A cluster's record. -/
def State.clus (s : State) (p : Petal) (c : Cluster) : ClusterSt := Tab.get ClusterSt.reset s.clusters (clKey p c)

/-- The state with a cluster's record changed. -/
def State.updClus (s : State) (p : Petal) (c : Cluster) (f : ClusterSt → ClusterSt) : State :=
  { s with clusters := Tab.put s.clusters (clKey p c) (f (s.clus p c)) }

/-- Data register `r` of a hart (06 R163). -/
def State.dreg (s : State) (h : Hart) (r : Reg) : Word := Tab.get 0 (s.thr h).d r.val

/-- Address register `r` of a hart (06 R163). -/
def State.areg (s : State) (h : Hart) (r : Reg) : Addr := Tab.get 0 (s.thr h).a r.val

/-- Accumulator `n` of a hart (06 R163). -/
def State.acc (s : State) (h : Hart) (n : Fin 4) : Acc := Tab.get 0 (s.thr h).ac n.val

/-- C register `n` of a hart (10 R278). -/
def State.creg (s : State) (h : Hart) (n : CReg) : Word := Tab.get 0 (s.thr h).c n.val

/-- A thread with a data register written. -/
def Thread.setD (t : Thread) (r : Reg) (v : Word) : Thread := { t with d := Tab.set 0 t.d r.val v }
/-- A thread with an address register written. -/
def Thread.setA (t : Thread) (r : Reg) (v : Addr) : Thread := { t with a := Tab.set 0 t.a r.val v }
/-- A thread with an accumulator written. -/
def Thread.setAc (t : Thread) (n : Fin 4) (v : Acc) : Thread := { t with ac := Tab.set 0 t.ac n.val v }
/-- A thread with a C register written. -/
def Thread.setC (t : Thread) (n : Nat) (v : Word) : Thread := { t with c := Tab.set 0 t.c n v }

/-- The state with a data register written (06 R163). -/
def State.setD (s : State) (h : Hart) (r : Reg) (v : Word) : State := s.updThr h (fun t => t.setD r v)
/-- The state with an address register written (06 R163). -/
def State.setA (s : State) (h : Hart) (r : Reg) (v : Addr) : State := s.updThr h (fun t => t.setA r v)
/-- The state with an accumulator written (06 R163). -/
def State.setAc (s : State) (h : Hart) (n : Fin 4) (v : Acc) : State := s.updThr h (fun t => t.setAc n v)

/-- A syndrome that the spec does not lay out: a free value (DESIGN CHOICE, assumption 3). -/
def State.anySyn (s : State) : Nat := (Config.freeWord s.fresh).toNat % 2 ^ 19

/-! ## Mode words read by the core (02 R43, R46) -/

/-- The dictionary index of a mode word (02, its dictionary table). -/
def modeIdx : ModeUnit → Nat
  | .device => 0x2000
  | .petal p => 0x3000 + 0x400 * p.val
  | .cluster p c => 0x3001 + 0x400 * p.val + c.val

/-- The key of a mode unit: device 32, petal 24 + p, cluster 6p + c. -/
def modeKey : ModeUnit → Nat
  | .device => 32
  | .petal p => 24 + p.val
  | .cluster p c => 6 * p.val + c.val

/-- A flag of a unit's actual mode word (02 R46). -/
def modeOn (s : State) (u : ModeUnit) (bit : Nat) : Bool := bitOf (s.dget (modeIdx u) 2) bit

/-- A flag of a unit's requested mode word (02 R43). -/
def modeReq (s : State) (u : ModeUnit) (bit : Nat) : Bool := bitOf (s.dget (modeIdx u) 1) bit

/-- DETERMINISTIC in effect for a cluster. -/
def detOn (s : State) (p : Petal) (c : Cluster) : Bool := modeOn s (.cluster p c) 1

/-- DEBUG in effect for a cluster. -/
def debugOn (s : State) (p : Petal) (c : Cluster) : Bool := modeOn s (.cluster p c) 5

/-! ## Pipelines (07) -/

/-- A core's pipeline. -/
def State.pipe (s : State) (k : CoreId) : Pipe := Tab.get Pipe.reset s.pipes k.key

/-- The state with a core's pipeline replaced. -/
def State.setPipe (k : CoreId) (p : Pipe) (s : State) : State := { s with pipes := Tab.put s.pipes k.key p }

/-- A thread's instructions in flight have retired or are discarded, and their stations and tags are free (07 R209, R219). -/
def Pipe.drop (p : Pipe) (t : Nat) : Pipe := { p with flights := p.flights.filter (fun f => f.thread != t) }

/-! ## The threads of a core and a cluster -/

/-- The cores of a cluster. -/
def coresOf (p : Petal) (c : Cluster) : List CoreId :=
  [(0 : Core), 1, 2, 3, 4, 5, 6, 7].map (fun k => ⟨p, c, k⟩)

/-- The threads of a core. -/
def threadsOf (k : CoreId) : List ThreadId := [(0 : Thr), 1, 2, 3, 4, 5, 6, 7].map (fun t => k.thread t)

/-- The threads of a cluster. -/
def clusterThreads (p : Petal) (c : Cluster) : List ThreadId := (coresOf p c).flatMap threadsOf

/-! ## The end of a wait (07 R209, R217) -/

/-- A thread leaves its wait with its instruction complete: the PC moves on (09 R255 to R257). One that is halted or stopped for
sparing with a lock request queued stays stopped, and no longer waits (11 R296, R301). -/
def Thread.doneWait (t : Thread) : Thread :=
  { t with
    st := if t.st = .halted || t.st = .sparing then t.st else .running
    haltFrom := if t.haltFrom = .lockWait then .running else t.haltFrom
    wait := .none, pc := t.pc + 4, steps := t.steps + 1 }

/-- The instruction of a hart that waits completes: it retires and is counted (07 R209, R210); under DETERMINISTIC its thread
issues at its next own step, which lies a free number of steps on (07 R217; DESIGN CHOICE, assumption 10). -/
def waitDone (h : Hart) (s : State) : State :=
  let s := s.updThr h Thread.doneWait
  match h with
  | .golne => s
  | .thr t =>
    let s := s.bump (pipeIdx t.p t.c) 2
    if detOn s t.p t.c then
      (s.updThr h (fun x => { x with due := s.dget (pipeIdx t.p t.c) 0x0A + 1 + Config.freeChoice s.fresh })).tick
    else s

/-! ## MSI-X (14 R388) -/

/-- Raises a vector of a function: a message where its mask bit is clear and its function may master the bus, else its
pending bit (14 R388, R390). -/
def msix (fn vec : Nat) (s : State) : State :=
  let k := fn * 2048 + vec
  if s.msixOpen.contains k && s.busMaster.contains fn then s.emit (.msix fn vec)
  else if s.msixPend.contains k then s else { s with msixPend := k :: s.msixPend }

/-! ## Event delivery (06 R186, 18 R474 to R476) -/

/-- The 64-bit record that `EVWAIT` returns (06 R186). -/
def EvRec.word (e : EvRec) : Word :=
  BitVec.ofNat 64 (if e.kind1 then (e.syn % 2 ^ 19) * 2 ^ 32 + (e.src % 8) * 2 ^ 11 + 2 ^ 9
    else (e.syn % 2 ^ 19) * 2 ^ 32 + e.src % 512)

/-- Hands the oldest record of a hart's event queue to the `EVWAIT` that waits for it (06 R185, R186). -/
def wakeEvent (h : Hart) (s : State) : State :=
  let t := s.thr h
  match t.st, t.wait, t.evq with
  | .eventWait, .event rd, e :: q =>
    waitDone h (s.setThr h { t.setD rd e.word with evsyn := BitVec.ofNat 64 (e.syn % 2 ^ 19), evq := q })
  | _, _, _ => s

/-- The places of a hart's queue for KIND 0 records: 16 of a thread, 256 of Golne firmware (18 R475). -/
def evPlaces : Hart → Nat
  | .thr _ => 16
  | .golne => 256

/-- Puts a KIND 0 record into a hart's queue; a pending record of its source takes the new syndrome; a record that finds
the queue full of distinct sources is dropped and counted (18 R475). The mark tells whether it was dropped. -/
def pushEv (h : Hart) (src syn : Nat) (s : State) : State × Bool :=
  let t := s.thr h
  if t.evq.any (fun e => !e.kind1 && e.src == src) then
    (s.setThr h { t with evq := t.evq.map (fun e => if !e.kind1 && e.src == src then { e with syn := syn } else e) }, false)
  else if (t.evq.filter (fun e => !e.kind1)).length < evPlaces h then
    (wakeEvent h (s.setThr h { t with evq := t.evq ++ [⟨false, src, syn⟩] }), false)
  else (s.bump 0x2400 3, true)

/-- Queues a KIND 1 notification of a faulting thread at its supervisor (06 R190, 18 R475). A thread holds at most one recorded
fault: a pending notification of its own, of a record that has ended since, takes the new cause in its place, so at most
seven are pending (DEDUCED, assumption 46). -/
def pushFaultNote (t : ThreadId) (cause : Nat) (s : State) : State :=
  let h := Hart.thr t.sup
  let own := fun (e : EvRec) => e.kind1 && e.src == t.t.val
  let put := fun (q : List EvRec) =>
    if q.any own then q.map (fun e => if own e then { e with syn := cause % 256 } else e)
    else q ++ [⟨true, t.t.val, cause % 256⟩]
  wakeEvent h (s.updThr h (fun x => { x with evq := put x.evq }))

/-- Writes a raise to the event log's ring (18 R476). -/
def logEvent (src syn : Nat) (s : State) : State :=
  let c := s.dget 0x2400 4
  let slot := c % 4096
  (s.domWrite 0x2400 1 (slot * 16)
    (leBytes 2 src ++ [BitVec.ofNat 8 (srcKind src), 0] ++ leBytes 4 (syn % 2 ^ 19) ++ leBytes 8 (s.time % 2 ^ 64))).bump 0x2400 4

/-- Counts a raise of a source (18 R467). -/
def countSource (src : Nat) (s : State) : State :=
  s.domWrite 0x2400 2 (src * 8) (leBytes 8 (s.domNat 0x2400 2 (src * 8) 8 + 1))

/-- Raises 0x14E after a record for `owner` was dropped: to Golne firmware, once in a 1 ms window; the raise that reports
Golne firmware's own full queue is logged whatever its route (18 R475). -/
def queueFull (owner : Nat) (s : State) : State :=
  if s.winGet 0x14E00000 ≠ 0 then s
  else
    let s := countSource 0x14E (s.winBump 0x14E00000)
    let log := bitOf (s.domNat 0x2400 0 (0x14E * 8) 8) 61 || owner == 0x2000
    let s := if log then logEvent 0x14E owner s else s
    (pushEv .golne 0x14E owner s).1

/-- Delivers a KIND 0 record to a hart, with the drop's report (18 R475). -/
def deliver (h : Hart) (src syn : Nat) (s : State) : State :=
  let r := pushEv h src syn s
  if r.2 then queueFull (hartKey h) r.1 else r.1

/-- Delivers a raise as the route table says (18 R474). -/
def route (src syn : Nat) (s : State) : State :=
  let e := s.domNat 0x2400 0 (src * 8) 8
  let s := if bitOf e 61 then logEvent src syn s else s
  let s := if bitOf e 62 then deliver .golne src syn s else s
  let s := if bitOf e 63 then
      match threadOf (e % 2 ^ 16) with
      | some t => deliver (.thr t) src syn s
      | none => s
    else s
  if bitOf e 60 then msix (0x1000 + bitsOf e 55 53) 0 s else s

/-! ## Collectors (18 R464 to R470) -/

/-- The dictionary index of a collector's entry: 0x2200 for the device, 0x2210 + n for petal n. -/
def collIdx : Collector → Nat
  | .device => 0x2200
  | .petal p => 0x2210 + p.val

/-- The key of a collector in `State.colls`. -/
def collKey : Collector → Nat
  | .petal p => p.val
  | .device => 4

/-- A collector's record. -/
def State.coll (s : State) (c : Collector) : Coll := Tab.get Coll.reset s.colls (collKey c)

/-- The state with a collector's record changed. -/
def State.updColl (s : State) (c : Collector) (f : Coll → Coll) : State :=
  { s with colls := Tab.put s.colls (collKey c) (f (s.coll c)) }

/-- The status word of a raise: VALID, CLASS, SOURCE, SYNDROME and the device time in µs (18 R466). -/
def statusWord (kind src syn time : Nat) : Nat :=
  2 ^ 63 + kind * 2 ^ 60 + (src % 512) * 2 ^ 51 + (syn % 2 ^ 19) * 2 ^ 32 + (time / 1000) % 2 ^ 32

/-- The bits of a status word that tell a raise's source and syndrome. -/
def statusKey (w : Nat) : Nat := bitsOf w 59 32

/-- The places of a pending list: 16 of a petal collector, 64 of the device collector (18 R469). -/
def listPlaces : Collector → Nat
  | .petal _ => 16
  | .device => 64

/-- The pending lists as their entries show them: 8 bytes per entry (18 R469). -/
def showLists (c : Collector) (s : State) : State :=
  let r := s.coll c
  let i := collIdx c
  let n := listPlaces c
  let put := fun (sub : Nat) (l : List (Nat × Bool)) (s : State) =>
    (s.domClear i sub 0 (n * 8)).domWrite i sub 0 ((l.map (fun e => leBytes 8 e.1)).flatten)
  put 0x0B r.fatal (put 4 r.ucc s)

/-- Starts a collector's timer of one kind (18 R466). -/
def startTimer (c : Collector) (kind : Nat) (s : State) : State :=
  s.updColl c (fun r => match kind with
    | 1 => { r with ceTimer := true }
    | 2 => { r with uccTimer := true }
    | _ => { r with fatalTimer := true })

/-- Lists an uncorrectable or fatal status word in a collector (18 R466); the mark tells of a full UCC list of a petal. -/
def latchList (c : Collector) (kind : Nat) (nw : Nat) (own : Bool) (s : State) : State × Bool :=
  let l := if kind = 2 then (s.coll c).ucc else (s.coll c).fatal
  if kind = 1 ∨ l.any (fun e => statusKey e.1 == statusKey nw) = true then (s, false)
  else if l.length < listPlaces c then
    (showLists c (s.updColl c (fun r => if kind = 2 then { r with ucc := r.ucc ++ [(nw, own)] }
      else { r with fatal := r.fatal ++ [(nw, own)] })), false)
  else (s.bump (collIdx c) 0x0A, kind == 2 && c != .device)

/-- Latches a raise of class `kind` (1 CE, 2 UCC, 3 FATAL) at a collector: the word (R467), the pending list (R469) and the
escalation timer (R470). `own` tells whether a unit of the collector's own raised it. The mark tells whether the UCC list
of a petal collector overflowed. -/
def latch (c : Collector) (kind src syn : Nat) (own : Bool) (s : State) : State × Bool :=
  let i := collIdx c
  let w := s.dget i kind
  let nw := statusWord kind src syn s.time
  let valid := bitOf w 63
  let s := if valid then s.dset i kind (w ||| 2 ^ 62) else s.dset i kind nw
  let startT := (c != .device && !valid) || (c == .device && own)
  latchList c kind nw own (if startT then startTimer c kind s else s)

/-- Counts, details, latches, logs and delivers one raise (18 R464 to R476, R535). `org` is the petal whose unit raised it;
none is a stem unit. The mark tells whether the petal's UCC list overflowed. -/
def raiseOne (src syn : Nat) (org : Option Petal) (detail : List Byte) (s : State) : State × Bool :=
  let s := countSource src s
  let s := s.domWrite 0x2400 5 (src * 16) ((detail ++ List.replicate 16 0).take 16)
  let kind := srcKind src
  let r : State × Bool :=
    if kind = 0 then (s, false)
    else match org with
      | some p =>
        let r := latch (.petal p) kind src syn true s
        let s := (latch .device kind src syn false r.1).1
        let s := if kind = 3 && !s.haltDue.contains p.val && Tab.get 0 s.halts p.val == 0
          then { s with haltDue := s.haltDue ++ [p.val] } else s
        (s, r.2)
      | none => latch .device kind src syn true s
  (route src syn r.1, r.2)

/-- Raises a petal's FATAL source with a cause and a detail (18 R473). -/
def raiseFatal (p : Petal) (cause detail : Nat) (s : State) : State :=
  (raiseOne (0x140 + p.val) ((cause % 8) * 2 ^ 16 + detail % 2 ^ 16) (some p) [] s).1

/-- Raises an event source with a detail record (18 R464 to R476, R535); the overflow of a petal's UCC list raises its
FATAL, cause 2 (R469). -/
def raiseD (src syn : Nat) (org : Option Petal) (detail : List Byte) (s : State) : State :=
  let r := raiseOne src syn org detail s
  match org with
  | some p => if r.2 then raiseFatal p 2 src r.1 else r.1
  | none => r.1

/-- Raises an event source without a detail layout. -/
def raise (src syn : Nat) (org : Option Petal) (s : State) : State := raiseD src syn org [] s

/-- Raises an event that is limited to once in a 1 ms window for a key (00 R540). -/
def raiseOnce (key src syn : Nat) (org : Option Petal) (detail : List Byte) (s : State) : State :=
  if s.winGet key ≠ 0 then s else raiseD src syn org detail (s.winBump key)

/-- Raises an event source whose syndrome the spec does not lay out (DESIGN CHOICE, assumption 3). -/
def raiseAny (src : Nat) (org : Option Petal) (s : State) : State := raise src s.anySyn org s.tick

/-- As `raiseAny`, once in a 1 ms window for a key (00 R540). -/
def raiseOnceAny (key src : Nat) (org : Option Petal) (s : State) : State :=
  if s.winGet key ≠ 0 then s else raiseAny src org (s.winBump key)

/-! ## Latency histograms (19 R503) -/

/-- The bin of a value, in a unit of U (12 R335): the powers 2^(j/4) of U, j from 0 to 62, that the value reaches. -/
def histBin (v u : Nat) : Nat := ((List.range 63).filter (fun j => u ^ 4 * 2 ^ j ≤ v ^ 4)).length

/-- One value measured for a petal's histogram units of a SOURCE (19 R503): the device time from `since` to now. A unit counts it that
is enabled, was so when the measurement began, is of that source, and whose filter passes. `val` is the filter's value; none where the
spec gives no number for it, so that it is free (DESIGN CHOICE, assumption 3). -/
def histAdd (p : Petal) (src : Nat) (val : Option Nat) (since : Nat) (s : State) : State :=
  (List.range 16).foldl (fun s u =>
    let i := 0x7600 + 0x10 * p.val + u
    let c := s.dget i 1
    let f := s.dget i 2
    if bitOf c 31 && bitsOf c 30 27 == src && Tab.get 0 s.histOn i ≤ since then
      let pass := bitOf f 31 || (match val with
        | some v => v == f % 2 ^ 24
        | none => Config.freeChoice s.fresh % 2 == 0)
      let s := if val.isNone then s.tick else s
      if pass then
        let b := histBin (s.time - since) (s.dget i 3)
        let n := s.domNat i 4 (8 * b) 8
        let s := s.domWrite i 4 (8 * b) (leBytes 8 (min (n + 1) (2 ^ 48 - 1)))
        s.dset i 6 ((s.dget i 6 + 1) % 2 ^ 64)
      else s
    else s) s

end Sys2Proof.Machine
end

