-- ==== Sys2Proof/Machine/LockUnit.lean ====
section
/-!
DEFINITION. Machine/LockUnit.lean: the lock units of 11 R291 to R301: holder entries, waiters, handoff, inheritance and
abandonment, on lock words named by their key (a DRAM address, or the internal key of an L2 scratch byte).
-/
namespace Sys2Proof.Machine

/-- The petal that tracks a lock word (11 R291). -/
def trackPetal (key : Nat) : Petal :=
  if 2 ^ 48 ≤ key then ⟨((key - 2 ^ 48) / 0x200000 / 6) % 4, Nat.mod_lt _ (by decide)⟩
  else ⟨(key / 4096) % 4, Nat.mod_lt _ (by decide)⟩

/-- The address by which the pin list names a lock word: an L2 scratch word by its address in its own cluster's view. -/
def lockAddr (key : Nat) : Nat := if 2 ^ 48 ≤ key then 0x001000200000 + (key - 2 ^ 48) % 0x200000 else key

/-- Whether entry `i` of the pin list names a lock word (11 R302). -/
def pinEntry (s : State) (i key : Nat) : Bool :=
  let e := s.domNat 0x9000 4 (8 * i) 8
  bitOf e 63 && e % 2 ^ 48 == lockAddr key

/-- Whether a lock word is on the pin list (11 R302). -/
def pinned (s : State) (key : Nat) : Bool := (List.range 64).any (fun i => pinEntry s i key)

/-- Whether a master may take pinned locks: Golne firmware or the boot path (11 R302). -/
def mayPin (mid : Nat) : Bool := mid == 0x2000 || mid == 0x2001

/-- Ends every reservation on the 64-byte granule of an address (06 R179). -/
def endResv (a : Nat) (s : State) : State :=
  { s with threads := s.threads.map (fun e =>
      if e.2.resv = some (a / 64) then (e.1, { e.2 with resv := none }) else e) }

/-- Ends every reservation on a granule that a range of `n` bytes meets (06 R179). -/
def endResvs (a n : Nat) (s : State) : State :=
  { s with threads := s.threads.map (fun e => match e.2.resv with
      | some g => if a / 64 ≤ g && g * 64 < a + n then (e.1, { e.2 with resv := none }) else e
      | none => e) }

/-- Bytes written anew hold no error: the poison of the 32-byte blocks, and the errors of the 8-byte words, that a range covers
wholly (08 R245, 15 R400). -/
def cleanRange (a n : Nat) (s : State) : State :=
  { s with poison := s.poison.filter (fun b => !(a ≤ 32 * b && 32 * b + 32 ≤ a + n))
           scratchBad := s.scratchBad.filter (fun w => !(a ≤ 8 * w && 8 * w + 8 ≤ a + n)) }

/-- A store performed at the home point: the bytes written, the reservations on their granules ended (06 R179, 08 R240). -/
def homeWrite (a : Nat) (l : List Byte) (s : State) : State :=
  endResvs a l.length (cleanRange a l.length (s.memWrite a l))

/-- The highest waiting priority of a lock, 0 with no waiter (11 R292). -/
def wmax (s : State) (key : Nat) : Nat :=
  ((s.waiters.filter (fun w => w.key == key)).map Waiter.prio).foldl max 0

/-- The first waiter of a lock: the highest priority, in arrival order between equals (11 R294). -/
def firstWaiter (s : State) (key : Nat) : Option Waiter :=
  s.waiters.find? (fun w => w.key == key && w.prio == wmax s key)

/-- The image of a lock word's upper half (11 R292). -/
def lockImageHi (s : State) (key : Nat) (aban : Bool) : Nat :=
  let pin := b2n (pinned s key) * 2 ^ 29
  match Tab.find s.holders key with
  | some h => 2 ^ 31 + b2n h.aban * 2 ^ 30 + pin + (wmax s key % 32) * 2 ^ 24 + (h.hprio % 32) * 2 ^ 16 + h.mid % 2 ^ 16
  | none => b2n aban * 2 ^ 30 + pin

/-- Writes the image of a lock word at its home point, its user field kept (11 R292). `aban` is the ABANDONED bit of a
lock that is free. -/
def writeImage (key : Nat) (aban : Bool) (s : State) : State :=
  homeWrite (key + 4) (leBytes 4 (lockImageHi s key aban)) s

/-- The user field of a lock word. -/
def lockUser (s : State) (key : Nat) : Nat := s.memNat key 4

/-- The ABANDONED bit of a lock word as it stands: the holder entry's while it is held, else the word's (11 R292). -/
def lockAban (s : State) (key : Nat) : Bool :=
  match Tab.find s.holders key with
  | some h => h.aban
  | none => bitOf (s.memNat (key + 4) 4) 30

/-- A thread's effective priority: the largest of PRIO and the WMAX of the locks it holds (11 R298). -/
def eprio (s : State) (h : Hart) : Nat := max ((s.thr h).prio.toNat % 32) (s.thr h).inh

/-- The hart that a master ID names, if it names one. -/
def hartOf (m : Nat) : Option Hart :=
  match threadOf m with
  | some t => some (.thr t)
  | none => if m = 0x2000 then some .golne else none

/-- Recomputes what a lock's holder inherits, and passes a raised priority on to the lock for which that holder waits in `LKACQ`,
over at most `n` locks; a chain that is cut off is counted (11 R298). A request through a window keeps its window's priority (R294). -/
def inherit : Nat → Nat → State → State
  | 0, key, s => s.bump (pix 0x3390 (trackPetal key)) 6
  | n + 1, key, s =>
    match Tab.find s.holders key with
    | none => s
    | some hd =>
      let s := writeImage key hd.aban s
      match threadOf hd.mid with
      | none => s
      | some t =>
        let inh := ((s.holders.filter (fun e => e.2.mid == hd.mid)).map (fun e => wmax s e.1)).foldl max 0
        let s := s.updThr (.thr t) (fun x => { x with inh := inh })
        let p := eprio s (.thr t)
        match s.waiters.find? (fun w => w.mid == hd.mid && w.rd.isSome && w.prio < p) with
        | none => s
        | some w =>
          inherit n w.key { s with waiters := s.waiters.map (fun x => if x = w then { x with prio := p } else x) }

/-- A thread's inherited priority recomputed from the locks it still holds (11 R298). -/
def reInherit (mid : Nat) (s : State) : State :=
  match threadOf mid with
  | none => s
  | some t =>
    let inh := ((s.holders.filter (fun e => e.2.mid == mid)).map (fun e => wmax s e.1)).foldl max 0
    s.updThr (.thr t) (fun x => { x with inh := inh })

/-- Gives a grant to a waiter: an `LKACQ` completes with its result; a host function's vector 0 is raised (11 R295, R305). -/
def wakeWaiter (w : Waiter) (res : Nat) (s : State) : State :=
  match w.rd with
  | some rd =>
    match hartOf w.mid with
    | some h => waitDone h (s.updThr h (fun t => t.setD rd (BitVec.ofNat 64 res)))
    | none => s
  | none => if w.mid / 4096 = 1 then msix w.mid 0 s else s

/-- Passes a lock whose holder entry has ended to its first waiter, or frees it (11 R295, R300). -/
def passOn (key : Nat) (aban : Bool) (s : State) : State :=
  match firstWaiter s key with
  | none => writeImage key aban { s with holders := Tab.erase s.holders key }
  | some w =>
    let s := { s with waiters := s.waiters.erase w, holders := Tab.put s.holders key ⟨w.mid, w.prio, aban⟩ }
    let s := histAdd (trackPetal key) 5 none w.since (s.bump (pix 0x3390 (trackPetal key)) 5)
    let res := b2n aban + lockUser s key * 2 ^ 32
    inherit 8 key (wakeWaiter w res (writeImage key aban s))

/-- The outcome of an acquire: a status of 06 R180, or the requester waits. -/
inductive AcqOut where
  | status (n : Nat)
  | waits
deriving DecidableEq, Repr

/-- Counts and reports a LIMIT outcome (11 R293). -/
def lockLimit (p : Petal) (mid : Nat) (pool : Bool) (s : State) : State :=
  raiseOnce (0x09000000 + p.val) (0x090 + p.val) (mid + b2n pool * 2 ^ 16) (some p) [] (s.bump (pix 0x3390 p) 3)

/-- The entries of a petal's holder table. -/
def holdersOf (s : State) (p : Petal) : Nat := (s.holders.filter (fun e => trackPetal e.1 == p)).length

/-- The records of a petal's waiter pool. -/
def waitersOf (s : State) (p : Petal) : Nat := (s.waiters.filter (fun w => trackPetal w.key == p)).length

/-- Any lock operation on a held lock rewrites the image's upper half, which a plain store may have overwritten (11 R292). -/
def reImage (key : Nat) (s : State) : State :=
  match Tab.find s.holders key with
  | some h => writeImage key h.aban s
  | none => s

/-- An acquire at the lock unit, its conditions in the order of 11 R293. -/
def lockAcquire (key mid prio : Nat) (try_ : Bool) (rd : Option Reg) (s : State) : State × AcqOut :=
  let p := trackPetal key
  let s := reImage key (endResv key s)
  if pinned s key && !mayPin mid then (s, .status 4)
  else match Tab.find s.holders key with
    | none =>
      if holdersOf s p < 4096 then
        let ab := lockAban s key
        let s := { s with holders := Tab.put s.holders key ⟨mid, prio, ab⟩ }
        (inherit 8 key (histAdd p 5 none s.time ((writeImage key ab s).bump (pix 0x3390 p) 5)), .status (b2n ab))
      else (lockLimit p mid false s, .status 3)
    | some _ =>
      if try_ then (s, .status 2)
      else if waitersOf s p < 4096 then
        (inherit 8 key { s with waiters := s.waiters ++ [⟨key, mid, prio, rd, s.time⟩] }, .waits)
      else (lockLimit p mid true s, .status 3)

/-- A release at the lock unit: the status and the user field as it stood before (11 R295). -/
def lockRelease (key mid : Nat) (wuser : Bool) (user : Nat) (clrab : Bool) (s : State) : State × Nat × Nat :=
  let old := lockUser s key
  let s := reImage key (endResv key s)
  match Tab.find s.holders key with
  | some h =>
    if h.mid = mid then
      let s := if wuser then homeWrite key (leBytes 4 user) s else s
      let s := { s with holders := Tab.erase s.holders key }
      (reInherit mid (passOn key (h.aban && !clrab) s), 0, old)
    else (s, 5, old)
  | none => (s, 5, old)

/-- Ends a lock's holder entry, sets ABANDONED and passes the lock on (11 R300, R303, R313). -/
def lockAbandon (key : Nat) (s : State) : State :=
  match Tab.find s.holders key with
  | none => s
  | some h => reInherit h.mid (passOn key true { s with holders := Tab.erase s.holders key })

/-- Withdraws the requests that a condition picks, and passes the lowered WMAX on (11 R296, R300, R304). -/
def withdrawSel (sel : Waiter → Bool) (s : State) : State :=
  let keys := (s.waiters.filter sel).map Waiter.key
  keys.foldl (fun s k => inherit 8 k s) { s with waiters := s.waiters.filter (fun w => !sel w) }

/-- Withdraws every request in which a master waits (11 R300). -/
def withdraw (mid : Nat) (s : State) : State := withdrawSel (fun w => w.mid == mid) s

/-- The holder reset of a list of masters under one reset (11 R300): their requests are withdrawn, their locks that are
not pinned are freed with ABANDONED set, counted and reported once per tracking petal with the reset master's ID. -/
def holderResetAll (rep : Nat) (mids : List Nat) (s : State) : State :=
  let s := mids.foldl (fun s m => withdraw m s) s
  let keys := ((s.holders.filter (fun e => mids.contains e.2.mid && !pinned s e.1)).map Prod.fst)
  let s := keys.foldl (fun s k => lockAbandon k s) s
  [(0 : Petal), 1, 2, 3].foldl (fun s p =>
    let n := (keys.filter (fun k => trackPetal k == p)).length
    if n = 0 then s
    else raiseD (0x094 + p.val) rep (some p) (leBytes 2 rep ++ [0, 0] ++ leBytes 4 n) (s.bumpBy (pix 0x3390 p) 4 n)) s

/-- The holder reset of one master (11 R300). -/
def holderReset (mid : Nat) (s : State) : State := holderResetAll mid [mid] s

/-- Whether a master holds a lock (11 R313: such a cluster is not parked under ECO). -/
def holdsLock (s : State) (mid : Nat) : Bool := s.holders.any (fun e => e.2.mid == mid)

end Sys2Proof.Machine
end

