-- ==== Sys2Proof/Machine/Channels.lean ====
section
/-!
DEFINITION. Machine/Channels.lean: thread channels (09 R253 to R261) as operations of the channel's arbiter: the binding
record, staging, the hold, the FIFO, and the waits they end.
-/
namespace Sys2Proof.Machine

/-- The key of a channel in `State.chans`. -/
def chanKey (p : Petal) (ch : Nat) : Nat := 4096 * p.val + ch % 4096

/-- A channel's record. -/
def State.chan (s : State) (p : Petal) (ch : Nat) : Chan := Tab.get Chan.reset s.chans (chanKey p ch)

/-- The state with a channel's record changed. -/
def State.updChan (s : State) (p : Petal) (ch : Nat) (f : Chan → Chan) : State :=
  { s with chans := Tab.put s.chans (chanKey p ch) (f (s.chan p ch)) }

/-- A number of a channel's binding record (09 R253). -/
def bindNat (s : State) (p : Petal) (ch off n : Nat) : Nat := s.domNat (pix 0x3341 p) 0 (16 * (ch % 4096) + off) n

/-- VALID of a channel's binding record (09 R253). -/
def chanValid (s : State) (p : Petal) (ch : Nat) : Bool := bitOf (bindNat s p ch 10 1) 0

/-- EXT of a channel's binding record (09 R253). -/
def chanExt (s : State) (p : Petal) (ch : Nat) : Bool := bitOf (bindNat s p ch 10 1) 5

/-- The bound receiver of a channel, if its record is valid (09 R253). -/
def chanRecv (s : State) (p : Petal) (ch : Nat) : Option Nat :=
  if chanValid s p ch then some (bindNat s p ch 0 2) else none

/-- The valid sender slots of a channel: slot and master ID (09 R253). -/
def chanSenders (s : State) (p : Petal) (ch : Nat) : List (Nat × Nat) :=
  if chanValid s p ch then
    ((List.range 4).filter (fun i => bitOf (bindNat s p ch 10 1) (1 + i))).map (fun i => (i, bindNat s p ch (2 + 2 * i) 2))
  else []

/-- The sender slot of a master, if it is a bound sender. -/
def senderSlot (s : State) (p : Petal) (ch mid : Nat) : Option Nat :=
  ((chanSenders s p ch).find? (fun e => e.2 == mid)).map Prod.fst

/-- The words that a thread has staged for a channel, oldest first (09 R255). -/
def stagedFor (t : Thread) (ch : Nat) : List ChWord := (t.staged.filter (fun e => e.1 == ch)).map Prod.snd

/-- The thread of petal `p` that a master ID names, as a hart (channels bind threads of their own petal, 09 R253). -/
def midHart (m : Nat) : Hart := (hartOf m).getD .golne

/-- Takes the oldest message of a channel into a receiver's buffer; `rd` takes the word count (09 R257). -/
def takeMsg (p : Petal) (ch : Nat) (h : Hart) (rd : Reg) (s : State) : State :=
  match (s.chan p ch).fifo with
  | [] => s
  | m :: q =>
    let since := (s.chan p ch).times.headD s.time
    let s := s.updChan p ch (fun c => { c with fifo := q, times := c.times.drop 1 })
    let s := s.updThr h (fun t => { t.setD rd (BitVec.ofNat 64 m.length) with recvBuf := m, recvCh := ch })
    histAdd p 8 (some ch) since (s.bump (pix 0x3340 p) 7)

/-- Hands a message to the receiver that waits for one (09 R257). -/
def wakeRecv (p : Petal) (ch : Nat) (s : State) : State :=
  match chanRecv s p ch with
  | none => s
  | some m =>
    let h := midHart m
    match (s.thr h).st, (s.thr h).wait with
    | .recvWait, .recv rd c =>
      if c = ch % 4096 && (s.chan p ch).fifo ≠ [] then waitDone h (takeMsg p ch h rd s) else s
    | _, _ => s

/-- Stages a word of a thread for a channel (09 R255). -/
def stageWord (h : Hart) (ch : Nat) (w : Word) (s : State) : State :=
  s.updThr h (fun t => { t with staged := t.staged ++ [(ch, ⟨w, false⟩)] })

/-- The next waiting sender in the rotation of slots after the last one granted (09 R255). -/
def nextSender (s : State) (p : Petal) (ch : Nat) : Option Nat :=
  let c := s.chan p ch
  ((List.range 4).map (fun i => (c.lastSlot + 1 + i) % 4)).findSome? (fun sl =>
    c.waiting.find? (fun m => senderSlot s p ch m == some sl))

/-- Releases a channel's hold; the next waiting sender takes it, and its `CHWR` completes with its word staged
(09 R255, R260). -/
def releaseHold (p : Petal) (ch : Nat) (s : State) : State :=
  match nextSender s p ch with
  | none => s.updChan p ch (fun c => { c with holder := none, raised := false })
  | some m =>
    let h := midHart m
    let slot := (senderSlot s p ch m).getD 0
    let s := s.updChan p ch (fun c =>
      { c with holder := some m, raised := false, lastSlot := slot, waiting := c.waiting.filter (· != m) })
    match (s.thr h).wait with
    | .sendWord _ w => waitDone h (stageWord h ch w s)
    | _ => s

/-- Appends a thread's staged message to the FIFO, frees its staging, hands it to a waiting receiver and releases the hold
(09 R255, R256). -/
def appendStaged (p : Petal) (ch : Nat) (h : Hart) (s : State) : State :=
  let words := stagedFor (s.thr h) ch
  let s := s.updThr h (fun t =>
    { t with staged := t.staged.filter (fun e => e.1 != ch), stagedEnd := t.stagedEnd.filter (· != ch) })
  let s := s.updChan p ch (fun c => { c with fifo := c.fifo ++ [words], times := c.times ++ [s.time] })
  releaseHold p ch (wakeRecv p ch s)

/-- When a slot of a full FIFO has freed, the staged END of the holder is accepted (09 R256). -/
def slotFreed (p : Petal) (ch : Nat) (s : State) : State :=
  match (s.chan p ch).holder with
  | none => s
  | some m =>
    let h := midHart m
    let t := s.thr h
    if (s.chan p ch).fifo.length < 4 && t.stagedEnd.contains ch then
      let wasWaiting := t.st == .sendWait && t.wait == .sendEnd ch
      let s := appendStaged p ch h s
      if wasWaiting then waitDone h s else s
    else s

/-- Discards a thread's staging for a channel: its words and staged END go, and the hold is released (09 R260, R270). -/
def discardStaging (p : Petal) (ch : Nat) (m : Nat) (s : State) : State :=
  let h := midHart m
  let s := s.updThr h (fun t =>
    { t with staged := t.staged.filter (fun e => e.1 != ch), stagedEnd := t.stagedEnd.filter (· != ch) })
  if (s.chan p ch).holder = some m then releaseHold p ch s else s

/-- The channels that a thread holds (09 R255). -/
def holds (s : State) (t : ThreadId) : List Nat :=
  ((s.chans.filter (fun e => e.1 / 4096 == t.p.val && e.2.holder == some t.mid)).map (fun e => e.1 % 4096))

/-- Takes a thread out of a channel's waiting senders (09 R249). -/
def leaveSend (p : Petal) (ch mid : Nat) (s : State) : State :=
  s.updChan p ch (fun c => { c with waiting := c.waiting.filter (· != mid) })

/-- Whether a thread state is a channel wait (09 R247). -/
def TState.chanWait : TState → Bool
  | .recvWait => true
  | .sendWait => true
  | _ => false

/-- Whether a channel is idle (09 R254). -/
def chanIdle (s : State) (p : Petal) (ch : Nat) : Bool :=
  let c := s.chan p ch
  c.fifo.isEmpty && c.holder.isNone && c.waiting.isEmpty &&
    !(s.threads.any (fun e => e.1 / 1024 == p.val && e.1 < 4096 &&
      ((e.2.staged.any (fun w => w.1 == ch)) || e.2.stagedEnd.contains ch || e.2.wait == .sendEnd ch ||
        (match e.2.wait with | .recv _ c' => c' == ch && e.2.st == .recvWait | _ => false))))

/-- Ends a thread's wait without effect: a channel wait (R249) or a lock wait, whose request is withdrawn (11 R296); the
waiting instruction runs again at the thread's PC. The staged END of a `CHEND` that waited is withdrawn with the wait; its
words stay staged and the hold stays. -/
def endWait (t : ThreadId) (s : State) : State :=
  let h := Hart.thr t
  let x := s.thr h
  let s := match x.wait with
    | .sendWord ch _ => leaveSend t.p ch t.mid s
    | .sendEnd ch => s.updThr h (fun y => { y with stagedEnd := y.stagedEnd.filter (· != ch) })
    | .lock _ _ _ => withdrawSel (fun w => w.mid == t.mid && w.rd.isSome) s
    | _ => s
  s.updThr h (fun y => { y with wait := .none })

end Sys2Proof.Machine
end

