-- ==== Sys2Proof/Machine/Threads.lean ====
section
/-!
DEFINITION. Machine/Threads.lean: what a thread may do and how it stops: issue, retire at an instruction boundary, parks,
halts, faults and their records (06 R175, R187 to R190; 07 R215; 09 R247 to R249; 19 R508 to R510).
-/
namespace Sys2Proof.Machine

/-! ## Modes and halts read by the core (02 R53, 18 R477, 19 R506) -/

/-- DRAIN in effect or being entered for a petal (02 R53): its drain status is not 0. -/
def draining (s : State) (p : Petal) : Bool := s.dget (pix 0x3000 p) 7 ≠ 0 || s.dget 0x2000 7 ≠ 0

/-- Debug unlock is granted (19 R506): bit [31] of the unlock status. -/
def unlocked (s : State) : Bool := bitOf (s.dget 0x8000 2) 31

/-- A petal is halted (18 R477). -/
def petalHalted (s : State) (p : Petal) : Bool := Tab.get 0 s.halts p.val ≠ 0

/-! ## Boundaries -/

/-- A thread stopped by a debug halt with a cause of 19 R509; its wait has ended and its reservation with it (06 R179). -/
def Thread.halt (cause : Nat) (t : Thread) : Thread :=
  { t with st := .halted, haltCause := cause, haltAsked := 0, haltFrom := .running, resv := none }

/-- A thread parked by a supervisor: SPARK, VALID, TPC at its PC (06 TCAUSE; 09 R249). -/
def Thread.park (t : Thread) : Thread :=
  { t with st := .parkedSup, parkAsked := false, resv := none, wait := .none,
           tcause := BitVec.ofNat 64 (2 ^ 63 + 2 ^ 60), tpc := t.pc, tfpc := 0 }

/-- The word of a fault record (06, TCAUSE). -/
def faultWord (imprecise multi : Bool) (cause addr : Nat) : Word :=
  BitVec.ofNat 64 (2 ^ 63 + b2n imprecise * 2 ^ 62 + b2n multi * 2 ^ 61 + (cause % 256) * 2 ^ 48 + addr % 2 ^ 48)

/-- Notifies and counts a fault of a core thread (06 R190). -/
def faultNotify (t : ThreadId) (cause : Nat) (s : State) : State :=
  if t.t.val = 0 then
    let syn := t.c.val * 2 ^ 16 + t.k.val * 2 ^ 13 + cause % 256
    deliver .golne (0x068 + t.p.val) syn (raise (0x068 + t.p.val) syn (some t.p) (s.bump (pix 0x3300 t.p) 4))
  else pushFaultNote t cause (s.bump (pix 0x3300 t.p) 3)

/-- A fault of a core thread: it parks with its record (06 R189, R190). `tpc` is where it resumes, `tfpc` the instruction. -/
def faultThread (t : ThreadId) (cause addr : Nat) (tpc tfpc : Addr) (s : State) : State :=
  faultNotify t cause (s.updThr (.thr t) (fun x =>
    { x with st := .parkedFault, wait := .none, resv := none, parkAsked := false, haltAsked := 0,
             tcause := faultWord false false cause addr, tpc := tpc, tfpc := tfpc }))

/-- A thread is parked (09 R247 states 6 and 7). -/
def TState.parked : TState → Bool
  | .parkedFault => true
  | .parkedSup => true
  | _ => false

/-- An imprecise store refusal (06 R175, R189): the thread parks with IMPRECISE and ACCESS; a record that is imprecise
already takes MULTI only; the record of a thread that is parked by a fault gives way to it, with no second notification (06
R189, R190); a thread that cannot park now parks when it leaves its state, with the record kept. -/
def refuseStore (h : Hart) (addr : Nat) (pc : Addr) (s : State) : State :=
  match h with
  | .golne => s
  | .thr t =>
    let x := s.thr h
    if bitOf x.tcause.toNat 63 && bitOf x.tcause.toNat 62 then
      s.updThr h (fun y => { y with tcause := y.tcause ||| BitVec.ofNat 64 (2 ^ 61) })
    else
      let s := endWait t s
      let tpc := if x.st.parked then x.tpc else x.pc
      let keep := x.st == .halted || x.st == .sparing
      let s := s.updThr h (fun y =>
        { y with st := if keep then y.st else .parkedFault, haltFrom := if keep then .parkedFault else y.haltFrom,
                 resv := none, tcause := faultWord true false 4 addr, tpc := tpc, tfpc := pc })
      if x.st == .parkedFault then s else faultNotify t 4 s

/-! ## Squashes (10 R271, R273) -/

/-- The helper instructions among at most `n` words from an offset of a cluster's instruction memory on, up to the first
control transfer: those of the table helper and those of the customer helper. -/
def helperAhead (s : State) (p : Petal) (c : Cluster) : Nat → Nat → Nat × Nat
  | 0, _ => (0, 0)
  | n + 1, off =>
    let maj := s.memNat (imemAddr p.val c.val (off % 0x40000)) 4 / 2 ^ 26
    if 0x18 ≤ maj && maj ≤ 0x1B then (0, 0)
    else
      let r := helperAhead s p c n (off + 4)
      (r.1 + b2n (maj == 0x3D), r.2 + b2n (0x3E ≤ maj))

/-- A thread's issued instructions from an address on are discarded: the helper instructions among them are squashed, and
nothing of them but the counts stays (10 R271, R273). How many of the at most 6 (07 R207) have issued by then is free (DESIGN
CHOICE, assumption 47). -/
def squash (t : ThreadId) (a : Addr) (s : State) : State :=
  let r := helperAhead s t.p t.c 6 (a.toNat % 0x40000)
  if r = (0, 0) then s
  else
    let n := Config.freeChoice s.fresh % (r.1 + 1)
    let m := Config.freeChoice (s.fresh + 1) % (r.2 + 1)
    ({ s with fresh := s.fresh + 2 }.bumpBy (0x3388 + 0x400 * t.p.val + t.c.val) 2 n).bumpBy (pix 0x3380 t.p) 8 m

/-! ## Parks and halts -/

/-- `THPARK` of a thread, or thread command 3 (09 R249): a running or waiting thread parks with SPARK, one that has not been
started too; a halted thread or one stopped for sparing parks when it leaves that state; a parked thread stays as it is. -/
def parkThread (t : ThreadId) (s : State) : State :=
  let h := Hart.thr t
  match (s.thr h).st with
  | .parkedFault => s
  | .parkedSup => s
  | .notStarted => s.updThr h Thread.park
  | .halted => s.updThr h (fun x => { x with parkAsked := true })
  | .sparing => s.updThr h (fun x => { x with parkAsked := true })
  | .running => (squash t (s.thr h).pc s).updThr h Thread.park
  | _ => (endWait t s).updThr h Thread.park

/-- Resumes a parked thread at an address; VALID is cleared (06 R185, TCAUSE). A thread that is not parked is unchanged; one
whose cluster has not been started waits for its start. -/
def resumeThread (t : ThreadId) (addr : Option Addr) (s : State) : State :=
  let h := Hart.thr t
  let st := if (s.clus t.p t.c).started then TState.running else .notStarted
  if (s.thr h).st.parked then
    s.updThr h (fun x => { x with st := st, pc := addr.getD x.tpc, tcause := x.tcause &&& BitVec.ofNat 64 (2 ^ 63 - 1) })
  else s

/-- A swap of a thread's core runs (18 R488): its unit ID is that of the core (R483). -/
def migrating (s : State) (t : ThreadId) : Bool :=
  s.swaps.any (fun w => w.unit == 2 ^ 28 + t.p.val * 2 ^ 26 + t.c.val * 2 ^ 23 + t.k.val)

/-- Halts a thread at its next instruction boundary (19 R508): a running or waiting thread halts now; a thread in lock wait
stays in its queue (11 R296); a parked thread is unchanged. In a migrating core the halt waits until the swap completes (02
R56). -/
def haltThread (t : ThreadId) (cause : Nat) (s : State) : State :=
  let h := Hart.thr t
  match (s.thr h).st with
  | .parkedFault => s
  | .parkedSup => s
  | .notStarted => s
  | .halted => s
  | st =>
    if st == .sparing || migrating s t then
      s.updThr h (fun x => { x with haltAsked := if x.haltAsked = 0 then cause else x.haltAsked })
    else match st with
    | .lockWait => s.updThr h (fun x => { (Thread.halt cause x) with haltFrom := .lockWait })
    | .fetchWait => s.updThr h (fun x => { (Thread.halt cause x) with haltFrom := .fetchWait })
    | .running => (squash t (s.thr h).pc s).updThr h (Thread.halt cause)
    | _ => (endWait t s).updThr h (Thread.halt cause)

/-- A debug halt of one thread with a cause; in a DETERMINISTIC cluster every thread halts at the same step, the others with the
cause of a cluster halt (07 R218). -/
def haltOne (t : ThreadId) (cause : Nat) (s : State) : State :=
  if detOn s t.p t.c then
    (clusterThreads t.p t.c).foldl (fun s u => haltThread u (if u = t then cause else 6) s) s
  else haltThread t cause s

/-- What has been asked of a thread takes effect at its boundary: a halt, then a park. -/
def takeAsked (t : ThreadId) (s : State) : State :=
  let x := s.thr (.thr t)
  let s := if x.haltAsked ≠ 0 then haltOne t x.haltAsked s else s
  if x.parkAsked && (s.thr (.thr t)).st != .halted then parkThread t s else s

/-- A halted thread runs again (19 R508); `cause` is what the halt cause then reads. A park asked for meanwhile, or an
imprecise refusal recorded meanwhile, takes effect; a lock request that is still queued is then withdrawn (11 R296). -/
def unhaltThread (t : ThreadId) (cause : Nat) (s : State) : State :=
  let h := Hart.thr t
  if (s.thr h).st == .halted then
    let s := s.updThr h (fun x => { x with st := x.haltFrom, haltCause := cause, passBp := true })
    if (s.thr h).parkAsked then parkThread t (s.updThr h (fun x => { x with parkAsked := false })) else s
  else s

/-! ## Issue and retire -/

/-- The size of a cluster's instruction memory (07 R197). -/
def imemSize : Nat := 0x40000

/-- Whether an address may be fetched by a petal thread (06 R177). -/
def fetchOk (a : Addr) : Bool := 0x001000000000 ≤ a.toNat && a.toNat < 0x001000000000 + imemSize && a.toNat % 4 == 0

/-- Whether a block of a thread's instruction memory holds a word that a fetch found uncorrectable (07 R200). -/
def blockBad (s : State) (t : ThreadId) (a : Addr) : Bool :=
  (s.clus t.p t.c).imemBad.any (fun w => w / 16 == (a.toNat - 0x001000000000) / 16)

/-- A write of `n` bytes at an offset of a cluster's instruction memory: the words written are good again, and a thread that
waits for a block written fetches again (07 R200). -/
def imemWritten (p : Petal) (c : Cluster) (off n : Nat) (s : State) : State :=
  let s := s.updClus p c (fun r => { r with imemBad := r.imemBad.filter (fun w => w + 4 ≤ off || off + n ≤ w) })
  { s with threads := s.threads.map (fun e => match threadOf e.1 with
      | some t =>
        let b := (e.2.pc.toNat - 0x001000000000) / 16 * 16
        if t.p = p && t.c = c && b < off + n && off < b + 16 then
          (e.1, { e.2 with st := if e.2.st = .fetchWait then .running else e.2.st
                           haltFrom := if e.2.haltFrom = .fetchWait then .running else e.2.haltFrom })
        else e
      | none => e) }

/-- Whether a breakpoint of the thread's core is armed at its PC (19 R510). -/
def breakHit (s : State) (t : ThreadId) : Bool :=
  let i := 0x8100 + 0x40 * t.p.val + t.lc
  unlocked s && debugOn s t.p t.c && (List.range 4).any (fun b =>
    let w := s.dget i (3 + b)
    bitOf w 63 && bitOf w (55 + t.t.val) && w % 2 ^ 48 == (s.thr (.thr t)).pc.toNat)

/-- Whether a hart may issue an instruction: it runs, and nothing holds its core still (02 R50, 07 R219, 18 R477). -/
def canIssue (h : Hart) (s : State) : Bool :=
  (s.thr h).st == .running &&
    match h with
    | .golne => true
    | .thr t => (s.clus t.p t.c).parked.isEmpty && !petalHalted s t.p && !(s.core t.core).isolated

/-- The deterministic slot of an instruction of fixed count `f` (07 R215 to R217): thread `t` issues at the first step congruent
to it, modulo 8, that is not before its due step; the cluster's counter is at the latest step at which a thread has
issued. A variable instruction, 0, completes a free number of steps later, and the thread issues at its next own step
(DESIGN CHOICE, assumption 10). -/
def detIssue (t : ThreadId) (f : Nat) (s : State) : State :=
  if detOn s t.p t.c then
    let now := s.dget (pipeIdx t.p t.c) 0x0A
    let x := s.thr (.thr t)
    let d := if x.due = 0 then now else x.due
    let c := d + (t.t.val + 8 - d % 8) % 8
    let due := if f = 0 then c + 1 + Config.freeChoice s.fresh else c + 8 * f
    let s := if f = 0 then s.tick else s
    (s.dset (pipeIdx t.p t.c) 0x0A (max now c % 2 ^ 64)).updThr (.thr t) (fun x => { x with due := due })
  else s

/-- An instruction of fixed count `f` retires and the thread goes on at `npc` (07 R209); a target outside the thread's
instruction memory parks it with FETCH, TPC, TFPC and ADDR at the target (06 R177). -/
def retireTo (h : Hart) (f : Nat) (npc : Addr) (s : State) : State :=
  match h with
  | .golne => s.updThr h (fun x => { x with pc := npc, steps := x.steps + 1 })
  | .thr t =>
    let s := (detIssue t f s).bump (pipeIdx t.p t.c) 2
    let s := s.updThr h (fun x => { x with pc := npc, steps := x.steps + 1, passBp := false })
    if fetchOk npc then takeAsked t s else faultThread t 8 npc.toNat npc npc s

/-- An instruction of fixed count `f` retires in sequence. -/
def retire (h : Hart) (f : Nat) (s : State) : State := retireTo h f ((s.thr h).pc + 4) s

/-- A fault in Golne firmware vectors to VEC with IT set; the mark tells that IT was set already, so the firmware restarts
(06 R194). EPC, ECAUSE and EINST are written as R188 writes them. -/
def golneFault (cause : Nat) (inst : BitVec 32) (s : State) : State × Bool :=
  let x := s.thr .golne
  if x.it then (s, true)
  else
    (s.setThr .golne { x with
      epc := x.pc.zeroExtend 64, ecause := BitVec.ofNat 64 cause, einst := inst.zeroExtend 64, it := true,
      pc := BitVec.ofNat 48 ((x.tvec.toNat % 2 ^ 48) / 4 * 4), resv := none }, false)

/-- A thread enters a wait of 09 R247 at the instruction that waits; a halt or a park that was asked for then takes effect on
the waiting thread. Channel waits are counted, so that the census tells one from the next (09 R266). The instruction takes its
deterministic slot as it issues (07 R215). -/
def waitIn (h : Hart) (st : TState) (w : Wait) (s : State) : State :=
  let s := s.updThr h (fun x => { x with st := st, wait := w, waits := if st.chanWait then x.waits + 1 else x.waits })
  match h with
  | .golne => s
  | .thr t => takeAsked t (detIssue t 0 s)

end Sys2Proof.Machine
end

