-- ==== Sys2Proof/Machine/Dram.lean ====
section
/-!
DEFINITION. Machine/Dram.lean: the DRAM controller groups (15 R396 to R417): the address mapping, reads and writes at the
home point, inline ECC and poison, the row buffers, and the commands of the family.
-/
namespace Sys2Proof.Machine

/-- XOR of the 5-bit slices of a number, over `n` slices (15 R397). -/
def xorSlices : Nat → Nat → Nat
  | 0, _ => 0
  | n + 1, c => (c % 32) ^^^ xorSlices n (c / 32)

/-- The position and the channel-local offset of a DRAM address (15 R397). -/
def dramMap (s : State) (a : Nat) : Nat × Nat :=
  let k := s.dget 0x4800 2
  let c := a / 2 ^ k
  let pos := if s.dget 0x4800 5 = 1 then xorSlices 9 c else c % 32
  (pos, (c / 32) * 2 ^ k + a % 2 ^ k)

/-- The group that is the home point of a DRAM address (15 R397). -/
def dramGroupOf (s : State) (a : Nat) : Nat := (dramMap s a).1 / 8

/-- Row and bank of a DRAM address (15 R398): row number within the channel, whose bank is its value modulo 8. -/
def dramRow (s : State) (a : Nat) : Nat := (dramMap s a).2 / 1792

/-- The dictionary index of a group's entry (15). -/
def grpIdx (g : Nat) : Nat := 0x4810 + 0x10 * g

/-- A group's record. -/
def State.dram (s : State) (g : Nat) : DramGroup := Tab.get DramGroup.reset s.drams g

/-- The state with a group's record changed. -/
def State.updDram (s : State) (g : Nat) (f : DramGroup → DramGroup) : State :=
  { s with drams := Tab.put s.drams g (f (s.dram g)) }

/-- Whether any 32-byte block of a range is poisoned (15 R400), or a word of L2 scratch in it is in error (08 R245). -/
def poisoned (s : State) (a n : Nat) : Bool :=
  (List.range ((a + n - 1) / 32 - a / 32 + 1)).any (fun i => s.poison.contains (a / 32 + i)) ||
    s.scratchBad.any (fun w => w * 8 < a + n && a < w * 8 + 8)

/-- Marks the blocks of a range poisoned. -/
def setPoison (a n : Nat) (s : State) : State :=
  let blocks := (List.range ((a + n - 1) / 32 - a / 32 + 1)).map (fun i => a / 32 + i)
  { s with poison := s.poison ++ blocks.filter (fun b => !s.poison.contains b) }

/-- The access of a row: a page hit when it is open, a conflict when another row of its bank is, and the row's state after
the access under the page hint and the page policy (15 R407). An access wakes its channel (R417). -/
def touchRow (a : Nat) (keep : Bool) (s : State) : State :=
  let g := dramGroupOf s a
  let pos := (dramMap s a).1
  let r := dramRow s a
  let k := pos * 8 + r % 8
  let was := Tab.find (s.dram g).openRows k
  let s := if was = some (r / 8) then s.bump (grpIdx g) 7 else if was.isSome then s.bump (grpIdx g) 8 else s
  let pol := s.dget 0x4800 6
  let stay := if pol = 1 then false else if pol = 2 then true else keep
  s.updDram g (fun d => { d with
    openRows := if stay then Tab.put d.openRows k (r / 8) else Tab.erase d.openRows k
    sleeping := d.sleeping.filter (· != pos) })

/-- Drains a group's write buffer to DRAM while it holds 96 lines or more, down to 32 (15 R403). -/
def drainWbuf (d : DramGroup) : DramGroup :=
  if 96 ≤ d.wbuf.length then { d with wbuf := d.wbuf.drop (d.wbuf.length - 32) } else d

/-- Bytes paired with their addresses, from `a` on. -/
def addrPairs (a : Nat) : List Byte → List (Nat × Byte)
  | [] => []
  | b :: l => (a, b) :: addrPairs (a + 1) l

/-- The 32-byte blocks that a list of (address, byte) pairs covers wholly. -/
def coveredBlocks (l : List (Nat × Byte)) : List Nat :=
  ((l.map (fun e => e.1 / 32)).eraseDups).filter (fun b => (l.filter (fun e => e.1 / 32 == b)).length == 32)

/-- The 8-byte words that a list of (address, byte) pairs covers wholly. -/
def coveredWords (l : List (Nat × Byte)) : List Nat :=
  ((l.map (fun e => e.1 / 8)).eraseDups).filter (fun b => (l.filter (fun e => e.1 / 8 == b)).length == 8)

/-- Bytes of one line stored at their home point: reservations on the line's granule end, and what is written wholly holds no
error (06 R179; 08 R240, R245; 15 R400). -/
def homeWritePairs (l : List (Nat × Byte)) (s : State) : State :=
  let whole := coveredBlocks l
  let words := coveredWords l
  let s := { s with mem := memPutPairs s.mem l
                    poison := s.poison.filter (fun b => !whole.contains b)
                    scratchBad := s.scratchBad.filter (fun w => !words.contains w) }
  ((l.map (fun e => e.1 / 64)).eraseDups).foldl (fun s g => endResv (g * 64) s) s

/-- A write accepted by its group, and so performed (15 R401, R403): bytes written, poison cleared on whole blocks, a
partial block counted as a read-modify-write, reservations on the granules ended. -/
def dramStorePairs (l : List (Nat × Byte)) (keep : Bool) (s : State) : State :=
  match l with
  | [] => s
  | (a, _) :: _ =>
    let g := dramGroupOf s a
    let whole := coveredBlocks l
    let s := (touchRow a keep s).bump (grpIdx g) 2
    let s := if whole.length * 32 = l.length then s else s.bump (grpIdx g) 6
    homeWritePairs l (s.updDram g (fun d =>
      if d.wbuf.contains (a / 64) then d else drainWbuf { d with wbuf := d.wbuf ++ [a / 64] }))

/-- A write of consecutive bytes accepted by its group. -/
def dramStore (a : Nat) (l : List Byte) (keep : Bool) (s : State) : State := dramStorePairs (addrPairs a l) keep s

/-- A read performed by its group (15 R403): counted, its row touched. -/
def dramTouchRead (a : Nat) (keep : Bool) (s : State) : State :=
  (touchRow a keep s).bump (grpIdx (dramGroupOf s a)) 1

/-- The request that a group issues next: promoted ones first, in the order of their promotion, then by class and age (15
R405). -/
def nextRead (l : List DramReq) : Option DramReq :=
  match l.find? (fun r => r.promoted) with
  | some r => some r
  | none => (List.range 4).findSome? (fun c => l.find? (fun r => r.sc == c))

/-- Records and reports an ECC outcome of a read at an address (15 R400). -/
def eccReport (a sc : Nat) (o : EccOutcome) (s : State) : State :=
  let g := dramGroupOf s a
  let pos := (dramMap s a).1
  match o with
  | .clean => s
  | .corrected =>
    raiseOnce (0x11800000 + g) (0x118 + g) pos none [] ((s.bump (grpIdx g) 4).bump (0x4900 + pos) 3)
  | .uncorrectable =>
    let s := (s.bump (grpIdx g) 5).bump (0x4900 + pos) 4
    let s := s.dset (grpIdx g) 9 (a % 2 ^ 48 + pos * 2 ^ 48)
    raise (0x11C + g) (pos + (dramRow s a % 8) * 32 + sc * 256) none s

end Sys2Proof.Machine
end

