-- ==== Sys2Proof/Machine/Access.lean ====
section
/-!
DEFINITION. Machine/Access.lean: the address map of the core view and its checks (01 R34 to R38), and accesses performed at
their home points (08 R224, R240).
-/
namespace Sys2Proof.Machine

/-- The regions of the core view (01 R36). -/
inductive Region where
  | dram | dump | ownImem | golneImem | ownScratch | ownPbuf | pbuf | dict | lockWin | mailbox | cxl | unmapped
deriving DecidableEq, Repr

/-- The region of an address (01 R36). -/
def region (a : Nat) : Region :=
  if a < 0x000DC0000000 then .dram
  else if a ≤ 0x000DFFFFFFFF then .dump
  else if 0x001000000000 ≤ a ∧ a ≤ 0x00100003FFFF then .ownImem
  else if 0x001000200000 ≤ a ∧ a ≤ 0x0010003FFFFF then .ownScratch
  else if 0x001100000000 ≤ a ∧ a ≤ 0x0011005FFFFF then .golneImem
  else if 0x002000000000 ≤ a ∧ a ≤ 0x002001FFFFFF then .ownPbuf
  else if 0x002080000000 ≤ a ∧ a ≤ 0x002087FFFFFF then .pbuf
  else if 0x003000000000 ≤ a ∧ a ≤ 0x00300FFFFFFF then .dict
  else if 0x004000000000 ≤ a ∧ a ≤ 0x0040FFFFFFFF then .lockWin
  else if 0x005000000000 ≤ a ∧ a ≤ 0x005000003FFF then .mailbox
  else if 0x006000000000 ≤ a ∧ a ≤ 0x0067FFFFFFFF then .cxl
  else .unmapped

/-- Whether a master ID is one that a request may carry (01 R33, R35). -/
def validMid (m : Nat) : Bool :=
  let lo := m % 4096
  match m / 4096 with
  | 0 => (lo / 128) % 8 < 6 && (lo / 8) % 2 == 0
  | 1 => if bitOf lo 11 then true
         else if bitOf lo 10 then lo == 0x400 else lo < 8
  | 2 => lo < 3
  | 3 => lo % 2048 == 0
  | 4 => if lo / 1024 = 2 then true else lo / 1024 < 2 && (lo / 256) % 4 == 0
  | 5 => lo / 1024 == 0 && (lo / 16) % 16 == 0
  | 6 => lo == 0
  | 7 => lo % 512 == 0 && (if bitOf lo 9 then lo / 1024 == 0 else true)
  | _ => false

/-- The credit class of a request (05 R153): 2 for the Golne controller, the debugger and the fault/dump agent, else 3. -/
def creditClass (m : Nat) : Nat := if m / 4096 = 2 ∨ m / 4096 = 3 ∨ m / 4096 = 7 then 2 else 3

/-- H1 is trained as CXL (01 R37, 14 R379: mode 3 of H1's actual state with a link up). -/
def cxlTrained (s : State) : Bool := s.dget 0x4440 2 == 3 && s.dget 0x4440 4 ≠ 0

/-- The DRAM bytes that H1 exports: base and size (14 R392). -/
def cxlExport (s : State) : Nat × Nat := (s.dget 0x4500 2 * 2 ^ 30, if cxlTrained s then s.dget 0x4500 1 * 2 ^ 30 else 0)

/-- The declared shared window that holds offset `x` of the CXL region: whether it is read only (14 R393). -/
def cxlWindow (s : State) (x : Nat) : Option Bool :=
  (List.range 16).findSome? (fun i =>
    let e := s.domNat 0x4500 3 (8 * i) 8
    let o := bitsOf e 31 16 * 0x200000
    if bitOf e 63 && o ≤ x && x < o + bitsOf e 15 0 * 0x200000 then some (bitOf e 62) else none)

/-- The mode of an L2 way's lock word: 0 unlocked, 1 scratch, 2 pinned (08 R238). Ways 8 to 15 are never locked. -/
def wayMode (s : State) (p : Petal) (c : Cluster) (bank way : Nat) : Nat :=
  if way < 8 then bitsOf (s.dget (cacheIdx p c) (1 + bank)) (2 * way + 1) (2 * way) else 0

/-- Whether a scratch offset falls on a way in scratch mode (08 R239). -/
def scratchMapped (s : State) (p : Petal) (c : Cluster) (off : Nat) : Bool :=
  wayMode s p c (bitsOf off 7 6) (bitsOf off 20 17) == 1

/-- A petal's packet path. -/
def State.pet (s : State) (p : Petal) : PetalSt := Tab.get PetalSt.reset s.petals p.val

/-- The buffer size of a pool (12 R314). -/
def poolSize : Nat → Nat
  | 0 => 256
  | 1 => 1024
  | 2 => 2048
  | 3 => 4096
  | _ => 10240

/-- The default count of a pool (12 R314). -/
def poolDefault : Nat → Nat
  | 0 => 32768
  | 1 => 8192
  | 2 => 4096
  | 3 => 1024
  | _ => 409

/-- A pool as its carving made it; the default counts before the first carving (12 R314). -/
def poolOf (s : State) (p : Petal) (k : Nat) : Pool :=
  Tab.get { cnt := poolDefault k, head := none, states := [], bad := [], rebuild := false } (s.pet p).pools k

/-- The base offset of a pool (12 R315). -/
def poolBase (s : State) (p : Petal) (k : Nat) : Nat :=
  ((List.range k).map (fun j => (poolOf s p j).cnt * poolSize j)).sum

/-- The bytes that the pools cover (12 R315). -/
def poolBytes (s : State) (p : Petal) : Nat := poolBase s p 5

/-- The region table: reads and writes that a kind of master may make (01 R38), before the conditions on its cells. -/
def tableAllows (r : Region) (kind : Nat) (wr : Bool) : Bool :=
  match r with
  | .dram => kind ≤ 6 || (kind == 7 && !wr)
  | .dump => kind == 2 || kind == 7 || (kind == 3 && !wr)
  | .ownImem => kind == 0
  | .golneImem => kind == 2 || kind == 3 || (kind == 7 && !wr)
  | .ownScratch => kind == 0
  | .ownPbuf => kind == 0
  | .pbuf => kind == 0 || kind == 3 || kind == 4 || kind == 5 || ((kind == 2 || kind == 7) && !wr)
  | .dict => kind ≤ 2 || (kind == 3 && !wr)
  | .lockWin => kind ≤ 2 || (kind == 3 && !wr)
  | .mailbox => kind ≤ 2 || (kind == 3 && !wr)
  | .cxl => kind ≤ 2 || (kind == 3 && !wr)
  | .unmapped => false

/-- The outcome of the checks on a request (01 R35, R37, R38). -/
inductive AccessRes where
  | ok (r : Region)
  | badId
  | unmapped
  | refused
deriving DecidableEq, Repr

/-- The petal and cluster of a core-thread master ID. -/
def midCluster (m : Nat) : Option (Petal × Cluster) := (threadOf m).map (fun t => (t.p, t.c))

/-- Checks a request of master `m` at address `a` (01 R35, then R37, then R38). -/
def checkAccess (m a : Nat) (wr : Bool) (s : State) : AccessRes :=
  if !validMid m then .badId
  else
    let r := region a
    let kind := m / 4096
    let mapped := match r with
      | .unmapped => false
      | .ownScratch =>
        match midCluster m with
        | some (p, c) => scratchMapped s p c (a - 0x001000200000)
        | none => true
      | .dram => !s.noDram
      | .dump => !s.noDram
      | .cxl => cxlTrained s && (cxlWindow s (a - 0x006000000000)).isSome
      | .ownPbuf =>
        match midCluster m with
        | some (p, _) => a - 0x002000000000 < poolBytes s p
        | none => true
      | .pbuf => (a - 0x002080000000) % 0x02000000 < poolBytes s ⟨(a - 0x002080000000) / 0x02000000 % 4, Nat.mod_lt _ (by decide)⟩
      | _ => true
    if !mapped then .unmapped
    else
      let ex := cxlExport s
      let inEx := r == .dram && ex.1 ≤ a && a < ex.1 + ex.2
      let cond := match r with
        | .dict => (kind ≠ 1 || m < 0x1008) && !(kind ≤ 1 && s.isoPorts.contains 11)
        | .cxl =>
          (kind ≠ 1 || m == 0x1400) && !(kind == 0 && wr && (cxlWindow s (a - 0x006000000000)).getD true)
        | .pbuf => !petalHalted s ⟨(a - 0x002080000000) / 0x02000000 % 4, Nat.mod_lt _ (by decide)⟩ || kind == 7
        | _ => true
      if !tableAllows r kind wr || !cond || (inEx && m ≠ 0x1400) || (kind == 3 && !unlocked s) then .refused
      else .ok r

/-- The petal whose units report a request of a core thread; none for the stem. -/
def midPetal (m : Nat) : Option Petal := (threadOf m).map ThreadId.p

/-- Reports a request that failed its checks: 0x027, 0x020 or 0x021, with the detail of R37 (01 R35 to R38). -/
def accessEvent (m a : Nat) (r : AccessRes) (s : State) : State :=
  let d := leBytes 8 (m % 2 ^ 16) ++ leBytes 8 (a % 2 ^ 48)
  match r with
  | .ok _ => s
  | .badId => raise 0x027 (m % 2 ^ 16) none s
  | .unmapped => raiseD 0x020 (m % 2 ^ 16) none d s
  | .refused => raiseD 0x021 (m % 2 ^ 16) none d s

/-- The key of a byte of plain memory in `State.mem`, for the regions that hold plain bytes: own regions by the requester's
cluster and petal, shared windows by the exported DRAM behind them (01 R36, 14 R393). -/
def memKey (m a : Nat) (s : State) : Nat :=
  match region a, midCluster m with
  | .ownImem, some (p, c) => imemAddr p.val c.val (a - 0x001000000000)
  | .ownScratch, some (p, c) => scratchAddr p.val c.val (a - 0x001000200000)
  | .ownPbuf, some (p, _) => pbAddr p.val (a - 0x002000000000)
  | .cxl, _ => (cxlExport s).1 + (a - 0x006000000000)
  | _, _ => a

/-- Whether a memory key lies in DRAM. -/
def inDram (k : Nat) : Bool := k ≤ 0x000DFFFFFFFF

/-- Whether a memory key lies in DRAM behind a frozen crossing: an access of it waits until the clock returns (01 R29). -/
def dramFrozen (s : State) (k : Nat) : Bool := inDram k && s.frozen.contains (7 + dramGroupOf s k)

/-- Bytes written at the home point of a plain memory key (08 R224): DRAM through its group, else the unit itself. -/
def storeHome (k : Nat) (l : List Byte) (keep : Bool) (s : State) : State :=
  if inDram k then dramStore k l keep s else homeWrite k l s

/-- Bytes of one line, given as (address, byte) pairs, written at their home point (08 R224). -/
def storeHomePairs (l : List (Nat × Byte)) (keep : Bool) (s : State) : State :=
  match l with
  | [] => s
  | (k, _) :: _ => if inDram k then dramStorePairs l keep s else homeWritePairs l s

/-- A write of `n` bytes by a master that sees every cluster's instruction memory (01 R36): the words are good again, and a thread
that waits for the block fetches again (07 R200). -/
def codeWritten (a n : Nat) (s : State) : State :=
  if region a == .golneImem then
    let q := (a - 0x001100000000) / 0x40000
    imemWritten ⟨q / 6 % 4, Nat.mod_lt _ (by decide)⟩ ⟨q % 6, Nat.mod_lt _ (by decide)⟩ ((a - 0x001100000000) % 0x40000) n s
  else s

/-- A read of `n` bytes at a home point: the bytes and whether a block of them is poisoned (15 R400). -/
def loadHome (k n : Nat) (keep : Bool) (s : State) : State × List Byte × Bool :=
  (if inDram k then dramTouchRead k keep s else s, s.memRead k n, poisoned s k n)

/-- The page class of a page of DRAM, general (08 R222): the fixed class where the page has one. -/
def pageClass (s : State) (a : Nat) : Nat :=
  let i := a / 0x200000
  match fixedPage i with
  | some c => c
  | none => bitsOf (s.domNat 0x2030 0 (i / 4) 1) (2 * (i % 4) + 1) (2 * (i % 4))

/-- The address classes of a core access (08 R221). -/
inductive AClass where
  | general | packet | through | uncached
deriving DecidableEq, Repr

/-- The address class of an address (08 R221). -/
def addrClass (s : State) (a : Nat) : AClass :=
  match region a with
  | .dram => match pageClass s a with
    | 0 => .general
    | 1 => .through
    | _ => .uncached
  | .ownPbuf => .packet
  | .pbuf => .packet
  | _ => .uncached

/-- The page hint of a master's access (15 R407): core accesses of page class 0 and to packet lines, host DMA and CXL.mem keep the
row open; all others but the spill engine close it. -/
def keepHint (s : State) (m a : Nat) : Bool :=
  if m / 4096 = 0 then addrClass s a == .general || addrClass s a == .packet else m / 4096 == 1

end Sys2Proof.Machine
end

