-- ==== Sys2Proof/Machine/Dict.lean ====
section
/-!
DEFINITION. Machine/Dict.lean: writes of dictionary entries: the checks of 16 R424 in their order, and what a refusal
leaves behind on each path (R424, R434). Each chapter's further conditions and effects come with the entry's own command.
-/
namespace Sys2Proof.Machine

/-- An endpoint's session is open and, where it authenticates, finished (16 R433). -/
def sessionOpen (s : State) (sid : Nat) (ep : MctpEndpoint) : Bool :=
  s.sessions.any (fun x => x.id == sid && x.ep == ep && x.finished)

/-- Whether a principal is authenticated (16 R423). -/
def authenticated (s : State) : Writer → Bool
  | .core t => t.t.val == 0 && bitOf (s.dget 0x1E00 1) (6 * t.p.val + t.c.val)
  | .golne _ => true
  | .debugger _ => false
  | .bar2 pf => s.sessions.any (fun x => x.ep == .pf pf && x.finished)
  | .smbus eid (some sid) => sessionOpen s sid (.smbus eid)
  | .smbus _ none => false
  | .vdm pf (some sid) => sessionOpen s sid (.pf pf)
  | .vdm _ none => false
  | .can => 0 < s.dget 0x1E00 3

/-- Whether a principal writes inside a session of role owner (16 R433, 17 R460). -/
def inOwnerSession (s : State) : Writer → Bool
  | .bar2 pf => s.sessions.any (fun x => x.ep == .pf pf && x.finished && x.owner)
  | .smbus eid (some sid) => s.sessions.any (fun x => x.id == sid && x.ep == .smbus eid && x.finished && x.owner)
  | .vdm pf (some sid) => s.sessions.any (fun x => x.id == sid && x.ep == .pf pf && x.finished && x.owner)
  | _ => false

/-- The path number of event source 0x131 (16 R424). -/
def pathNo : Writer → Nat
  | .bar2 _ => 1
  | .smbus _ _ => 2
  | .vdm _ _ => 3
  | .can => 4
  | _ => 0

/-- Whether a principal writes through the dictionary window (16 R434). -/
def onWindow : Writer → Bool
  | .core _ => true
  | .golne _ => true
  | .debugger _ => true
  | .bar2 _ => true
  | _ => false

/-- The generation entry of a requested entry (16 R426): requested state at sub 0x01, generation at sub 0x03, but for the
mapping of 15 (subs 0x01 and 0x04) and the firmware set of 17. -/
def genEntry (idx sub : Nat) : Option (Nat × Nat) :=
  if idx = 0x2100 then (if sub = 4 then some (0x2100, 6) else none)
  else if idx = 0x4800 then (if sub = 1 || sub = 4 then some (0x4800, 3) else none)
  else if sub ≠ 1 then none
  else if idx = 0x2000 then some (idx, 3)
  else if 0x3000 ≤ idx ∧ idx < 0x4000 then
    let b := (idx - 0x3000) % 0x400
    if b ≤ 6 || b = 0x100 || b = 0x381 then some (idx, 3) else none
  else if 0x4000 ≤ idx ∧ idx < 0x4200 then (if idx % 0x10 = 0 then some (idx, 3) else none)
  else if idx = 0x4400 || idx = 0x4440 then some (idx, 3)
  else none

/-- The requested-state generation of an entry, if it has one. -/
def genOf (s : State) (idx sub : Nat) : Option Nat := (genEntry idx sub).map (fun e => s.dget e.1 e.2)

/-- The generation of the unit whose requested, actual or generation entry this is (16 R426, R432), if it is one. -/
def unitGen (s : State) (idx sub : Nat) : Option Nat :=
  if idx = 0x2100 then (if 4 ≤ sub && sub ≤ 6 then genOf s idx 4 else none)
  else if idx = 0x4800 then (if 1 ≤ sub && sub ≤ 5 then genOf s idx 1 else none)
  else if 1 ≤ sub && sub ≤ 3 then genOf s idx 1 else none

/-- The generation after an accepted write or a change by hardware (16 R426). -/
def bumpGen (idx sub : Nat) (s : State) : State :=
  match genEntry idx sub with
  | some (i, g) => s.dset i g ((s.dget i g + 1) % 2 ^ 16)
  | none => s

/-- The device counts as stopped for class S: before start step 6 begins, or drained (00 R11). -/
def deviceStopped (s : State) : Bool := s.dget 0x2100 1 < 5 || s.dget 0x2000 7 == 2

/-- The start is at step 5, where the boot path loads the petals (17 R444). -/
def carving (s : State) : Bool := s.dget 0x2100 1 == 4

/-- The logical ports of Ethernet port `n` are all requested disabled (14 R373). -/
def portStopped (s : State) (n : Nat) : Bool := (List.range 8).all (fun k => s.dget (0x4000 + 0x10 * (8 * n + k)) 1 == 0)

/-- Whether the owning unit of a class S entry is stopped (00 R10, R11 and the owning chapters). Where 12 R324 names the petal
as the owning unit of the spill area (0x33A5.01 and .02) and no condition, a petal counts as stopped before start step 6 begins,
while it is halted, and while its drain status reads 2 (DESIGN CHOICE, assumption 40). -/
def unitStopped (s : State) (idx sub : Nat) : Bool :=
  if 0x3000 ≤ idx ∧ idx < 0x4000 then
    let p := (idx - 0x3000) / 0x400
    let b := (idx - 0x3000) % 0x400
    if b = 0 && sub = 8 then
      !bitOf (s.dget idx 2) 3 && !(s.trans.any (fun e => e.1 == 24 + p && e.2.1 == 3))
    else if b = 0x101 || b = 0x102 || b = 0x382 || b = 0x383 || b = 0x341 then true
    else if b = 0x201 then s.dget 0x2100 1 < 6 || Tab.get 0 s.halts p ≠ 0 || s.dget (0x3000 + 0x400 * p) 7 == 2
    else if b = 0x3A0 then s.dget 0x2100 1 < 5 || Tab.get 0 s.halts p ≠ 0
    else if b = 0x3A5 then s.dget 0x2100 1 < 5 || Tab.get 0 s.halts p ≠ 0 || s.dget (0x3000 + 0x400 * p) 7 == 2
    else deviceStopped s
  else if 0x4200 ≤ idx ∧ idx < 0x4240 then portStopped s ((idx - 0x4200) / 0x10)
  else if idx = 0x4400 then s.perst.contains 0
  else if idx = 0x4440 then s.perst.contains 1
  else if idx = 0x4500 then s.perst.contains 1
  else if 0x6000 ≤ idx ∧ idx < 0x7000 then true
  else if 0x7500 ≤ idx ∧ idx < 0x7504 then !bitOf (s.dget idx 1) 31
  else if 0x7600 ≤ idx ∧ idx < 0x7640 then !bitOf (s.dget idx 1) 31
  else deviceStopped s

/-- Golne firmware (kind 2, agent 0). -/
def isGolne : Writer → Bool
  | .golne a => a.val == 0
  | _ => false

/-- The limits that owning chapters set on an entry's writers (16 R424, step 6): the abort code of a writer outside them. The
debug path over PCIe takes a PF in an owner session (19 R512). -/
def writerLimit (w : Writer) (idx sub : Nat) (data : List Byte) (s : State) : Option Abort :=
  let no (b : Bool) : Option Abort := if b then none else some 0x06010000
  let b := (idx - 0x3000) % 0x400
  if 0x3000 ≤ idx ∧ idx < 0x4000 then
    if b = 0x330 && sub = 1 then (match w with | .core _ => none | _ => some 0x06010002)
    else if b = 0x342 && sub = 2 then no (isGolne w)
    else if b = 0x342 && sub = 1 then
      (match w with
       | .core t => no (t.t.val == 0 && leNat data / 2 ^ 60 == 1 &&
           (threadOf (bitsOf (leNat data) 47 32)).map ThreadId.sup == some t)
       | .golne a => no (a.val == 0)
       | .debugger _ => no (unlocked s)
       | _ => some 0x06010000)
    else if 0x350 ≤ b ∧ b < 0x380 then
      if sub = 0x0B then (match w with
        | .golne a => no (a.val == 0)
        | .debugger _ => no (unlocked s)
        | _ => some 0x06010000)
      else if 1 ≤ sub ∧ sub ≤ 9 then (match w with
        | .golne a => no (a.val == 0)
        | .core t => no (t.t.val == 0 && t.p.val == (idx - 0x3000) / 0x400 && t.lc == b - 0x350)
        | _ => some 0x06010000)
      else none
    else none
  else if idx = 0x2220 && (sub = 6 || sub = 7 || sub = 0x0A) then no (isGolne w)
  else if idx = 0x9000 && sub = 3 then no (isGolne w)
  else if idx = 0x9000 && sub = 4 then (match w with | .golne a => no (a.val < 2) | _ => some 0x06010000)
  else if idx = 0x1E10 && (sub = 4 || sub = 5) then (match w with | .can => none | _ => some 0x06010000)
  else if (idx = 0x2120 && 3 ≤ sub && sub ≤ 6) || (idx = 0x2100 && sub = 7) then no (inOwnerSession s w)
  else if (0x8010 ≤ idx ∧ idx < 0x8200) && (match w with | .bar2 _ => !inOwnerSession s w | _ => false) then
    some 0x06010000
  else if 0x8100 ≤ idx ∧ idx < 0x8200 then
    let p : Petal := ⟨(idx - 0x8100) / 0x40 % 4, Nat.mod_lt _ (by decide)⟩
    let c : Cluster := ⟨(idx - 0x8100) % 0x40 / 8 % 6, Nat.mod_lt _ (by decide)⟩
    if unlocked s && debugOn s p c then none else some 0x08000020
  else if 0x8010 ≤ idx ∧ idx < 0x8300 && idx ≠ 0x8201 then (if unlocked s then none else some 0x08000020)
  else none

/-- Whether a path admits a principal's write (16 R424, step 2): a debugger writes only through its debug access. -/
def admits (w : Writer) (idx sub : Nat) : Bool :=
  match w with
  | .debugger _ => (0x8000 ≤ idx && idx < 0x9000) || (0x3000 ≤ idx && idx < 0x4000 &&
      (((idx - 0x3000) % 0x400 == 0x342 && sub == 1) ||
       (0x350 ≤ (idx - 0x3000) % 0x400 && (idx - 0x3000) % 0x400 < 0x380 && sub == 0x0B)))
  | _ => true

/-- A value within a list of closed ranges; an empty list allows every value. -/
def inRanges (v : Nat) (l : List (Nat × Nat)) : Bool := l.isEmpty || l.any (fun r => r.1 ≤ v && v ≤ r.2)

/-- The bits of a BITS32 entry or word that take what is written; the rest are reserved and read as zero (00 R8). -/
def writeMask (idx sub : Nat) : Nat :=
  let b := (idx - 0x3000) % 0x400
  if 0x3000 ≤ idx ∧ idx < 0x4000 then
    if 0x320 ≤ b ∧ b ≤ 0x325 && sub = 1 then 0x0000FF03
    else if 0x328 ≤ b ∧ b ≤ 0x32D && 1 ≤ sub && sub ≤ 4 then 0x0000FFFF
    else if b = 0x330 && sub = 2 then 0x0000000F
    else if 0x350 ≤ b ∧ b < 0x380 && 1 ≤ sub && sub ≤ 8 then 2 ^ 64 - 2 ^ 14
    else 2 ^ 64 - 1
  else if idx = 0x1E00 && sub = 1 then 0x00FFFFFF
  else if idx = 0x2300 && sub = 1 then 0x00000007
  else 2 ^ 64 - 1

/-- Values that a field map reserves beyond the ranges of the dictionary tables (00 R9), for fields of scalar entries. -/
def fieldReserved (idx sub v : Nat) : Bool :=
  let b := (idx - 0x3000) % 0x400
  if 0x3000 ≤ idx ∧ idx < 0x4000 then
    if 0x320 ≤ b ∧ b ≤ 0x325 && sub = 1 then bitsOf v 15 8 == 0
    else if 0x328 ≤ b ∧ b ≤ 0x32D && 1 ≤ sub && sub ≤ 4 then (List.range 8).any (fun w => bitsOf v (2 * w + 1) (2 * w) == 3)
    else if b = 0x330 && sub = 2 then (let d := bitsOf v 3 1; d == 0 || 5 ≤ d)
    else false
  else if 0x4000 ≤ idx ∧ idx < 0x4200 ∧ sub = 8 then (List.range 8).any (fun c => bitsOf v (8 * c + 7) (8 * c) == 0)
  else false

/-- The size of an entry's scalar, if it is one. -/
def scalSize : EntryTy → Option Nat
  | .scal t => some t.size
  | _ => none

/-- The capacity of a DOMAIN entry in bytes; the device's counter block is smaller than a petal's (19). -/
def domCap (idx sub : Nat) (cap : Nat) : Nat :=
  if idx = 0x7400 then (if sub = 2 then 32 else 1024) else if idx = 0x2200 then 512
  else if idx = 0x2131 && sub ≤ 2 then 0x400000 else cap

/-- The checks of 16 R424, steps 1 to 6, on a write of an entry: the abort code of the first that fails, and whether it was
step 4 or 5, which are counted. -/
def checkAdmit (w : Writer) (idx sub : Nat) (data : List Byte) (s : State) : Option (Abort × Bool) :=
  match entrySpec idx sub with
  | none => some (if indexDefined idx then 0x06090011 else 0x06020000, false)
  | some e =>
    if !admits w idx sub then some (0x06010000, false)
    else if e.acc == .ro || e.acc == .con then some (0x06010002, false)
    else if e.acc == .rws && !authenticated s w then some (0x06010000, true)
    else if e.acc == .rw && s.dget 0x1E00 2 == 1 && !authenticated s w then some (0x06010000, true)
    else (writerLimit w idx sub data s).map (fun c => (c, false))

/-- The refusal of a write whose transfer has not the form that the path requires (16 R424, step 7): that of an earlier step,
if one fails. -/
def formRefusal (w : Writer) (idx sub : Nat) (data : List Byte) (s : State) : Abort × Bool :=
  (checkAdmit w idx sub data s).getD (0x06070010, false)

/-- The checks of 16 R424, steps 1 to 11, on a write of `data` at offset `off` of an entry: the abort code of the first that
fails, and whether it was step 4 or 5, which are counted. -/
def checkWrite (w : Writer) (idx sub off : Nat) (data : List Byte) (gen : Option Nat) (s : State) : Option (Abort × Bool) :=
  match checkAdmit w idx sub data s, entrySpec idx sub with
  | some r, _ => some r
  | none, none => none
  | none, some e =>
    let badForm := match e.ty with
      | .scal t => data.length ≠ t.size || off ≠ 0
      | .ostr n => data.length ≠ n || off ≠ 0
      | .vstr => 255 < data.length
      | .time80 => data.length ≠ 10
      | .dom _ _ => data.isEmpty && idx ≠ 0x2130
    if badForm || ((genEntry idx sub).isSome && gen.isNone) then some (0x06070010, false)
    else
      let badDom := match e.ty with
        | .dom cap rec => domCap idx sub cap < off + data.length || off % rec ≠ 0 || data.length % rec ≠ 0
        | _ => false
      if badDom then some (0x06090030, false)
      else if (genEntry idx sub).isSome && gen ≠ genOf s idx sub then some (0x08000021, false)
      else if (scalSize e.ty).isSome && (!inRanges (leNat data) e.valid || fieldReserved idx sub (leNat data)) then
        some (0x06090030, false)
      else if e.cls == .stopped && !unitStopped s idx sub then some (0x08000022, false)
      else none

/-- What a refused write leaves behind (16 R424, R434): the window's record and count, the count and event of an
unauthenticated write, the answer with the abort code; a core thread's refused store is an imprecise ACCESS refusal, whose
store has the PC `pc`. -/
def refuseWrite (w : Writer) (idx sub : Nat) (code : Abort) (unauth : Bool) (pc : Addr) (s : State) : State :=
  let s := if unauth then
      raiseOnce 0x13100000 0x131 (pathNo w * 2 ^ 16 + idx % 2 ^ 16) none [] (s.bump 0x1E00 4) else s
  let s := if onWindow w then
      ((s.dset 0x1E40 1 (code.toNat + (idx % 2 ^ 16) * 2 ^ 32 + (sub % 256) * 2 ^ 48)).dset 0x1E40 2 w.mid).bump 0x1E40 3
    else s
  match w with
  | .core t => refuseStore (.thr t) (0x003000000000 + idx * 0x1000 + sub * 0x10) pc s
  | .bar2 _ => s
  | _ => s.emit (.abort w.mid idx sub code)

/-- The PC at which a writer's store is recorded when the write comes as a command of its own: the thread's PC
(DEDUCED, assumption 17). -/
def writerPc (w : Writer) (s : State) : Addr :=
  match w with
  | .core t => (s.thr (.thr t)).pc
  | _ => 0

/-- The refusal of a write whose unit is not stopped (16 R424, step 11), where the effect would find a reserved value (step 10):
the value is what refuses it. -/
def stepOrder (r : Abort × Bool) (c : Abort) : Abort × Bool := if r.1 = 0x08000022 && c = 0x06090030 then (c, false) else r

/-- A write of an entry: the checks of R424, then the owning chapter's conditions and effect. -/
def dictDo (w : Writer) (idx sub off : Nat) (data : List Byte) (gen : Option Nat) (eff : State → Except Abort State)
    (s : State) : Except (Abort × Bool) State :=
  match checkWrite w idx sub off data gen s, eff s with
  | some r, .error c => .error (stepOrder r c)
  | some r, .ok _ => .error r
  | none, .error c => .error (c, false)
  | none, .ok s' => .ok s'

/-- The window is shut for a writer: the Golne controller's crossbar port is isolated (18 R480). -/
def windowShut (s : State) (w : Writer) : Bool :=
  s.isoPorts.contains 11 && (match w with
    | .core _ => true
    | .bar2 _ => true
    | _ => false)

/-- A window access that an isolated port refuses: an access fault, imprecise for a core's store (01 R38, 18 R480). -/
def windowRefused (w : Writer) (idx sub : Nat) (s : State) : State :=
  let a := 0x003000000000 + idx * 0x1000 + sub * 0x10
  let s := accessEvent w.mid a .refused s
  match w with
  | .core t => refuseStore (.thr t) a (writerPc w s) s
  | _ => s.emit (.accessFault w.mid a)

/-- A write of an entry as a command: an accepted write has its effect, a refused one what R424 and R434 say. -/
def dictCmd (w : Writer) (idx sub off : Nat) (data : List Byte) (gen : Option Nat) (eff : State → Except Abort State)
    (s : State) : State :=
  if windowShut s w then windowRefused w idx sub s
  else match dictDo w idx sub off data gen eff s with
  | .ok s' => s'
  | .error (c, u) => refuseWrite w idx sub c u (writerPc w s) s

/-- The plain effect of a scalar write: the writable bits take the value (00 R6, R8); an entry under R426 advances its
generation. -/
def plainScalar (idx sub : Nat) (data : List Byte) (s : State) : State :=
  bumpGen idx sub (s.dset idx sub (leNat data &&& writeMask idx sub))

/-- The plain effect of a DOMAIN or OSTRING write (16 R422). -/
def plainDomain (idx sub off : Nat) (data : List Byte) (s : State) : State := s.domWrite idx sub off data

end Sys2Proof.Machine
end

