-- ==== Sys2Proof/Machine/Caches.lean ====
section
/-!
DEFINITION. Machine/Caches.lean: L1, L2, the merging, side and eviction buffers, the task line list, the detectors, and
the maintenance operations of 08 R220 to R245.
-/
namespace Sys2Proof.Machine

/-- The 64-byte line of an address. -/
def lineOf (a : Nat) : Nat := a / 64 * 64

/-- A line that a core's L1 holds. -/
def l1Find (s : State) (k : CoreId) (ln : Nat) : Option Line := (s.core k).l1.find? (fun x => x.addr == ln)

/-- The state with a core's L1 copy of a line changed. -/
def l1Map (k : CoreId) (ln : Nat) (f : Line → Line) (s : State) : State :=
  s.updCore k (fun c => { c with l1 := c.l1.map (fun x => if x.addr == ln then f x else x) })

/-- The memory key of a line address seen by a core of petal `p` (01 R36: own packet buffer). -/
def coreKey (k : CoreId) (a : Nat) (s : State) : Nat := memKey (k.thread 0).mid a s

/-! ## L2 (08 R220, R232, R238) -/

/-- The number of an L2 set's first way, for a line address: bank [7:6], set [16:8] (08 R220). -/
def l2Base (ln : Nat) : Nat := ((ln / 64) % 4 * 512 + (ln / 256) % 512) * 16

/-- The L2 entry that is assigned to or holds a line, with its key. -/
def l2Find (s : State) (p : Petal) (c : Cluster) (ln : Nat) : Option (Nat × L2Entry) :=
  (s.clus p c).l2.find? (fun e => e.2.addr == ln && l2Base ln ≤ e.1 && e.1 < l2Base ln + 16)

/-- The state with an L2 entry put. -/
def l2Put (p : Petal) (c : Cluster) (key : Nat) (x : L2Entry) (s : State) : State :=
  s.updClus p c (fun r => { r with l2 := Tab.put r.l2 key x })

/-- The state with an L2 entry removed. -/
def l2Drop (p : Petal) (c : Cluster) (key : Nat) (s : State) : State :=
  s.updClus p c (fun r => { r with l2 := Tab.erase r.l2 key })

/-- Bytes of a line replaced at their addresses. -/
def patch (ln : Nat) (data : List Byte) (l : List (Nat × Byte)) : List Byte :=
  data.zipIdx.map (fun (b, i) => ((l.find? (fun e => e.1 == ln + i)).map Prod.snd).getD b)

/-- General bytes of a line that go home pass the cluster's L2, whose valid copy of the line takes them: a thread's later load
returns its own store (08 R232, R241 item 1; DEDUCED, assumption 26). -/
def l2Patch (k : CoreId) (ln : Nat) (l : List (Nat × Byte)) (s : State) : State :=
  match l2Find s k.p k.c ln with
  | some (key, e) => if e.valid then l2Put k.p k.c key { e with data := patch ln e.data l } s else s
  | none => s

/-- Writes a line back to its home point, its poison with it (08 R245). -/
def writeBack (k : CoreId) (x : Line) (s : State) : State :=
  let key := coreKey k x.addr s
  let s := l2Patch k x.addr (x.data.zipIdx.map (fun (b, i) => (x.addr + i, b))) (storeHome key x.data (keepHint s 0 x.addr) s)
  if x.poison then setPoison key 64 s else s

/-- Puts a clean general line into L2: an assigned line into its pinned entry; else into a free unlocked way, or in place of
a victim among the unlocked ways, a free choice (08 R220, R232, R238; DESIGN CHOICE, assumption 6). -/
def l2Insert (p : Petal) (c : Cluster) (ln : Nat) (data : List Byte) (s : State) : State :=
  match l2Find s p c ln with
  | some (key, x) => l2Put p c key { x with data := data, valid := true } s
  | none =>
    let base := l2Base ln
    let ways := (List.range 16).filter (fun w => wayMode s p c ((ln / 64) % 4) w == 0)
    match ways.find? (fun w => (Tab.find (s.clus p c).l2 (base + w)).isNone) with
    | some w => l2Put p c (base + w) ⟨ln, data, true, false⟩ s
    | none =>
      match ways[Config.freeChoice s.fresh % ways.length]? with
      | some w => l2Put p c (base + w) ⟨ln, data, true, false⟩ s.tick
      | none => s

/-- The next level accepts a core's oldest victim (08 R232, R233): packet lines go home when dirty; general lines are offered
to L2, which may decline all but assigned ones and then keeps no copy of a dirty one; a dirty general line passes to its home
point. A clean line that an unlocked way holds already leaves that copy (DESIGN CHOICE, assumption 6); a poisoned one is no
clean line for L2. -/
def evictAccept (k : CoreId) (declined : Bool) (s : State) : State :=
  match (s.core k).evict with
  | [] => s
  | x :: q =>
    let s := s.updCore k (fun c => { c with evict := q })
    let s := if x.dirty then writeBack k x s else s
    if addrClass s x.addr = .general then
      let assigned := match l2Find s k.p k.c x.addr with
        | some (_, e) => e.pinned
        | none => false
      let held := match l2Find s k.p k.c x.addr with
        | some (_, e) => e.valid
        | none => false
      if x.poison then l2Leave k x.addr s
      else if declined && !assigned then
        let s := s.bump (cacheIdx k.p k.c) 9
        if x.dirty then l2Leave k x.addr s else s
      else if held && !assigned && !x.dirty then s
      else l2Insert k.p k.c x.addr x.data s
    else s
where
  /-- L2's copy of a line in an unlocked way is dropped; a pinned entry is locked-empty (08 R238). -/
  l2Leave (k : CoreId) (ln : Nat) (s : State) : State :=
    match l2Find s k.p k.c ln with
    | some (key, e) => if e.pinned then l2Put k.p k.c key { e with valid := false, data := [] } s else l2Drop k.p k.c key s
    | none => s

/-- The next level accepts a core's oldest victim; whether L2 declines it is a free choice (08 R232: an age in L2 steps; DESIGN
CHOICE, assumption 6). -/
def evictNext (k : CoreId) (s : State) : State := evictAccept k (Config.freeChoice s.fresh % 2 == 1) s.tick

/-- A maintenance operation on a line in the eviction buffer waits until the line has been accepted, and the lines before it
(08 R233). -/
def evictFlush (k : CoreId) (ln : Nat) (s : State) : State :=
  if (s.core k).evict.any (fun x => x.addr == ln) then
    ((s.core k).evict.takeWhile (fun x => x.addr != ln)).foldl (fun s _ => evictNext k s) (evictNext k s)
  else s

/-- Puts a victim into the eviction buffer of 4 lines; a full buffer first has its oldest line accepted (08 R233). -/
def evictPut (k : CoreId) (x : Line) (s : State) : State :=
  let s := if (s.core k).evict.length < 4 then s else evictNext k s
  s.updCore k (fun c => { c with evict := c.evict ++ [x] })

/-- Puts a line into L1: a free way of its set, or in place of a victim, a free choice (08 R220; DESIGN CHOICE, assumption 6). -/
def l1Place (k : CoreId) (x : Line) (s : State) : State :=
  let inSet := fun (y : Line) => (y.addr / 64) % 128 == (x.addr / 64) % 128
  let used := ((s.core k).l1.filter inSet).map Line.way
  match (List.range 4).find? (fun w => !used.contains w) with
  | some w => s.updCore k (fun c => { c with l1 := c.l1 ++ [{ x with way := w }] })
  | none =>
    let w := Config.freeChoice s.fresh % 4
    let s := s.tick
    match (s.core k).l1.find? (fun y => inSet y && y.way == w) with
    | none => s
    | some v =>
      let s := s.updCore k (fun c => { c with l1 := c.l1.filter (fun y => !(inSet y && y.way == w)) ++ [{ x with way := w }] })
      evictPut k v s

/-- A request for a line in the eviction buffer cancels its eviction: the line returns to L1 (08 R233). -/
def evictReturn (k : CoreId) (ln : Nat) (s : State) : State :=
  match (s.core k).evict.find? (fun x => x.addr == ln) with
  | some v =>
    l1Place k v ((s.updCore k (fun c => { c with evict := c.evict.filter (fun x => x.addr != ln) })).bump (cacheIdx k.p k.c) 0x0A)
  | none => s

/-- Removes a line from a core's L1 and from the task line lists of its threads (08 R236). -/
def l1Remove (k : CoreId) (ln : Nat) (s : State) : State :=
  let s := s.updCore k (fun c => { c with l1 := c.l1.filter (fun x => x.addr != ln) })
  [(0 : Thr), 1, 2, 3, 4, 5, 6, 7].foldl (fun s t =>
    s.updThr (.thr (k.thread t)) (fun x => { x with lines := x.lines.filter (· != ln) })) s

/-- Cleans a core's L1 copy of a line: dirty data is written to its home point (08 R236). -/
def l1Clean (k : CoreId) (ln : Nat) (s : State) : State :=
  match l1Find s k ln with
  | some x => if x.dirty then l1Map k ln (fun y => { y with dirty := false }) (writeBack k x s) else s
  | none => s

/-- Drops a line from a core's side buffer (08 R230). -/
def sideDrop (k : CoreId) (ln : Nat) (s : State) : State :=
  s.updCore k (fun c => { c with side := c.side.filter (fun x => x.addr != ln) })

/-- Cleans a core's line wherever the core holds it: in L1, or as a victim that the next level has not accepted (08 R226,
R233). -/
def coreClean (k : CoreId) (ln : Nat) (s : State) : State :=
  let s := l1Clean k ln s
  match (s.core k).evict.find? (fun x => x.addr == ln && x.dirty) with
  | some v =>
    (writeBack k v s).updCore k (fun c =>
      { c with evict := c.evict.map (fun x => if x.addr == ln then { x with dirty := false } else x) })
  | none => s

/-- A core holds a line no longer: not in L1, nor as a victim, nor in the side buffer (08 R226, R229; 05 R140). -/
def coreDrop (k : CoreId) (ln : Nat) (s : State) : State :=
  sideDrop k ln ((l1Remove k ln s).updCore k (fun c => { c with evict := c.evict.filter (fun x => x.addr != ln) }))

/-- Adds a line to a thread's task line list; the oldest of 17 lines is cleaned, and invalidated when it is a packet line
(08 R225). -/
def taskLine (t : ThreadId) (ln : Nat) (s : State) : State :=
  let h := Hart.thr t
  if (s.thr h).lines.contains ln then s
  else
    let s := s.updThr h (fun x => { x with lines := x.lines ++ [ln] })
    match (s.thr h).lines with
    | o :: q =>
      if 16 ≤ q.length then
        let s := coreClean t.core o (s.updThr h (fun x => { x with lines := q }))
        if addrClass s o = .packet then coreDrop t.core o s else s
      else s
    | [] => s

/-! ## Fills (08 R225, R229, R230, R232, R233) -/

/-- The bytes of a core's merging buffer laid over a line's bytes (08 R229). -/
def mergeLay (s : State) (k : CoreId) (ln : Nat) (data : List Byte) : List Byte :=
  match (s.core k).merge.find? (fun m => m.addr == ln) with
  | none => data
  | some m => data.zipIdx.map (fun (b, i) => (Tab.find m.bytes (ln + i)).getD b)

/-- Fills a line into a core's L1 for a thread: back from the eviction buffer, from the side buffer, from L2 for a general
line, or from its home point (08 R225 to R233). -/
def l1Fill (t : ThreadId) (ln : Nat) (s : State) : State :=
  let k := t.core
  let cls : AClass := addrClass s ln
  let ci := cacheIdx k.p k.c
  let s := if (s.core k).evict.any (fun x => x.addr == ln) then evictReturn k ln s
    else
      match (s.core k).side.find? (fun x => x.addr == ln) with
      | some v =>
        l1Place k v ((s.updCore k (fun c => { c with side := c.side.filter (fun x => x.addr != ln) })).bump ci 0x0C)
      | none =>
        let l2 := match l2Find s k.p k.c ln with
          | some (_, e) => if cls == AClass.general && e.valid then some e.data else none
          | none => none
        match l2 with
        | some d => l1Place k ⟨ln, 0, d, false, false, t.t.val⟩ (s.bump ci 8)
        | none =>
          let key := coreKey k ln s
          let r := loadHome key 64 (cls != AClass.through) s
          let s := l1Place k ⟨ln, 0, mergeLay s k ln r.2.1, false, r.2.2, t.t.val⟩ r.1
          match l2Find s k.p k.c ln with
          | some (ky, e) => if cls == AClass.general && e.pinned then l2Put k.p k.c ky { e with data := r.2.1, valid := true } s else s
          | none => s
  if cls == AClass.packet then taskLine t ln s else s

/-- Whether bytes of a core's merging buffer that a read meets are poisoned (08 R245). -/
def mergeBad (s : State) (k : CoreId) (a n : Nat) : Bool :=
  (s.core k).merge.any (fun m => m.addr == lineOf a && m.poison && m.bytes.any (fun e => a ≤ e.1 && e.1 < a + n))

/-- Reads bytes of one line through L1 (08 R221, R225, R229): the bytes and whether they are poisoned (R245). -/
def l1Read (t : ThreadId) (a n : Nat) (s : State) : State × List Byte × Bool :=
  let ln := lineOf a
  let ci := cacheIdx t.p t.c
  let s := match l1Find s t.core ln with
    | some _ => s.bump ci 6
    | none => l1Fill t ln (s.bump ci 7)
  match l1Find s t.core ln with
  | some x => (s, (x.data.drop (a - ln)).take n, x.poison || mergeBad s t.core a n)
  | none => (s, List.replicate n 0, false)

/-! ## Streaming and stride detectors (08 R227, R231) -/

/-- The streaming detector after a store of bytes of a line; the mark tells that the non-allocating mode was entered. -/
def streamStep (d : Stream) (ln : Nat) (offs : List Nat) : Stream × Bool :=
  let count' := fun (d : Stream) => if d.got.length = 64 then { d with count := d.count + 1 } else d
  let enter := fun (d : Stream) => if 8 ≤ d.count && !d.mode then ({ d with mode := true }, true) else (d, false)
  if d.line = ln && d.got ≠ [] then
    let full := d.got.length = 64
    let d' := { d with got := (d.got ++ offs).eraseDups }
    enter (if full then d' else count' d')
  else if ln = d.line + 64 && d.got ≠ [] && (d.got.length = 64 || d.mode) then
    enter (count' { d with line := ln, got := offs, count := if d.got.length = 64 then d.count else 0 })
  else (count' ⟨ln, offs, 0, false⟩, false)

/-- A prefetched line dropped unused, for its age or for a newer prefetch: counted at sub 0x0D (08 R230; 09 R252; DEDUCED, assumption 8). -/
def sideAged (k : CoreId) (ln : Nat) (s : State) : State :=
  if (s.core k).side.any (fun x => x.addr == ln) then sideDrop k ln (s.bump (cacheIdx k.p k.c) 0x0D) else s

/-! ## Shares (09 R250 to R252) -/

/-- A field of a thread's share word: floor or ceiling of a resource (09 R251); 0 packet-buffer units, 1 side-buffer lines,
2 merging-buffer entries. -/
def shareField (s : State) (k : CoreId) (t : Nat) (res : Nat) (ceil : Bool) : Nat :=
  let w := s.dget (coreIdx k.p k.lc) (1 + t)
  match res, ceil with
  | 0, true => min (bitsOf w 63 48) (s.dget (coreIdx k.p k.lc) 9)
  | 0, false => bitsOf w 47 32
  | 1, true => bitsOf w 31 27
  | 1, false => bitsOf w 26 22
  | _, true => bitsOf w 21 18
  | _, false => bitsOf w 17 14

/-- Whether thread `t` may take one more unit of a resource of its core, with counts `cnt` and total `total` (09 R250). -/
def mayTake (s : State) (k : CoreId) (t res total : Nat) (cnt : Nat → Nat) : Bool :=
  mayTakeOf s k t res (total - ((List.range 8).map cnt).sum) cnt
where
  /-- The same with the number of free units given. -/
  mayTakeOf (s : State) (k : CoreId) (t res freeN : Nat) (cnt : Nat → Nat) : Bool :=
    let need := ((List.range 8).map (fun u =>
      if u ≠ t && cnt u < shareField s k u res false then shareField s k u res false - cnt u else 0)).sum
    cnt t < shareField s k t res true && ((cnt t < shareField s k t res false && 0 < freeN) || need < freeN)

/-- Whether a refusal of one more unit of a full resource arises only because no unit is free (09 R252): one free unit would do. -/
def onlyFull (s : State) (k : CoreId) (t res total : Nat) (cnt : Nat → Nat) : Bool :=
  total ≤ ((List.range 8).map cnt).sum && mayTake.mayTakeOf s k t res 1 cnt

/-- The merging-buffer entries that count against a thread (09 R250). -/
def mergeCount (s : State) (k : CoreId) (t : Nat) : Nat := ((s.core k).merge.filter (fun m => m.owner == t)).length

/-- The side-buffer lines that count against a thread (09 R250). -/
def sideCount (s : State) (k : CoreId) (t : Nat) : Nat := ((s.core k).side.filter (fun x => x.owner == t)).length

/-- Prefetches a line into a core's side buffer for a thread (08 R230, R233; 09 R252): nothing for an address that may not be
prefetched or a line already held; a line in the eviction buffer returns to L1. A buffer that is only full drops its oldest
line; a share that is used up gives the thread's own oldest line, or discards the prefetch. -/
def prefetchLine (t : ThreadId) (ln : Nat) (s : State) : State :=
  let k := t.core
  let okc := addrClass s ln != .uncached
  let acc := match checkAccess t.mid ln false s with
    | .ok _ => true
    | _ => false
  if !okc || !acc || detOn s t.p t.c then s
  else if (s.core k).evict.any (fun x => x.addr == ln) then evictReturn k ln s
  else if (l1Find s k ln).isSome || (s.core k).side.any (fun x => x.addr == ln) then s
  else
    let put := fun (s : State) =>
      let r := loadHome (coreKey k ln s) 64 (keepHint s 0 ln) s
      let data := mergeLay r.1 k ln r.2.1
      r.1.updCore k (fun c => { c with side := c.side ++ [⟨ln, 0, data, false, r.2.2, t.t.val⟩] })
    let inPlace := fun (d : Option Line) => match d with
      | some d => put (sideAged k d.addr s)
      | none => s
    if mayTake s k t.t.val 1 16 (sideCount s k) then put s
    else if onlyFull s k t.t.val 1 16 (sideCount s k) then inPlace (s.core k).side.head?
    else inPlace ((s.core k).side.find? (fun x => x.owner == t.t.val))

/-- The stride prefetcher after a load (08 R231): after three loads with equal non-zero stride of at most 2,048 bytes, the
lines at the next DEPTH multiples of the stride are prefetched. -/
def strideStep (t : ThreadId) (a : Nat) (s : State) : State :=
  let h := Hart.thr t
  let d := (s.thr h).stride
  let st : Int := (a : Int) - d.last
  let run := if st = d.stride then d.run + 1 else 1
  let s := s.updThr h (fun x => { x with stride := ⟨a, st, run⟩ })
  let w := s.dget (pix 0x3330 t.p) 2
  if bitOf w 0 && !detOn s t.p t.c && st ≠ 0 && st.natAbs ≤ 2048 && 3 ≤ run then
    (List.range (bitsOf w 3 1)).foldl (fun s (i : Nat) =>
      let x : Int := (a : Int) + st * ((i : Int) + 1)
      if 0 ≤ x then prefetchLine t (lineOf x.toNat) s else s) s
  else s

/-! ## The merging buffer (08 R228, 09 R252) -/

/-- Drains an entry of a core's merging buffer: one write of its bytes to the home point, its poison with it (08 R228, R245). -/
def mergeDrain (k : CoreId) (ln : Nat) (s : State) : State :=
  match (s.core k).merge.find? (fun m => m.addr == ln) with
  | none => s
  | some m =>
    let s := s.updCore k (fun c => { c with merge := c.merge.filter (fun x => x.addr != ln) })
    let s := storeHomePairs m.bytes false s
    if m.poison then l1Map k ln (fun x => { x with poison := true }) (setPoison ln 64 s) else s

/-- Drains the oldest entry of a core's merging buffer. -/
def mergeDrainOldest (k : CoreId) (s : State) : State :=
  match (s.core k).merge with
  | [] => s
  | m :: _ => mergeDrain k m.addr s

/-- Drains every entry that holds bytes of a thread, in allocation order (08 R228). -/
def mergeDrainThread (t : ThreadId) (s : State) : State :=
  (((s.core t.core).merge.filter (fun m => m.threads.contains t.t.val)).map MergeEntry.addr).foldl
    (fun s ln => mergeDrain t.core ln s) s

/-- A write-through store of bytes of one line enters the merging buffer (08 R228, 09 R250, R252); the L1 copy takes them too, a
victim returned to it (R233), and the side buffer drops the line (R230). -/
def mergeStore (t : ThreadId) (ln : Nat) (l : List (Nat × Byte)) (s : State) : State :=
  let k := t.core
  let s := l1Map k ln (fun x => { x with data := patch ln x.data l }) (evictReturn k ln (sideDrop k ln s))
  let put := fun (m : MergeEntry) => { m with
    bytes := memPutPairs' m.bytes l
    threads := if m.threads.contains t.t.val then m.threads else m.threads ++ [t.t.val] }
  if (s.core k).merge.any (fun m => m.addr == ln) then
    s.updCore k (fun c => { c with merge := c.merge.map (fun m => if m.addr == ln then put m else m) })
  else
    let new := fun (s : State) => s.updCore k (fun c => { c with merge := c.merge ++ [put ⟨ln, [], [], t.t.val, false⟩] })
    if mayTake s k t.t.val 2 8 (mergeCount s k) then new s
    else if onlyFull s k t.t.val 2 8 (mergeCount s k) then new ((mergeDrainOldest k s).bump (cacheIdx k.p k.c) 0x10)
    else match (s.core k).merge.find? (fun m => m.owner == t.t.val) with
      | some m => new (mergeDrain k m.addr s)
      | none => (storeHomePairs l false s).bump (coreIdx k.p k.lc) 0x0F
where
  /-- Bytes put into an entry's byte table: a later store's bytes replace earlier ones. -/
  memPutPairs' (b : Tab Byte) : List (Nat × Byte) → Tab Byte
    | [] => b
    | (a, v) :: q => memPutPairs' (Tab.put b a v) q

/-! ## Stores of write-back classes (08 R225 to R227, R243) -/

/-- A general or packet store of bytes of one line (08 R225, R227, R243): into L1, filled first; straight to the home point
in non-allocating mode when the line is not in L1, and under DETERMINISTIC. -/
def backStore (t : ThreadId) (ln : Nat) (l : List (Nat × Byte)) (s : State) : State :=
  let k := t.core
  let h := Hart.thr t
  let s := sideDrop k ln s
  let home := fun (s : State) => l2Patch k ln l (storeHomePairs (l.map (fun e => (coreKey k e.1 s, e.2))) true s)
  if detOn s t.p t.c then home s
  else
    let s := evictReturn k ln s
    let r := streamStep (s.thr h).stream ln (l.map (fun e => e.1 - ln))
    let s := s.updThr h (fun x => { x with stream := r.1 })
    let s := if r.2 then s.bump (cacheIdx t.p t.c) 0x0B else s
    let here := (l1Find s k ln).isSome
    if r.1.mode && !r.2 && !here then home s
    else
      let s := if here then s else l1Fill t ln s
      taskLine t ln (l1Map k ln (fun x => { x with data := patch ln x.data l, dirty := true }) s)

/-! ## Cleans of whole caches (02 R49, 08 R226, R244) -/

/-- Cleans every dirty line on a thread's task line list and drains its merging-buffer entries (08 R226, R228). -/
def cleanTask (t : ThreadId) (s : State) : State :=
  mergeDrainThread t ((s.thr (.thr t)).lines.foldl (fun s ln => coreClean t.core ln s) s)

/-- At `TKEND`: the packet lines of the list are invalidated and the list is emptied (08 R226). -/
def endTaskLines (t : ThreadId) (s : State) : State :=
  let ls := (s.thr (.thr t)).lines
  let s := ls.foldl (fun s ln => if addrClass s ln = .packet then coreDrop t.core ln s else s) s
  s.updThr (.thr t) (fun x => { x with lines := [] })

/-- Cleans every line of a core's L1 and drains its merging and eviction buffers (08 R244). -/
def cleanCore (k : CoreId) (s : State) : State :=
  let s := ((s.core k).l1.map Line.addr).foldl (fun s ln => l1Clean k ln s) s
  let s := ((s.core k).merge.map MergeEntry.addr).foldl (fun s ln => mergeDrain k ln s) s
  ((s.core k).evict.map Line.addr).foldl (fun s _ => evictAccept k false s) s

/-- Empties a core's L1 and side buffer and the task line lists of its threads (08 R234, R244). -/
def invalidateCore (k : CoreId) (s : State) : State :=
  let s := s.updCore k (fun c => { c with l1 := [], side := [] })
  [(0 : Thr), 1, 2, 3, 4, 5, 6, 7].foldl (fun s t => s.updThr (.thr (k.thread t)) (fun x => { x with lines := [] })) s

/-- Every cluster of a petal. -/
def allClusters : List Cluster := [0, 1, 2, 3, 4, 5]

/-- Every petal. -/
def allPetals : List Petal := [0, 1, 2, 3]

/-! ## Maintenance (08 R235 to R239) -/

/-- Whether a maintenance command holds a reserved value (08 R235). -/
def cacheReserved (op sel level count addr : Nat) : Bool :=
  6 ≤ op || sel = 3 || level = 3 || (sel ≠ 1 && count ≠ 0) || (sel = 2 && level = 1) ||
    (op = 3 && (sel = 2 || level ≠ 0 || 16 ≤ count)) || ((op = 4 || op = 5) && (sel ≠ 0 || level ≠ 2)) ||
    (sel = 2 && level = 0 && addr ≠ (bitsOf addr 12 6) * 64 + bitsOf addr 1 0) ||
    (sel = 2 && level = 2 && addr ≠ (bitsOf addr 16 6) * 64 + bitsOf addr 3 0)

/-- An L2 line reached by an invalidate: a pinned entry stays assigned and locked-empty, any other is removed
(08 R236, R238). -/
def l2Invalidate (p : Petal) (c : Cluster) (key : Nat) (s : State) : State :=
  match Tab.find (s.clus p c).l2 key with
  | some e => if e.pinned then l2Put p c key { e with valid := false, data := [] } s else l2Drop p c key s
  | none => s

/-- What any maintenance operation on a line does first: the side buffer drops it (08 R230), and a victim is accepted (R233). -/
def maintFirst (k : CoreId) (ln : Nat) (s : State) : State := evictFlush k ln (sideDrop k ln s)

/-- A maintenance operation on one line of L1 (08 R236, R243). -/
def l1Maint (k : CoreId) (op ln : Nat) (s : State) : State :=
  if detOn s k.p k.c then s
  else
    match op with
    | 0 => l1Clean k ln s
    | 1 => l1Remove k ln s
    | _ => l1Remove k ln (l1Clean k ln s)

/-- A maintenance operation on one line of L2: a clean has no effect, L2 holding no dirty data (08 R236). -/
def l2Maint (p : Petal) (c : Cluster) (op ln : Nat) (s : State) : State :=
  if op = 0 then s
  else match l2Find s p c ln with
    | some (key, _) => l2Invalidate p c key s
    | none => s

/-- OP 4, lock line (08 R238): the line takes a pinned way whose entry in its set is free; a line in an unlocked way moves;
with no such entry the command is counted and reported, and accepted as complete. -/
def lockLine (t : ThreadId) (ln : Nat) (s : State) : State :=
  let p := t.p; let c := t.c
  if addrClass s ln ≠ .general then s
  else match l2Find s p c ln with
  | some (_, e) => if e.pinned then s else place (some e.data) s
  | none => place none s
where
  /-- The pinned way that is free in the line's set. -/
  place (have_ : Option (List Byte)) (s : State) : State :=
    let p := t.p; let c := t.c
    let free := (List.range 8).find? (fun w => wayMode s p c ((ln / 64) % 4) w == 2 &&
      (Tab.find (s.clus p c).l2 (l2Base ln + w)).isNone)
    match free with
    | none => raise (0x07C + p.val) (ln / 64 % 2 ^ 19) (some p) (s.bump (cacheIdx p c) 0x0F)
    | some w =>
      let s := match l2Find s p c ln with
        | some (key, _) => l2Drop p c key s
        | none => s
      match l1Find s t.core ln, have_ with
      | some x, _ => l2Put p c (l2Base ln + w) ⟨ln, x.data, true, true⟩ (l1Clean t.core ln s)
      | none, some d => l2Put p c (l2Base ln + w) ⟨ln, d, true, true⟩ s
      | none, none =>
        let r := loadHome ln 64 (keepHint s 0 ln) s
        l2Put p c (l2Base ln + w) ⟨ln, r.2.1, true, true⟩ r.1

/-- OP 5, unlock line (08 R238): the assignment ends and the line is dropped. -/
def unlockLine (t : ThreadId) (ln : Nat) (s : State) : State :=
  match l2Find s t.p t.c ln with
  | some (key, e) => if e.pinned then l2Drop t.p t.c key s else s
  | none => s

/-- A maintenance command of a core thread (08 R235 to R238). -/
def cacheOp (t : ThreadId) (op sel level count addr : Nat) (s : State) : State :=
  let k := t.core
  let lines := (List.range (if sel = 1 then count + 1 else 1)).map (fun i => (lineOf addr + 64 * i) % 2 ^ 48)
  match op with
  | 3 => lines.foldl (fun s ln => prefetchLine t ln s) s
  | 4 => lockLine t (lineOf addr) (maintFirst k (lineOf addr) s)
  | 5 => unlockLine t (lineOf addr) (maintFirst k (lineOf addr) s)
  | _ =>
    if sel = 2 then
      if level = 0 then
        match (s.core k).l1.find? (fun x => (x.addr / 64) % 128 == bitsOf addr 12 6 && x.way == bitsOf addr 1 0) with
        | some x => l1Maint k op x.addr (maintFirst k x.addr s)
        | none => s
      else
        let key := ((bitsOf addr 7 6) * 512 + bitsOf addr 16 8) * 16 + bitsOf addr 3 0
        let s := match Tab.find (s.clus t.p t.c).l2 key with
          | some e => maintFirst k e.addr s
          | none => s
        if op = 0 then s else l2Invalidate t.p t.c key s
    else
      lines.foldl (fun s ln =>
        if addrClass s ln = .uncached then s
        else
          let s := maintFirst k ln s
          let s := if level ≤ 1 then l1Maint k op ln s else s
          if 1 ≤ level then l2Maint t.p t.c op ln s else s) s

/-- A write of an L2 lock word: the changes of way modes (08 R238). -/
def lockWord (p : Petal) (c : Cluster) (bank : Nat) (v : Nat) (s : State) : State :=
  let old := s.dget (cacheIdx p c) (1 + bank)
  let s := (List.range 8).foldl (fun s w =>
    let o := bitsOf old (2 * w + 1) (2 * w)
    let n := bitsOf v (2 * w + 1) (2 * w)
    if o = n then s
    else
      let s := s.updClus p c (fun r => { r with l2 := r.l2.filter (fun e => !(e.1 / 16 / 512 == bank && e.1 % 16 == w)) })
      if o = 1 || n = 1 then
        (List.range 512).foldl (fun s set =>
          let a := scratchAddr p.val c.val (w * 0x20000 + set * 256 + bank * 64)
          cleanRange a 64 (s.memClear a 64)) s
      else s) s
  s.dset (cacheIdx p c) (1 + bank) (v % 2 ^ 16)

/-- A write of the page attribute table (08 R222, R223): every cache cleans and invalidates its lines of the pages whose
class changes; a fixed page's bits stay. A value 3 is reserved. The caches of a halted petal write nothing back (R244). -/
def pageWrite (off : Nat) (data : List Byte) (s : State) : Except Abort State :=
  let ent := fun (b : Byte) (j : Nat) => bitsOf b.toNat (2 * j + 1) (2 * j)
  if data.any (fun b => (List.range 4).any (fun j => ent b j == 3)) then .error 0x06090030
  else
    let merged : List Byte := data.zipIdx.map (fun (b, i) =>
      BitVec.ofNat 8 (((List.range 4).map (fun j => ((fixedPage ((off + i) * 4 + j)).getD (ent b j)) * 4 ^ j)).sum))
    let old := s.domRead 0x2030 0 off data.length
    let changed := ((List.range (4 * data.length)).filter (fun q =>
      ent (old.getD (q / 4) 0) (q % 4) != ent (merged.getD (q / 4) 0) (q % 4))).map (fun q => off * 4 + q)
    let hit := fun (ln : Nat) => inDram ln && changed.contains (ln / 0x200000)
    let s := (allPetals.filter (fun p => !petalHalted s p)).foldl (fun s p => allClusters.foldl (fun s c =>
      let s := (coresOf p c).foldl (fun s k =>
        let s := ((((s.core k).l1 ++ (s.core k).evict).map Line.addr).filter hit).foldl (fun s ln =>
          coreDrop k ln (coreClean k ln s)) s
        let s := (((s.core k).merge.map MergeEntry.addr).filter hit).foldl (fun s ln => mergeDrain k ln s) s
        (((s.core k).side.map Line.addr).filter hit).foldl (fun s ln => sideDrop k ln s) s) s
      (((s.clus p c).l2.filter (fun e => hit e.2.addr)).map Prod.fst).foldl (fun s key => l2Invalidate p c key s) s) s) s
    .ok (s.domWrite 0x2030 0 off merged)

end Sys2Proof.Machine
end

