-- ==== Sys2Proof/Machine/Buffers.lean ====
section
/-!
DEFINITION. Machine/Buffers.lean: the packet buffer of a petal (12 R314 to R323, R337): pools, carving, link words,
allocation, free and its checks, and packets as the bytes of a chain of buffers.
-/
namespace Sys2Proof.Machine

/-- The state with a petal's packet path changed. -/
def State.updPet (s : State) (p : Petal) (f : PetalSt → PetalSt) : State :=
  { s with petals := Tab.put s.petals p.val (f (s.pet p)) }

/-- The state with a pool changed. -/
def updPool (p : Petal) (k : Nat) (f : Pool → Pool) (s : State) : State :=
  let x := poolOf s p k
  s.updPet p (fun r => { r with pools := Tab.put r.pools k (f x) })

/-- The BUF word of a buffer (12 R315). -/
def bufWord (k i : Nat) : Nat := k * 2 ^ 29 + i

/-- The pool and index that a BUF word names, if it names a buffer (12 R315). -/
def bufName (s : State) (p : Petal) (b : Nat) : Option (Nat × Nat) :=
  let k := bitsOf b 31 29
  let i := bitsOf b 28 0
  if k < 5 && i < (poolOf s p k).cnt then some (k, i) else none

/-- The die address of a buffer (12 R315). -/
def bufAddr (s : State) (p : Petal) (k i : Nat) : Nat := pbAddr p.val (poolBase s p k + i * poolSize k)

/-- TAG of a free link word (12 R316). -/
def bufTag (k i : Nat) : Nat := ((i % 2 ^ 16) ^^^ (k * 2 ^ 13)) ^^^ 0xFFFF

/-- A free link word (12 R316). -/
def freeLink (k i : Nat) (next : Option Nat) : Nat :=
  (match next with | some j => bufWord k j | none => 0xFFFFFFFF) * 2 ^ 32 + bufTag k i * 2 ^ 16

/-- An allocated link word (12 R316). -/
def usedLink (next : Option Nat) (len start : Nat) : Nat :=
  (next.getD 0) * 2 ^ 32 + b2n next.isSome * 2 ^ 31 + len * 2 ^ 14 + start

/-- The state of a buffer: 0 FRESH, 1 ALLOCATED, 2 RETURNED (12 R321). -/
def bufState (s : State) (p : Petal) (k i : Nat) : Nat := Tab.get 0 (poolOf s p k).states i

/-- The cells of the free link words of a list of buffers, in rising order, each linked to the next (12 R314, R321). -/
def linkCells (s : State) (p : Petal) (k : Nat) : List Nat → List Host.Cell
  | [] => []
  | i :: l =>
    ((leBytes 8 (freeLink k i l.head?)).zipIdx.map (fun (b, j) => (bufAddr s p k i + j, b))).filter (fun e => e.2 ≠ memDefault)
      ++ linkCells s p k l

/-- Whether an address is a byte of the link word of one of a pool's buffers. -/
def inLink (base size cnt a : Nat) : Bool := base ≤ a && a < base + size * cnt && (a - base) % size < 8

/-- The spill engine's start and stop by the free counts (12 R326): it runs once a pool is at its spill-on threshold or below,
until every pool is at its spill-off threshold or above. -/
def spillWatch (p : Petal) (s : State) : State :=
  let cnt := fun k => s.dget (pix 0x33A3 p) (k + 1)
  let low := (List.range 5).any (fun k => cnt k ≤ s.dget (pix 0x33A2 p) (k + 1))
  let high := (List.range 5).all (fun k => s.dget (pix 0x33A2 p) (0x11 + k) ≤ cnt k)
  let run := low || ((s.pet p).spillRun && !high)
  if run = (s.pet p).spillRun then s else s.updPet p (fun r => { r with spillRun := run })

/-- A pool's free list written anew over a list of its buffers in ascending order (12 R314, R321). -/
def relink (p : Petal) (k : Nat) (free : List Nat) (s : State) : State :=
  let base := bufAddr s p k 0
  let x := poolOf s p k
  let keep := s.mem.filter (fun e => !(inLink base (poolSize k) x.cnt e.1 &&
    Tab.get 0 x.states ((e.1 - base) / poolSize k) ≠ 1))
  let cells := linkCells s p k free
  let s := { s with mem := Tab.lay (cells.length + keep.length) cells keep }
  let s := updPool p k (fun x => { x with head := free.head?, rebuild := false }) s
  s.dset (pix 0x33A3 p) (k + 1) free.length

/-- The carving of a petal's pools: the counts as written take effect, every buffer is FRESH, and each pool's buffers are
linked in ascending order (12 R314). -/
def carve (p : Petal) (s : State) : State :=
  let s := s.updPet p (fun r => { r with
    carved := true, owners := []
    pools := (List.range 5).map (fun k =>
      (k, { cnt := s.dget (pix 0x33A0 p) (k + 1), head := none, states := [], bad := [], rebuild := false })) })
  (List.range 5).foldl (fun s k => relink p k (List.range (poolOf s p k).cnt) s) s

/-- The capacity of a first or continuation buffer of a pool (12 R317). -/
def bufCap (k : Nat) (first : Bool) : Nat := poolSize k - (if first then 136 else 8)

/-- A pool's list found corrupt: it is abandoned, counted, reported, and its rebuild begins (12 R321). -/
def poolCorrupt (p : Petal) (k i : Nat) (s : State) : State :=
  let s := updPool p k (fun x => { x with head := none, rebuild := true }) s
  let s := s.bump (pix 0x33A3 p) 0x0C
  raiseD (0x0A4 + p.val) (k * 2 ^ 16 + i % 2 ^ 16) (some p) ([BitVec.ofNat 8 k, 0, 0, 0] ++ leBytes 4 i) s

/-- Takes the head buffer of a pool, with the checks of 12 R321; none where the pool has none, or its list is corrupt. -/
def takeBuf (p : Petal) (k : Nat) (s : State) : State × Option Nat :=
  let x := poolOf s p k
  match x.rebuild, x.head with
  | false, some i =>
    let a := bufAddr s p k i
    let w := s.memNat a 8
    if bitsOf w 31 16 = bufTag k i && bufState s p k i ≠ 1 && !poisoned s a 8 then
      let next := bitsOf w 63 32
      let s := updPool p k (fun x =>
        { x with head := if next = 0xFFFFFFFF then none else some (next % 2 ^ 29), states := Tab.set 0 x.states i 1 }) s
      let s := homeWrite a (leBytes 8 (usedLink none 0 8)) s
      (spillWatch p (s.dset (pix 0x33A3 p) (k + 1) (s.dget (pix 0x33A3 p) (k + 1) - 1)), some (bufWord k i))
    else (poolCorrupt p k i s, none)
  | _, _ => (s, none)

/-- Whether a pool is available to a requester with a reserve (12 R318, R321). -/
def poolAvail (s : State) (p : Petal) (reserve : Nat → Nat) (k : Nat) : Bool :=
  !(poolOf s p k).rebuild && (poolOf s p k).head.isSome && reserve k < s.dget (pix 0x33A3 p) (k + 1)

/-- Returns one buffer to its pool, RETURNED (12 R322); a pool that is being rebuilt takes it with the rebuild (R321). -/
def putBuf (p : Petal) (k i : Nat) (s : State) : State :=
  let x := poolOf s p k
  let s := if x.rebuild then s else homeWrite (bufAddr s p k i) (leBytes 8 (freeLink k i x.head)) s
  let s := updPool p k (fun y =>
    { y with states := Tab.set 0 y.states i 2, head := if y.rebuild then y.head else some i }) s
  let s := s.updPet p (fun r => { r with owners := Tab.erase r.owners (bufWord k i) })
  spillWatch p (s.dset (pix 0x33A3 p) (k + 1) (s.dget (pix 0x33A3 p) (k + 1) + 1))

/-- A refused free: counted, recorded, reported (12 R322). -/
def freeRefused (p : Petal) (reason mid b : Nat) (s : State) : State :=
  let s := (s.bump (pix 0x33A3 p) 9).dset (pix 0x33A3 p) 0x0A (reason * 2 ^ 48 + (mid % 2 ^ 16) * 2 ^ 32 + b % 2 ^ 32)
  raise (0x0A0 + p.val) (reason * 2 ^ 17 + b % 2 ^ 17) (some p) s

/-- Frees the chain that begins at a BUF word (12 R322), over at most `n` buffers. -/
def freeChain : Nat → Petal → Nat → Nat → State → State
  | 0, _, _, _, s => s
  | n + 1, p, mid, b, s =>
    match bufName s p b with
    | none => freeRefused p 2 mid b s
    | some (k, i) =>
      let st := bufState s p k i
      if st = 0 then freeRefused p 1 mid b s
      else if st = 2 then freeRefused p 0 mid b s
      else
        let w := s.memNat (bufAddr s p k i) 8
        let s := putBuf p k i s
        if bitOf w 31 then freeChain n p mid (bitsOf w 63 32) s else s

/-- The most buffers that a chain can have: every buffer of a petal. -/
def chainFuel : Nat := 262144

/-- Frees a packet's buffers for a unit of a petal, whose master ID is the petal's own (12 R322). -/
def freePkt (p : Petal) (b : Nat) (s : State) : State := freeChain chainFuel p (0x4800 + 0x100 * p.val) b s

/-- One run of 12 R318: the buffers taken for `need` bytes, in order; none where the allocation fails. -/
def allocRun : Nat → Petal → (Nat → Nat) → Nat → Bool → List Nat → State → State × Option (List Nat)
  | 0, p, _, _, _, taken, s => (taken.foldl (fun s b => freePkt p b s) s, none)
  | n + 1, p, reserve, need, first, taken, s =>
    if need = 0 then (s, some taken)
    else
      let av := (List.range 5).filter (poolAvail s p reserve)
      match (av.find? (fun k => need ≤ bufCap k first)).or av.getLast? with
      | none => (taken.foldl (fun s b => freePkt p b s) s, none)
      | some k =>
        match takeBuf p k s with
        | (s, none) => allocRun n p reserve need first taken s
        | (s, some b) => allocRun n p reserve (need - min need (bufCap k first)) false (taken ++ [b]) s

/-- An allocation for `need` bytes of packet data (12 R318), with its fallback and forced-chain counts. -/
def allocBufs (p : Petal) (reserve : Nat → Nat) (need : Nat) (s : State) : State × Option (List Nat) :=
  let r := allocRun 512 p reserve need true [] s
  match r.2 with
  | none => r
  | some l =>
    let pools := l.map (fun b => bitsOf b 31 29)
    let best := ((List.range 5).find? (fun k => need ≤ bufCap k true)).getD 4
    let fall : Bool := match pools.head? with
      | some k => decide (best < k)
      | none => false
    let s := if fall then r.1.bump (pix 0x33A3 p) 6 else r.1
    let forced := (pools.foldl (fun (acc : Nat × Bool × Bool) k =>
      let (left, first, f) := acc
      let cap := bufCap k first
      (left - min left cap, false, f || (cap < left && (List.range 5).any (fun j => k < j && left ≤ bufCap j first))))
      (need, true, false)).2.2
    (if forced then s.bump (pix 0x33A3 p) 7 else s, some l)

/-- The reserve of ingress and host-transmit fetch (12 R319). -/
def refillReserve (s : State) (p : Petal) (k : Nat) : Nat := s.dget (pix 0x33A1 p) (k + 1)

/-- The buffers of a chain: BUF word, START and LEN of each (12 R316), over at most `n` buffers. -/
def chain : Nat → State → Petal → Nat → List (Nat × Nat × Nat)
  | 0, _, _, _ => []
  | n + 1, s, p, b =>
    match bufName s p b with
    | none => []
    | some (k, i) =>
      let w := s.memNat (bufAddr s p k i) 8
      (b, w % 256, bitsOf w 27 14) :: (if bitOf w 31 then chain n s p (bitsOf w 63 32) else [])

/-- The address of the data of a buffer with a START. -/
def dataAddr (s : State) (p : Petal) (b start : Nat) : Nat :=
  bufAddr s p (bitsOf b 31 29) (bitsOf b 28 0) + start

/-- The bytes of the packet whose chain begins at a BUF word. -/
def pktBytes (s : State) (p : Petal) (b : Nat) : List Byte :=
  ((chain chainFuel s p b).map (fun e => s.memRead (dataAddr s p e.1 e.2.1) e.2.2)).flatten

/-- Whether a packet's data holds poison (12 R337). -/
def pktPoison (s : State) (p : Petal) (b : Nat) : Bool :=
  (chain chainFuel s p b).any (fun e => e.2.2 ≠ 0 && poisoned s (dataAddr s p e.1 e.2.1) e.2.2)

/-- Link words and data of a chain written from a layout of (BUF word, START, LEN) (12 R316, R317). -/
def writeChain (p : Petal) : List (Nat × Nat × Nat) → List Byte → State → State
  | [], _, s => s
  | (b, start, len) :: l, data, s =>
    let a := dataAddr s p b 0
    let s := homeWrite a (leBytes 8 (usedLink (l.head?.map Prod.fst) len start)) s
    let s := homeWrite (a + start) (data.take len) s
    let s := { s with poison := s.poison.filter (fun x => !((a + start) / 32 ≤ x && x ≤ (a + start + len) / 32)) }
    writeChain p l (data.drop len) s

/-- The layout that fills buffers to their capacity, START 136 in the first and 8 in the others (12 R317); what is left
without data comes second. -/
def fillLayout : List Nat → Bool → Nat → List (Nat × Nat × Nat) × List Nat
  | [], _, _ => ([], [])
  | b :: l, first, n =>
    if n = 0 && !first then ([], b :: l)
    else
      let len := min n (bufCap (bitsOf b 31 29) first)
      let r := fillLayout l false (n - len)
      ((b, (if first then 136 else 8), len) :: r.1, r.2)

/-- Writes a packet into buffers that hardware has allocated (12 R317): the first BUF word. -/
def writePkt (p : Petal) (bufs : List Nat) (data : List Byte) (s : State) : State × Nat :=
  (writeChain p (fillLayout bufs true data.length).1 data s, bufs.headD 0)

/-- A packet's bytes changed by an edit (03 R539): `pushed` bytes were added, or `removed` bytes from offset `pos` on were
taken out, or the bytes were rewritten in place. -/
def relay (p : Petal) (b : Nat) (data : List Byte) (pushed : Nat) (removed : Option (Nat × Nat)) (s : State) : State :=
  let ch := chain chainFuel s p b
  match ch with
  | [] => s
  | (b0, st0, len0) :: rest =>
    match removed with
    | none => writeChain p ((b0, st0 - pushed, len0 + pushed) :: rest) data s
    | some (pos, n) =>
      if pos + n ≤ len0 && st0 + n ≤ 255 then writeChain p ((b0, st0 + n, len0 - n) :: rest) data s
      else
        let r := fillLayout (ch.map Prod.fst) true data.length
        let s := writeChain p r.1 data s
        r.2.foldl (fun s b => match bufName s p b with
          | some (k, i) => if bufState s p k i = 1 then putBuf p k i s else s
          | none => s) s

/-- The layout of a chain cut to `n` bytes: the buffers that keep data, and those left without (03 R539). -/
def trimLayout : List (Nat × Nat × Nat) → Bool → Nat → List (Nat × Nat × Nat) × List Nat
  | [], _, _ => ([], [])
  | (b, st, len) :: l, first, n =>
    if n = 0 && !first then ([], b :: l.map Prod.fst)
    else
      let r := trimLayout l false (n - min n len)
      ((b, st, min n len) :: r.1, r.2)

/-- A packet shortened to `data`: `front` bytes fewer from offset `pos` on, the rest at its end (03 R539, 13 R357). -/
def shorten (p : Petal) (b pos front : Nat) (data : List Byte) (s : State) : State :=
  let ch := chain chainFuel s p b
  match ch with
  | [] => s
  | (b0, st0, len0) :: rest =>
    let r := if pos + front ≤ len0 && st0 + front ≤ 255 then trimLayout ((b0, st0 + front, len0 - front) :: rest) true data.length
      else fillLayout (ch.map Prod.fst) true data.length
    let s := writeChain p r.1 data s
    r.2.foldl (fun s b => match bufName s p b with
      | some (k, i) => if bufState s p k i = 1 then putBuf p k i s else s
      | none => s) s

/-- A packet lengthened to `data`: `front` bytes into the headroom, the rest into the last buffer, or into a pool 0 buffer
taken with reserve 0 where the headroom or the last buffer has no room (13 R358); none where that allocation fails. -/
def lengthen (p : Petal) (b front : Nat) (data : List Byte) (s : State) : State × Option Nat :=
  let ch := chain chainFuel s p b
  let total := (ch.map (fun e => e.2.2)).sum
  let back := data.length - total - front
  match ch with
  | [] => (s, none)
  | (b0, st0, len0) :: rest =>
    let pre : State × Option (List (Nat × Nat × Nat)) :=
      if 8 + front ≤ st0 then (s, some ((b0, st0 - front, len0 + front) :: rest))
      else match takeBuf p 0 s with
        | (s, some nb) => (s, some ((nb, 8, front) :: ch))
        | (s, none) => (s, none)
    match pre with
    | (s, none) => (s, none)
    | (s, some ch) =>
      let last := ch.getLast?.getD (b0, st0, len0)
      let room := poolSize (bitsOf last.1 31 29) - last.2.1 - last.2.2
      if back ≤ room then
        let ch' := ch.dropLast ++ [(last.1, last.2.1, last.2.2 + back)]
        (writeChain p ch' data s, (ch'.head?).map Prod.fst)
      else match takeBuf p 0 s with
        | (s, some nb) =>
          let ch' := ch.dropLast ++ [(last.1, last.2.1, last.2.2 + room), (nb, 8, back - room)]
          (writeChain p ch' data s, (ch'.head?).map Prod.fst)
        | (s, none) => (s, none)

/-- START of a packet's first buffer. -/
def pktStart (s : State) (p : Petal) (b : Nat) : Nat := ((chain 1 s p b).head?.map (fun e => e.2.1)).getD 0

/-- The units that a buffer of a pool counts against its thread (12 R320). -/
def bufUnits (b : Nat) : Nat := poolSize (bitsOf b 31 29) / 256

/-- The packet-buffer units that count against a thread (12 R320, 09 R250). -/
def unitsOf (s : State) (p : Petal) (mid : Nat) : Nat :=
  (((s.pet p).owners.filter (fun e => e.2 == mid)).map (fun e => bufUnits e.1)).sum

/-- A thread's allocation or Golne firmware's (12 R320): the result word. -/
def allocateRead (m : Nat) (p : Petal) (k : Nat) (s : State) : State × Nat :=
  let shareOk := match threadOf m with
    | none => true
    | some t =>
      let total := s.dget (coreIdx t.p t.lc) 9
      let u := poolSize k / 256
      let cnt := fun x => unitsOf s p (t.core.thread ⟨x % 8, Nat.mod_lt _ (by decide)⟩).mid
      (List.range u).all (fun j => mayTake s t.core t.t.val 0 total (fun x => if x = t.t.val then cnt x + j else cnt x))
  if (poolOf s p k).rebuild then (s, 3 * 2 ^ 62)
  else if !shareOk then (s, 2 * 2 ^ 62)
  else match takeBuf p k s with
    | (s, some b) =>
      (s.updPet p (fun r => { r with owners := if m < 0x1000 then Tab.put r.owners b m else r.owners }), b)
    | (s, none) => if (poolOf s p k).rebuild then (s, 3 * 2 ^ 62) else (s, 2 ^ 62)

/-- Whether a master may allocate and free through the entries (12 R320): core threads and Golne firmware. -/
def mayAllocate (m : Nat) : Bool := (threadOf m).isSome || m == 0x2000

/-- The rebuild of a pool's list completes: every FRESH or RETURNED buffer is linked in ascending order (12 R321). -/
def rebuildDone (p : Petal) (k : Nat) (s : State) : State :=
  let x := poolOf s p k
  if x.rebuild then
    relink p k ((List.range x.cnt).filter (fun i => Tab.get 0 x.states i ≠ 1 && !x.bad.contains i)) s
  else s

/-- The carving after a FATAL halt's restart or at the start (12 R314, R338): the spill records are abandoned. -/
def carveReset (p : Petal) (s : State) : State :=
  let s := s.updPet p (fun r => { r with spillRun := false, spill := none, slots := [] })
  carve p (s.dset (pix 0x33A5 p) 0x0B 0)

end Sys2Proof.Machine
end

