-- ==== Sys2Proof/Machine/Bits.lean ====
section
/-!
DEFINITION. Machine/Bits.lean: bits of a frame in network order (03 R66), the Internet checksum, CRCs and the Toeplitz hash
(05 R130, 10 R276).
-/
namespace Sys2Proof.Machine

/-- The big-endian value of a list of bytes. -/
def beNat (l : List Byte) : Nat := l.foldl (fun v b => v * 256 + b.toNat) 0

/-- The `n` big-endian bytes of a number, the first the most significant. -/
def beBytes (n v : Nat) : List Byte := (leBytes n v).reverse

/-- `n` bytes of a list from an offset on; bytes beyond its end read 0. -/
def slice (l : List Byte) (off n : Nat) : List Byte :=
  let x := (l.drop off).take n
  x ++ List.replicate (n - x.length) 0

/-- `w` bits of a frame from bit `o` on, most significant bit first; bits beyond its end read 0 (03 R66, R70). -/
def bitsAt (f : List Byte) (o w : Nat) : Nat :=
  if w = 0 then 0
  else
    let b0 := o / 8
    let b1 := (o + w - 1) / 8
    beNat (slice f b0 (b1 - b0 + 1)) / 2 ^ (8 * (b1 + 1) - (o + w)) % 2 ^ w

/-- A frame with `w` bits from bit `o` on rewritten; bits beyond its end are not written (03 R84). -/
def setBitsAt (f : List Byte) (o w v : Nat) : List Byte :=
  f.zipIdx.map (fun (b, j) =>
    if 8 * j + 8 ≤ o || o + w ≤ 8 * j then b
    else BitVec.ofNat 8 (((List.range 8).map (fun i =>
      let q := 8 * j + i
      let bit := if o ≤ q && q < o + w then bitOf v (w - 1 - (q - o)) else bitOf b.toNat (7 - i)
      b2n bit * 2 ^ (7 - i))).sum))

/-- The sum of a list of bytes as big-endian 16-bit words, an odd byte padded with 0. -/
def wordSum : List Byte → Nat
  | [] => 0
  | [a] => a.toNat * 256
  | a :: b :: l => a.toNat * 256 + b.toNat + wordSum l

/-- A sum folded to 16 bits with end-around carry. -/
def foldSum (n : Nat) : Nat :=
  let f := fun x => x % 65536 + x / 65536
  f (f (f (f n)))

/-- The one's-complement sum of bytes: 0xFFFF when a checksum in them holds. -/
def onesSum (l : List Byte) : Nat := foldSum (wordSum l)

/-- The checksum update of RFC 1624: old checksum, old bytes and new bytes of its coverage (03 R84). -/
def csumUpdate (hc : Nat) (old new : List Byte) : Nat :=
  let inv := (wordSum (old.map (fun b => ~~~b))) + (if old.length % 2 = 1 then 255 else 0)
  0xFFFF - foldSum ((0xFFFF - hc) + inv + wordSum new)

/-- One byte into a reflected CRC of 32 bits (10 R276). -/
def crcByte (poly : Nat) (r : Nat) (b : Byte) : Nat :=
  (List.range 8).foldl (fun r _ => if r % 2 = 1 then (r / 2) ^^^ poly else r / 2) (r ^^^ b.toNat)

/-- A reflected CRC register after bytes (10 R276). -/
def crcRun (poly r : Nat) (l : List Byte) : Nat := l.foldl (crcByte poly) r

/-- The polynomial of CRC-32C, reflected (10 R276). -/
def polyC : Nat := 0x82F63B78

/-- The polynomial of IEEE 802.3, reflected (10 R276). -/
def polyE : Nat := 0xEDB88320

/-- The CRC-32C of bytes: started from all ones, inverted (12 R327). -/
def crc32c (l : List Byte) : Nat := crcRun polyC 0xFFFFFFFF l ^^^ 0xFFFFFFFF

/-- The frame check sequence of a frame, as sent. -/
def fcs (l : List Byte) : List Byte := leBytes 4 (crcRun polyE 0xFFFFFFFF l ^^^ 0xFFFFFFFF)

/-- The 32 bits of a key from bit `m` on; bit 0 is the most significant bit of its first byte (10 R276). -/
def keyBits (key : List Byte) (m : Nat) : Nat := bitsAt key m 32

/-- The Toeplitz hash of bytes under a key (05 R130). -/
def toeplitz (key data : List Byte) : Nat :=
  ((List.range (8 * data.length)).map (fun m => if bitsAt data m 1 = 1 then keyBits key m else 0)).foldl (· ^^^ ·) 0

end Sys2Proof.Machine
end

