-- ==== Sys2Proof/Machine/Parser.lean ====
section
/-!
DEFINITION. Machine/Parser.lean: the parse graph (03 R64 to R69), the walk and its header vector (R70 to R74), the key and
the classifier (R77 to R81), and the content of a table generation (04 R92).
-/
namespace Sys2Proof.Machine

/-! ## Nodes (03 R65) -/

/-- A parse-graph node as its 16 words. -/
structure Node where
  ws : List Nat
deriving DecidableEq, Repr

/-- Node `i` of a bank of a petal. -/
def nodeAt (s : State) (p : Petal) (bank i : Nat) : Node :=
  ⟨(List.range 16).map (fun w => s.domNat (pix (0x3101 + bank) p) 0 (128 * i + 8 * w) 8)⟩

/-- A field of a word of a node. -/
def Node.f (n : Node) (w hi lo : Nat) : Nat := bitsOf (n.ws.getD w 0) hi lo

/-- VALID. -/
def Node.valid (n : Node) : Bool := n.f 0 48 48 == 1
/-- TYPE. -/
def Node.ty (n : Node) : Nat := n.f 0 63 56
/-- KIND. -/
def Node.kind (n : Node) : Nat := n.f 0 55 54
/-- STACK. -/
def Node.stack (n : Node) : Nat := n.f 0 53 52
/-- CSUM. -/
def Node.csum (n : Node) : Nat := n.f 0 51 49
/-- IPV. -/
def Node.ipv (n : Node) : Nat := n.f 0 47 46
/-- Extract descriptor `i`. -/
def Node.ext (n : Node) (i : Nat) : Nat := bitsOf (n.ws.getD (3 + i / 2) 0) (32 * (i % 2) + 31) (32 * (i % 2))
/-- Transition `i`. -/
def Node.tr (n : Node) (i : Nat) : Nat := n.ws.getD (7 + i) 0

/-- The maximum of a stack kind (03 R68). -/
def stackMax : Nat → Nat
  | 1 => 4
  | _ => 8

/-- The stack limit of a node (03 R68). -/
def Node.limit (n : Node) : Nat := if n.f 2 39 32 = 0 then stackMax n.stack else min (n.f 2 39 32) (stackMax n.stack)

/-- The valid transitions of a node: value and next node. -/
def Node.trans (n : Node) : List (Nat × Nat) :=
  ((List.range 8).filter (fun i => bitOf (n.tr i) 63)).map (fun i => (n.tr i % 2 ^ 32, bitsOf (n.tr i) 39 32))

/-- The valid extract descriptors of a node: mode, field, offset, width. -/
def Node.exts (n : Node) : List (Nat × Nat × Nat × Nat) :=
  ((List.range 8).filter (fun i => bitOf (n.ext i) 31)).map (fun i =>
    let x := n.ext i
    (bitsOf x 30 29, bitsOf x 28 23, bitsOf x 22 14, bitsOf x 13 7 + 1))

/-- The bits of a word of a node that a bank stores: the reserved fields and word 15 read 0, whatever is written (00 R8; 03 R65). -/
def nodeMask (w : Nat) : Nat :=
  match w with
  | 0 => 2 ^ 64 - 2 ^ 46
  | 1 => 2 ^ 64 - 2 ^ 17
  | 2 => 2 ^ 64 - 2 ^ 32
  | 15 => 0
  | w => if w < 7 then (2 ^ 32 - 2 ^ 7) * (2 ^ 32 + 1) else 2 ^ 63 + (2 ^ 40 - 1)

/-- Bytes written at an offset of an array of records of `n` words, with the bits that the records do not hold cleared. -/
def maskWords (n : Nat) (mask : Nat → Nat) (off : Nat) (data : List Byte) : List Byte :=
  data.zipIdx.map (fun (b, i) =>
    let o := (off + i) % (8 * n)
    b &&& BitVec.ofNat 8 (mask (o / 8) / 2 ^ (8 * (o % 8))))

/-- Bytes of a parse-graph program as a bank stores them (03 R65). -/
def maskNodes (off : Nat) (data : List Byte) : List Byte := maskWords 16 nodeMask off data

/-- A reserved value in a valid node (03 R64, R65), beyond the causes that have numbers of their own. -/
def Node.reserved (n : Node) : Bool :=
  n.ty == 0xFF || n.kind == 3 || 5 ≤ n.csum || n.ipv == 3 || (n.csum == 1 && n.ipv ≠ 1) ||
  n.f 1 18 17 == 3 || (n.f 1 22 19 == 0 && n.f 1 18 17 ≠ 0) ||
  n.f 2 41 40 == 3 || (n.stack == 0 && n.f 2 39 32 ≠ 0) ||
  (List.range 8).any (fun i => bitOf (n.ext i) 31 && bitsOf (n.ext i) 30 29 == 2 && n.stack == 0)

/-- A list of naturals with a repetition. -/
def hasDup : List Nat → Bool
  | [] => false
  | a :: l => l.contains a || hasDup l

/-- The cause for which a valid node stops an activation, by the numbers of 0x3100.09 (03 R64); 0 for none. A node that breaks
several conditions reports the lowest of their numbers (DESIGN CHOICE, assumption 42: R64 gives no order). -/
def nodeCause (validAt : Nat → Bool) (n : Node) : Nat :=
  if n.trans.any (fun t => !validAt t.2) || (n.f 2 41 40 == 0 && !validAt (n.f 2 49 42)) then 2
  else if hasDup (n.trans.map Prod.fst) then 3
  else if n.reserved then 4
  else if n.exts.any (fun e => 511 < e.2.2.1 + e.2.2.2 - 1) then 5
  else if n.stack ≠ 0 && stackMax n.stack < n.f 2 39 32 then 6
  else 0

/-- The check of a shadow bank (03 R64): cause and first offending node. -/
def bankCheck (s : State) (p : Petal) (bank : Nat) : Nat × Nat :=
  let valid := fun i => (nodeAt s p bank i).valid
  if !valid 0 then (1, 0)
  else
    match (List.range 256).findSome? (fun i =>
      let n := nodeAt s p bank i
      if n.valid && nodeCause valid n ≠ 0 then some (nodeCause valid n, i) else none) with
    | some r => r
    | none => (0, 0)

/-! ## The walk (03 R66 to R74) -/

/-- A walk in progress: position, tunnel level, the stack counters, the nodes entered with their levels, how many entries,
headers so far, the vector, the status bits, the declared end seen, the deferred checksums (CSUM, header offset and length,
enclosing IP header) and the IP header of each level, deepest level, VLAN and MPLS counts at level 0. -/
structure Walk where
  pos : Nat
  level : Nat
  cnt : Nat → Nat
  seen : List (Nat × Nat)
  entered : Nat
  heads : Nat
  vec : List VEnt
  full : Bool
  pad : Bool
  padSeen : Bool
  defer : List (Nat × Nat × Nat × Option (Nat × Nat))
  ips : List (Nat × Nat × Nat)
  csBad : Bool
  deepest : Nat
  vlan0 : Nat
  mpls0 : Nat

/-- The fields of a vector. -/
def vecFields (v : List VEnt) : List VField := v.filterMap (fun e => match e with | .field f => some f | _ => none)

/-- The headers of a vector. -/
def vecHdrs (v : List VEnt) : List Hdr := v.filterMap (fun e => match e with | .hdr h => some h | _ => none)

/-- A field of a vector. -/
def vecField (v : List VEnt) (id : Nat) : Option VField := (vecFields v).find? (fun f => f.id == id)

/-- The form in which a descriptor carries a vector (03 R71): a head byte and its data for each entry in walk order, an end byte, in
an area of 320 bytes. -/
def vecForm (v : List VEnt) : List Byte :=
  slice (v.flatMap (fun e => match e with
    | .hdr h => [BitVec.ofNat 8 (64 + 16 * (h.level % 4)), BitVec.ofNat 8 h.ty] ++ leBytes 2 (h.off % 512)
    | .field f => [BitVec.ofNat 8 (128 + (f.bytes.length - 1) % 16), BitVec.ofNat 8 f.id] ++ f.bytes)) 0 320

/-- The entries that Teasel reads from a descriptor's form of a vector (03 R71): of a header its type, level and offset, of a field
its ID and its bytes; the rest of an entry is not in the form and reads 0. -/
def vecRead : Nat → List Byte → List VEnt
  | 0, _ => []
  | n + 1, b =>
    let x := (b.headD 0).toNat
    if x / 64 = 1 then
      .hdr ⟨(b.getD 1 0).toNat, x / 16 % 4, leNat (slice b 2 2) % 512, 0, 0, 0, 0⟩ :: vecRead n (b.drop 4)
    else if x / 64 = 2 then
      .field ⟨(b.getD 1 0).toNat, slice b 2 (x % 16 + 1), 0, 0⟩ :: vecRead n (b.drop (x % 16 + 3))
    else []

/-- The vector with a field overwritten in its place, or added at the end (03 R71). -/
def vecPut (v : List VEnt) (f : VField) : List VEnt :=
  if (vecField v f.id).isSome then v.map (fun e => match e with
    | .field g => if g.id = f.id then .field f else e
    | e => e)
  else v ++ [.field f]

/-- The extraction of one descriptor (03 R70). -/
def extract (f : List Byte) (depth : Nat) (n : Node) (w : Walk) (x : Nat × Nat × Nat × Nat) : Walk :=
  let (mode, id0, off, width) := x
  let id := match mode with
    | 2 => id0 + (w.cnt n.stack - 1)
    | 3 => id0 + 16 * w.level
    | _ => id0
  if 63 < id then { w with full := true }
  else
    let old := vecField w.vec id
    if old.isSome && (mode == 0 || mode == 3) then w
    else
      let nb := (width + 7) / 8
      let tot := ((vecFields w.vec).map (fun g => g.bytes.length)).sum
      let was := (old.map (fun g => g.bytes.length)).getD 0
      if (old.isNone && 64 - depth < (vecFields w.vec).length + 1) || 128 < tot - was + nb then { w with full := true }
      else
        let o := 8 * w.pos + off
        { w with vec := vecPut w.vec ⟨id, beBytes nb (bitsAt f o width), o, width⟩ }

/-- What checking one node gave (03 R73): a stopping failure by its status bit, or the next node, or the end of the walk. -/
inductive Stop where
  | fail (bit : Nat)
  | next (node : Nat)
  | done
deriving DecidableEq, Repr

/-- The header length of a node at a position (03 R65, R66). -/
def hdrLen (n : Node) (f : List Byte) (pos : Nat) : Nat :=
  let w := n.f 1 46 43
  let fix := n.f 1 63 56
  if w = 0 then fix
  else
    let v := bitsAt f (8 * pos + n.f 1 55 47) w
    let fl := n.f 1 39 32
    if fl ≠ 0 then fix + 4 * ((List.range 8).map (fun i => b2n (bitOf (v &&& fl) i))).sum
    else fix + v * 2 ^ (n.f 1 42 40)

/-- Selection of the next node (03 R67, R69, R73 step 6). -/
def selectNext (nodes : Nat → Node) (n : Node) (f : List Byte) (w : Walk) : Stop :=
  if n.kind = 2 then .done
  else
    let so := n.f 2 63 55
    let sw := n.f 2 54 50 + 1
    if 8 * f.length < 8 * w.pos + so + sw then .fail 0
    else
      let sel := bitsAt f (8 * w.pos + so) sw
      let nx := match n.trans.find? (fun t => t.1 == sel) with
        | some t => Stop.next t.2
        | none => match n.f 2 41 40 with
          | 0 => .next (n.f 2 49 42)
          | 1 => .done
          | _ => .fail 4
      match nx with
      | .next i =>
        let m := nodes i
        let lv := w.level + (if n.kind = 1 then 1 else 0)
        let c := if n.kind = 1 then 0 else w.cnt m.stack
        if 48 ≤ w.entered then .fail 5
        else match w.seen.find? (fun e => e.1 == i) with
          | some e => if e.2 < lv || (m.stack ≠ 0 && c + 1 ≤ m.limit) then .next i else .fail 5
          | none => .next i
      | r => r

/-- One node of a walk (03 R73): the walk after it, and how it goes on. -/
def walkNode (nodes : Nat → Node) (byteDepth hdrDepth : Nat) (n : Node) (f : List Byte) (w : Walk) : Walk × Stop :=
  let bits := 8 * f.length
  let p8 := 8 * w.pos
  let lw := n.f 1 46 43
  let pm := n.f 1 18 17
  if bits < p8 + 8 * n.f 1 63 56 || (lw ≠ 0 && bits < p8 + n.f 1 55 47 + lw) ||
      (pm ≠ 0 && bits < p8 + n.f 1 31 23 + n.f 1 22 19) then (w, .fail 0)
  else
    let len := hdrLen n f w.pos
    let pl := bitsAt f (p8 + n.f 1 31 23) (n.f 1 22 19)
    let decl := if pm = 1 then pl else len + pl
    if (lw ≠ 0 && len = 0) || (pm ≠ 0 && (f.length - w.pos < decl || decl < len)) then (w, .fail 3)
    else if f.length < w.pos + len then (w, .fail 0)
    else if (len ≠ 0 && (byteDepth < w.pos + len || hdrDepth < w.heads + 1)) ||
        (n.stack ≠ 0 && n.limit < w.cnt n.stack) || 3 < w.level then (w, .fail 1)
    else
      let w := if n.csum = 1 && onesSum (slice f w.pos len) ≠ 0xFFFF then { w with csBad := true } else w
      let w := if 2 ≤ n.csum then
          { w with defer := w.defer ++ [(n.csum, w.pos, len, (w.ips.find? (fun e => e.1 == w.level)).map Prod.snd)] } else w
      match selectNext nodes n f w with
      | .fail b => (w, .fail b)
      | go =>
        let w := if len = 0 then w else
          { w with vec := w.vec ++ [.hdr ⟨n.ty, w.level, w.pos, len, n.stack, n.ipv, n.csum⟩]
                   deepest := max w.deepest w.level }
        let w := if w.level = 0 then { w with vlan0 := w.cnt 1, mpls0 := w.cnt 2 } else w
        let w := n.exts.foldl (fun w x => extract f hdrDepth n w x) w
        let w := if pm ≠ 0 && !w.padSeen then { w with padSeen := true, pad := decide (w.pos + decl < f.length) } else w
        let w := if n.ipv ≠ 0 then { w with ips := (w.level, w.pos, n.ipv) :: w.ips } else w
        match go with
        | .next i =>
          let lv := w.level + (if n.kind = 1 then 1 else 0)
          let cnt := if n.kind = 1 then fun _ => 0 else w.cnt
          let k := (nodes i).stack
          ({ w with pos := w.pos + len, level := lv, heads := w.heads + (if len = 0 then 0 else 1)
                    entered := w.entered + 1, seen := (i, lv) :: w.seen
                    cnt := fun j => if j = k && k ≠ 0 then cnt j + 1 else cnt j }, .next i)
        | r => (w, r)

/-- A walk from a node on, over at most `m` nodes: the walk and the status bit of its stopping failure, if any. -/
def walkRun (nodes : Nat → Node) (byteDepth hdrDepth : Nat) (f : List Byte) : Nat → Nat → Walk → Walk × Option Nat
  | 0, _, w => (w, some 5)
  | m + 1, i, w =>
    match walkNode nodes byteDepth hdrDepth (nodes i) f w with
    | (w, .next j) => walkRun nodes byteDepth hdrDepth f m j w
    | (w, .fail b) => (w, some b)
    | (w, .done) => (w, none)

/-- The end of the payload that an IP header declares (03 R73): IPv4 total length, IPv6 payload length. -/
def ipEnd (f : List Byte) (ip : Nat × Nat) : Nat :=
  if ip.2 = 1 then ip.1 + beNat (slice f (ip.1 + 2) 2) else ip.1 + 40 + beNat (slice f (ip.1 + 4) 2)

/-- The source and destination addresses of an IP header: offset and length. -/
def ipAddrs (ip : Nat × Nat) : Nat × Nat := if ip.2 = 1 then (ip.1 + 12, 8) else (ip.1 + 8, 32)

/-- The pseudo-header of an L4 checksum (03 R73, step 5). -/
def pseudo (f : List Byte) (ip : Nat × Nat) (proto len : Nat) : List Byte :=
  let a := ipAddrs ip
  slice f a.1 a.2 ++ beBytes 4 len ++ beBytes 4 proto

/-- Whether a deferred checksum is bad (03 R65, R73 step 5). Where R73 is silent the model chooses (DESIGN CHOICE, assumption 42): a GRE
checksum covers the bytes from its header to the end of the payload that the enclosing IP header declares, or of the frame where
there is none, and is checked on fragments too; a payload that ends beyond the frame makes a checksum bad. -/
def lateBad (f : List Byte) (d : Nat × Nat × Nat × Option (Nat × Nat)) : Bool :=
  let (cs, pos, _, ip) := d
  if cs = 4 then
    bitsAt f (8 * pos) 1 == 1 &&
      (let e := match ip with
        | some h => ipEnd f h
        | none => f.length
       f.length < e || onesSum (slice f pos (e - pos)) ≠ 0xFFFF)
  else match ip with
    | none => false
    | some h =>
      if h.2 = 1 && bitsAt f (8 * (h.1 + 6)) 16 % 0x4000 ≠ 0 then false
      else if cs = 2 && slice f (pos + 6) 2 == [0, 0] then false
      else
        let e := ipEnd f h
        f.length < e || e < pos ||
          onesSum (pseudo f h (if cs = 2 then 17 else 6) (e - pos) ++ slice f pos (e - pos)) ≠ 0xFFFF

/-- What a walk gave: its vector, its status byte, the status bits of its failures, and the metadata items (03 R72, R77). -/
structure WalkOut where
  vec : List VEnt
  status : Nat
  fails : List Nat
  deepest : Nat
  vlan0 : Nat
  mpls0 : Nat
deriving DecidableEq, Repr

/-- A walk of a frame without its FCS on a bank (03 R66 to R74). -/
def walkFrame (s : State) (p : Petal) (bank : Nat) (f : List Byte) : WalkOut :=
  let nodes := nodeAt s p bank
  let k := (nodes 0).stack
  let w0 : Walk :=
    { pos := 0
      level := 0
      cnt := fun j => if j = k && k ≠ 0 then 1 else 0
      seen := [(0, 0)]
      entered := 1
      heads := 0
      vec := []
      full := false
      pad := false
      padSeen := false
      defer := []
      ips := []
      csBad := false
      deepest := 0
      vlan0 := 0
      mpls0 := 0 }
  let r := walkRun nodes (s.dget (pix 0x3100 p) 4) (s.dget (pix 0x3100 p) 5) f 49 0 w0
  let w := r.1
  let fails := (match r.2 with | some b => [b] | none => []) ++ (if w.csBad || w.defer.any (lateBad f) then [2] else [])
  { vec := w.vec, fails := fails, deepest := w.deepest, vlan0 := w.vlan0, mpls0 := w.mpls0
    status := (fails.map (fun b => 2 ^ b)).sum + b2n w.full * 64 + b2n w.pad * 128 }

/-- The sub-index of a failure's counter and action, by its status bit (03 0x3103, 0x3104). -/
def failSub : Nat → Nat
  | 0 => 1
  | 1 => 2
  | 2 => 3
  | 3 => 4
  | 4 => 5
  | _ => 6

/-- The rank of a failure, by its status bit (03 R74). -/
def failRank : Nat → Nat
  | 0 => 0
  | 3 => 1
  | 5 => 2
  | 1 => 3
  | 4 => 4
  | _ => 5

/-- The failure whose action is taken (03 R74). -/
def topFail (l : List Nat) : Option Nat :=
  (List.range 6).findSome? (fun r => l.find? (fun b => failRank b == r))

/-- The header type by which Ethernet headers are told: that of node 0, where every walk starts (03 R84, R87; DESIGN CHOICE,
assumption 42: the spec gives no type IDs). -/
def ethType (s : State) (p : Petal) : Nat := (nodeAt s p (s.dget (pix 0x3100 p) 2) 0).ty

/-- The offset of the outermost Ethernet header that a vector holds (03 R84). -/
def outerEth (s : State) (p : Petal) (v : List VEnt) : Option Nat :=
  ((vecHdrs v).find? (fun h => h.ty == ethType s p)).map Hdr.off

/-- A walk counted (03 R74; 0x3103.07): failures by type, frames, vector full, and the malformed threshold's event. -/
def countWalk (p : Petal) (o : WalkOut) (s : State) : State :=
  let c := pix 0x3104 p
  let s := o.fails.foldl (fun s b => s.bump c (failSub b)) s
  let s := s.bump c 7
  let s := if bitOf o.status 6 then s.bump c 8 else s
  if o.fails.isEmpty then s
  else
    let s := s.winBump (0x03C10000 + p.val)
    let n := s.winGet (0x03C10000 + p.val)
    let th := s.dget (pix 0x3103 p) 7
    if th ≠ 0 && th ≤ n then raiseOnce (0x03C00000 + p.val) (0x03C + p.val) (min n 0x7FFFF) (some p) [] s else s

/-! ## Generations' content (04 R92, R94) -/

/-- A scalar entry in a generation's content. -/
def TabSnap.get (t : TabSnap) (idx sub : Nat) : Nat := Tab.get (entryDefault idx sub) t.ent (dk idx sub)

/-- `n` bytes of a DOMAIN entry in a generation's content. -/
def TabSnap.bytes (t : TabSnap) (idx sub off : Nat) (n : Nat) : List Byte := Tab.bytes t.recs (domKey idx sub off) n

/-- The generation in use in a petal (04 R93). -/
def genInUse (s : State) (p : Petal) : Nat := s.dget 0x5001 (1 + p.val)

/-- The content of a generation, applied or still waiting (a rebuilt petal may use one that waits: 04 R127); a generation no longer
kept reads as the oldest one kept. -/
def genSnap (s : State) (g : Nat) : TabSnap :=
  match s.tables.gens.find? (fun e => e.1 == g), s.tables.queue.find? (fun c => c.gen == g) with
  | some e, _ => e.2
  | none, some c => c.snap
  | none, none => (s.tables.gens.getLast?.map Prod.snd).getD TabSnap.reset

/-! ## The classifier (03 R77 to R81) -/

/-- Items of metadata for a key segment (03 R77). -/
structure Meta where
  port : Nat
  status : Nat
  deepest : Nat
  vlan0 : Nat
  mpls0 : Nat

/-- A metadata item (03 R77). -/
def Meta.item (m : Meta) : Nat → Nat
  | 0 => m.port
  | 1 => m.status
  | 2 => m.deepest
  | 3 => m.vlan0
  | _ => m.mpls0

/-- The bytes of a key segment, and whether it found its field (03 R77). -/
def segBytes (v : List VEnt) (m : Meta) (d : Nat) : List Byte × Bool :=
  let n := bitsOf d 4 0
  let st := bitsOf d 8 5
  if n = 0 then ([], false)
  else if bitOf d 15 then (slice [BitVec.ofNat 8 (m.item (bitsOf d 14 9))] st n, true)
  else match vecField v (bitsOf d 14 9) with
    | some f => (slice f.bytes st n, true)
    | none => (List.replicate n 0, false)

/-- A key template's bytes over its segments: presence bits and bytes (03 R77). -/
def segsKey (v : List VEnt) (m : Meta) (ds : List Nat) : Nat × List Byte :=
  let r := ds.map (segBytes v m)
  (((r.zipIdx.map (fun (x, i) => b2n x.2 * 2 ^ i))).sum, (r.map Prod.fst).flatten)

/-- The classifier key of 40 bytes (03 R77). -/
def classKey (t : TabSnap) (p : Petal) (v : List VEnt) (m : Meta) : List Byte :=
  let r := segsKey v m ((List.range 16).map (fun i => t.get (pix 0x3105 p) (0x10 + i)))
  leBytes 2 r.1 ++ slice r.2 0 38

/-- The numbers of the valid rules of a petal in a generation (03 R78). -/
def ruleNumbers (t : TabSnap) (p : Petal) : List Nat :=
  let base := domKey (pix 0x3107 p) 0 0
  t.recs.filterMap (fun e =>
    if base ≤ e.1 && e.1 < base + 32768 * 96 && (e.1 - base) % 96 = 84 && bitOf e.2.toNat 0 then some ((e.1 - base) / 96)
    else none)

/-- A rule record (03 R78). -/
def ruleRec (t : TabSnap) (p : Petal) (n : Nat) : List Byte := t.bytes (pix 0x3107 p) 0 (96 * n) 96

/-- Whether a rule matches a key (03 R78). -/
def ruleMatch (key r : List Byte) : Bool :=
  ((key.zip (r.take 40)).zip ((r.drop 40).take 40)).all (fun e => (e.1.1 &&& e.2) == (e.1.2 &&& e.2))

/-- A rule's priority and action list. -/
def rulePrio (r : List Byte) : Nat := leNat (slice r 80 2)

/-- The best matching rule: its number and its list (03 R78). -/
def classify (t : TabSnap) (p : Petal) (key : List Byte) : Option (Nat × Nat) :=
  let hits := ((ruleNumbers t p).map (fun n => (n, ruleRec t p n))).filter (fun e => ruleMatch key e.2)
  (hits.foldl (fun (best : Option (Nat × List Byte)) e => match best with
    | none => some e
    | some b => if rulePrio b.2 < rulePrio e.2 || (rulePrio b.2 = rulePrio e.2 && e.1 < b.1) then some e else best) none).map
    (fun e => (e.1, leNat (slice e.2 82 2) % 4096))

/-- The words of an action list: header and up to 8 actions (03 R82). -/
def listWords (b : List Byte) : Nat × List Nat :=
  let w := (List.range 9).map (fun i => leNat (slice b (8 * i) 8))
  (w.headD 0, (w.drop 1).take (bitsOf (w.headD 0) 60 57))

end Sys2Proof.Machine
end

