-- ==== Sys2Proof/Machine/Edits.lean ====
section
/-!
DEFINITION. Machine/Edits.lean: action lists applied to a packet in its buffers (03 R82 to R86, R539).
-/
namespace Sys2Proof.Machine

/-- The vector after `n` bytes were inserted at offset `pos` of the frame (03 R84: offsets are recomputed). -/
def vecInsert (pos n : Nat) (v : List VEnt) : List VEnt :=
  v.map (fun e => match e with
    | .hdr h => .hdr (if pos ≤ h.off then { h with off := h.off + n } else h)
    | .field f => .field (if 8 * pos ≤ f.bit then { f with bit := f.bit + 8 * n } else f))

/-- The vector after `n` bytes from offset `pos` on were removed: what was drawn from them becomes absent (03 R84). -/
def vecRemove (pos n : Nat) (v : List VEnt) : List VEnt :=
  v.filterMap (fun e => match e with
    | .hdr h => if h.off < pos then some e else if h.off < pos + n then none else some (.hdr { h with off := h.off - n })
    | .field f =>
      if f.bit + f.width ≤ 8 * pos then some e
      else if f.bit < 8 * (pos + n) then none
      else some (.field { f with bit := f.bit - 8 * n }))

/-- A pushed header among the offsets, which stand in frame order (03 R73, R84). -/
def vecPush (h : Hdr) (v : List VEnt) : List VEnt :=
  let before := fun (e : VEnt) => match e with
    | .hdr x => x.off ≤ h.off
    | .field _ => true
  v.takeWhile before ++ .hdr h :: v.dropWhile before

/-- The offset after the outermost Ethernet header and its tags (03 R84), over at most `n` tags; tags are told by their
TPIDs, the programmed one included. -/
def afterTags (tpids : List Nat) (f : List Byte) : Nat → Nat → Nat
  | 0, e => e
  | n + 1, e => if tpids.contains (beNat (slice f (e - 2) 2)) then afterTags tpids f n (e + 4) else e

/-- The TPIDs by which tags are found (03 R83, 13 R358). -/
def tpids (s : State) (p : Petal) : List Nat := [0x8100, 0x88A8, 0x9100, s.dget (pix 0x3100 p) 7]

/-- The IP header that encloses an L4 header (03 R73): the nearest preceding header of its level with IPV 1 or 2. -/
def enclosingIp (v : List VEnt) (h : Hdr) : Option (Nat × Nat) :=
  (((vecHdrs v).filter (fun x => x.off < h.off && x.level == h.level && x.ipv ≠ 0)).getLast?).map (fun x => (x.off, x.ipv))

/-- Byte ranges that overlap: an offset and a length each. -/
def overlap (a n b m : Nat) : Bool := a < b + m && b < a + n

/-- The checksum fix of a rewritten field (03 R84): the IPv4 header checksum of the header that holds it, and each UDP or
TCP checksum whose coverage includes it, the innermost first. `old` is the frame before the rewrite. -/
def fixChecksums (v : List VEnt) (fo fn : Nat) (old new : List Byte) : List Byte :=
  (vecHdrs v).reverse.foldl (fun f h =>
    if h.ipv = 1 && overlap fo fn h.off h.len then
      let hc := beNat (slice f (h.off + 10) 2)
      let zero := fun (l : List Byte) => l.take 10 ++ [0, 0] ++ l.drop 12
      let x := csumUpdate hc (zero (slice old h.off h.len)) (zero (slice f h.off h.len))
      setBitsAt f (8 * (h.off + 10)) 16 x
    else if h.csum = 2 || h.csum = 3 then
      match enclosingIp v h with
      | none => f
      | some ip =>
        let e := min (ipEnd f ip) f.length
        let a := ipAddrs ip
        if !(overlap fo fn h.off (e - h.off) || overlap fo fn a.1 a.2) then f
        else
          let co := if h.csum = 2 then 6 else 16
          let hc := beNat (slice f (h.off + co) 2)
          if h.csum = 2 && hc = 0 then f
          else
            let cover := fun (l : List Byte) =>
              slice l a.1 a.2 ++ slice l h.off co ++ [0, 0] ++ slice l (h.off + co + 2) (e - (h.off + co + 2))
            setBitsAt f (8 * (h.off + co)) 16 (csumUpdate hc (cover old) (cover f))
    else f) new

/-- A field rewritten in the frame and in the vector, with its checksum fix (03 R84). -/
def rewriteField (v : List VEnt) (fld : VField) (val : Nat) (fix : Bool) (f : List Byte) : List Byte × List VEnt :=
  let g := setBitsAt f fld.bit fld.width val
  let g := if fix then fixChecksums v (fld.bit / 8) ((fld.bit + fld.width + 7) / 8 - fld.bit / 8) f g else g
  (g, vecPut v { fld with bytes := beBytes fld.bytes.length val })

/-- What an action does to a frame without its FCS and its vector (03 R83, R84): the new frame and vector, the bytes pushed,
and the range removed; none where the action is skipped. -/
structure EditRes where
  frame : List Byte
  vec : List VEnt
  pushed : Nat
  removed : Option (Nat × Nat)

/-- The fix-ups of an encapsulation template (03 R84): bits of the fix-up byte in the order in which R84 names them
(DEDUCED, assumption 8); the UDP source port is a function of the packet's flow hash that the spec does not give (DESIGN CHOICE,
assumption 6). -/
def templateBytes (t : TabSnap) (p : Petal) (hash i bodyLen : Nat) : List Byte :=
  let r := t.bytes (pix 0x3109 p) 0 (128 * i) 128
  let len := (r.getD 0 0).toNat
  let fix := (r.getD 1 0).toNat
  let ip := (r.getD 2 0).toNat
  let udp := (r.getD 3 0).toNat
  let b := slice (r.drop 32) 0 len
  let tot := len + bodyLen
  let b := if bitOf fix 0 then setBitsAt b (8 * (ip + 2)) 16 (tot - ip) else b
  let b := if bitOf fix 2 then setBitsAt b (8 * (udp + 4)) 16 (tot - udp) else b
  let b := if bitOf fix 3 then setBitsAt b (8 * udp) 16 (Config.flowPort hash).toNat else b
  if bitOf fix 1 then
    let b := setBitsAt b (8 * (ip + 10)) 16 0
    let hl := 4 * bitsAt b (8 * ip + 4) 4
    setBitsAt b (8 * (ip + 10)) 16 (0xFFFF - onesSum (slice b ip hl))
  else b

/-- One action on a frame without its FCS, whose flow hash is given (03 R83, R84). A pushed tag or label gets an offset entry of type
0xFF at tunnel level 0 (DESIGN CHOICE, assumption 42); the bytes of a template get none, so that the outermost Ethernet header is the
outermost that the vector still holds. -/
def actionOn (s : State) (t : TabSnap) (p : Petal) (hash w : Nat) (f : List Byte) (v : List VEnt) : Option EditRes :=
  let fix := bitOf w 53
  let fld := vecField v (bitsOf w 59 54)
  match bitsOf w 63 60 with
  | 0 => some ⟨f, v, 0, none⟩
  | 1 =>
    match fld with
    | some x => if x.bytes.length ≤ 6 then
        let r := rewriteField v x (bitsOf w 47 0 % 2 ^ x.width) fix f
        some ⟨r.1, r.2, 0, none⟩
      else none
    | none => none
  | 2 =>
    match fld with
    | some x => if x.bytes.length ≤ 4 then
        let r := rewriteField v x ((beNat x.bytes + bitsOf w 31 0) % 2 ^ x.width) fix f
        some ⟨r.1, r.2, 0, none⟩
      else none
    | none => none
  | 3 =>
    match fld, vecField v (bitsOf w 47 42) with
    | some x, some y => if x.width = y.width && x.bytes.length ≤ 16 then
        let r := rewriteField v x (beNat y.bytes) fix f
        some ⟨r.1, r.2, 0, none⟩
      else none
    | _, _ => none
  | 4 =>
    (outerEth s p v).map (fun o =>
      let tp := (tpids s p).getD (bitsOf w 59 58) 0
      ⟨f.take (o + 12) ++ beBytes 2 tp ++ beBytes 2 (bitsOf w 15 0) ++ f.drop (o + 12),
        vecPush ⟨0xFF, 0, o + 14, 4, 1, 0, 0⟩ (vecInsert (o + 12) 4 v), 4, none⟩)
  | 5 =>
    let lab := (vecHdrs v).find? (fun h => h.stack == 2)
    let at_ := match lab with
      | some h => some h.off
      | none => (outerEth s p v).map (fun o => afterTags (tpids s p) f 16 (o + 14))
    at_.map (fun pos =>
      let word := bitsOf w 50 31 * 4096 + bitsOf w 30 28 * 512 + b2n lab.isNone * 256 + bitsOf w 27 20
      let f' := f.take pos ++ beBytes 4 word ++ f.drop pos
      let f' := if lab.isNone then setBitsAt f' (8 * (pos - 2)) 16 0x8847 else f'
      ⟨f', vecPush ⟨0xFF, 0, pos, 4, 2, 0, 0⟩ (vecInsert pos 4 v), 4, none⟩)
  | 6 =>
    let b := templateBytes t p hash (bitsOf w 9 0) f.length
    some ⟨b ++ f, vecInsert 0 b.length v, b.length, none⟩
  | 7 =>
    let cut := fun (pos n : Nat) => some (EditRes.mk (f.take pos ++ f.drop (pos + n)) (vecRemove pos n v) 0 (some (pos, n)))
    match bitsOf w 59 56 with
    | 0 => match (vecHdrs v).find? (fun h => h.stack == 1 && h.level == 0) with
      | some h => cut (h.off - 2) 4
      | none => none
    | 1 => match (vecHdrs v).find? (fun h => h.stack == 2) with
      | some h => cut h.off 4
      | none => none
    | 2 => match (vecHdrs v).find? (fun h => h.level == 1) with
      | some h =>
        let v' := (vecRemove 0 h.off v).map (fun e => match e with
          | .hdr x => .hdr { x with level := x.level - 1 }
          | e => e)
        some ⟨f.drop h.off, v', 0, some (0, h.off)⟩
      | none => none
    | _ => none
  | _ => none

/-- One action on a packet in its buffers (03 R84, R539): a skipped action is counted. A push for which the first buffer has
no headroom left is skipped (DEDUCED, assumption 8). -/
def applyAction (t : TabSnap) (p : Petal) (k : Pkt) (w : Nat) (s : State) : State × Pkt :=
  let all := pktBytes s p k.buf
  let body := all.take (all.length - 4)
  let tail := all.drop (all.length - 4)
  match actionOn s t p k.hash w body k.vec with
  | none => (s.bump (pix 0x310A p) 1, k)
  | some r =>
    if r.pushed ≠ 0 && pktStart s p k.buf < 8 + r.pushed then (s.bump (pix 0x310A p) 1, k)
    else
      let s := if bitsOf w 63 60 = 0 then s else relay p k.buf (r.frame ++ tail) r.pushed r.removed s
      (s, { k with vec := r.vec, len := r.frame.length + tail.length })

/-- The actions of a list applied in order (03 R82 to R84). -/
def applyActions (t : TabSnap) (p : Petal) : List Nat → Pkt → State → State × Pkt
  | [], k, s => (s, k)
  | w :: l, k, s =>
    let r := applyAction t p k w s
    applyActions t p l r.2 r.1

/-- Whether an action word holds a reserved value (03 R83): a reserved operation, or a reserved target of POP. -/
def actionReserved (w : Nat) : Bool := 8 ≤ bitsOf w 63 60 || (bitsOf w 63 60 == 7 && 2 < bitsOf w 59 56)

/-- The bits of an action word that its operation lists (03 R83): the others are reserved and read 0 (00 R8). -/
def actionMask (w : Nat) : Nat :=
  2 ^ 64 - 2 ^ 60 + match bitsOf w 63 60 with
  | 1 => 2 ^ 60 - 2 ^ 53 + (2 ^ 48 - 1)
  | 2 => 2 ^ 60 - 2 ^ 53 + (2 ^ 32 - 1)
  | 3 => 2 ^ 60 - 2 ^ 53 + (2 ^ 48 - 2 ^ 42)
  | 4 => 2 ^ 60 - 2 ^ 58 + (2 ^ 16 - 1)
  | 5 => 2 ^ 51 - 2 ^ 20
  | 6 => 2 ^ 10 - 1
  | 7 => 2 ^ 60 - 2 ^ 56
  | _ => 0

/-- An action list as its store holds it: reserved fields cleared (00 R8; 03 R82, R83). -/
def maskList (b : List Byte) : List Byte :=
  (List.range 9).flatMap (fun i =>
    let w := leNat (slice b (8 * i) 8)
    leBytes 8 (w &&& (if i = 0 then 2 ^ 64 - 2 ^ 57 + (2 ^ 14 - 1) else actionMask w)))

/-- The bytes that a list's pushes add, with the templates of a generation's content (03 R85). -/
def listPushes (len : Nat → Nat) (ws : List Nat) : Nat :=
  (ws.map (fun w => match bitsOf w 63 60 with
    | 4 => 4
    | 5 => 4
    | 6 => len (bitsOf w 9 0)
    | _ => 0)).sum

/-- Whether an action list holds a reserved value (03 R82, R83, R85). -/
def listReserved (len : Nat → Nat) (b : List Byte) : Bool :=
  let r := listWords b
  let h := r.1
  let disp := bitsOf h 63 62
  disp == 3 || (bitOf h 61 && disp ≠ 0) || 8 < bitsOf h 60 57 || r.2.any actionReserved ||
    128 < listPushes len r.2

end Sys2Proof.Machine
end

