-- ==== Sys2Proof/Machine/Tables.lean ====
section
/-!
DEFINITION. Machine/Tables.lean: the forwarding tables and their update engine (04 R90 to R117, R126, R127): commits,
batches, lookups, learning and aging.
-/
namespace Sys2Proof.Machine

/-- The state with the update engine changed. -/
def State.updTab (s : State) (f : TableSt → TableSt) : State := { s with tables := f s.tables }

/-- MINIMAL in effect (02 R57). -/
def minimalOn (s : State) : Bool := modeOn s .device 4

/-- The generations that frames and lookups of a petal hold (04 R94): walked frames and tasks until their enqueue, table-helper lookups
until their results; a host-transmit packet holds one only once its task is formed. -/
def heldGens (s : State) (p : Petal) : List Nat :=
  let r := s.pet p
  (r.form.filter (fun e => !e.2)).map (fun e => e.1.gen) ++ r.tasks.map (fun t => t.pkt.gen) ++ r.lookGens

/-- The live generations of a petal when `g` is in use there (04 R95). -/
def liveGens (s : State) (p : Petal) (g : Nat) : List Nat := ((g :: heldGens s p).eraseDups)

/-- The oldest of the live generations of a petal (04 R95): the farthest behind the one in use, modulo 2^32. -/
def oldestGen (s : State) (p : Petal) : Nat :=
  let g := genInUse s p
  let back := fun x => (g + 2 ^ 32 - x) % 2 ^ 32
  (liveGens s p g).foldl (fun a x => if back a < back x then x else a) g

/-- The entries 0x5001.05 to 0x5001.08 brought up to date (04 R95). -/
def refreshOldest (p : Petal) (s : State) : State :=
  if petalHalted s p then s else s.dset 0x5001 (5 + p.val) (oldestGen s p)

/-! ## Commits (04 R92, R93) -/

/-- The distinct masks of the valid rules of a petal in a content (03 R79). -/
def ruleMasks (t : TabSnap) (p : Petal) : List (List Byte) :=
  ((ruleNumbers t p).map (fun n => slice (ruleRec t p n) 40 40)).eraseDups

/-- The masks of a petal that are in use (03 R79): those of the generation applied last and of every commit accepted since, so that
a group whose last rule is removed keeps its mask until the removal's generation. -/
def masksUsed (s : State) (p : Petal) : List (List Byte) :=
  ((genSnap s s.tables.applied :: s.tables.queue.map Commit.snap).flatMap (fun t => ruleMasks t p)).eraseDups

/-- A commit accepted: it takes the next generation number, and its content waits for the engine (04 R92). A commit that
deletes an L2 entry clears the learn-full state (R115). A key whose move window starts anew has not flapped in it (R113). The entries
of a halted petal advance with each commit (R127). -/
def newCommit (snap : TabSnap) (stamp winStart : List Nat) (s : State) : State × Nat :=
  let g := (s.dget 0x5000 1 + 1) % 2 ^ 32
  let gone := s.tables.accepted.l2.any (fun e => !(snap.l2.any (fun x => x.key == e.key)))
  let s := (s.dset 0x5000 1 g).bump 0x5000 3
  let s := if gone then s.dset 0x5200 0x0B 0 else s
  let s := allPetals.foldl (fun s p =>
    if petalHalted s p then (s.dset 0x5001 (1 + p.val) g).dset 0x5001 (5 + p.val) g else s) s
  (s.updTab (fun t => { t with accepted := snap, queue := t.queue ++ [⟨g, snap, stamp, winStart⟩],
                               flapped := t.flapped.filter (fun k => !winStart.contains k) }), g)

/-- Whether a running petal's generation in use is older than the one applied last. -/
def petalBehind (s : State) (p : Petal) : Bool :=
  !petalHalted s p && 2 ^ 31 ≤ (genInUse s p + 2 ^ 32 - s.tables.applied) % 2 ^ 32

/-- The bucket of an L2 entry: the first or the second of the two that hashes of its key select (04 R110; the hashes are functions that
the spec does not give: DESIGN CHOICE, assumption 6). -/
def l2Bucket (e : L2Ent) : Nat := Config.l2Hash e.second e.key % 131072

/-- The entries of a content in a bucket. -/
def l2In (l : List L2Ent) (b : Nat) : List L2Ent := l.filter (fun e => l2Bucket e == b)

/-- Places an entry in its bucket, moving existing entries to their other buckets, at most `n` of them (04 R110). Which entry of a full
bucket moves is free (DESIGN CHOICE, assumption 6). -/
def l2Move : Nat → List L2Ent → L2Ent → Option (List L2Ent)
  | n, l, e =>
    let b := l2In l (l2Bucket e)
    if b.length < 8 then some (l ++ [e])
    else match n, b[Config.l2Victim e.key n % 8]? with
      | n + 1, some v => l2Move n (l.filter (fun x => x.key ≠ v.key) ++ [e]) { v with second := !v.second }
      | _, _ => none

/-- A new L2 entry placed (04 R110): in one of its two buckets where either has a free slot, else by up to 32 moves; none where
placement fails. -/
def l2Place (l : List L2Ent) (e : L2Ent) : Option (List L2Ent) :=
  match l2Move 0 l { e with second := false }, l2Move 0 l { e with second := true } with
  | some l', _ => some l'
  | none, some l' => some l'
  | none, none => l2Move 32 l { e with second := false }

/-- Whether a commit's new entries find memory beside what awaits reclaim (04 R96, R107): a new L2 entry needs a slot of its bucket
that no entry of older kept content holds, new prefixes count with the older content's against the capacity. What the content
applied last holds gives way to its successor. How older content occupies memory is not in the spec (DESIGN CHOICE, assumption 43). -/
def commitFits (s : State) (c : TabSnap) : Bool :=
  let now := genSnap s s.tables.applied
  let older := (s.tables.gens.filter (fun g => g.1 ≠ s.tables.applied)).map Prod.snd
  let fresh := c.l2.filter (fun e => !(now.l2.any (fun x => x.key == e.key && l2Bucket x == l2Bucket e)))
  fresh.all (fun e =>
    let b := l2Bucket e
    (((c.l2 :: older.map TabSnap.l2).flatMap (fun l => (l2In l b).map L2Ent.key)).eraseDups).length ≤ 8) &&
  [(false, 524288), (true, 262144)].all (fun (v6, cap) =>
    let ps := fun (t : TabSnap) => (t.routes.filter (fun r => r.v6 == v6)).map (fun r => (r.plen, r.bits))
    (ps c).all (fun r => (ps now).contains r) || ((ps c ++ older.flatMap ps).eraseDups).length ≤ cap)

/-- The engine applies the oldest accepted commit (04 R93): its content becomes available to the copies, timestamps and
windows of the keys it sets take the current tick (R100, R113), and the counts of the current generation follow. It waits until
every running petal's copy has the commit before it, and for memory that awaits reclaim (R96). -/
def commitApply (s : State) : State :=
  match s.tables.queue with
  | [] => s
  | c :: q =>
    if allPetals.any (petalBehind s) || !commitFits s c.snap then s
    else
      let tick := s.tables.ticks
      let s := s.updTab (fun t => { t with
        queue := q, applied := c.gen, gens := (c.gen, c.snap) :: t.gens
        stamps := c.stamp.foldl (fun m k => (List.range 4).foldl (fun m j => Tab.put m (k * 4 + j) tick) m)
          (t.stamps.filter (fun e => c.snap.l2.any (fun x => x.key == e.1 / 4)))
        windows := c.winStart.foldl (fun m k => Tab.put m k tick)
          (t.windows.filter (fun e => c.snap.l2.any (fun x => x.key == e.1))) })
      let s := s.dset 0x5100 1 (c.snap.routes.filter (fun r => !r.v6)).length
      let s := s.dset 0x5100 2 (c.snap.routes.filter (fun r => r.v6)).length
      let s := s.dset 0x5200 1 c.snap.l2.length
      allPetals.foldl (fun s p => s.dset (pix 0x3105 p) 2 (masksUsed s p).length) s

/-- A petal's copy of the commit applied last is complete: its generation in use changes, unless that would leave more than 4
live generations there (04 R93, R95). -/
def copyComplete (p : Petal) (s : State) : State :=
  let g := s.tables.applied
  if !petalBehind s p || 4 < (liveGens s p g).length then s
  else refreshOldest p (s.dset 0x5001 (1 + p.val) g)

/-- A commit has waited beyond the hold time for a petal's live generations (04 R95). -/
def holdExpiry (p : Petal) (s : State) : State :=
  let g := s.tables.applied
  if !petalBehind s p || (liveGens s p g).length ≤ 4 then s
  else
    let o := oldestGen s p
    let n := ((heldGens s p).filter (fun x => x == o)).length
    raiseD 0x041 (p.val * 2 ^ 17 + min n 0x1FFFF) none ([BitVec.ofNat 8 p.val, 0, 0, 0] ++ leBytes 4 o ++ leBytes 4 n) s

/-- The memory of content older than every live generation is reclaimed (04 R96). -/
def reclaim (s : State) : State :=
  let live := s.tables.applied :: (allPetals.map (fun p => if petalHalted s p then [] else liveGens s p (genInUse s p))).flatten
  let back := fun x =>
    let d := (s.tables.applied + 2 ^ 32 - x) % 2 ^ 32
    if d < 2 ^ 31 then d else 0
  let far := (live.map back).foldl max 0
  s.updTab (fun t => { t with gens := t.gens.filter (fun e => back e.1 ≤ far) })

/-! ## Batches (04 R97 to R101) -/

/-- A table command of 32 bytes (04 R98). -/
structure TCmd where
  b : List Byte
deriving DecidableEq, Repr

/-- A little-endian field of a table command. -/
def TCmd.f (c : TCmd) (off n : Nat) : Nat := leNat (slice c.b off n)
/-- OP. -/
def TCmd.op (c : TCmd) : Nat := c.f 0 1
/-- PLEN. -/
def TCmd.plen (c : TCmd) : Nat := c.f 1 1
/-- FLAGS. -/
def TCmd.flags (c : TCmd) : Nat := c.f 2 1
/-- The L2 key: MAC * 4096 + FID. -/
def TCmd.l2key (c : TCmd) : Nat := beNat (slice c.b 16 6) * 4096 + c.f 4 2 % 4096
/-- The prefix's bits for an address of `w` bits. -/
def TCmd.pbits (c : TCmd) (w : Nat) : Nat := beNat (slice c.b 16 (w / 8)) / 2 ^ (w - c.plen)

/-- Whether a command holds a reserved value (04 R98): a reserved operation, field or bit, or a part that its operation does
not use and that is not 0. -/
def TCmd.reserved (c : TCmd) : Bool :=
  let z := fun (off n : Nat) => c.f off n ≠ 0
  let op := c.op
  op == 0 || 8 ≤ op || z 6 2 || z 12 4 || bitsOf c.flags 7 4 ≠ 0 || bitsOf (c.f 4 2) 15 12 ≠ 0 || 32 ≤ c.f 3 1 ||
  (if op = 1 || op = 2 then
      32 < c.plen || z 2 1 || z 3 1 || z 4 2 || z 20 12 || (op == 2 && z 8 4)
   else if op = 3 || op = 4 then 128 < c.plen || z 2 1 || z 3 1 || z 4 2 || (op == 4 && z 8 4)
   else if op = 5 then c.plen ≠ 0 || bitsOf c.flags 3 1 ≠ 0 || z 22 10
   else if op = 6 then c.plen ≠ 0 || z 2 1 || z 3 1 || z 8 4 || z 22 10
   else c.plen ≠ 0 || bitOf c.flags 0 || z 8 4 || z 16 16 || (!bitOf c.flags 2 && z 3 1) || (!bitOf c.flags 3 && z 4 2))

/-- A route put into a table's content. -/
def putRoute (r : Route) (l : List Route) : List Route :=
  l.filter (fun x => !(x.v6 == r.v6 && x.plen == r.plen && x.bits == r.bits)) ++ [r]

/-- An L2 entry put into a table's content: in the place of its key's entry, or in a new one (04 R100, R110); none where placement
fails. -/
def putL2 (e : L2Ent) (l : List L2Ent) : Option (List L2Ent) :=
  match l.find? (fun x => x.key == e.key) with
  | some x => some (l.filter (fun x => x.key ≠ e.key) ++ [{ e with second := x.second }])
  | none => l2Place l e

/-- A command applied to the content (04 R100); none where an L2 entry finds no place. -/
def TCmd.apply (c : TCmd) (t : TabSnap) : Option TabSnap :=
  match c.op with
  | 1 => some { t with routes := putRoute ⟨false, c.plen, c.pbits 32, c.f 8 4⟩ t.routes }
  | 2 => some { t with routes := t.routes.filter (fun x => !(!x.v6 && x.plen == c.plen && x.bits == c.pbits 32)) }
  | 3 => some { t with routes := putRoute ⟨true, c.plen, c.pbits 128, c.f 8 4⟩ t.routes }
  | 4 => some { t with routes := t.routes.filter (fun x => !(x.v6 && x.plen == c.plen && x.bits == c.pbits 128)) }
  | 5 =>
    (putL2 ⟨c.l2key, c.f 3 1, c.f 8 4, bitOf c.flags 0, 0, false⟩ t.l2).map (fun l => { t with l2 := l })
  | 6 => some { t with l2 := t.l2.filter (fun x => x.key ≠ c.l2key) }
  | _ => some { t with l2 := t.l2.filter (fun x =>
      !((!bitOf c.flags 2 || x.port == c.f 3 1) && (!bitOf c.flags 3 || x.key % 4096 == c.f 4 2 % 4096) &&
        (bitOf c.flags 1 || !x.static))) }

/-- The content after each command of a batch, the L2 sets that found no place skipped: (content, index of the first that
failed). -/
def batchRun : List TCmd → Nat → TabSnap → List TabSnap × Option Nat
  | [], _, _ => ([], none)
  | c :: l, i, t =>
    match c.apply t with
    | some t' => let r := batchRun l (i + 1) t'; (t' :: r.1, r.2)
    | none => let r := batchRun l (i + 1) t; (t :: r.1, some i)

/-- How many prefixes of a family a content holds (04 R107). -/
def prefixCount (v6 : Bool) (t : TabSnap) : Nat := (t.routes.filter (fun r => r.v6 == v6)).length

/-- The /96 under which an IPv6 prefix is a tail, if it is one (04 R105). -/
def tailOf (r : Route) : Option Nat := if r.v6 && 97 ≤ r.plen then some (r.bits / 2 ^ (r.plen - 96)) else none

/-- How many tails a content holds under a /96 (04 R105). -/
def tailCount (up : Nat) (t : TabSnap) : Nat := (t.routes.filter (fun r => tailOf r == some up)).length

/-- The earliest command after which a count stays above its limit to the end of the batch (04 R99); none where the count ends within
it. -/
def firstStays (count : TabSnap → Nat) (lim : Nat) (l : List TabSnap) : Option Nat :=
  let run := (l.reverse.takeWhile (fun t => lim < count t)).length
  if run = 0 then none else some (l.length - run)

/-- The least of the positions that are there. -/
def leastOf (l : List (Option Nat)) : Option Nat := (l.filterMap id).min?

/-- What a batch comes to (04 R99): cause and first offending command, or the new content and the L2 keys it sets. The reserved bits
of the header are ignored (00 R8). A batch with several defects reports the lowest cause (DESIGN CHOICE, assumption 42: R99 gives no
order). -/
def batchCheck (off : Nat) (data : List Byte) (t : TabSnap) : (Nat × Nat) ⊕ (TabSnap × List Nat) :=
  let n := leNat (data.take 8) % 65536
  if off ≠ 0 || n = 0 || 1024 < n || data.length ≠ 8 + 32 * n then .inl (1, 0)
  else
    let cs := (List.range n).map (fun i => TCmd.mk (slice data (8 + 32 * i) 32))
    match cs.findIdx? TCmd.reserved with
    | some i => .inl (2, i)
    | none =>
      let r := batchRun cs 0 t
      let last := r.1.getLast?.getD t
      match leastOf [firstStays (prefixCount false) 524288 r.1, firstStays (prefixCount true) 262144 r.1],
          leastOf ((last.routes.filterMap tailOf).eraseDups.map (fun u => firstStays (tailCount u) 16 r.1)), r.2 with
      | some i, _, _ => .inl (3, i)
      | none, some i, _ => .inl (4, i)
      | none, none, some i => .inl (5, i)
      | none, none, none => .inr (last, (cs.filter (fun c => c.op == 5)).map TCmd.l2key)

/-- The outcome of a batch recorded in the result ring (04 R101). -/
def ringPut (tag gen cause idx mid : Nat) (s : State) : State :=
  let old := s.domRead 0x5000 7 16 240
  let r := leBytes 4 tag ++ leBytes 4 gen ++ [BitVec.ofNat 8 cause] ++ leBytes 2 idx ++ [0, 0, 0] ++ leBytes 2 mid
  s.domWrite 0x5000 7 0 (old ++ r)

/-- A batch submitted by a master (04 R97 to R101): the state, and the cause with the generation. Under MINIMAL the content of
an accepted batch has no effect (R126: it takes effect only after MINIMAL ends, which a new start brings about). -/
def submitBatch (mid off : Nat) (data : List Byte) (s : State) : State × Nat × Nat :=
  let tag := leNat (slice data 4 4)
  match batchCheck off data s.tables.accepted with
  | .inl (cause, i) =>
    let s := ringPut tag 0 cause i mid (s.bump 0x5000 4)
    let s := if cause = 5 then s.dset 0x5200 0x0B 1 else s
    (raiseD 0x040 (cause * 2 ^ 16 + i % 1024) none (leBytes 4 tag ++ leBytes 2 mid) s, cause, 0)
  | .inr (t, keys) =>
    let r := if minimalOn s then newCommit s.tables.accepted [] [] s else newCommit t keys keys s
    (ringPut tag r.2 0 0 mid r.1, 0, r.2)

/-! ## Class B (table generation) writes (04 R91, R92) -/

/-- Whether a scalar entry has class B (table generation) (03, 04). -/
def tableScalar (idx sub : Nat) : Bool :=
  let b := (idx - 0x3000) % 0x400
  (0x3000 ≤ idx && idx < 0x4000 && ((b == 0x105 && 0x10 ≤ sub && sub ≤ 0x1F) || (b == 0x106 && 1 ≤ sub && sub ≤ 8))) ||
  (idx == 0x5100 && (sub == 3 || sub == 4)) || (idx == 0x5200 && 0x20 ≤ sub && sub ≤ 0x3F) ||
  (idx == 0x5300 && 0x10 ≤ sub && sub ≤ 0x17) || (idx == 0x5400 && 1 ≤ sub && sub ≤ 0x20)

/-- A scalar of class B (table generation) written: a commit of one command (04 R92). -/
def tableScalarWrite (idx sub v : Nat) (s : State) : State :=
  let t := s.tables.accepted
  (newCommit { t with ent := Tab.set (entryDefault idx sub) t.ent (dk idx sub) v } [] [] (s.dset idx sub v)).1

/-- Bytes of a DOMAIN entry of class B (table generation) written: a commit (04 R92). -/
def tableDomainWrite (idx sub off : Nat) (data : List Byte) (s : State) : State :=
  let t := s.tables.accepted
  (newCommit { t with recs := Tab.setBytes t.recs (domKey idx sub off) data } [] [] (s.domWrite idx sub off data)).1

/-! ## Lookups (04 R102 to R106, R111, R112) -/

/-- The lookup profile of a logical port in a content; under MINIMAL the fixed one (04 R102, R126). -/
def profileOf (s : State) (t : TabSnap) (port : Nat) : Nat :=
  if minimalOn s then 0x23 else t.get 0x5400 (port + 1)

/-- The route word of an address (04 R104 to R106). -/
def routeWord (t : TabSnap) (v6 : Bool) (addr : Nat) : Nat :=
  let w := if v6 then 128 else 32
  let hit := (t.routes.filter (fun r => r.v6 == v6 && addr / 2 ^ (w - r.plen) == r.bits)).foldl
    (fun (a : Option Route) r => match a with
      | none => some r
      | some x => if x.plen < r.plen then some r else a) none
  match hit with
  | some r => r.plen * 2 ^ 54 + r.result
  | none => 2 ^ 62 + t.get 0x5100 (if v6 then 4 else 3)

/-- The L2 entry of a key in a content. -/
def l2Get (t : TabSnap) (key : Nat) : Option L2Ent := t.l2.find? (fun e => e.key == key)

/-- The destination part of the L2 word (04 R104, R111). -/
def l2Word (t : TabSnap) (key : Option Nat) : Nat :=
  match key with
  | none => 2 * 2 ^ 62
  | some k => match l2Get t k with
    | some e => b2n e.static * 2 ^ 61 + e.port * 2 ^ 56 + e.result
    | none => 2 ^ 62

/-- The learned result of a logical port in a content; under MINIMAL its own number (04 R112, R126). -/
def learnedResult (s : State) (t : TabSnap) (port : Nat) : Nat :=
  if minimalOn s then port else t.get 0x5200 (0x20 + port)

/-- A learn or move event queued, unless its key is in the filter; a full queue drops and counts it (04 R114). A key that finds the
filter full takes the place of the oldest one, and a frame whose key is in the filter has the SA code of the event that is queued
already (DESIGN CHOICE, assumption 42). -/
def queueLearn (p : Petal) (key port code : Nat) (s : State) : State × Nat :=
  if (s.pet p).filter.contains key then (s, code)
  else if 4096 ≤ (s.tables.learn.filter (fun e => e.petal == p.val)).length then
    (raiseOnceAny (0x04400000 + p.val) 0x044 none (s.bump 0x5200 6), 5)
  else
    let s := s.updPet p (fun r => { r with filter := (if 256 ≤ r.filter.length then r.filter.drop 1 else r.filter) ++ [key] })
    (s.updTab (fun t => { t with learn := t.learn ++ [⟨key, port, p.val⟩] }), code)

/-- A move refused as a flap (04 R112, R113): counted; the first in the key's window raises 0x045. -/
def flap (p key old port : Nat) (s : State) : State :=
  let s := s.bump 0x5200 7
  if s.tables.flapped.contains key then s
  else
    let s := s.updTab (fun x => { x with flapped := x.flapped ++ [key] })
    raiseD 0x045 (p * 2 ^ 17 + old * 32 + port) none
      (beBytes 6 (key / 4096) ++ leBytes 2 (key % 4096) ++ [BitVec.ofNat 8 old, BitVec.ofNat 8 port]) s

/-- Whether the window of a key is over at the current tick (04 R113); one that a waiting commit starts anew is not. -/
def windowOver (s : State) (key : Nat) : Bool :=
  s.dget 0x5200 5 ≤ (s.tables.ticks + 65536 - Tab.get 0 s.tables.windows key) % 65536 &&
    !s.tables.queue.any (fun c => c.winStart.contains key)

/-- Whether a move of an entry is allowed at the current tick (04 R113). -/
def moveAllowed (s : State) (e : L2Ent) : Bool :=
  windowOver s e.key || e.moves < s.dget 0x5200 4

/-- The source check (04 R112, R113): the SA code. -/
def sourceCheck (p : Petal) (t : TabSnap) (key port : Nat) (s : State) : State × Nat :=
  let mac := beBytes 6 (key / 4096) ++ leBytes 2 (key % 4096)
  match l2Get t key with
  | none =>
    if s.dget 0x5200 0x0B = 1 then (s.bump 0x5200 0x0A, 7) else queueLearn p key port 1 s
  | some e =>
    let syn := p.val * 2 ^ 17 + e.port * 32 + port
    if e.port = port then
      (s.updTab (fun x => { x with stamps := Tab.put x.stamps (key * 4 + p.val) x.ticks }), 0)
    else if e.static then (raiseOnce (0x04700000 + p.val) 0x047 syn none mac (s.bump 0x5200 8), 4)
    else if moveAllowed s e then queueLearn p key port 2 s
    else (flap p.val key e.port port s, 3)

/-- The event of the learn commit at hand applied to the content, evaluated against it (04 R113, R115): content, keys to
stamp, keys whose window starts, and the state. -/
def learnOne (acc : TabSnap × List Nat × List Nat × State) (e : LearnEv) : TabSnap × List Nat × List Nat × State :=
  let (t, st, ws, s) := acc
  match l2Get t e.key with
  | none =>
    match putL2 ⟨e.key, e.port, learnedResult s t e.port, false, 0, false⟩ t.l2 with
    | some l => ({ t with l2 := l }, st ++ [e.key], ws ++ [e.key], s)
    | none => (t, st, ws, (s.bump 0x5200 0x0A).dset 0x5200 0x0B 1)
  | some x =>
    if x.port = e.port then
      (t, st, ws, s.updTab (fun y => { y with stamps := Tab.put y.stamps (e.key * 4 + e.petal) y.ticks }))
    else if x.static then acc
    else
      let fresh := windowOver s e.key && !ws.contains e.key
      let n := if fresh then 0 else x.moves
      if n < s.dget 0x5200 4 then
        ({ t with l2 := t.l2.map (fun y => if y.key = e.key then { y with port := e.port, moves := n + 1 } else y) }, st,
          if fresh then ws ++ [e.key] else ws, s)
      else (t, st, ws, flap e.petal e.key x.port e.port s)

/-- A learn commit of at most 64 events (04 R115); their keys leave the filters (R114). -/
def learnCommit (s : State) : State :=
  let evs := s.tables.learn.take 64
  if evs.isEmpty then s
  else
    let s := s.updTab (fun t => { t with learn := t.learn.drop 64 })
    let r := evs.foldl learnOne (s.tables.accepted, [], [], s)
    let s := (newCommit r.1 r.2.1 r.2.2.1 r.2.2.2).1
    allPetals.foldl (fun s p => s.updPet p (fun x =>
      { x with filter := x.filter.filter (fun k => !evs.any (fun e => e.key == k)) })) s

/-- The age limit in ticks (04 R117, R126). -/
def ageLimit (s : State) : Nat := if minimalOn s then 300000 / s.dget 0x5200 2 else s.dget 0x5200 3

/-- The age of an L2 entry (04 R116): the smallest over the four copies. -/
def l2Age (s : State) (key : Nat) : Nat :=
  ((List.range 4).map (fun j => (s.tables.ticks + 65536 - Tab.get 0 s.tables.stamps (key * 4 + j)) % 65536)).foldl min 65535

/-- The aging scan (04 R117): an aging commit deletes the dynamic entries beyond the age limit. An entry whose commit has not
been applied yet has no timestamp and stays. -/
def agingScan (s : State) : State :=
  let lim := ageLimit s
  let old := s.tables.accepted.l2.filter (fun e => lim ≠ 0 && !e.static && lim < l2Age s e.key &&
    (Tab.find s.tables.stamps (e.key * 4)).isSome)
  if old.isEmpty then s
  else
    let t := s.tables.accepted
    let s := (newCommit { t with l2 := t.l2.filter (fun e => !old.contains e) } [] [] s).1
    s.bumpBy 0x5200 9 old.length

end Sys2Proof.Machine
end

