-- ==== Sys2Proof/Machine/Contexts.lean ====
section
/-!
DEFINITION. Machine/Contexts.lean: flow contexts in the table area and their caches (04 R118 to R123, R127), the flow hash
(05 R130), the flow counters (12 R336) and the heavy-hitter sketch (12 R334).
-/
namespace Sys2Proof.Machine

/-- The flow key of 40 bytes (04 R119). -/
def flowKey (t : TabSnap) (v : List VEnt) (m : Meta) : List Byte :=
  slice (segsKey v m ((List.range 8).map (fun i => t.get 0x5300 (0x10 + i)))).2 0 40

/-- The flow hash of a key in a petal (05 R130). -/
def flowHash (s : State) (p : Petal) (key : List Byte) : Nat :=
  toeplitz (s.domRead (pix 0x3201 p) 1 0 44) key * 2 ^ 32 + toeplitz (s.domRead (pix 0x3201 p) 2 0 44) key

/-- The address of a context (04 R118). -/
def ctxAddr (i : Nat) : Nat := if i < 16777216 then 0xD30000000 + 128 * i else 0xDB8000000 + 128 * (i - 16777216)

/-- The context at an address of the context ranges, if it lies in one (04 R118). -/
def ctxAt (a : Nat) : Option Nat :=
  if 0xD30000000 ≤ a && a < 0xDB0000000 then some ((a - 0xD30000000) / 128)
  else if 0xDB8000000 ≤ a && a < 0xDB8800000 then
    (if (a - 0xDB8000000) / 128 < 65536 then some (16777216 + (a - 0xDB8000000) / 128) else none)
  else none

/-- The petal that owns a context (04 R118, R119). -/
def ctxOwner (i : Nat) : Petal :=
  if i < 16777216 then ⟨i / 8 / 524288 % 4, Nat.mod_lt _ (by decide)⟩
  else ⟨(i - 16777216) / 16384 % 4, Nat.mod_lt _ (by decide)⟩

/-- The address of a bucket's signature line (04 R118). -/
def sigAddr (b : Nat) : Nat := 0xDB0000000 + 64 * b

/-- The bucket of a hash in a petal (04 R119). -/
def bucketOf (p : Petal) (hash : Nat) : Nat := 524288 * p.val + hash % 2 ^ 19

/-- The signature of a hash (04 R119). -/
def sigOf (hash : Nat) : Nat := bitsOf hash 63 48

/-- The flow counter record's address (12 R336). -/
def fcntAddr (s : State) (i : Nat) : Nat := s.dget 0x2050 1 * 2 ^ 30 + 16 * i

/-- Writes a context's modified counters to their record (12 R336). -/
def fcntFlush (p : Petal) (i : Nat) (s : State) : State :=
  match Tab.find (s.pet p).fcnt i with
  | none => s
  | some (pk, by_) =>
    let a := fcntAddr s i
    let s := s.updPet p (fun r => { r with fcnt := Tab.erase r.fcnt i })
    dramStore a (leBytes 8 pk ++ leBytes 8 by_) false s

/-- A context leaves its petal's cache (04 R123, 12 R336): its modified lines and counters are in DRAM from then on, and its
stamp is written to its signature line. -/
def ctxLeave (p : Petal) (i : Nat) (s : State) : State :=
  let s := fcntFlush p i s
  let s := s.updPet p (fun r => { r with ctxRes := r.ctxRes.filter (· != i), ctxOld := Tab.erase r.ctxOld i })
  if i < 16777216 then homeWrite (sigAddr (i / 8) + 16 + 2 * (i % 8)) (leBytes 2 s.tables.ticks) s
  else s.updTab (fun t => { t with ovf := Tab.put t.ovf (i - 16777216) s.tables.ticks })

/-- The set of the context cache that an index falls in: 4,096 sets of 16 ways (04 R123; DESIGN CHOICE, assumption 6: by the index's low
bits). -/
def ctxSet (i : Nat) : Nat := i % 4096

/-- Whether a task of the owning petal's matching store holds a context (04 R123). -/
def ctxHeld (s : State) (i : Nat) : Bool := (s.pet (ctxOwner i)).tasks.any (fun t => t.held && t.ctxIdx == some i)

/-- The resident contexts of a context's set, the least recently used first. -/
def ctxPeers (s : State) (i : Nat) : List Nat := (s.pet (ctxOwner i)).ctxRes.filter (fun j => ctxSet j == ctxSet i)

/-- Whether a context is resident or can become so: its set has a free way, or a way that no task holds (05 R133: a held context
stays). -/
def ctxRoom (s : State) (i : Nat) : Bool :=
  let l := ctxPeers s i
  l.contains i || l.length < 16 || l.any (fun j => !ctxHeld s j)

/-- A context becomes resident, or the most recently used (04 R123): the least recently used of a full set leaves, of those that no
task holds (05 R133); where tasks hold them all, the context does not become resident. -/
def ctxTouch (i : Nat) (s : State) : State :=
  let p := ctxOwner i
  let l := ctxPeers s i
  if !ctxRoom s i then s
  else
    let s := if l.contains i || l.length < 16 then s
      else match l.find? (fun j => !ctxHeld s j) with
        | some v => ctxLeave p v s
        | none => s
    s.updPet p (fun r => { r with ctxRes := r.ctxRes.filter (· != i) ++ [i] })

/-- Before a resident context's bytes change: what DRAM still holds is kept until the context leaves (04 R127: a FATAL halt
loses the dirty lines). -/
def ctxDirty (i : Nat) (s : State) : State :=
  let s := ctxTouch i s
  let p := ctxOwner i
  if (Tab.find (s.pet p).ctxOld i).isSome || !(s.pet p).ctxRes.contains i then s
  else
    let old := s.memRead (ctxAddr i) 128
    s.updPet p (fun r => { r with ctxOld := Tab.put r.ctxOld i old })

/-- Whether a context record holds a key, is valid and is not marked for deletion (04 R120, R121, R123). -/
def ctxHolds (s : State) (i : Nat) (key : List Byte) : Bool :=
  let a := ctxAddr i
  let f := (s.memByte (a + 40)).toNat
  bitOf f 0 && !bitOf f 2 && s.memRead a 40 == key

/-- The index at which a key's context stands (04 R121), and whether it is an overflow context. -/
def ctxFind (s : State) (p : Petal) (hash : Nat) (key : List Byte) : Option (Nat × Bool) :=
  let b := bucketOf p hash
  let l := sigAddr b
  let valid := s.memNat (l + 32) 1
  let pend := s.memNat (l + 33) 1
  match (List.range 8).find? (fun j => bitOf valid j && !bitOf pend j && s.memNat (l + 2 * j) 2 == sigOf hash &&
      ctxHolds s (8 * b + j) key) with
  | some j => some (8 * b + j, false)
  | none =>
    if s.memNat (l + 34) 2 = 0 then none
    else
      ((s.tables.ovf.find? (fun e => e.1 / 16384 == p.val && ctxHolds s (16777216 + e.1) key)).map
        (fun e => (16777216 + e.1, true)))

/-- The number of overflow contexts of a petal in 0x5300.06 changed (04). -/
def ovfCount (p : Petal) (up : Bool) (s : State) : State :=
  let v := s.dget 0x5300 6
  s.dset 0x5300 6 (if up then v + 2 ^ (16 * p.val) else v - 2 ^ (16 * p.val))

/-- Writes a new context's record and zeroes its counter record (04 R120, 12 R336). -/
def ctxWrite (i : Nat) (key : List Byte) (ovf : Bool) (s : State) : State :=
  let s := ctxDirty i s
  let s := homeWrite (ctxAddr i) (key ++ [BitVec.ofNat 8 (1 + 2 * b2n ovf), BitVec.ofNat 8 (ctxOwner i).val] ++ List.replicate 86 0) s
  let s := homeWrite (fcntAddr s i) (List.replicate 16 0) s
  s.dset 0x5300 1 (s.dget 0x5300 1 + 1)

/-- Creates a context for a key (04 R122): its index and whether it is an overflow context. -/
def ctxCreate (p : Petal) (hash : Nat) (key : List Byte) (s : State) : State × Option (Nat × Bool) :=
  let b := bucketOf p hash
  let l := sigAddr b
  let valid := s.memNat (l + 32) 1
  match (List.range 8).find? (fun j => !bitOf valid j) with
  | some j =>
    let s := homeWrite (l + 2 * j) (leBytes 2 (sigOf hash)) s
    let s := homeWrite (l + 16 + 2 * j) (leBytes 2 s.tables.ticks) s
    let s := homeWrite (l + 32) (leBytes 1 (valid + 2 ^ j)) s
    (ctxWrite (8 * b + j) key false s, some (8 * b + j, false))
  | none =>
    match (List.range 16384).find? (fun j => (Tab.find s.tables.ovf (16384 * p.val + j)).isNone) with
    | some j =>
      let s := s.updTab (fun t => { t with ovf := Tab.put t.ovf (16384 * p.val + j) t.ticks })
      let s := homeWrite (l + 34) (leBytes 2 (s.memNat (l + 34) 2 + 1)) s
      let i := 16777216 + 16384 * p.val + j
      (ctxWrite i key true (ovfCount p true s), some (i, true))
    | none => (s, none)

/-- A NOCTX outcome counted, with its rate event (04 R122). -/
def noCtx (p : Petal) (s : State) : State :=
  let s := (s.bump 0x5300 5).winBump 0x04610000
  let th := s.dget 0x5300 7
  if th ≠ 0 && th ≤ s.winGet 0x04610000 then raiseOnce 0x04600000 0x046 (p.val * 2 ^ 17) none [] s else s

/-- A context lookup (04 R121, R122): the context word. -/
def ctxLookup (p : Petal) (key : List Byte) (create : Bool) (s : State) : State × Nat :=
  let hash := flowHash s p key
  match ctxFind s p hash key with
  | some (i, o) => (ctxTouch i s, (if o then 2 else 0) * 2 ^ 61 + i)
  | none =>
    if create then
      match ctxCreate p hash key s with
      | (s, some (i, o)) => (s, (if o then 3 else 1) * 2 ^ 61 + i)
      | (s, none) => (noCtx p s, 4 * 2 ^ 61)
    else (noCtx p s, 4 * 2 ^ 61)

/-- The status of a context word (04 R104). -/
def ctxStatus (w : Nat) : Nat := bitsOf w 63 61

/-- The context index of a context word that names one. -/
def ctxIndex (w : Nat) : Option Nat := if ctxStatus w ≤ 3 then some (w % 2 ^ 25) else none

/-- Frees a marked context (04 R123). -/
def ctxFree (i : Nat) (s : State) : State :=
  let p := ctxOwner i
  let key := s.memRead (ctxAddr i) 40
  let s := ctxLeave p i s
  let s := homeWrite (ctxAddr i + 40) [0] s
  let s := s.dset 0x5300 1 (s.dget 0x5300 1 - 1)
  if i < 16777216 then
    let l := sigAddr (i / 8)
    let m := 2 ^ (i % 8)
    let s := homeWrite (l + 32) (leBytes 1 (s.memNat (l + 32) 1 - m)) s
    let pend := s.memNat (l + 33) 1
    if bitOf pend (i % 8) then homeWrite (l + 33) (leBytes 1 (pend - m)) s else s
  else
    let l := sigAddr (bucketOf p (flowHash s p key))
    let s := s.updTab (fun t => { t with ovf := Tab.erase t.ovf (i - 16777216) })
    homeWrite (l + 34) (leBytes 2 (s.memNat (l + 34) 2 - 1)) (ovfCount p false s)

/-- Marks a context for deletion and frees it when no task holds it (04 R123). -/
def ctxMark (i : Nat) (s : State) : State :=
  let s := ctxDirty i s
  let f := (s.memByte (ctxAddr i + 40)).toNat
  let s := homeWrite (ctxAddr i + 40) [BitVec.ofNat 8 (f ||| 4)] s
  let s := if i < 16777216 then
      let l := sigAddr (i / 8)
      homeWrite (l + 33) [BitVec.ofNat 8 (s.memNat (l + 33) 1 ||| 2 ^ (i % 8))] s
    else s
  if ctxHeld s i then s else ctxFree i s

/-- A marked context whose last task has released is freed (04 R123). -/
def ctxReleased (i : Nat) (s : State) : State :=
  if bitOf (s.memByte (ctxAddr i + 40)).toNat 2 && bitOf (s.memByte (ctxAddr i + 40)).toNat 0 && !ctxHeld s i then ctxFree i s
  else s

/-- The expiry scan (04 R123): each context that is not resident and beyond the idle age is marked. -/
def expiryScan (s : State) : State :=
  let lim := s.dget 0x5300 4
  if lim = 0 then s
  else
    let age := fun (st : Nat) => (s.tables.ticks + 65536 - st) % 65536
    let resident := fun (i : Nat) => (s.pet (ctxOwner i)).ctxRes.contains i
    let lines := (s.mem.filter (fun e => 0xDB0000000 ≤ e.1 && e.1 < 0xDB8000000 && e.1 % 64 = 32)).map (fun e => (e.1 - 32 - 0xDB0000000) / 64)
    let reg := (lines.map (fun b => ((List.range 8).filter (fun j =>
      bitOf (s.memNat (sigAddr b + 32) 1) j && !bitOf (s.memNat (sigAddr b + 33) 1) j && !resident (8 * b + j) &&
      lim < age (s.memNat (sigAddr b + 16 + 2 * j) 2))).map (fun j => 8 * b + j))).flatten
    let ovf := (s.tables.ovf.filter (fun e => !resident (16777216 + e.1) && lim < age e.2)).map (fun e => 16777216 + e.1)
    (reg ++ ovf).foldl (fun s i => ctxMark i s) s

/-- A task's packet counted at its context (12 R336). -/
def fcntAdd (i len : Nat) (s : State) : State :=
  let p := ctxOwner i
  let a := fcntAddr s i
  let cur := match Tab.find (s.pet p).fcnt i with
    | some c => c
    | none => (s.memNat a 8, s.memNat (a + 8) 8)
  s.updPet p (fun r => { r with fcnt := Tab.put r.fcnt i ((cur.1 + 1) % 2 ^ 64, (cur.2 + len) % 2 ^ 64) })

/-- The periodic write-back of a petal's modified counter records (12 R336). -/
def fcntWriteback (p : Petal) (s : State) : State :=
  ((s.pet p).fcnt.map Prod.fst).foldl (fun s i => fcntFlush p i s) s

/-- What a FATAL halt does to a petal's context cache (04 R127, 12 R336): dirty lines and modified counters are lost. -/
def ctxHalt (p : Petal) (s : State) : State :=
  let s := (s.pet p).ctxOld.foldl (fun s e => s.memWrite (ctxAddr e.1) e.2) s
  s.updPet p (fun r => { r with ctxRes := [], ctxOld := [], fcnt := [] })

/-! ## The sketch (12 R334) -/

/-- A frame that the flow hash unit receives, counted in the sketch, with the heavy-hitter report (12 R334). -/
def sketchAdd (p : Petal) (key : List Byte) (hash len : Nat) (s : State) : State :=
  let mode := s.dget (pix 0x33A6 p) 1
  if mode = 0 then s
  else
    let n := if mode = 1 then 1 else len
    let idx := fun (r : Nat) =>
      let kb := s.domRead (pix 0x33A6 p) 5 (46 * r) 46
      65536 * r + ((toeplitz (kb.take 44) key % 65536) ^^^ leNat (kb.drop 44))
    let before := (s.pet p).sketch
    let after := (List.range 4).foldl (fun m r => Tab.set 0 m (idx r) (min (Tab.get 0 m (idx r) + n) (2 ^ 48 - 1))) before
    let s := s.updPet p (fun x => { x with sketch := after })
    let est := ((List.range 4).map (fun r => Tab.get 0 after (idx r))).foldl min (2 ^ 48 - 1)
    let th := s.dget (pix 0x33A6 p) 2
    if th ≠ 0 && th ≤ est && !(s.pet p).marks.contains hash then
      let s := s.updPet p (fun x => { x with marks := x.marks ++ [hash] })
      let old := s.domRead (pix 0x33A6 p) 6 16 4080
      let s := s.domWrite (pix 0x33A6 p) 6 0 (old ++ leBytes 8 hash ++ leBytes 8 est)
      raiseOnceAny (0x06400000 + p.val) (0x064 + p.val) (some p) s
    else s

/-- Clears a petal's sketch, its ring and its marks (12 R334). -/
def sketchClear (p : Petal) (s : State) : State :=
  (s.updPet p (fun x => { x with sketch := [], marks := [] })).domClear (pix 0x33A6 p) 6 0 4096

end Sys2Proof.Machine
end

