-- ==== Sys2Proof/Machine/Cowslip.lean ====
section
/-!
DEFINITION. Machine/Cowslip.lean: the Cowslip engine (13): the slot map, lanes and segments, SAs, the choice of work, ingress
checks and results, egress protection, and jobs.
-/
namespace Sys2Proof.Machine

/-- The state with Cowslip changed. -/
def State.updCow (s : State) (f : CowSt → CowSt) : State := { s with cow := f s.cow }

/-! ## Queues (14 R364) -/

/-- The petal of a global queue number (14 R364). -/
def qPetal (g : Nat) : Petal := ⟨g / 16384 % 4, Nat.mod_lt _ (by decide)⟩

/-- A queue beside its object. -/
def State.q (s : State) (g : Nat) : QueueSt := Tab.get QueueSt.reset (s.pet (qPetal g)).queues (g % 16384)

/-! ## The slot frame (13 R341 to R344) -/

/-- The slot weights, owner 4 last (13 R342). -/
def slotWeights (s : State) : List Nat :=
  let w := (List.range 4).map (fun n => s.dget 0x4C01 (1 + n))
  w ++ [16 - w.sum]

/-- The slots of the map in order, from the credits of the owners (13 R342). -/
def slotOwners (w : List Nat) : Nat → List Int → List Nat
  | 0, _ => []
  | n + 1, c =>
    let c := (c.zip w).map (fun e => e.1 + (e.2 : Int))
    let m := c.foldl max (c.headD 0)
    let o := (c.findIdx? (fun x => x == m)).getD 4
    o :: slotOwners w n (c.zipIdx.map (fun e => if e.2 = o then e.1 - 16 else e.1))

/-- The slot map as 0x4C00.02 shows it (13 R342). -/
def slotMap (s : State) : Nat :=
  ((slotOwners (slotWeights s) 16 [0, 0, 0, 0, 0]).zipIdx.map (fun e => e.1 * 16 ^ e.2)).sum

/-- The blocks that an operation runs over `a` authenticated and `d` encrypted bytes (13 R339). -/
def aeadBlocks (a d : Nat) : Nat := (a + 15) / 16 + (d + 15) / 16 + 1

/-- The budget of a lane in a slot (13 R343). -/
def laneBudget (s : State) : Nat :=
  let p := s.dget 0x2010 0x11
  if p = 0 then 52 else min 104 (104 * p / 16 / 100)

/-- The lanes in service (13 R361). -/
def lanesUp (s : State) : List Nat := (List.range 16).filter (fun l => bitOf (s.dget 0x4C00 3) l)

/-- The queued packets of a petal on which Cowslip works ahead of their transmission (13 R348): protected, or their operation begun. -/
def workedAhead (s : State) (p : Petal) : Nat :=
  (((s.pet p).queues.map (fun e => (e.2.pk.filter QPkt.prot).length)).sum) +
    (s.cow.ops.filter (fun o => o.owner == p.val && o.num ≠ 0 && (match o.srv with | .egress _ _ => true | _ => false))).length

/-- Whether an egress operation may begin (13 R348): the packets of its queue are processed in queue order, at most 64 ahead of
transmission in each queue and 8,192 in each petal. Any other operation may. -/
def mayBegin (s : State) (o : CowOp) : Bool :=
  match o.srv with
  | .egress g n =>
    o.num ≠ 0 || (((s.q g).pk.take 64).any (fun x => x.seq == n) && workedAhead s (qPetal g) < 8192 &&
      !s.cow.ops.any (fun x => x.id < o.id && x.num == 0 && x.status == 0 && (match x.srv with | .egress h _ => h == g | _ => false)))
  | _ => true

/-- Whether an operation's next segment may start on a lane: blocks left, none running, no status yet; a segment is retried on another
lane than the one that failed (13 R343, R361). -/
def startable (s : State) (l : Nat) (o : CowOp) : Bool :=
  o.left ≠ 0 && o.lane.isNone && o.status == 0 && !(o.retried && o.ran == l) && mayBegin s o

/-- The operation whose segment a lane takes next in the slot in progress (13 R344). -/
def laneWork (s : State) (l budget : Nat) : Option CowOp :=
  let owner := bitsOf (s.dget 0x4C00 2) (4 * s.cow.slot + 3) (4 * s.cow.slot)
  let fits := fun (o : CowOp) => startable s l o && min 64 o.left ≤ budget
  let of := fun (n : Nat) => s.cow.ops.find? (fun o => o.owner == n && fits o)
  match of owner with
  | some o => some o
  | none =>
    if s.cow.iso = 1 then none
    else
      let rot := if owner = 4 then [0, 1, 2, 3] else [(owner + 1) % 4, (owner + 2) % 4, (owner + 3) % 4]
      (rot ++ [4]).findSome? of

/-- The egress operation takes its SA's next number when it starts (13 R355): the number taken, or none where the SA is or
becomes stopped. -/
def takeNumber (i : Nat) (s : State) : State × Option Nat :=
  match Tab.find s.cow.sas i with
  | none => (s, none)
  | some a =>
    if a.stopped then (s, none)
    else
      let wide := bitOf ((a.blk.getD 2 0).toNat) 0
      let lim := if wide then 2 ^ 64 - 1 else 2 ^ 32 - 1
      let soft := leNat (slice a.blk 32 8)
      let hard := leNat (slice a.blk 40 8)
      let pk := a.pkts + 1
      let stop := lim < a.num + 1 || (hard ≠ 0 && hard ≤ pk)
      let softHit := soft ≠ 0 && soft ≤ pk && !a.softDone
      let a' := { a with num := a.num + 1, pkts := pk, stopped := stop, softDone := a.softDone || softHit }
      let s := s.updCow (fun c => { c with sas := Tab.put c.sas i a' })
      let s := if softHit then raise 0x0B1 i none s else s
      let s := if stop then raise 0x0B2 i none s else s
      (s, some a.num)

/-- A lane starts the segment of an operation. -/
def startSeg (l : Nat) (o : CowOp) (s : State) : State :=
  let n := min 64 o.left
  let r : State × Nat × Nat := match o.srv, o.sa, o.num with
    | .egress _ _, some i, 0 =>
      match takeNumber i s with
      | (s, some k) => (s, k, 0)
      | (s, none) => (s, 0, 5)
    | _, _, k => (s, k, 0)
  if r.2.2 ≠ 0 then
    r.1.updCow (fun c => { c with ops := c.ops.map (fun x => if x.id = o.id then { x with status := 5, left := 0 } else x) })
  else
    r.1.updCow (fun c => { c with
      ops := c.ops.map (fun x => if x.id = o.id then { x with lane := some l, ran := l, num := r.2.1 } else x)
      lanes := Tab.put c.lanes l ⟨(Tab.get ⟨0, 0⟩ c.lanes l).budget - n, n⟩ })

/-- Every idle lane in service takes work (13 R344). -/
def fillLanes (s : State) : State :=
  (lanesUp s).foldl (fun s l =>
    let x := Tab.get ⟨0, 0⟩ s.cow.lanes l
    if s.cow.ops.any (fun o => o.lane == some l) then s
    else match laneWork s l x.budget with
      | some o => startSeg l o s
      | none => s) s

/-- A slot starts: budgets anew; segments still running are counted as overruns (13 R343). -/
def slotStart (s : State) : State :=
  let b := laneBudget s
  let n := (s.cow.ops.filter (fun o => o.lane.isSome)).length
  let s := s.bumpBy 0x4C12 9 n
  fillLanes (s.updCow (fun c => { c with
    slot := (c.slot + 1) % 16
    lanes := (List.range 16).map (fun l => (l, ⟨b, (Tab.get ⟨0, 0⟩ c.lanes l).seg⟩)) }))

/-- A frame boundary: the map is built anew where the weights have changed, the lane isolation as last written takes effect, and
slot 0 comes next (13 R342, R345; 00 R14). -/
def frameBoundary (s : State) : State :=
  (s.dset 0x4C00 2 (slotMap s)).updCow (fun c => { c with slot := 15, iso := s.dget 0x4C00 1 })

/-- A lane's segment completes, or meets a lane error: retried once, then the operation ends with status 7 (13 R343, R361). -/
def segDone (l : Nat) (ok : Bool) (s : State) : State :=
  match s.cow.ops.find? (fun o => o.lane == some l) with
  | none => s
  | some o =>
    let n := (Tab.get ⟨0, 0⟩ s.cow.lanes l).seg
    let upd := fun (f : CowOp → CowOp) (s : State) =>
      s.updCow (fun c => { c with ops := c.ops.map (fun x => if x.id = o.id then f x else x) })
    let s := if ok then upd (fun x => { x with lane := none, left := x.left - n, retried := false }) s
      else
        let s := raise 0x0B7 l none (s.bump 0x4C12 0x0B)
        if o.retried then upd (fun x => { x with lane := none, left := 0, status := 7 }) s
        else upd (fun x => { x with lane := none, retried := true }) s
    fillLanes (s.updCow (fun c => { c with lanes := Tab.put c.lanes l ⟨(Tab.get ⟨0, 0⟩ c.lanes l).budget, 0⟩ }))

/-! ## Security associations (13 R350 to R353) -/

/-- A byte of an SA's parameter block. -/
def Sa.b (a : Sa) (i : Nat) : Nat := (a.blk.getD i 0).toNat

/-- PROTO: 1 MACsec, 2 ESP transport, 3 ESP tunnel. -/
def Sa.proto (a : Sa) : Nat := a.b 0

/-- Ingress SAs have DIR 0. -/
def Sa.ingress (a : Sa) : Bool := a.b 1 == 0

/-- The key by which an ingress SA is found (13 R347): protocol class, logical port or SPI, SCI or address, AN. -/
def saKey (blk : List Byte) : List Byte :=
  if (blk.getD 0 0).toNat = 1 then [1] ++ slice blk 6 2 ++ slice blk 8 8 ++ slice blk 5 1
  else [2] ++ slice blk 8 4 ++ slice blk 48 1 ++ slice (slice blk 64 (if (blk.getD 48 0).toNat = 4 then 4 else 16)) 0 16

/-- The resident ingress SA of a key (13 R347). -/
def saFind (s : State) (key : List Byte) : Option Nat :=
  (s.cow.sas.find? (fun e => e.2.ingress && !e.2.draining && saKey e.2.blk == key)).map Prod.fst

/-- Whether an SA's block or record parts hold a reserved value (13 R352). -/
def saReserved (blk : List Byte) : Bool :=
  let b := fun i => (blk.getD i 0).toNat
  let n := fun off len => leNat (slice blk off len)
  b 0 == 0 || 3 < b 0 || 1 < b 1 || bitOf (b 2) 7 || !([0, 30, 50].contains (b 3)) || 2 < b 4 || 3 < b 5 ||
  (b 1 == 1 && n 24 8 == 0) || n 50 14 ≠ 0 || n 124 4 ≠ 0 ||
  (b 0 == 2 && b 49 ≠ 0) || (b 0 == 1 && b 49 ≠ 0) || (b 0 == 3 && b 49 ≠ 20 && b 49 ≠ 40) || (b 49 == 20 && n 100 20 ≠ 0) ||
  (b 0 ≠ 1 && b 1 == 0 && b 48 ≠ 4 && b 48 ≠ 6) || (b 0 == 1 && b 1 == 0 && 31 < n 6 2) ||
  (b 0 ≠ 1 && bitOf (b 2) 1 && !([64, 128, 256, 512, 1024, 2048, 4096].contains (n 20 4)))

/-- The library's base address, if it is not disabled (13 R350). -/
def libBase (s : State) : Option Nat := if s.dget 0x4C02 1 = 0xFF then none else some (s.dget 0x4C02 1 * 2 ^ 30)

/-- The resident view's bytes of an SA (13 R353). -/
def saView (i : Nat) (s : State) : State :=
  match Tab.find s.cow.sas i with
  | none => s.domClear 0x4C11 0 (144 * i) 144
  | some a =>
    let st := if a.draining then 2 else if a.stopped then 3 else 1
    s.domWrite 0x4C11 0 (144 * i) (a.blk.take 24 ++ leBytes 8 a.num ++ slice (a.blk.drop 32) 0 96 ++ leBytes 8 a.pkts ++
      [BitVec.ofNat 8 st] ++ List.replicate 7 0)

/-- An SA command refused: its cause and index recorded, its event raised (13 R351). -/
def saRefused (cause idx : Nat) (s : State) : State :=
  raiseAny 0x0B3 none (s.dset 0x4C10 1 (cause * 2 ^ 24 + idx % 2 ^ 24))

/-- IMPORT (13 R350, R351): cause of a refusal, or the state with the sealed record. The wrapped key and the seal are bytes
that Config leaves open (DESIGN CHOICE, assumption 7). -/
def saImport (idx : Nat) (body : List Byte) (s : State) : Except Nat State :=
  match libBase s with
  | none => .error 6
  | some base =>
    let ty := (body.getD 0 0).toNat
    let sl := (body.getD 1 0).toNat
    let blob := slice body 8 56
    if ty = 0 || 3 < ty || !([0, 4, 12].contains sl) || 1048576 ≤ idx || leNat (slice body 2 6) ≠ 0 || leNat (slice body 64 64) ≠ 0 ||
        !Config.icvOk [] blob then .error 1
    else
      let key := slice (Config.cipher [] blob) 0 44
      let sealed := slice (Config.cipher (leBytes 4 s.fresh) key) 0 64
      let nonce := (List.range 12).map (Config.freeByte s.fresh)
      let rec_ := leBytes 4 idx ++ [BitVec.ofNat 8 ty, 1, BitVec.ofNat 8 sl, 0] ++ nonce ++ sealed ++ List.replicate 44 0
      let s := dramStore (base + 128 * idx) rec_ false s.tick
      .ok (s.updCow (fun c => { c with seals := Tab.put c.seals idx (rec_, key) }))

/-- A library record read for use (13 R350, R351): its key type, salt length and key block; none where it is invalid or
rejected. -/
def libRead (s : State) (base idx : Nat) : Option (Nat × Nat × List Byte) :=
  let r := s.memRead (base + 128 * idx) 128
  match Tab.find s.cow.seals idx with
  | some (sealed, key) => if r == sealed && !poisoned s (base + 128 * idx) 128 then some ((r.getD 4 0).toNat, (r.getD 6 0).toNat, key) else none
  | none => none

/-- LOAD (13 R351, R352): the cause of a refusal, or the state with the SA resident. -/
def saLoad (idx : Nat) (blk : List Byte) (s : State) : Except Nat State :=
  let li := leNat (slice blk 120 4)
  if 65536 ≤ idx || saReserved blk || 1048576 ≤ li then .error 1
  else if (Tab.find s.cow.sas idx).isSome then .error 2
  else if (blk.getD 1 0) == 0 && (saFind s (saKey blk)).isSome then .error 3
  else if (blk.getD 1 0) == 0 && s.cow.sas ≠ [] && Config.saFails s.cow.sas.length (saKey blk) then .error 4
  else match libBase s with
    | none => .error 6
    | some base =>
      match libRead s base li with
      | none => .error 5
      | some (ty, _, key) =>
        let chacha := (blk.getD 0 0) ≠ 1 && bitOf (blk.getD 2 0).toNat 6
        if chacha ≠ (ty == 3) then .error 1
        else
          let a : Sa := { blk := blk, keyBlk := key, num := leNat (slice blk 24 8), marks := [], pkts := 0, stopped := false,
                          draining := false, softDone := false }
          .ok (saView idx (s.updCow (fun c => { c with sas := Tab.put c.sas idx a })))

/-- Whether an operation of an SA is still under way (13 R353). -/
def saBusy (s : State) (i : Nat) : Bool := s.cow.ops.any (fun o => o.sa == some i)

/-- UNLOAD (13 R353): a resident SA drains, and is gone at once when no operation uses it. -/
def saUnload (i : Nat) (s : State) : State :=
  match Tab.find s.cow.sas i with
  | none => s
  | some a =>
    saView i (if saBusy s i then s.updCow (fun c => { c with sas := Tab.put c.sas i { a with draining := true } })
      else s.updCow (fun c => { c with sas := Tab.erase c.sas i }))

/-- The last operation of a draining SA has committed (13 R353). -/
def saDrained (i : Nat) (s : State) : State :=
  match Tab.find s.cow.sas i with
  | some a => if a.draining && !saBusy s i then saView i (s.updCow (fun c => { c with sas := Tab.erase c.sas i })) else s
  | none => s

/-- Operations discarded before their commit; a draining SA that no operation uses any more is gone (13 R353). -/
def dropOps (sel : CowOp → Bool) (s : State) : State :=
  let l := s.cow.ops.filter sel
  (l.filterMap CowOp.sa).foldl (fun s i => saDrained i s)
    (s.updCow (fun c => { c with ops := c.ops.filter (fun o => !sel o) }))

/-- ERASE (13 R351): the record is cleared. -/
def saErase (idx : Nat) (s : State) : Except Nat State :=
  match libBase s with
  | none => .error 6
  | some base =>
    if 1048576 ≤ idx then .error 1
    else .ok ((dramStore (base + 128 * idx) (List.replicate 128 0) false s).updCow (fun c => { c with seals := Tab.erase c.seals idx }))

/-- The abort code of a refusal's cause (13 R351). -/
def saAbort : Nat → Abort
  | 1 => 0x06090030
  | 4 => 0x08000024
  | _ => 0x08000022

/-- The body of an SA command performed, or refused with its record, its event and its abort code (13 R351, R362). -/
def saCommand (op idx : Nat) (body : List Byte) (s : State) : State × Option Abort :=
  if minimalOn s then (s, some 0x08000022)
  else
    let zero := body.all (· == 0)
    let r : Except Nat State :=
      if body.length ≠ 128 then .error 1
      else match op with
        | 1 => saImport idx body s
        | 2 => saLoad idx body s
        | 3 => if !zero || 65536 ≤ idx then .error 1 else .ok (saUnload idx s)
        | _ => if !zero then .error 1 else saErase idx s
    match r with
    | .ok s => (s, none)
    | .error c =>
      let s := saRefused c idx s
      let rejected := op = 2 && c = 5 && (match libBase s with
        | some base => bitOf (s.memByte (base + 128 * leNat (slice body 120 4) + 5)).toNat 0
        | none => false)
      (if rejected then raiseAny 0x0B4 none s else s, some (saAbort c))

/-! ## Ingress (13 R346, R347, R354 to R357) -/

/-- What a task's selection found (13 R347): the protocol header's offset, and its SA key; or a status at once. -/
inductive CowSel where
  | none
  | status (n kind : Nat)
  | sa (i : Nat) (off : Nat)
deriving DecidableEq, Repr

/-- The offset of the first level-0 header of a type. -/
def firstType (v : List VEnt) (ty : Nat) : Option Nat :=
  if ty = 0xFF then none else ((vecHdrs v).find? (fun h => h.level == 0 && h.ty == ty)).map Hdr.off

/-- The key of an ESP header: SPI and destination address (13 R347). -/
def espKey (s : State) (v : List VEnt) (f : List Byte) (o : Nat) : List Byte :=
  let fld := fun sub => let id := s.dget 0x4C00 sub; if id = 0xFF then none else vecField v id
  let (fam, addr) := match fld 7 with
    | some x => ((4 : Nat), slice x.bytes 0 4)
    | none => match fld 8 with
      | some x => (6, slice x.bytes 0 16)
      | none => (0, [])
  [2] ++ slice f o 4 ++ [BitVec.ofNat 8 fam] ++ slice addr 0 16

/-- The petal's selection at formation (13 R347): the SecTAG before ESP; the entry's offset is that of the byte after the
EtherType (DEDUCED, assumption 8). -/
def cowSelect (s : State) (port : Nat) (v : List VEnt) (f : List Byte) : CowSel :=
  let w := s.dget 0x4C03 (1 + port)
  match firstType v (s.dget 0x4C00 5), firstType v (s.dget 0x4C00 6) with
  | some o, _ =>
    if !bitOf w 31 then .none
    else
      let tci := bitsAt f (8 * o) 8
      if bitOf tci 7 then .status 6 1
      else
        let sci := if bitOf tci 5 then slice f (o + 6) 8
          else if bitOf tci 6 then slice f 6 6 ++ [0, 1]
          else beBytes 8 (s.dget 0x4C04 (1 + port))
        match saFind s ([1] ++ leBytes 2 port ++ sci ++ [BitVec.ofNat 8 (tci % 4)]) with
        | some i => .sa i o
        | none => .status 4 1
  | none, some o =>
    if !bitOf w 30 then .none
    else
      let frag : Bool := ((vecHdrs v).find? (fun h => h.level == 0 && h.ipv == 1)).any
        (fun h => bitsAt f (8 * (h.off + 6)) 16 % 0x4000 ≠ 0)
      if frag then .status 8 2
      else match saFind s (espKey s v f o) with
        | some i => .sa i o
        | none => .status 4 2
  | none, none => .none

/-- A 64-bit number recovered from its low 32 bits and the lowest acceptable number (13 R354: MACsec XPN). -/
def xpnRecover (l low : Nat) : Nat :=
  let hi := l / 2 ^ 32
  if bitOf l 31 && !bitOf low 31 && low < l % 2 ^ 32 then (hi + 1) * 2 ^ 32 + low else hi * 2 ^ 32 + low

/-- The ESN of RFC 4303, Appendix A, from the highest received number and the window (13 R354). -/
def esnRecover (h w low : Nat) : Nat :=
  let tl := h % 2 ^ 32
  let th := h / 2 ^ 32
  let bot := (tl + 2 ^ 32 + 1 - w) % 2 ^ 32
  if w - 1 ≤ tl then (if bot ≤ low then th else th + 1) * 2 ^ 32 + low
  else (if bot ≤ low then th - 1 else th) * 2 ^ 32 + low

/-- The number that an ingress frame carries for its SA (13 R354). -/
def frameNumber (a : Sa) (f : List Byte) (o : Nat) : Nat :=
  let wide := bitOf (a.b 2) 0
  if a.proto = 1 then
    let pn := bitsAt f (8 * (o + 2)) 32
    if wide then xpnRecover a.num pn else pn
  else
    let sn := bitsAt f (8 * (o + 4)) 32
    if wide then esnRecover a.num (leNat (slice a.blk 20 4)) sn else sn

/-- Whether the replay check fails (13 R354). -/
def replayed (a : Sa) (n : Nat) : Bool :=
  if !bitOf (a.b 2) 1 then false
  else if a.proto = 1 then n < a.num
  else n + leNat (slice a.blk 20 4) ≤ a.num || a.marks.contains n || n == 0

/-- The parts of a protected frame without its FCS (13 R349, R357): the offset where the protection begins, its length, the
secured data's offset and length; none where the frame is malformed. -/
def protParts (a : Sa) (v : List VEnt) (f : List Byte) (o : Nat) : Option (Nat × Nat × Nat × Nat) :=
  if a.proto = 1 then
    let tci := bitsAt f (8 * o) 8
    let tl := if bitOf tci 5 then 16 else 8
    let d := o - 2 + tl
    let sl := bitsAt f (8 * (o + 1)) 8
    if 48 ≤ sl || f.length < d + 16 then none
    else if sl ≠ 0 then (if f.length < d + sl + 16 then none else some (o - 2, tl, d, sl))
    else if f.length < d + 48 + 16 then none
    else some (o - 2, tl, d, f.length - d - 16)
  else
    let ip := ((vecHdrs v).filter (fun h => h.off < o && h.level == 0 && h.ipv ≠ 0)).getLast?
    let e := match ip with
      | some h => ipEnd f (h.off, h.ipv)
      | none => f.length
    if f.length < e || e < o + 16 + 16 + 2 then none
    else some (o, 16, o + 16, e - o - 32)

/-- The blocks of an ingress operation (13 R339). -/
def ingressBlocks (a : Sa) (parts : Nat × Nat × Nat × Nat) : Nat :=
  let (o, l, _, d) := parts
  if a.proto = 1 then
    if bitOf (a.b 2) 2 then let c := min (a.b 3) d; aeadBlocks (o + l + c) (d - c) else aeadBlocks (o + l + d) 0
  else aeadBlocks (if bitOf (a.b 2) 0 then 12 else 8) d

/-- The result of 13 R356. -/
def cowResult (status kind off len next flags : Nat) (sa : Option Nat) (num : Nat) : List Byte :=
  leBytes 1 status ++ leBytes 1 kind ++ leBytes 2 off ++ leBytes 2 len ++ leBytes 1 next ++ leBytes 1 flags ++
    leBytes 4 (sa.getD 0xFFFFFFFF) ++ leBytes 4 0 ++ leBytes 8 num ++ leBytes 8 0

/-- The error form of an operand timeout (05 R134, 13 R356). -/
def cowError : List Byte := [7] ++ List.replicate 31 0

/-- Whether Cowslip's stem crossbar port is isolated: every operation ends with status 7 (18 R480). -/
def cowShut (s : State) : Bool := s.isoPorts.contains 10

/-- An operation begun for a task (13 R347, R354), with the selector word of that moment (00 R15): its SA must not be stopped and its
number must pass the replay check, else it has a status at once and takes no block. -/
def cowBegin (p : Petal) (task order word : Nat) (sel : CowSel) (v : List VEnt) (f : List Byte) (s : State) : State :=
  let id := s.cow.nextId
  let o := { CowOp.fresh id p.val (.ingress task order) s.time with word := word }
  let op : CowOp := match sel with
    | .none => { o with status := 8, kind := 2 }
    | .status n k => { o with status := n, kind := k }
    | .sa i off =>
      match Tab.find s.cow.sas i with
      | none => { o with status := 4, off := off, kind := 2 }
      | some a =>
        let o := { o with sa := some i, num := frameNumber a f off, off := off, kind := if a.proto = 1 then 1 else 2 }
        if a.stopped then { o with status := 5 }
        else match protParts a v f off with
          | none => { o with status := 6 }
          | some parts => if replayed a o.num then { o with status := 3 } else { o with left := ingressBlocks a parts }
  let op := if cowShut s then { op with status := 7, left := 0 } else op
  s.updCow (fun c => { c with nextId := id + 1, ops := c.ops ++ [op] })

/-- The commit of a number at its SA (13 R354): false where the check fails at commit. -/
def saCommit (i n : Nat) (s : State) : State × Bool :=
  match Tab.find s.cow.sas i with
  | none => (s, false)
  | some a =>
    if replayed a n then (s, false)
    else
      let w := leNat (slice a.blk 20 4)
      let a := { a with pkts := a.pkts + 1 }
      let hard := leNat (slice a.blk 40 8)
      let soft := leNat (slice a.blk 32 8)
      let stop := hard ≠ 0 && hard ≤ a.pkts
      let softHit := soft ≠ 0 && soft ≤ a.pkts && !a.softDone
      let a' := if a.proto = 1 then { a with num := max a.num (n + 1 - w) }
        else { a with num := max a.num n, marks := (n :: a.marks).filter (fun m => max a.num n < m + w) }
      let a' := { a' with stopped := a.stopped || stop, softDone := a.softDone || softHit }
      let s := s.updCow (fun c => { c with sas := Tab.put c.sas i a' })
      let s := if softHit then raise 0x0B1 i none s else s
      let s := if stop && !a.stopped then raise 0x0B2 i none s else s
      (saView i s, true)

/-- The plaintext of secured data: bytes that Config leaves open, of the same length (DESIGN CHOICE, assumption 7); an SA without
confidentiality leaves the bytes as they are. -/
def plaintext (a : Sa) (n : Nat) (f : List Byte) (off len : Nat) : List Byte :=
  if a.proto = 1 && !bitOf (a.b 2) 2 then slice f off len
  else
    let c := if a.proto = 1 then min (a.b 3) len else 0
    slice f off c ++ slice (Config.cipher (a.keyBlk ++ leBytes 8 n) (slice f (off + c) (len - c))) 0 (len - c)

/-- Whether a frame's ICV verifies (13 R354; DESIGN CHOICE, assumption 7). -/
def icvGood (a : Sa) (n : Nat) (f : List Byte) (o : Nat) (parts : Nat × Nat × Nat × Nat) : Bool :=
  Config.icvOk (a.keyBlk ++ leBytes 8 n) (f.take (parts.2.2.1 + parts.2.2.2 + 16) ++ leBytes 2 o)

/-- The offset of the next-header field before the header at offset `o` of an IPv6 packet: from the field at `pos` and the header that
follows at `cur`, over its extension headers (13 R349, R357). -/
def nextField : Nat → List Byte → Nat → Nat → Nat → Nat
  | 0, _, pos, _, _ => pos
  | n + 1, f, pos, cur, o => if o ≤ cur then pos else nextField n f cur (cur + 8 * (bitsAt f (8 * cur + 8) 8 + 1)) o

/-- A verified frame as STRIP leaves it (13 R357): the frame without its FCS, the bytes fewer at its start, DATA_OFF and
DATA_LEN, the ESP next header. -/
def stripFrame (a : Sa) (v : List VEnt) (f : List Byte) (parts : Nat × Nat × Nat × Nat) (plain : List Byte) :
    List Byte × Nat × Nat × Nat × Nat :=
  let (o, l, d, n) := parts
  let pad := (plain.getD (n - 2) 0).toNat
  let next := (plain.getD (n - 1) 0).toNat
  let body := plain.take (n - 2 - pad)
  match a.proto with
  | 1 => (f.take o ++ plain ++ f.drop (d + n + 16), l, o, n, 0)
  | 2 =>
    match ((vecHdrs v).filter (fun h => h.off < o && h.level == 0 && h.ipv ≠ 0)).getLast? with
    | none => (f.take o ++ body ++ f.drop (d + n + 16), 16, o, body.length, next)
    | some h =>
      let g := f.take o ++ body ++ f.drop (d + n + 16)
      let tot := o + body.length
      let g := if h.ipv = 1 then
          let g := setBitsAt (setBitsAt g (8 * (h.off + 9)) 8 next) (8 * (h.off + 2)) 16 (tot - h.off)
          let g := setBitsAt g (8 * (h.off + 10)) 16 0
          setBitsAt g (8 * (h.off + 10)) 16 (0xFFFF - onesSum (slice g h.off h.len))
        else
          let g := setBitsAt g (8 * (h.off + 4)) 16 (tot - h.off - 40)
          setBitsAt g (8 * nextField 16 f (h.off + 6) (h.off + 40) o) 8 next
      (g, 16, o, body.length, next)
  | _ =>
    let ip := (((vecHdrs v).filter (fun h => h.off < o && h.level == 0 && h.ipv ≠ 0)).getLast?.map Hdr.off).getD 14
    let ver := bitsAt body 0 4
    let g := f.take ip ++ body ++ f.drop (d + n + 16)
    (setBitsAt g (8 * (ip - 2)) 16 (if ver = 6 then 0x86DD else 0x0800), o + 16 - ip, ip, body.length, next)

/-! ## Egress (13 R348, R355, R358) -/

/-- The binding of a queue (13 R348): the SA index of a valid entry. -/
def bindingOf (s : State) (g : Nat) : Option Nat :=
  let e := s.domNat 0x4C05 0 (4 * g) 4
  if bitOf e 31 then some (e % 65536) else none

/-- Whether a frame's outermost packet is IPv6 with an extension header, which ESP transport drops as malformed on egress (13 R349). -/
def ip6Ext (tp : List Nat) (f : List Byte) : Bool :=
  let e := afterTags tp f 16 14
  bitsAt f (8 * e) 4 == 6 && [0, 43, 44, 51, 60, 135, 139, 140].contains (bitsAt f (8 * (e + 6)) 8)

/-- The bytes that protection adds before and after a frame, at an offset, and the header they form (13 R349, R358). -/
def protectFrame (tp : List Nat) (a : Sa) (n : Nat) (f : List Byte) : List Byte × Nat :=
  let enc := fun (x : List Byte) => slice (Config.cipher (a.keyBlk ++ leBytes 8 n) x) 0 x.length
  let icv := fun (x : List Byte) => slice (Config.cipher (a.keyBlk ++ leBytes 8 n ++ [1]) x) 0 16
  if a.proto = 1 then
    let tags := min (a.b 4) ((afterTags tp f 16 14 - 14) / 4)
    let o := 12 + 4 * tags
    let conf := bitOf (a.b 2) 2
    let sc := bitOf (a.b 2) 4
    let es := bitOf (a.b 2) 5
    let data := f.drop o
    let sl := if data.length < 48 then data.length else 0
    let tci := b2n es * 64 + b2n sc * 32 + b2n conf * 12 + a.b 5
    let tag := beBytes 2 0x88E5 ++ [BitVec.ofNat 8 tci, BitVec.ofNat 8 sl] ++ beBytes 4 n ++ (if sc then slice a.blk 8 8 else [])
    let c := if conf then min (a.b 3) data.length else data.length
    let body := data.take c ++ enc (data.drop c)
    let out := f.take o ++ tag ++ body
    (out ++ icv out, tag.length)
  else
    let e := afterTags tp f 16 14
    let v6 := bitsAt f (8 * e) 4 = 6
    let ipl := if a.proto = 3 then 0 else if v6 then 40 else 4 * bitsAt f (8 * e + 4) 4
    let hdr := a.blk.drop 8 |>.take 4
    let inner := f.drop (e + ipl)
    let next := if a.proto = 3 then (if v6 then 41 else 4) else if v6 then bitsAt f (8 * (e + 6)) 8 else bitsAt f (8 * (e + 9)) 8
    let padN := (4 - (inner.length + 2) % 4) % 4
    let pads := (List.range padN).map (fun i => BitVec.ofNat 8 (i + 1))
    let plain := inner ++ pads ++ [BitVec.ofNat 8 padN, BitVec.ofNat 8 next]
    let esp := hdr ++ beBytes 4 n ++ beBytes 8 n ++ enc plain
    let tun := slice a.blk 80 (a.b 49)
    let ip := if a.proto = 3 then tun else slice f e ipl
    let tot := ip.length + esp.length + 16
    let ip6 := bitsAt ip 0 4 = 6
    let ip := if ip6 then
        let x := setBitsAt ip 32 16 (tot - 40)
        setBitsAt x 48 8 50
      else
        let x := setBitsAt (setBitsAt ip 16 16 tot) 72 8 50
        let x := setBitsAt x 80 16 0
        setBitsAt x 80 16 (0xFFFF - onesSum x)
    let eth := if a.proto = 3 then setBitsAt (f.take e) (8 * (e - 2)) 16 (if ip6 then 0x86DD else 0x0800) else f.take e
    (eth ++ ip ++ esp ++ icv esp, tun.length + 16)

/-! ## Jobs (13 R359) -/

/-- The owner of the slots of a job's submitter: its petal, or 4 for Golne. -/
def jobOwner (m : Nat) : Nat := match threadOf m with | some t => t.p.val | none => 4

/-- The blocks of a job (13 R339). -/
def jobBlocks (op len aad : Nat) : Nat :=
  if op ≤ 4 then aeadBlocks aad len
  else if op = 5 then 4 * ((len + 9 + 63) / 64)
  else if op = 6 then 8 * ((len + 17 + 127) / 128)
  else (len + 15) / 16

/-- A job queued (13 R359): refused where its queue is full. -/
def jobSubmit (m addr : Nat) (s : State) : Except Abort State :=
  let own := jobOwner m
  let isJob := fun (o : CowOp) => o.owner == own && (match o.srv with | .job _ _ => true | _ => false)
  let cap := if own = 4 then 64 else 256
  if minimalOn s then .error 0x08000022
  else if cap ≤ (s.cow.ops.filter isJob).length then .error 0x08000024
  else
    let d := s.memRead addr 64
    let n := fun off len => leNat (slice d off len)
    let op := n 0 1
    let bad := op = 0 || 8 < op || 1 < n 1 1 || n 2 2 ≠ 0 || 16777216 < n 24 4 || n 30 2 ≠ 0 || n 56 8 % 16 ≠ 0 ||
      (4 < op && n 4 4 ≠ 0) || (op = 8 && 52 < n 28 2)
    let id := s.cow.nextId
    let stop := bad || cowShut s
    let o := { CowOp.fresh id own (.job m addr) s.time with
      status := if bad then 4 else if stop then 7 else 0, left := if stop then 0 else max 1 (jobBlocks op (n 24 4) (n 28 2)) }
    .ok (s.updCow (fun c => { c with nextId := id + 1, ops := c.ops ++ [o] }))

/-- Whether a range lies in DRAM, general, and is not exported (13 R359). -/
def inGeneral (s : State) (a n : Nat) : Bool :=
  let ex := cxlExport s
  a + n ≤ 0xDC0000000 && !(n ≠ 0 && ex.2 ≠ 0 && a < ex.1 + ex.2 && ex.1 < a + n)

/-- The master ID of a Cowslip access: kind 5, the petal, the logical number of the lane (01 R34; 13 R359). -/
def cowMid (petal lane : Nat) : Nat := 0x5000 + petal % 4 * 256 + lane % 16

/-- A job's access that may not be made, reported as the request that the stem refuses (01 R37, R38; 13 R359). -/
def jobRefused (o : CowOp) (a : Nat) (wr : Bool) (s : State) : State :=
  accessEvent (cowMid o.petal o.ran) (a % 2 ^ 48) (checkAccess (cowMid o.petal o.ran) (a % 2 ^ 48) wr s) s

/-- A completed job's result (13 R359): status and bytes processed, DST written. SHA digests and cipher output are bytes that
Config leaves open (DESIGN CHOICE, assumption 7); CRC32C and Toeplitz are computed. Poisoned input ends the job with status 5, of which
the spec says nothing (DESIGN CHOICE, assumption 50). -/
def jobResult (o : CowOp) (addr : Nat) (failed : Bool) (s : State) : State × Nat × Nat :=
  let d := s.memRead addr 64
  let n := fun off len => leNat (slice d off len)
  let op := n 0 1
  let src := n 8 8; let dst := n 16 8; let len := n 24 4; let aadLen := n 28 2; let aad := n 32 8
  let useAad := (op ≤ 4 || op = 8) && aadLen ≠ 0
  let outLen := if op = 1 || op = 3 then len + 16 else if op = 2 || op = 4 then len else if op = 5 then 32
    else if op = 6 then 48 else 4
  let inLen := if op = 2 || op = 4 then len + 16 else len
  if failed then (s, 5, 0)
  else if useAad && !inGeneral s aad aadLen then (jobRefused o aad false s, 3, 0)
  else if !inGeneral s src inLen then (jobRefused o src false s, 3, 0)
  else if !inGeneral s dst outLen then (jobRefused o dst true s, 3, 0)
  else if poisoned s src inLen || (useAad && poisoned s aad aadLen) then (s, 5, 0)
  else
    let data := s.memRead src len
    let key := if op ≤ 4 then (match libBase s with
        | some base => (libRead s base (n 4 4)).filter (fun r => (r.1 == 3) == (op == 3 || op == 4))
        | none => none) else none
    if op ≤ 4 && key.isNone then (s, 2, 0)
    else
      let kb := (match key with | some k => k.2.2 | none => []) ++ slice d 40 12 ++ s.memRead aad aadLen
      let put := fun (l : List Byte) (s : State) => if l.isEmpty then s else dramStore dst l false s
      match op with
      | 5 => (put (slice (Config.cipher [5] data) 0 32) s, 0, len)
      | 6 => (put (slice (Config.sha384 data) 0 48) s, 0, len)
      | 7 => (put (leBytes 4 (crcRun polyC (n 52 4) data)) s, 0, len)
      | 8 => (put (leBytes 4 (toeplitz (s.memRead aad aadLen) data)) s, 0, len)
      | _ =>
        if op = 2 || op = 4 then
          if Config.icvOk kb (s.memRead src (len + 16)) then (put (slice (Config.cipher kb data) 0 len) s, 0, len)
          else (put (List.replicate len 0) s, 1, len)
        else (put (slice (Config.cipher kb data) 0 len ++ slice (Config.cipher (kb ++ [1]) data) 0 16) s, 0, len)

/-- The submitter of a job. -/
def CowOp.jobOf (o : CowOp) : Option Nat :=
  match o.srv with
  | .job m _ => some m
  | _ => none

/-- The next job of a queue whose blocks have run completes; the jobs of one submitter complete in submission order (13 R359). -/
def jobComplete (own : Nat) (s : State) : State :=
  let open_ := fun (o : CowOp) => o.left ≠ 0 && o.status == 0
  match s.cow.ops.find? (fun o => o.owner == own && o.jobOf.isSome && !open_ o &&
      !s.cow.ops.any (fun x => x.id < o.id && x.jobOf == o.jobOf && open_ x)) with
  | none => s
  | some o =>
    match o.srv with
    | .job m addr =>
      let d := s.memRead addr 64
      let cpl := leNat (slice d 56 8)
      let r : State × Nat × Nat := if o.status = 4 then (s, 4, 0) else jobResult o addr (o.status == 7) s
      let s := if inGeneral r.1 cpl 16 then dramStore cpl (leBytes 8 r.2.1 ++ leBytes 8 r.2.2) false r.1
        else jobRefused o cpl true r.1
      let s := (s.updCow (fun c => { c with ops := c.ops.filter (fun x => x.id ≠ o.id) })).bump 0x4C20 2
      if bitOf (leNat (slice d 1 1)) 0 then
        match hartOf m with
        | some h =>
          let syn := s.anySyn
          deliver h 0x0BC syn (raise 0x0BC syn none s.tick)
        | none => s
      else s
    | _ => s

/-- An ingress result counted by its status, with the check failure rate's event (13, 0x4C00.09, 0x4C12). -/
def cowCount (status : Nat) (s : State) : State :=
  let s := if 2 ≤ status && status ≤ 7 then s.bump 0x4C12 (status - 1) else s
  if 2 ≤ status && status ≤ 6 then
    let s := s.winBump 0x0B010000
    let th := s.dget 0x4C00 9
    if th ≠ 0 && th ≤ s.winGet 0x0B010000 then raiseOnceAny 0x0B000000 0x0B0 none s else s
  else s

/-- What a FATAL halt of a petal does to Cowslip (13 R362): its operations and jobs are discarded. -/
def cowHalt (p : Petal) (s : State) : State :=
  dropOps (fun o => o.owner == p.val) s

end Sys2Proof.Machine
end

