-- ==== Sys2Proof/Machine/Egress.lean ====
section
/-!
DEFINITION. Machine/Egress.lean: queue objects, enqueue and policing, scheduling and shaping, transmission, host rings and
completions, and witness copies (14 R364 to R390; 05 R145, R156).
-/
namespace Sys2Proof.Machine

/-! ## Queue objects (14 R365) -/

/-- The index and sub-index of a queue's object (14 R365). -/
def qIdx (g : Nat) : Nat := 0x6000 + 0x400 * (qPetal g).val + g % 16384 / 16

/-- The sub-index of a queue's object (14 R365). -/
def qSub (g : Nat) : Nat := g % 16 + 1

/-- Word `w` of a queue's object. -/
def qWord (s : State) (g w : Nat) : Nat := s.domNat (qIdx g) (qSub g) (8 * w) 8

/-- The state with a word of a queue's object set. -/
def setQWord (g w v : Nat) (s : State) : State := s.domWrite (qIdx g) (qSub g) (8 * w) (leBytes 8 v)

/-- The state with a counter word of a queue's object advanced. -/
def bumpQ (g w n : Nat) (s : State) : State := setQWord g w ((qWord s g w + n) % 2 ^ 64) s

/-- KIND of a queue. -/
def qKind (s : State) (g : Nat) : Nat := bitsOf (qWord s g 0) 62 60
/-- ENABLE of a queue. -/
def qOn (s : State) (g : Nat) : Bool := bitOf (qWord s g 0) 63
/-- The logical port of a port queue. -/
def qPort (s : State) (g : Nat) : Nat := bitsOf (qWord s g 0) 59 55
/-- CLASS of a port queue. -/
def qClass (s : State) (g : Nat) : Nat := bitsOf (qWord s g 0) 54 52

/-- The state with a queue changed. -/
def State.updQ (s : State) (g : Nat) (f : QueueSt → QueueSt) : State :=
  s.updPet (qPetal g) (fun r => { r with queues := Tab.put r.queues (g % 16384) (f (s.q g)) })

/-- The queues of a petal that hold packets or completions, by global number. -/
def qLive (s : State) (p : Petal) : List Nat := (s.pet p).queues.map (fun e => 16384 * p.val + e.1)

/-- The depth of a queue brought into W7 (14 R365). -/
def showDepth (g : Nat) (s : State) : State :=
  let l := (s.q g).pk
  setQWord g 7 (((l.map (fun x => x.pkt.len)).sum % 2 ^ 32) * 2 ^ 32 + l.length % 2 ^ 32) s

/-! ## Functions (14 R379, R380, R382) -/

/-- The PF of a VF by the PFs' ranges (14 R380). -/
def vfPf (s : State) (v : Nat) : Option Nat :=
  (List.range 8).find? (fun p => s.dget (0x4480 + p) 2 ≤ v && v < s.dget (0x4480 + p) 2 + s.dget (0x4480 + p) 1)

/-- The master ID of the function that owns a host queue (14 R382). -/
def qFn (s : State) (g : Nat) : Nat :=
  let w := qWord s g 5
  if bitOf w 53 then 0x1800 + bitsOf w 52 42 else 0x1000 + bitsOf w 52 42 % 8

/-- The host controller of a function (14 R379). -/
def fnHost (s : State) (fn : Nat) : Nat :=
  if bitOf fn 11 then (match vfPf s (fn % 2048) with | some p => p / 4 | none => 0) else (fn % 8) / 4

/-- The index of a host controller's entries (14). -/
def hostIdx (h : Nat) : Nat := 0x4400 + 0x40 * h

/-! ## Time (14 R376) -/

/-- A two's complement number of `w` bits. -/
def toSigned (w v : Nat) : Int := if v < 2 ^ (w - 1) then (v : Int) else (v : Int) - 2 ^ w

/-- The TIME80 value of a device time: zero where the sum is negative, which R376 rules out. -/
def time80 (s : State) (t : Nat) : List Byte :=
  let x := ((t : Int) + toSigned 64 (s.dget 0x4300 2)).toNat
  leBytes 6 (x / 1000000000) ++ leBytes 4 (x % 1000000000)

/-- The age of a packet (12 R331). -/
def pktAge (s : State) (stamp : Nat) : Nat := (s.time + 2 ^ 32 - stamp) % 2 ^ 32

/-! ## Completions and interrupts (14 R387, R388) -/

/-- Raises a queue's vector after a completion that calls for it, by its holdoff (14 R388). -/
def queueIrq (g : Nat) (s : State) : State :=
  let w := qWord s g 5
  if !bitOf w 30 then s
  else
    let itr := bitsOf w 29 16
    let q := s.q g
    if itr = 0 || q.lastMsg = 0 || q.lastMsg - 1 + itr * 1000 ≤ s.time then
      (msix (qFn s g) (bitsOf w 41 31) s).updQ g (fun q => { q with lastMsg := s.time + 1, irqDue := false })
    else s.updQ g (fun q => { q with irqDue := true })

/-- Writes the completions of a host ring that may be written, in ring order, over at most `n` (14 R387). -/
def writeCpls : Nat → Nat → State → State
  | 0, _, s => s
  | n + 1, g, s =>
    match (s.q g).cpls with
    | [] => s
    | c :: l =>
      let w6 := qWord s g 6
      let ctail := bitsOf w6 47 32
      let chead := bitsOf w6 63 48
      let cs := bitsOf (qWord s g 5) 58 54
      if !c.ready || (ctail + 65536 - chead) % 65536 = 2 ^ cs || !s.busMaster.contains (qFn s g) then s
      else
        let ph := 1 - (ctail / 2 ^ cs) % 2
        let b := leBytes 4 c.tag ++ leBytes 2 c.len ++ leBytes 1 c.status ++ leBytes 1 (c.flags + 128 * ph) ++ leBytes 4 c.hash ++
          leBytes 1 c.src ++ [0, 0, 0] ++ c.time ++ List.replicate 6 0
        let base := bitsOf (qWord s g 4) 63 6 * 64
        let s := s.updQ g (fun q => { q with cpls := l })
        let s := s.emit (.hostWrite (qFn s g) (base + 32 * (ctail % 2 ^ cs)) b)
        let s := setQWord g 6 (bitsOf w6 63 48 * 2 ^ 48 + ((ctail + 1) % 65536) * 2 ^ 32 + w6 % 2 ^ 32) s
        let s := if bitOf c.flags 0 || c.status ≠ 0 then queueIrq g s else s
        writeCpls n g s

/-- A completion added to a host ring (14 R387). -/
def addCpl (g : Nat) (c : Cpl) (s : State) : State := s.updQ g (fun q => { q with cpls := q.cpls ++ [c] })

/-- The waiting completion of a TS packet filled and written in its turn (14 R386). -/
def tsFill (pkt : Pkt) (status flags : Nat) (time : List Byte) (s : State) : State :=
  match pkt.ts with
  | some ⟨some (g, n), _⟩ =>
    let s := s.updQ g (fun q => { q with cpls := q.cpls.map (fun c =>
      if c.num = n && !c.ready then { c with status := status, flags := c.flags + flags, time := time, ready := true } else c) })
    writeCpls 65536 g s
  | _ => s

/-- A packet dropped after it had buffers (12 R322, 14 R386): its buffers are freed, its TS completion says so. -/
def dropPkt (pkt : Pkt) (s : State) : State :=
  let p : Petal := ⟨pkt.home % 4, Nat.mod_lt _ (by decide)⟩
  tsFill pkt 2 0 (List.replicate 10 0) (freePkt p pkt.buf s)

/-- The petal whose buffers hold a packet. -/
def pktHome (pkt : Pkt) : Petal := ⟨pkt.home % 4, Nat.mod_lt _ (by decide)⟩

/-! ## Policers (14 R368, 12 R333) -/

/-- The value of a number in the format of 12 R333. -/
def expVal (v : Nat) : Nat := bitsOf v 13 5 * 2 ^ (v % 32)

/-- The colour of a packet at a policer (14 R368): 0 green, 1 yellow, 2 red, by RFC 2698 colour-blind. -/
def police (p : Petal) (n : Nat) (pkt : Pkt) (s : State) : State × Nat :=
  let par := s.domRead (pix 0x33B0 p) 1 (16 * n) 16
  let v := fun i => expVal (leNat (slice par (2 * i) 2))
  let full := fun i => v i * 65536
  let st := match Tab.find (s.pet p).pols n with
    | some x => x
    | none => (pkt.tstamp, full 2, full 3)
  let dt := (pkt.tstamp + 2 ^ 32 - st.1) % 2 ^ 32
  let c := min (full 2) (st.2.1 + v 0 * dt * 65536 / 1000000000)
  let k := min (full 3) (st.2.2 + v 1 * dt * 65536 / 1000000000)
  let b := pkt.len * 65536
  let (col, c, k) := if k < b then (2, c, k) else if c < b then (1, c, k - b) else (0, c - b, k - b)
  let s := s.updPet p (fun r => { r with pols := Tab.put r.pols n (pkt.tstamp, c, k) })
  let o := 24 * n + 8 * col
  (s.domWrite (pix 0x33B0 p) 2 o (leBytes 8 (s.domNat (pix 0x33B0 p) 2 o 8 + 1)), col)

/-- Whether a queue's policer drops a packet (14 R368). -/
def policed (g : Nat) (pkt : Pkt) (s : State) : State × Bool :=
  let w := qWord s g 0
  let p := qPetal g
  let n := bitsOf w 48 37
  let f := s.domNat (pix 0x33B0 p) 1 (16 * n + 8) 1
  if !bitOf w 49 || !bitOf f 0 then (s, false)
  else
    let r := police p n pkt s
    (r.1, (r.2 == 1 && bitOf f 1) || (r.2 == 2 && !bitOf f 2))

/-! ## Enqueue (14 R367, 13 R348) -/

/-- The blocks of an egress operation (13 R339). -/
def egressBlocks (a : Sa) (len : Nat) : Nat :=
  if a.proto = 1 then (if bitOf (a.b 2) 2 then aeadBlocks (28 + a.b 3) (len - 16 - a.b 3) else aeadBlocks (len + 16) 0)
  else aeadBlocks 8 len

/-- A packet admitted to a queue (14 R367 step 6), with its Cowslip operation where the queue is bound (13 R348). -/
def takeIn (g : Nat) (pkt : Pkt) (witness : Bool) (s : State) : State :=
  let n := (s.q g).nextSeq
  let bind := bindingOf s g
  let sa := bind.bind (fun i => (Tab.find s.cow.sas i).map (fun a => (i, a)))
  let good := match sa with | some (_, a) => !a.ingress && !a.draining && !minimalOn s | none => false
  let doomed := if bind.isSome && !good then 8 else 0
  let s := s.updQ g (fun q => { q with pk := q.pk ++ [⟨n, pkt, none, good, doomed, witness, false⟩], nextSeq := n + 1 })
  let s := match sa with
    | some (i, a) =>
      if good then
        let id := s.cow.nextId
        let o := { CowOp.fresh id (qPetal g).val (.egress g n) s.time with
          sa := some i, status := if cowShut s then 7 else 0, left := if cowShut s then 0 else egressBlocks a pkt.len }
        s.updCow (fun c => { c with nextId := id + 1, ops := c.ops ++ [o] })
      else s
    | none => s
  showDepth g (bumpQ g 9 pkt.len (bumpQ g 8 1 s))

/-- The lowest-numbered enabled port queue of a logical port, of the packet's class first (14 R367, step 2). -/
def redirectQueue (s : State) (port cls : Nat) : Option Nat :=
  let p : Petal := ⟨port / 8 % 4, Nat.mod_lt _ (by decide)⟩
  let cand := (List.range 16384).map (fun q => 16384 * p.val + q)
  let ok := fun g => qKind s g == 1 && qOn s g && qPort s g == port
  (cand.find? (fun g => ok g && qClass s g == cls)).or (cand.find? ok)

/-- Whether a queue is its petal's audit queue (02, 0x3000.08). -/
def isAudit (s : State) (g : Nat) : Bool := s.dget (pix 0x3000 (qPetal g)) 8 == g % 16384

/-- An enqueue decided from step 3 of 14 R367 on; true where the packet was admitted. A queue of a halted petal drops it (18 R478). -/
def enqueueAt (g : Nat) (pkt : Pkt) (witness : Bool) (s : State) : State × Bool :=
  if petalHalted s (qPetal g) then (dropPkt pkt (s.bump 0x2220 9), false)
  else if !qOn s g then (dropPkt pkt (bumpQ g 14 1 s), false)
  else
    let r := policed g pkt s
    if r.2 then (dropPkt pkt (bumpQ g 13 1 r.1), false)
    else
      let s := r.1
      let w := qWord s g 1
      let l := (s.q g).pk
      if bitsOf w 31 16 < l.length + 1 || 1024 * (w % 65536) < (l.map (fun x => x.pkt.len)).sum + pkt.len then
        (dropPkt pkt (bumpQ g 12 1 s), false)
      else (takeIn g pkt witness s, true)

/-- An enqueue of a packet by a petal (14 R367): a disposition drop is counted at that petal (05 R145). -/
def enqueue (from_ : Petal) (g : Nat) (pkt : Pkt) (s : State) : State :=
  let k := qKind s g
  if k = 0 || 3 ≤ k then dropPkt pkt (s.bump (pix 0x3200 from_) 0x0D)
  else if modeOn s .device 0 && k = 2 && !isAudit s g then
    let port := s.dget 0x2000 0x0A
    match (if port < 32 then redirectQueue s port pkt.cls else none) with
    | some r => (enqueueAt r pkt false s).1
    | none => dropPkt pkt (s.bump 0x2000 0x0C)
  else (enqueueAt g pkt false s).1

/-! ## Witness copies (14 R378, 02 R52) -/

/-- The decision record (14 R378). -/
def witnessRec (s : State) (pkt : Pkt) (disp dq : Nat) : List Byte :=
  [1] ++ leBytes 1 pkt.pstat ++ leBytes 2 (if minimalOn s then 0xFFFF else pkt.rule) ++ leBytes 4 pkt.gen ++ leBytes 4 pkt.tstamp ++
  leBytes 2 pkt.lenIn ++ leBytes 1 pkt.src ++ leBytes 1 disp ++ leBytes 2 dq ++ leBytes 2 pkt.flags ++ pkt.cow.take 12 ++
  leBytes 8 pkt.hash ++ leBytes 2 pkt.seq ++ leBytes 3 pkt.dom ++ leBytes 1 pkt.cls ++ leBytes 2 0

/-- The bytes of a packet's witness copy: the decision record and the packet (14 R378). -/
def witnessData (s : State) (pkt : Pkt) (disp dq : Nat) : List Byte :=
  witnessRec s { pkt with flags := pkt.flags ||| 16 } disp dq ++ pktBytes s (pktHome pkt) pkt.buf

/-- A witness copy offered to the audit queue (14 R378): the state, and whether the copy was accepted. -/
def witnessPut (p : Petal) (pkt : Pkt) (data : List Byte) (s : State) : State × Bool :=
  let g := 16384 * p.val + s.dget (pix 0x3000 p) 8
  let w := qWord s g 1
  let l := (s.q g).pk
  let k := qKind s g
  if !((k == 1 || k == 2) && qOn s g && l.length + 1 ≤ bitsOf w 31 16 &&
      (l.map (fun x => x.pkt.len)).sum + data.length ≤ 1024 * (w % 65536)) then (s, false)
  else match allocBufs p (fun _ => 0) data.length s with
    | (s, none) => (s, false)
    | (s, some bufs) =>
      let r := writePkt p bufs data s
      (takeIn g { pkt with buf := r.2, len := data.length, ts := none, home := p.val, copied := true } true r.1, true)

/-- The copies that wait, offered in their order: the state, and those that still wait; outside strict WITNESS none waits, and one that
cannot be accepted is dropped and counted (02 R52). -/
def witnessOffer (p : Petal) : List WitCopy → State → State × List WitCopy
  | [], s => (s, [])
  | c :: l, s =>
    let r := witnessPut p c.pkt c.data s
    if r.2 then witnessOffer p l r.1
    else if modeOn s (.petal p) 8 then (s, c :: l)
    else witnessOffer p l (s.bump (pix 0x3000 p) 9)

/-- The matching-store entries in use (05 0x3200.01): the tasks, and the entries that copies of released tasks hold (05 R142). -/
def entriesUsed (r : PetalSt) : Nat := r.tasks.length + (r.copies.filter (fun c => c.task.isSome)).length

/-- The copies of a petal that wait are offered again. -/
def witnessRetry (p : Petal) (s : State) : State :=
  if (s.pet p).copies.isEmpty then s
  else
    let r := witnessOffer p (s.pet p).copies s
    let s := r.1.updPet p (fun x => { x with copies := r.2 })
    s.dset (pix 0x3200 p) 1 (entriesUsed (s.pet p))

/-- Whether a packet is witnessed in a petal (02 R52): WITNESS in effect when it was parsed, which bit 4 of its flags tells. -/
def witnessed (pkt : Pkt) : Bool := bitOf pkt.flags 4

/-- The witness copy of a packet whose disposition is taken (14 R378, 02 R52): the original never waits for it. A copy that cannot be
accepted is dropped and counted, or waits under strict WITNESS, and then holds the entry of its task. -/
def witness (p : Petal) (pkt : Pkt) (disp dq : Nat) (task : Option Nat) (s : State) : State :=
  if !witnessed pkt then s
  else witnessRetry p (s.updPet p (fun r => { r with copies := r.copies ++ [⟨pkt, witnessData s pkt disp dq, task⟩] }))

/-! ## Shapers and scheduling (14 R369 to R371) -/

/-- The level of a shaper now, in 1/65536 byte (14 R371): its word has the layout of W2. The levels of a petal's shapers are
kept by a key, with the time of their last update at the key's double plus 1. -/
def shaperLevel (s : State) (p : Petal) (key w : Nat) : Int :=
  let burst : Int := (expVal (w % 2 ^ 14) * 65536 : Nat)
  match Tab.find (s.pet p).shapes (2 * key), Tab.find (s.pet p).shapes (2 * key + 1) with
  | some l, some t =>
    let dt := ((s.time : Int) - t).toNat
    min burst (l + ((expVal (bitsOf w 45 32) * dt * 65536 / 8 / 1000000000 : Nat) : Int))
  | _, _ => burst

/-- Whether a shaped member is empty (14 R371). -/
def shaperEmpty (s : State) (p : Petal) (key w : Nat) : Bool :=
  bitOf w 63 && (expVal (bitsOf w 45 32) == 0 || decide (shaperLevel s p key w ≤ 0))

/-- A shaper charged with bytes (14 R371). -/
def shaperCharge (p : Petal) (key w n : Nat) (s : State) : State :=
  if !bitOf w 63 then s
  else
    let l := shaperLevel s p key w - (n * 65536 : Nat)
    s.updPet p (fun r => { r with shapes := Tab.put (Tab.put r.shapes (2 * key) l) (2 * key + 1) (s.time : Int) })

/-- The index of a logical port's entries (14). -/
def portIdx (q : Nat) : Nat := 0x4000 + 0x10 * q

/-- The petal of a logical port (03 R61). -/
def portPetal (q : Nat) : Petal := ⟨q / 8 % 4, Nat.mod_lt _ (by decide)⟩

/-- A class shaper's word of a logical port. -/
def classShaper (s : State) (port c : Nat) : Nat := s.dget (portIdx port) (0x0A + c)

/-- Whether a port queue is eligible (14 R369). -/
def eligible (s : State) (port g : Nat) : Bool :=
  let p := qPetal g
  let c := qClass s g
  match (s.q g).pk.head? with
  | none => false
  | some x =>
    qKind s g == 1 && qPort s g == port && x.spill.isNone && (!x.cow || x.doomed ≠ 0) &&
    !shaperEmpty s p (g % 16384) (qWord s g 2) && !shaperEmpty s p (20000 + 8 * port + c) (classShaper s port c) &&
    !shaperEmpty s p (30000 + port) (s.dget (portIdx port) 6) && !s.rxPause.contains (8 * port + c)

/-- One DWRR decision (14 R370) over members in ascending order: the chosen member, the deficits of the members it visited, over
at most `n` visits. The visit goes on at the pointer while its deficit covers its head packet. -/
def dwrr : Nat → List Nat → (Nat → Nat) → (Nat → Nat) → Nat → Tab Nat → Option (Nat × Tab Nat)
  | 0, _, _, _, _, _ => none
  | n + 1, ms, weight, len, cur, def_ =>
    if ms.contains cur && len cur ≤ Tab.get 0 def_ cur then some (cur, Tab.put def_ cur (Tab.get 0 def_ cur - len cur))
    else
      match (ms.find? (fun m => cur < m)).or ms.head? with
      | none => none
      | some m => dwrr n ms weight len m (Tab.put def_ m (Tab.get 0 def_ m + weight m * 128))

/-- The length of a queue's head packet. -/
def headLen (s : State) (g : Nat) : Nat := ((s.q g).pk.head?.map (fun x => x.pkt.len)).getD 0

/-- The queue that a class gives (14 R369): the lowest strict one, else DWRR; with the deficits and the pointer after it. -/
def classQueue (s : State) (port c : Nat) (el : List Nat) : Option (Nat × Tab Nat) :=
  let l := el.filter (fun g => qClass s g == c)
  match l.find? (fun g => bitOf (qWord s g 0) 51) with
  | some g => some (g, [])
  | none =>
    let ptr := Tab.get 0 (s.pet (portPetal port)).rrRx (1000 + 8 * port + c)
    dwrr 40000 l (fun g => max 1 (bitsOf (qWord s g 1) 39 32)) (headLen s) ptr (l.map (fun g => (g, (s.q g).deficit)))

/-- The traffic manager's choice for a logical port (14 R369): the queue, and the state with deficits and pointers after it. -/
def pickQueue (port : Nat) (s : State) : State × Option Nat :=
  let p := portPetal port
  let el := (qLive s p).filter (eligible s port)
  let mask := s.dget (portIdx port) 7
  let classes := (List.range 8).filter (fun c => el.any (fun g => qClass s g == c))
  let pick : Option (Nat × Option (Tab Nat)) := match (classes.filter (fun c => bitOf mask c)).getLast? with
    | some c => some (c, none)
    | none =>
      let ws := s.dget (portIdx port) 8
      let len := fun c => (match classQueue s port c el with | some r => headLen s r.1 | none => 0)
      let def_ := classes.map (fun c => (c, Tab.get 0 (s.pet p).rrRx (100 + 8 * port + c)))
      (dwrr 40000 classes (fun c => max 1 (bitsOf ws (8 * c + 7) (8 * c))) len (Tab.get 8 (s.pet p).rrRx port) def_).map
        (fun r => (r.1, some r.2))
  match pick with
  | none => (s, none)
  | some (c, cd) =>
    match classQueue s port c el with
    | none => (s, none)
    | some (g, qd) =>
      let s := qd.foldl (fun s e => s.updQ e.1 (fun q => { q with deficit := e.2 })) s
      let s := s.updPet p (fun r => { r with rrRx := Tab.put r.rrRx (1000 + 8 * port + c) g })
      let s := match cd with
        | some d => s.updPet p (fun r => { r with
            rrRx := d.foldl (fun m e => Tab.put m (100 + 8 * port + e.1) e.2) (Tab.put r.rrRx port c) })
        | none => s
      (s, some g)

/-- A class of a logical port whose queues hold no packet has its deficit set to 0 (14 R370). -/
def classEmptied (g : Nat) (s : State) : State :=
  let port := qPort s g
  let c := qClass s g
  if qKind s g ≠ 1 || (qLive s (qPetal g)).any (fun h => qKind s h == 1 && qPort s h == port && qClass s h == c && (s.q h).pk ≠ []) then s
  else s.updPet (qPetal g) (fun r => { r with rrRx := Tab.put r.rrRx (100 + 8 * port + c) 0 })

/-- The head packet leaves its queue; a member whose last packet leaves has its deficit set to 0 (14 R370). A spilled packet
that so reaches the head waits there for its refill (12 R329). -/
def popHead (g : Nat) (s : State) : State :=
  let s := classEmptied g (s.updQ g (fun q => { q with pk := q.pk.drop 1, deficit := if q.pk.length ≤ 1 then 0 else q.deficit }))
  let wait : Bool := match (s.q g).pk.head? with
    | some x => x.spill.isSome
    | none => false
  showDepth g (if wait then s.bump (pix 0x33A5 (qPetal g)) 9 else s)

/-- The frame that the MAC sends for packet data (14 R375): padded to 60 bytes and its FCS made anew, ONE_STEP's time written
first (R386). -/
def macFrame (s : State) (pkt : Pkt) (data : List Byte) : List Byte :=
  let f := data.take (data.length - 4)
  let f := match pkt.ts with
    | some ⟨_, some (off, udp0)⟩ =>
      let f := setBitsAt f (8 * (off + 34)) 80 (beNat (time80 s s.time))
      if udp0 then setBitsAt f (8 * (off - 2)) 16 0 else f
    | _ => f
  let f := f ++ List.replicate (60 - f.length) 0
  f ++ fcs f

/-- Sends the head packet of a port queue (14 R369 to R377), or drops it: dropped at its queue position (13 R348), poisoned
(12 R337), or over the maximum frame (14 R375). -/
def sendHead (port g : Nat) (s : State) : State :=
  match (s.q g).pk.head? with
  | none => s
  | some x =>
    let pkt := x.pkt
    let p := portPetal port
    let h := pktHome pkt
    if x.doomed ≠ 0 then dropPkt pkt (popHead g (s.bump 0x4C12 x.doomed))
    else if pktPoison s h pkt.buf then
      raiseAny (0x0AC + h.val) (some h) (dropPkt pkt (popHead g (s.bump (pix 0x33A3 h) 0x0D)))
    else
      let data := pktBytes s h pkt.buf
      if s.dget (portIdx port) 5 < data.length then dropPkt pkt (popHead g (s.bump (portIdx port) 0x1C))
      else
        let f := macFrame s pkt data
        let n := pkt.len + s.dget (portIdx port) 9
        let s := shaperCharge p (g % 16384) (qWord s g 2) n s
        let s := shaperCharge p (20000 + 8 * port + qClass s g) (classShaper s port (qClass s g)) n s
        let s := shaperCharge p (30000 + port) (s.dget (portIdx port) 6) n s
        let s := popHead g (bumpQ g 11 pkt.len (bumpQ g 10 1 s))
        let s := (s.bump (portIdx port) 0x19).bumpBy (portIdx port) 0x1A f.length
        let s := { (s.emit (.frameTx port f false)) with stalled := s.stalled.filter (· != port) }
        let s := histAdd p 1 (some (g % 16384)) (s.time - pktAge s pkt.tstamp) (tsFill pkt 0 2 (time80 s s.time) s)
        freePkt h pkt.buf s

/-- A decision for a logical port (14 R369): a port that is not up sends nothing. -/
def transmitPort (port : Nat) (s : State) : State :=
  let st := s.dget (portIdx port) 2
  if st ≠ 2 && st ≠ 3 then s
  else match pickQueue port s with
    | (s, some g) => sendHead port g s
    | (s, none) => s

/-- A host receive queue's buffers posted: entries between HEAD and TAIL. -/
def posted (s : State) (g : Nat) : Nat := (bitsOf (qWord s g 6) 31 16 + 65536 - qWord s g 6 % 65536) % 65536

/-- Whether a host ring may do work (14 R384, R387, R390, R391). -/
def ringReady (s : State) (g : Nat) : Bool :=
  let w6 := qWord s g 6
  qOn s g && s.busMaster.contains (qFn s g) && (bitsOf w6 47 32 + 65536 - bitsOf w6 63 48) % 65536 < 2 ^ bitsOf (qWord s g 5) 58 54

/-- A decision for a host controller (14 R369): the next host receive queue in rotation that holds a packet, whose shaper is not empty
(R371), and has buffers posted is granted its receive write. -/
def transmitHost (h : Nat) (s : State) : State :=
  let ok := fun g => qKind s g == 2 && ringReady s g && posted s g ≠ 0 && fnHost s (qFn s g) == h && !(s.q g).started &&
    !shaperEmpty s (qPetal g) (g % 16384) (qWord s g 2) && (!modeOn s .device 0 || isAudit s g) && (match (s.q g).pk.head? with
      | some x => x.spill.isNone && (!x.cow || x.doomed ≠ 0)
      | none => false)
  let cand := ([(0 : Petal), 1, 2, 3].map (fun p => (qLive s p).filter ok)).flatten
  let ptr := Tab.get 0 (s.pet 0).rrRx (5000 + h)
  match (cand.find? (fun g => ptr ≤ g)).or cand.head? with
  | none => s
  | some g =>
    let s := s.updPet 0 (fun r => { r with rrRx := Tab.put r.rrRx (5000 + h) (g + 1) })
    match (s.q g).pk.head? with
    | some x =>
      if x.doomed ≠ 0 then dropPkt x.pkt (popHead g (s.bump 0x4C12 x.doomed))
      else s.updQ g (fun q => { q with started := true })
    | none => s

/-- Whether a receive descriptor is well formed (14 R383). -/
def rxDescOk (d : List Byte) : Bool := d.length == 32 && 256 ≤ leNat (slice d 8 2) && leNat (slice d 10 2) == 0 && leNat (slice d 16 16) == 0

/-- The buffers that a packet of `n` bytes uses of posted descriptors, given in ring order (14 R385): address, tag, bytes; a malformed
descriptor among them takes no bytes. -/
def rxFill : List (List Byte) → Nat → List (Nat × Nat × Nat)
  | [], _ => []
  | d :: l, n =>
    if n = 0 then []
    else
      let k := if rxDescOk d then min n (leNat (slice d 8 2)) else 0
      (leNat (slice d 0 8), leNat (slice d 12 4), k) :: rxFill l (n - k)

/-- A malformed receive descriptor is an error: counted and reported (14 R383, R384). -/
def rxDescError (g : Nat) (s : State) : State := (raiseAny 0x101 none (bumpQ g 15 1 s)).bump (hostIdx (fnHost s (qFn s g))) 9

/-- A granted host receive queue writes its head packet into the posted buffers, whose descriptors it has fetched, with one
completion each (14 R385, R387). A packet for which the buffers or the completion ring are too few stays. A malformed descriptor is
an error: counted, reported, used up with STATUS 1 in its place of the ring (DESIGN CHOICE, assumption 51). -/
def receiveWrite (g : Nat) (descs : List (List Byte)) (s : State) : State :=
  match (s.q g).pk.head? with
  | none => s
  | some x =>
    let pkt := x.pkt
    let h := pktHome pkt
    let data := pktBytes s h pkt.buf
    let body := data.take (data.length - 4)
    let use_ := descs.take (posted s g)
    let plan := rxFill use_ body.length
    let w6 := qWord s g 6
    let freeC := 2 ^ bitsOf (qWord s g 5) 58 54 - (bitsOf w6 47 32 + 65536 - bitsOf w6 63 48) % 65536
    let fn := qFn s g
    if !(s.q g).started || !ringReady s g then s
    else match use_.head? with
    | none => s
    | some d0 =>
    if !rxDescOk d0 then
      let s := rxDescError g s
      let s := setQWord g 6 (w6 / 65536 * 65536 + (w6 + 1) % 65536) s
      let n := (s.q g).nextCpl
      let s := s.updQ g (fun q => { q with nextCpl := n + 1, started := false })
      writeCpls 65536 g (addCpl g ⟨n, leNat (slice d0 12 4), 0, 1, 0, 0, 0, List.replicate 10 0, true⟩ s)
    else if (plan.map (fun e => e.2.2)).sum < body.length || freeC < plan.length then s.updQ g (fun q => { q with started := false })
    else
      let sat := 2000000000 ≤ pktAge s pkt.tstamp
      let arr := if sat then List.replicate 10 0 else time80 s (s.time - pktAge s pkt.tstamp)
      let s := popHead g (bumpQ g 11 pkt.len (bumpQ g 10 1 (shaperCharge (qPetal g) (g % 16384) (qWord s g 2) pkt.len s)))
      let s := setQWord g 6 (w6 / 65536 * 65536 + (w6 + plan.length) % 65536) s
      let r := plan.foldl (fun (acc : Nat × Nat × State) e =>
        let (off, i, s) := acc
        let bad := e.2.2 == 0
        let s := if bad then rxDescError g s else s.emit (.hostWrite fn e.1 (slice body off e.2.2))
        let n := (s.q g).nextCpl
        let fl := b2n (i + 1 == plan.length) + 2 * b2n (!sat) + 4 * b2n x.witness
        let s := s.updQ g (fun q => { q with nextCpl := n + 1 })
        let c : Cpl := if bad then ⟨n, e.2.1, 0, 1, 0, 0, 0, List.replicate 10 0, true⟩
          else ⟨n, e.2.1, e.2.2, 0, fl, pkt.hash / 2 ^ 32, pkt.src, arr, true⟩
        (off + e.2.2, i + 1, addCpl g c s)) (0, 0, s)
      let s := writeCpls 65536 g (r.2.2.updQ g (fun q => { q with started := false }))
      let s := histAdd ⟨g / 16384 % 4, Nat.mod_lt _ (by decide)⟩ 1 (some (g % 16384)) (s.time - pktAge s pkt.tstamp) s
      freePkt h pkt.buf (tsFill pkt 0 0 (List.replicate 10 0) s)

/-! ## Flushes (14 R366, R390, R395) -/

/-- A spilled packet's slots are freed (12 R329). -/
def freeSlots (p : Petal) (l : List Nat) (s : State) : State :=
  let s := s.updPet p (fun r => { r with slots := r.slots.filter (fun x => !l.contains x) })
  s.dset (pix 0x33A5 p) 0x0B (s.pet p).slots.length

/-- A queued packet discarded: its slots or its buffers freed, its Cowslip operation with it. -/
def discardQ (g : Nat) (x : QPkt) (s : State) : State :=
  let s := dropOps (fun o => o.srv == .egress g x.seq) s
  match x.spill with
  | some l => tsFill x.pkt 2 0 (List.replicate 10 0) (freeSlots (qPetal g) l s)
  | none => dropPkt x.pkt s

/-- A queue flushed: its packets freed and counted in W14. -/
def flushQueue (g : Nat) (s : State) : State :=
  let l := (s.q g).pk
  let s := s.updQ g (fun q => { q with pk := [], deficit := 0, started := false })
  let s := l.foldl (fun s x => discardQ g x s) s
  showDepth g (bumpQ g 14 l.length s)

/-- ENABLE of a queue cleared, with the effects of 14 R366. -/
def disableQueue (g : Nat) (s : State) : State :=
  let on := qOn s g
  let s := setQWord g 0 (qWord s g 0 % 2 ^ 63) s
  if on && qKind s g = 2 then flushQueue g s else s

/-- The stall discard of a logical port (05 R156): the head packet of each of its queues that holds one; the event once per
stall. -/
def stallDiscard (port : Nat) (s : State) : State :=
  let p := portPetal port
  let l := (qLive s p).filter (fun g => qKind s g == 1 && qPort s g == port && (s.q g).pk ≠ [])
  if l.isEmpty then s
  else
    let s := l.foldl (fun s g => match (s.q g).pk.head? with
      | some x =>
        let s := (s.bump (pix 0x3204 p) 2).bumpBy (pix 0x3204 p) 3 x.pkt.len
        discardQ g x (popHead g s)
      | none => s) s
    if s.stalled.contains port then s
    else raise (0x058 + p.val) port (some p) { s with stalled := s.stalled ++ [port] }

end Sys2Proof.Machine
end

