-- ==== Sys2Proof/Machine/Spill.lean ====
section
/-!
DEFINITION. Machine/Spill.lean: congestion spill and the fold coder (12 R324 to R330, R338).
-/
namespace Sys2Proof.Machine

/-! ## The fold coder (12 R327, R328) -/

/-- A match copied one byte at a time from a distance back in the output, which is held newest first. -/
def foldCopy : Nat → Nat → List Byte → Option (List Byte)
  | 0, _, out => some out
  | n + 1, dist, out =>
    match out[dist - 1]? with
    | some b => foldCopy n dist (b :: out)
    | none => none

/-- The tokens of a coded body decoded (12 R327), over at most `n` tokens; the output is held newest first. -/
def foldTokens : Nat → List Byte → List Byte → Option (List Byte)
  | _, [], out => some out
  | 0, _ :: _, _ => none
  | n + 1, h :: l, out =>
    let v := h.toNat
    if 128 ≤ v then
      match l with
      | [] => none
      | x :: l =>
        match foldCopy (bitsOf v 6 2 + 3) ((v % 4) * 256 + x.toNat + 1) out with
        | some out => foldTokens n l out
        | none => none
    else if 64 ≤ v then none
    else if l.length < v + 1 then none
    else foldTokens n (l.drop (v + 1)) ((l.take (v + 1)).reverse ++ out)

/-- The bytes of a block from its body (12 R327): none where the body is corrupt. -/
def foldDecode (body : List Byte) (blen : Nat) : Option (List Byte) :=
  match foldTokens (body.length + 1) body [] with
  | some out => if out.length = blen then some out.reverse else none
  | none => none

/-- A block encoded (12 R327, R328): whether it is stored raw, and its body. Which matches the coder chooses is open, so its
body is one that Config leaves open among those that decode to the block; a body that is not shorter gives way to raw. -/
def foldEncode (blk : List Byte) : Bool × List Byte :=
  let c := Config.foldCode blk
  if c.length < blk.length && foldDecode c blk.length == some blk then (false, c) else (true, blk)

/-- The header of a block (12 R327). -/
def blockHeader (blk body : List Byte) (raw : Bool) : List Byte :=
  leBytes 8 (blk.length + body.length * 2 ^ 16 + b2n raw * 2 ^ 27 + crc32c blk * 2 ^ 32)

/-- A block read back from its slot's bytes from the header on (12 R327): none where it is corrupt. -/
def blockDecode (b : List Byte) : Option (List Byte) :=
  let h := leNat (slice b 0 8)
  let body := slice b 8 (bitsOf h 26 16)
  let blen := h % 2 ^ 16
  let out := if bitOf h 27 then (if body.length = blen then some body else none) else foldDecode body blen
  match out with
  | some x => if crc32c x = bitsOf h 63 32 && 1 ≤ blen && blen ≤ 1024 then some x else none
  | none => none

/-! ## Slots (12 R324, R325) -/

/-- The address of a slot (12 R324). -/
def slotAddr (s : State) (p : Petal) (i : Nat) : Nat := s.dget (pix 0x33A5 p) 1 * 2 ^ 30 + 1088 * i

/-- The slots of a petal's spill area; none where spill is disabled. -/
def slotCount (s : State) (p : Petal) : Nat :=
  if s.dget (pix 0x33A5 p) 1 = 0xFF then 0 else s.dget (pix 0x33A5 p) 2 * 2 ^ 30 / 1088

/-- The first `n` free slots from slot `i` on, over at most the fuel's number of slots. -/
def findSlots : Nat → List Nat → Nat → Nat → Nat → List Nat
  | 0, _, _, _, _ => []
  | f + 1, used, lim, i, n =>
    if n = 0 || lim ≤ i then []
    else if used.contains i then findSlots f used lim (i + 1) n
    else i :: findSlots f used lim (i + 1) (n - 1)

/-- The blocks of a packet: 1,024 bytes each, the last with the remainder (12 R325). -/
def blocksOf : Nat → List Byte → List (List Byte)
  | 0, _ => []
  | n + 1, l => if l.isEmpty then [] else l.take 1024 :: blocksOf n (l.drop 1024)

/-- One slot of a record written (12 R325), its bytes rounded up to whole lines; what a last line holds beyond the body is
free. The stored bytes of the slot are counted (0x33A5.07). -/
def writeSlot (p : Petal) (i : Nat) (next : Option Nat) (first : List Byte) (blk : List Byte) (poison : Bool) (s : State) : State :=
  let e := foldEncode blk
  let b := leBytes 4 (next.getD 0xFFFFFFFF) ++ leBytes 4 0 ++ slice first 0 24 ++ blockHeader blk e.2 e.1 ++ e.2
  let pad := (List.range ((64 - b.length % 64) % 64)).map (fun j =>
    if b.length + j < 1064 then Config.freeByte s.fresh j else 0)
  let s := dramStore (slotAddr s p i) (b ++ pad) true s.tick
  let s := if poison then setPoison (slotAddr s p i) 1088 s else s
  s.bumpBy (pix 0x33A5 p) 7 (8 + e.2.length + first.length)

/-- The slots of a record written. -/
def writeRecord (p : Petal) (first : List Byte) (poison : Bool) : List Nat → List (List Byte) → State → State
  | i :: sl, b :: bs, s => writeRecord p [] poison sl bs (writeSlot p i sl.head? first b poison s)
  | _, _, s => s

/-! ## Victims and refill (12 R326, R329, R330) -/

/-- The bytes that lie ahead of each packet of a queue, with the packet. -/
def withAhead (l : List QPkt) : List (Nat × QPkt) :=
  (l.foldl (fun (acc : Nat × List (Nat × QPkt)) x => (acc.1 + x.pkt.len, acc.2 ++ [(acc.1, x)])) (0, [])).2

/-- The bytes of a queue's packets that are on die. -/
def onDie (l : List QPkt) : Nat := ((l.filter (fun x => x.spill.isNone)).map (fun x => x.pkt.len)).sum

/-- The victim of the spill engine (12 R326): the queue with the most on-die bytes among those with SPILL 1, and in it the
packet nearest the tail beyond the refill depth. A packet whose protection is under way is not taken. -/
def victim (s : State) (p : Petal) : Option (Nat × QPkt) :=
  let qs := (qLive s p).filter (fun g => bitOf (qWord s g 0) 50 && (s.q g).pk ≠ [])
  let best := qs.foldl (fun (b : Option Nat) g => match b with
    | none => some g
    | some x => if onDie (s.q x).pk < onDie (s.q g).pk then some g else b) none
  match best with
  | none => none
  | some g =>
    (((withAhead (s.q g).pk).filter (fun e =>
      s.dget (pix 0x33A5 p) 3 < e.1 && e.2.spill.isNone && !e.2.cow && e.2.doomed == 0)).getLast?).map (fun e => (g, e.2))

/-- SPILL_VICTIM: the engine, while it runs and no drain is in effect, encodes a victim and writes its record in class SC2;
with no free slots the refusal is counted and reported (12 R326, R330, R338). -/
def execSpillVictim (p : Petal) (s : State) : Out :=
  if !(s.pet p).spillRun || (s.pet p).spill.isSome || draining s p || slotCount s p = 0 then .next s
  else match victim s p with
    | none => .next s
    | some (g, x) =>
      let data := pktBytes s (pktHome x.pkt) x.pkt.buf
      let bs := blocksOf 32 data
      let used := (s.pet p).slots
      let sl := findSlots (used.length + bs.length + 1) used (slotCount s p) 0 bs.length
      if sl.length < bs.length then
        .next (raiseOnceAny (0x0A800000 + p.val) (0x0A8 + p.val) (some p) (s.bump (pix 0x33A5 p) 8))
      else
        let first := leBytes 2 data.length ++ leBytes 2 bs.length ++ leBytes 4 x.pkt.tstamp ++ leBytes 2 (g % 16384) ++
          List.replicate 14 0
        let bad := pktPoison s (pktHome x.pkt) x.pkt.buf
        let s := s.updPet p (fun r => { r with spill := some ⟨g, x.seq, sl⟩, slots := r.slots ++ sl })
        let s := s.dset (pix 0x33A5 p) 0x0B (s.pet p).slots.length
        .next ((writeRecord p first bad sl bs s).bumpBy (pix 0x33A5 p) 6 data.length)

/-- SPILL_RECORD_ACCEPTED: the victim's buffers are freed and its queue entry names the record; a victim that has left its
queue, or come within the refill depth, is cancelled and its slots freed (12 R326, R329). -/
def execSpillRecordAccepted (p : Petal) (s : State) : Out :=
  match (s.pet p).spill with
  | none => .next s
  | some j =>
    let s := s.updPet p (fun r => { r with spill := none })
    match (withAhead (s.q j.queue).pk).find? (fun e => e.2.seq == j.seq) with
    | none => .next (freeSlots p j.slots s)
    | some (ahead, x) =>
      if ahead ≤ s.dget (pix 0x33A5 p) 3 then .next (freeSlots p j.slots s)
      else
        let s := freePkt (pktHome x.pkt) x.pkt.buf s
        .next ((s.updQ j.queue (fun q => { q with
          pk := q.pk.map (fun y => if y.seq = j.seq then { y with spill := some j.slots } else y) })).bump (pix 0x33A5 p) 4)

/-- The spilled packet that is refilled next (12 R329): at or below the refill depth. -/
def refillNext (s : State) (p : Petal) : Option (Nat × QPkt × List Nat) :=
  (qLive s p).findSome? (fun g =>
    (withAhead (s.q g).pk).findSome? (fun e => match e.2.spill with
      | some l => if e.1 ≤ s.dget (pix 0x33A5 p) 3 then some (g, e.2, l) else none
      | none => none))

/-- REFILL_COMPLETE: the record is read, decoded and checked, the packet written into buffers taken with reserve 0, and its
slots freed; a corrupt record drops the packet; with no buffer the refill waits (12 R329, R330). -/
def execRefillComplete (p : Petal) (blocksOk : Bool) (s : State) : Out :=
  match refillNext s p with
  | none => .next s
  | some (g, x, sl) =>
    let bad := sl.any (fun i => poisoned s (slotAddr s p i) 1088)
    let parts := sl.map (fun i => blockDecode (s.memRead (slotAddr s p i + 32) 1056))
    let s := sl.foldl (fun s i => dramTouchRead (slotAddr s p i) true s) s
    if !blocksOk || bad || parts.any Option.isNone then
      let s := s.updQ g (fun q => { q with pk := q.pk.filter (fun y => y.seq ≠ x.seq) })
      let s := (discardQ g x (showDepth g s)).bump (pix 0x33A5 p) 0x0A
      .next (raiseAny (0x0AC + p.val) (some p) s)
    else
      let data := (parts.filterMap id).flatten
      match allocBufs p (fun _ => 0) data.length s with
      | (s, none) => .next s
      | (s, some bufs) =>
        let r := writePkt p bufs data s
        let s := freeSlots p sl r.1
        let pkt : Pkt := { x.pkt with buf := r.2, home := p.val, len := data.length }
        .next ((s.updQ g (fun q => { q with
          pk := q.pk.map (fun y => if y.seq = x.seq then { y with spill := none, pkt := pkt } else y) })).bump (pix 0x33A5 p) 5)

/-! ## The buffers' commands (12 R320 to R322, R334, R336) -/

/-- The effect of a write of 0x33A4.06: the chain is freed (12 R320, R322); any master but those of R320 is refused. -/
def effFree (w : Writer) (p : Petal) (data : List Byte) (s : State) : Except Abort State :=
  if mayAllocate w.mid then .ok (freeChain chainFuel p w.mid (leNat data) s) else .error 0x06010000

/-- FREE_LIST_REBUILD_COMPLETE: the rebuilt pool is available again (12 R321). -/
def execFreeListRebuildComplete (p : Petal) (pool : Fin 5) (s : State) : Out :=
  .next (spillWatch p (rebuildDone p pool.val s))

/-- SKETCH_CLEAR: a write of 1 clears the sketch; any other value is reserved (12 R334). -/
def execSketchClear (w : Writer) (p : Petal) (v : BitVec 8) (s : State) : Out :=
  .next (dictCmd w (pix 0x33A6 p) 3 0 [v] none (fun s => .ok (if v = 1 then sketchClear p s else s)) s)

/-- FLOW_COUNTER_WRITEBACK: a petal's modified counter records go to DRAM (12 R336). -/
def execFlowCounterWriteback (p : Petal) (s : State) : Out := .next (fcntWriteback p s)

/-- The areas of DRAM that spill areas, the lock area, the flow counter area and the SA library take, as (start, end) pairs
with a number of their own: 0 to 3 spill, 4 lock, 5 flow counters, 6 library (12 R324, 11 R304, 13 R350, 14 R392). -/
def areas (s : State) : List (Nat × Nat × Nat) :=
  ((List.range 4).filterMap (fun p =>
    let b := s.dget (0x33A5 + 0x400 * p) 1
    if b = 0xFF then none else some (p, b * 2 ^ 30, (b + s.dget (0x33A5 + 0x400 * p) 2) * 2 ^ 30))) ++
  (if s.dget 0x9000 1 = 0xFF then [] else [(4, s.dget 0x9000 1 * 2 ^ 30, (s.dget 0x9000 1 + 1) * 2 ^ 30)]) ++
  [(5, s.dget 0x2050 1 * 2 ^ 30, s.dget 0x2050 1 * 2 ^ 30 + 269484032)] ++
  (if s.dget 0x4C02 1 = 0xFF then [] else [(6, s.dget 0x4C02 1 * 2 ^ 30, s.dget 0x4C02 1 * 2 ^ 30 + 134217728)])

/-- Whether an area overlaps one of a list of areas by number. -/
def overlapsArea (s : State) (nums : List Nat) (lo hi : Nat) : Bool :=
  (areas s).any (fun a => nums.contains a.1 && a.2.1 < hi && lo < a.2.2)

/-- The effect of a write of the spill area's base or size (12 R324). -/
def effSpillArea (p : Petal) (sub : Nat) (data : List Byte) (s : State) : Except Abort State :=
  let s' := plainScalar (pix 0x33A5 p) sub data s
  let b := s'.dget (pix 0x33A5 p) 1
  let e := b + s'.dget (pix 0x33A5 p) 2
  if b = 0xFF then .ok s'
  else if 52 < e || overlapsArea s ([0, 1, 2, 3].filter (· ≠ p.val) ++ [4, 5]) (b * 2 ^ 30) (e * 2 ^ 30) then .error 0x06090030
  else .ok s'

/-- The effect of a write of a spill threshold, a refill reserve or a pool count: the order of 12 R326 must hold for the pool. -/
def effThreshold (p : Petal) (idx sub : Nat) (data : List Byte) (s : State) : Except Abort State :=
  let s' := plainScalar idx sub data s
  let k := if sub ≤ 5 then sub else sub - 0x10
  let r := s'.dget (pix 0x33A1 p) k
  let a := s'.dget (pix 0x33A2 p) k
  let b := s'.dget (pix 0x33A2 p) (0x10 + k)
  if r < a && a < b && b ≤ s'.dget (pix 0x33A0 p) k then .ok (spillWatch p s') else .error 0x06090030

end Sys2Proof.Machine
end

