-- ==== Sys2Proof/Machine/Ingress.lean ====
section
/-!
DEFINITION. Machine/Ingress.lean: frames from the MAC to task formation (03 R61 to R90, 05 R129 to R134, R148 to R152, 14 R372
to R375): receive, walk and classification, formation, operands, and the pauses at the sources.
-/
namespace Sys2Proof.Machine

/-! ## Sources and pauses (05 R148 to R151, R158) -/

/-- The logical ports of an Ethernet port under its breakout (14 R373). -/
def portLanes (s : State) (n : Nat) : Nat := 2 ^ (s.dget (0x4200 + 0x10 * n) 1)

/-- Ingress of a petal is closed (05 R158, 02 R53). -/
def ingressClosed (s : State) (p : Petal) : Bool := draining s p

/-- Whether a task is an ingress task: SRC bit 7 is 0 (05 R136). -/
def Task.ingress (t : Task) : Bool := t.pkt.src < 128

/-- The packets whose entries of a petal's matching store are in use: the tasks', and those that a waiting witness copy holds (05
R142, R149). -/
def entryPkts (s : State) (p : Petal) : List Pkt :=
  (s.pet p).tasks.map Task.pkt ++ ((s.pet p).copies.filter (fun c => c.task.isSome)).map WitCopy.pkt

/-- The ingress entries of a class in a petal's matching store (05 R149). -/
def classCount (s : State) (p : Petal) (c : Nat) : Nat :=
  ((entryPkts s p).filter (fun k => decide (k.src < 128) && k.cls == c)).length

/-- The ingress entries in use (05 R150). -/
def ingressCount (s : State) (p : Petal) : Nat := ((entryPkts s p).filter (fun k => decide (k.src < 128))).length

/-- The host-transmit entries in use (05 R152). -/
def hostCount (s : State) (p : Petal) : Nat := ((entryPkts s p).filter (fun k => decide (128 ≤ k.src))).length

/-- A PFC frame of a petal's logical port for a class, counted (05 R149). -/
def sendPfc (p : Petal) (k c quanta : Nat) (s : State) : State :=
  (s.emit (.pfcTx (8 * p.val + k) (2 ^ c) quanta)).bump (pix 0x3203 p) (0x51 + c)

/-- Brings the pauses of a petal up to date (05 R149, R151, R158): a class is held from XOFF until it is below XON; the store as
a whole likewise; a closed ingress pauses every class. Pauses begin and end by PFC frames. `paused` lists 8k + c for each
pause that has been sent, and 100 + c for each class that is held. -/
def refreshPause (p : Petal) (s : State) : State :=
  let r := s.pet p
  let v := fun sub => s.dget (pix 0x3203 p) sub
  let held := (List.range 8).filter (fun c =>
    v (c + 1) ≤ classCount s p c || (r.paused.contains (100 + c) && v (0x11 + c) ≤ classCount s p c))
  let store := s.dget (pix 0x3200 p) 0x0F ≤ ingressCount s p ||
    (r.storePause && s.dget (pix 0x3200 p) 0x10 ≤ ingressCount s p)
  let want := (List.range 64).filter (fun i => !petalHalted s p && i / 8 < portLanes s p.val && bitOf (v 0x30) i &&
    (held.contains (i % 8) || store || ingressClosed s p))
  let sent := r.paused.filter (· < 64)
  let s := s.updPet p (fun r => { r with paused := want ++ held.map (100 + ·), storePause := store })
  let s := (want.filter (fun i => !sent.contains i)).foldl (fun s i => sendPfc p (i / 8) (i % 8) (v 0x31) s) s
  (sent.filter (fun i => !want.contains i)).foldl (fun s i => sendPfc p (i / 8) (i % 8) 0 s) s

/-- PFC_REPEAT: a pause in force is repeated (05 R149). -/
def execPfcRepeat (port : Port) (cls : Fin 8) (s : State) : Out :=
  let p := portPetal port.val
  if (s.pet p).paused.contains (8 * (port.val % 8) + cls.val) then
    .next (sendPfc p (port.val % 8) cls.val (s.dget (pix 0x3203 p) 0x31) s)
  else .next s

/-- PAUSE_HELD_EXPIRY: a pause in force has lasted for the pause-held limit (05 R149). -/
def execPauseHeldExpiry (port : Port) (cls : Fin 8) (s : State) : Out :=
  let p := portPetal port.val
  if (s.pet p).paused.contains (8 * (port.val % 8) + cls.val) then
    .next (raise (0x060 + p.val) (b2n (s.pet p).storePause * 256 + port.val * 8 + cls.val) (some p) s)
  else .next s

/-- Received pauses set (14 R372): the classes whose quanta are not 0 are paused, the others released. -/
def setPause (port : Nat) (classes : List Nat) (quanta : Nat → Nat) (s : State) : State :=
  { s with rxPause := s.rxPause.filter (fun x => !(x / 8 == port && classes.contains (x % 8))) ++
      (classes.filter (fun c => quanta c ≠ 0)).map (fun c => 8 * port + c) }

/-- A PFC frame received (14 R372). -/
def pfcReceived (port : Nat) (classes : Nat) (quanta : Nat → Nat) (s : State) : State :=
  let en := s.dget (portIdx port) 0x13
  setPause port ((List.range 8).filter (fun c => bitOf classes c && bitOf en c)) quanta (s.bump (portIdx port) 0x1B)

/-- A link-level pause frame received (14 R372). -/
def pauseReceived (port quanta : Nat) (s : State) : State :=
  let s := s.bump (portIdx port) 0x1B
  if s.dget (portIdx port) 0x12 = 1 then setPause port (List.range 8) (fun _ => quanta) s else s

/-- Whether a logical port is up (14 R374). -/
def portUp (s : State) (port : Nat) : Bool := s.dget (portIdx port) 2 == 2 || s.dget (portIdx port) 2 == 3

/-- PFC_FRAME_RECEIVE (14 R372). -/
def execPfcFrameReceive (port : Port) (classes : BitVec 8) (quanta : List (BitVec 16)) (s : State) : Out :=
  if portUp s port.val && !s.frozen.contains (1 + port.val / 8) then .next (pfcReceived port.val classes.toNat (fun c => (quanta.getD c 0).toNat) s) else .next s

/-- LINK_PAUSE_RECEIVE (14 R372). -/
def execLinkPauseReceive (port : Port) (quanta : BitVec 16) (s : State) : Out :=
  if portUp s port.val && !s.frozen.contains (1 + port.val / 8) then .next (pauseReceived port.val quanta.toNat s) else .next s

/-- PAUSE_EXPIRY: the quanta of a received pause have passed (14 R372). -/
def execPauseExpiry (port : Port) (cls : Fin 8) (s : State) : Out :=
  .next { s with rxPause := s.rxPause.filter (· ≠ 8 * port.val + cls.val) }

/-! ## Receive (14 R375, 05 R148) -/

/-- The class of a received frame from its outermost tag (05 R148). -/
def frameClass (s : State) (port : Nat) (f : List Byte) : Nat :=
  let p := portPetal port
  let w := s.dget (pix 0x3202 p) (port % 8 + 1)
  if (tpids s p).contains (beNat (slice f 12 2)) then
    let pcp := bitsAt f 112 3
    bitsOf w (3 * pcp + 2) (3 * pcp)
  else bitsOf w 26 24

/-- FRAME_RECEIVE: the MAC checks a frame, whose last four bytes are its FCS, stamps it and hands it to the crossing; it drops and
counts bad frames, consumes pauses, and drops what a halted petal receives (14 R372, R375; 18 R477). -/
def execFrameReceive (port : Port) (frame : List Byte) (fcsOk : Bool) (s : State) : Out :=
  let q := port.val
  let p := portPetal q
  let i := portIdx q
  let n := frame.length
  if !portUp s q || s.frozen.contains (1 + q / 8) then .next s
  else if !fcsOk then .next (s.bump i 0x16)
  else if n < 64 then .next (s.bump i 0x17)
  else if s.dget i 5 < n then .next (s.bump i 0x18)
  else
    let s := (s.bump i 0x14).bumpBy i 0x15 n
    let op := beNat (slice frame 14 2)
    if beNat (slice frame 12 2) = 0x8808 && op = 1 then .next (pauseReceived q (beNat (slice frame 16 2)) s)
    else if beNat (slice frame 12 2) = 0x8808 && op = 0x0101 then
      .next (pfcReceived q (beNat (slice frame 16 2)) (fun c => beNat (slice frame (18 + 2 * c) 2)) s)
    else if petalHalted s p then .next (s.bump 0x2220 8)
    else .next (s.updPet p (fun r => { r with rx := r.rx ++ [⟨q, frame, s.time, frameClass s q frame⟩] }))

/-! ## Walk, classification and edits (03 R73 to R87) -/

/-- A frame with the outermost walk's security header that MINIMAL drops (03 R87): Ethertype 0x88E5 after an Ethernet header or a
tag at any level, or an ESP header to a configured SA. -/
def minimalDrop (s : State) (p : Petal) (v : List VEnt) (f : List Byte) : Bool :=
  (vecHdrs v).any (fun h => (h.ty == ethType s p || h.stack == 1) && beNat (slice f (h.off + h.len - 2) 2) == 0x88E5) ||
  (match firstType v (s.dget 0x4C00 6) with
   | some o => (saFind s (espKey s v f o)).isSome
   | none => false)

/-- PARSE_WALK: the oldest frame of the crossing takes buffers, is walked on the active bank and classified in the generation in
use; its failure action or its action list decides on it (03 R62, R73 to R87; 12 R319). A memory record that the frame needs may
be corrected, which is counted, or uncorrectable, which drops the frame (R88). A template's UDP source port comes from the flow
hash that the packet leaves the edits with (R84, R86), so that the edits are run for their vector first. No walk starts while strict
WITNESS holds the copy of a packet that formed no task (02 R52). -/
def execParseWalk (p : Petal) (ecc : EccOutcome) (s : State) : Out :=
  let s := if petalHalted s p then s else witnessRetry p s
  match (s.pet p).rx with
  | [] => .next s
  | x :: rest =>
    if !(s.pet p).parseOn || petalHalted s p || (s.pet p).copies.any (fun c => c.task.isNone) then .next s
    else
    let s := s.updPet p (fun r => { r with rx := rest })
    match allocBufs p (refillReserve s p) x.bytes.length s with
    | (s, none) => .next (s.bump (pix 0x33A3 p) 8)
    | (s, some bufs) =>
    let w := writePkt p bufs x.bytes s
    let s := w.1
    let f := x.bytes.take (x.bytes.length - 4)
    let gen := genInUse s p
    let t := genSnap s gen
    let o := walkFrame s p (s.dget (pix 0x3100 p) 2) f
    let pkt : Pkt :=
      { task := 0, seq := 0, dom := 0, pstat := o.status, gen := gen, tstamp := x.stamp % 2 ^ 32, len := x.bytes.length,
        src := x.port, cls := x.cls, rule := 0xFFFF, flags := if modeOn s (.petal p) 3 then 16 else 0, buf := w.2, hq := 0,
        hash := 0, lenIn := x.bytes.length, vec := o.vec, cow := List.replicate 32 0, edits := [], ts := none,
        copied := false, home := p.val, key := [] }
    let s := countWalk p o s
    let s := if ecc = .corrected then s.bump (pix 0x310A p) 3 else s
    if ecc = .uncorrectable then .next (raiseAny (0x034 + p.val) (some p) (freePkt p pkt.buf (s.bump (pix 0x310A p) 4)))
    else
    let act := (topFail o.fails).map (fun b => s.dget (pix 0x3103 p) (failSub b))
    let toQueue := fun (pkt : Pkt) (q : Nat) (s : State) =>
      enqueue p (16384 * p.val + q) pkt (witness p pkt 3 (16384 * p.val + q) none s)
    let drop := fun (pkt : Pkt) (s : State) => freePkt p pkt.buf (witness p pkt 2 0 none s)
    match act.map (fun a => (bitsOf a 31 30, bitsOf a 13 0)) with
    | some (0, _) => .next (drop pkt s)
    | some (1, q) => .next (toQueue pkt q s)
    | _ =>
    if minimalOn s && minimalDrop s p o.vec f then .next (drop pkt (s.bump (pix 0x3104 p) 0x0A))
    else
    let m : Meta := ⟨x.port, o.status, o.deepest, o.vlan0, o.mpls0⟩
    let hit := if minimalOn s then none else classify t p (classKey t p o.vec m)
    let s := match hit with
      | some (n, _) =>
        s.domWrite (pix 0x3107 p) 1 (8 * n) (leBytes 8 (s.domNat (pix 0x3107 p) 1 (8 * n) 8 + 1))
      | none => s.bump (pix 0x310A p) 2
    let pkt := { pkt with rule := (hit.map Prod.fst).getD 0xFFFF }
    let lst := if minimalOn s then List.replicate 72 0
      else t.bytes (pix 0x3108 p) 0 (72 * ((hit.map Prod.snd).getD (t.get (pix 0x3106 p) (x.port % 8 + 1)))) 72
    let words := listWords lst
    let pend := bitOf words.1 61
    let key := flowKey t (if pend then pkt.vec else (applyActions t p words.2 pkt s).2.vec) m
    let pkt := { pkt with hash := flowHash s p key, key := key }
    let r := if pend then (s, { pkt with edits := lst, flags := pkt.flags ||| 1 }) else applyActions t p words.2 pkt s
    let s := r.1
    let pkt := r.2
    match bitsOf words.1 63 62 with
    | 1 => .next (drop pkt s)
    | 2 => .next (toQueue pkt (bitsOf words.1 13 0) s)
    | _ =>
      let s := sketchAdd p key pkt.hash pkt.len s
      .next (s.updPet p (fun r => { r with form := r.form ++ [(pkt, false)] }))

/-! ## Formation (05 R129 to R133, R150 to R152) -/

/-- A free task ID (05 R129): the lowest. -/
def freeId (s : State) (p : Petal) : Option Nat :=
  (List.range 16384).find? (fun i => !(s.pet p).tasks.any (fun t => t.id == i) && !(s.pet p).copies.any (fun c => c.task == some i))

/-- The admission of an ingress frame (05 R150, R151, R158): none, or the entry that counts its drop. -/
def refusedIngress (s : State) (p : Petal) (pkt : Pkt) : Option Nat :=
  let pfc := bitOf (s.dget (pix 0x3203 p) 0x30) (8 * (pkt.src % 8) + pkt.cls)
  let cap := 16384 - s.dget (pix 0x3200 p) 2
  if ingressClosed s p || cap ≤ ingressCount s p || s.dget (pix 0x3203 p) (0x21 + pkt.cls) ≤ classCount s p pkt.cls then
    some (if pfc then 0x39 else 0x41 + pkt.cls)
  else none

/-- A field of a packet's vector of a width in bytes. -/
def keyField (v : List VEnt) (id n : Nat) : Option Nat :=
  match vecField v id with
  | some f => if f.bytes.length = n then some (beNat f.bytes) else none
  | none => none

/-- The lookups that a frame's profile names (04 R102, R103), with the keys that the vector gives. -/
def looksOf (prof : Nat) (pkt : Pkt) : Looks :=
  let v := pkt.vec
  let fid := if bitOf prof 5 then 0 else
    ((vecField v (bitsOf prof 23 18)).map (fun f => beNat f.bytes % 4096)).getD 0
  let l3 : Option (Bool × Nat) := match keyField v (bitsOf prof 29 24) 4 with
    | some a => some (false, a)
    | none => (keyField v (bitsOf prof 29 24) 16).map (fun a => (true, a))
  { route := if bitOf prof 2 then some l3 else none
    dst := if bitOf prof 0 then some ((keyField v (bitsOf prof 11 6) 6).map (fun m => m * 4096 + fid)) else none
    src := if bitOf prof 1 then some ((keyField v (bitsOf prof 17 12) 6).map (fun m => m * 4096 + fid)) else none
    port := pkt.src }

/-- Whether a task's context operand may fill: no older task of the petal that names the same context is unreleased, and the context
can be resident (05 R133). -/
def tokenFree (s : State) (p : Petal) (t : Task) : Bool :=
  !(s.pet p).tasks.any (fun x => x.order < t.order && x.ctxIdx == t.ctxIdx && t.ctxIdx.isSome) &&
    (match t.ctxIdx with
     | some i => ctxRoom s i
     | none => true)

/-- The state with a task of a petal changed. -/
def updTask (p : Petal) (id : Nat) (f : Task → Task) (s : State) : State :=
  s.updPet p (fun r => { r with tasks := r.tasks.map (fun t => if t.id = id then f t else t) })

/-- A task of a petal. -/
def taskOf (s : State) (p : Petal) (id : Nat) : Option Task := (s.pet p).tasks.find? (fun t => t.id == id)

/-- A bit of a task's ready mask set; the moment at which it becomes ready is kept (05 R139). -/
def fillBit (p : Petal) (id b : Nat) (s : State) : State :=
  updTask p id (fun t =>
    let m := t.mask ||| 2 ^ b
    { t with mask := m, readyAt := if m = 15 && t.mask ≠ 15 then s.time else t.readyAt }) s

/-- The context operand fills (05 R133): the context becomes resident and held, and its packet is counted (12 R336). -/
def fillCtx (p : Petal) (t : Task) (s : State) : State :=
  let s := histAdd p 4 (some t.pkt.src) t.formAt s
  match t.ctxIdx with
  | none => fillBit p t.id 1 s
  | some i =>
    let s := ctxTouch i s
    let s := updTask p t.id (fun t => { t with held := true, pkt := { t.pkt with flags := t.pkt.flags ||| 2 } }) s
    fillBit p t.id 1 (fcntAdd i t.pkt.len s)

/-- Fills the context operands of the tasks whose lookups have returned and whose token has come (05 R133). -/
def tokens (p : Petal) (s : State) : State :=
  (s.pet p).tasks.foldl (fun s t =>
    if bitOf t.late 1 && !bitOf t.mask 1 && tokenFree s p t then fillCtx p t s else s) s

/-- A task entered into the matching store (05 R129): ID, order, sequence number. -/
def addTask (p : Petal) (t : Task) (s : State) : State :=
  let d := t.pkt.dom
  let seq := Tab.get 0 (s.pet p).seqs d
  let t := { t with pkt := { t.pkt with task := t.id, seq := seq }, order := (s.pet p).order }
  let s := s.updPet p (fun r => { r with
    tasks := r.tasks ++ [t], order := r.order + 1, seqs := Tab.set 0 r.seqs d ((seq + 1) % 65536) })
  let s := (s.bump (pix 0x3200 p) 7).dset (pix 0x3200 p) 1 (entriesUsed (s.pet p))
  refreshPause p s

/-- A host-transmit task formed (05 R131, R132). -/
def formHost (p : Petal) (pkt : Pkt) (id : Nat) (s : State) : State :=
  let gen := genInUse s p
  addTask p
    { id := id, order := 0, pkt := { pkt with gen := gen, dom := 0xF0000 + pkt.hq % 16384 }, mask := 15, late := 0,
      looks := ⟨none, none, none, 0⟩, route := 0, l2 := 0, ctx := 0, ctxIdx := none, held := false, cowOp := false, thr := none,
      pref := false, ended := false, early := false, strictDrop := false, readyAt := s.time, dq := 0, disp := 0, formAt := s.time, dispAt := 0 } s

/-- An ingress task formed (05 R131, R132; 04 R122; 13 R347). -/
def formIngress (p : Petal) (pkt : Pkt) (id : Nat) (s : State) : State :=
    let t := genSnap s pkt.gen
    let prof := profileOf s t pkt.src
    let c := if bitOf prof 3 then ctxLookup p pkt.key (bitOf prof 4) s else (s, 0)
    let s := c.1
    let act := s.dget 0x5300 3
    if bitOf prof 3 && ctxStatus c.2 = 4 && bitsOf act 31 30 = 1 then freePkt p pkt.buf s
    else if bitOf prof 3 && ctxStatus c.2 = 4 && bitsOf act 31 30 = 2 then
      enqueue p (16384 * p.val + bitsOf act 29 16) pkt s
    else
      let looks := looksOf prof pkt
      let dom := if bitOf (s.dget (pix 0x3202 p) (pkt.src % 8 + 1)) 31 then 0xFFF00 + pkt.src % 8 else pkt.hash % 2 ^ 20
      let f := pktBytes s p pkt.buf
      let sel := if minimalOn s then CowSel.none else cowSelect s pkt.src pkt.vec (f.take (f.length - 4))
      let noLook := looks.route.isNone && looks.dst.isNone && looks.src.isNone
      let cow := sel != .none
      let mask := 1 + 2 * b2n (!bitOf prof 3) + 4 * b2n noLook + 8 * b2n (!cow)
      let s := addTask p
        { id := id, order := 0, pkt := { pkt with dom := dom, flags := pkt.flags ||| (if cow then 4 else 0) }, mask := mask,
          late := 0, looks := looks, route := 0, l2 := 0, ctx := c.2,
          ctxIdx := if bitOf prof 3 then ctxIndex c.2 else none, held := false, cowOp := cow, thr := none, pref := false,
          ended := false, early := false, strictDrop := false, readyAt := s.time, dq := 0, disp := 0, formAt := s.time, dispAt := 0 } s
      if cow then cowBegin p id ((s.pet p).order - 1) (s.dget 0x4C03 (1 + pkt.src)) sel pkt.vec (f.take (f.length - 4)) s else s

/-- The next packet of which a task can be formed, with its place (05 R129, R152): ingress packets and host-transmit packets each in
their own order; a full host-transmit share holds only its own packets back. -/
def nextForm (s : State) (p : Petal) : Option ((Pkt × Bool) × Nat) :=
  let full := decide (s.dget (pix 0x3200 p) 2 ≤ hostCount s p)
  (s.pet p).form.zipIdx.find? (fun e => !e.1.2 || !full)

/-- TASK_FORM: Teasel forms the next task, or drops its frame; a full host-transmit share makes its packets wait (05 R129 to R132,
R150 to R152). -/
def execTaskForm (p : Petal) (s : State) : Out :=
  let s := if petalHalted s p then s else witnessRetry p s
  match nextForm s p with
  | none => .next s
  | some ((pkt, host), i) =>
    let s' := s.updPet p (fun r => { r with form := r.form.eraseIdx i })
    if petalHalted s p then .next s
    else match (if host then none else refusedIngress s p pkt), freeId s p with
      | some sub, _ => .next (refreshOldest p (refreshPause p (freePkt p pkt.buf (s'.bump (pix 0x3203 p) sub))))
      | none, some id => .next (refreshOldest p (if host then formHost p pkt id s' else formIngress p pkt id s'))
      | none, none => .next s

/-! ## Operands (05 R132 to R134; 04 R104) -/

/-- The lookup words of a task (04 R104 to R113): with no lookup of a kind its word is 0; LEARN alone leaves the DA status 2. -/
def lookWords (p : Petal) (t : Task) (s : State) : State × Nat × Nat :=
  let snap := genSnap s t.pkt.gen
  let rw := match t.looks.route with
    | none => 0
    | some none => 2 * 2 ^ 62
    | some (some (v6, a)) => routeWord snap v6 a
  if t.looks.dst.isNone && t.looks.src.isNone then (s, rw, 0)
  else
    let da := l2Word snap (t.looks.dst.getD none)
    let sa := match t.looks.src with
      | some (some k) => sourceCheck p snap k t.looks.port s
      | _ => (s, 6)
    (sa.1, rw, da + sa.2 * 2 ^ 53)

/-- The memory of the tables that an operand's lookup read (04 R124): a corrected error is counted and reported, an uncorrectable one is
reported, and the lookup returns status error. The syndrome's fields for petal, table and bank have no places in the spec: it is free
(DESIGN CHOICE, assumption 3). -/
def tableEcc (p : Petal) (ecc : EccOutcome) (s : State) : State :=
  match ecc with
  | .clean => s
  | .corrected => raiseAny 0x042 (some p) (s.bump 0x5100 6)
  | .uncorrectable => raiseAny 0x043 (some p) s

/-- The lookup words with the status error, for the lookups that were made (04 R104). -/
def errorWords (t : Task) : Nat × Nat :=
  (if t.looks.route.isSome then 3 * 2 ^ 62 else 0,
   if t.looks.dst.isSome || t.looks.src.isSome then 3 * 2 ^ 62 + 6 * 2 ^ 53 else 0)

/-- OPERAND_ARRIVE: an operand of a task returns: bit 1 the context lookup, bit 2 every lookup; the descriptor is there at
formation, and the Cowslip result fills bit 3 at its commit. One that its timeout has overtaken is discarded and counted, also after
its task has released; it comes before the operand of a later task of the same ID (05 R132 to R134). -/
def execOperandArrive (p : Petal) (task : TaskId) (operand : ArrivingOperand) (s : State) : Out :=
  let b := operand.bit.val
  if (s.pet p).lateOps.contains (task.val, b) then
    .next ((s.updPet p (fun r => { r with lateOps := r.lateOps.erase (task.val, b) })).bump (pix 0x3200 p) 0x0A)
  else match taskOf s p task.val with
  | none => .next s
  | some t =>
    if bitOf t.mask b then .next s
    else match b with
      | 1 =>
        if bitOf t.late 1 then .next s
        else
          let bad := operand.ecc == .uncorrectable
          .next (tokens p (updTask p t.id (fun t =>
            { t with late := t.late ||| 2, ctx := if bad then 5 * 2 ^ 61 else t.ctx, ctxIdx := if bad then none else t.ctxIdx })
            (tableEcc p operand.ecc s)))
      | 2 =>
        let r := if operand.ecc = .uncorrectable then (s, errorWords t) else lookWords p t s
        .next (fillBit p t.id 2 (updTask p t.id (fun t => { t with route := r.2.1, l2 := r.2.2 }) (tableEcc p operand.ecc r.1)))
      | _ => .next s

/-- OPERAND_TIMEOUT: an operand that has not arrived is filled with its error form, counted and reported (05 R134). A context whose
lookup has returned and whose token has not come times out too, and no late operand of it follows. -/
def execOperandTimeout (p : Petal) (task : TaskId) (bit : Fin 4) (s : State) : Out :=
  match taskOf s p task.val with
  | none => .next s
  | some t =>
    let b := bit.val
    if bitOf t.mask b then .next s
    else
      let s := if b = 3 || (b = 1 && bitOf t.late 1) then s
        else s.updPet p (fun r => { r with lateOps := r.lateOps ++ [(t.id, b)] })
      let s := updTask p t.id (fun t =>
        let t := { t with late := t.late &&& (if b = 1 then 0xFFFD else 0xFFFF), pkt := { t.pkt with flags := t.pkt.flags ||| 8 } }
        if b = 1 then { t with ctx := 5 * 2 ^ 61, ctxIdx := none }
        else if b = 2 then { t with route := (errorWords t).1, l2 := (errorWords t).2 }
        else if b = 3 then { t with pkt := { t.pkt with cow := cowError } } else t) s
      let s := tokens p (fillBit p t.id b (s.bump (pix 0x3200 p) 0x0A))
      .next (raise (0x050 + p.val) (t.id + b * 2 ^ 14) (some p) s)

/-- What a strict selector word does with a result (13 R346): the task becomes a drop at its release position. -/
def strictFails (w status : Nat) : Bool :=
  bitsOf w 29 28 == 1 && status ≠ 1 && status ≠ 0 && !(status == 4 && bitOf w 27)

/-- An ingress operation's outcome (13 R354, R356, R357): the state, with the number committed and the plaintext in place, and the
result. -/
def cowFinish (p : Petal) (o : CowOp) (t : Task) (eccOk : Bool) (s : State) : State × Pkt × List Byte :=
  let pkt := t.pkt
  let sa := o.sa.bind (fun i => (Tab.find s.cow.sas i).map (fun a => (i, a)))
  let off := o.off
  match sa with
  | none =>
    let st := if o.status = 0 then 7 else o.status
    (s, pkt, cowResult st (if st = 7 then 0 else o.kind) 0 0 0 0 none 0)
  | some (i, a) =>
    let bad := fun (st : Nat) (s : State) =>
      (s, pkt, if st = 7 then cowError else cowResult st a.proto 0 0 0 (b2n a.softDone * 4) (some i) o.num)
    if !eccOk then
      let s := raise 0x0B9 i none (saView i (s.updCow (fun c => { c with sas := Tab.put c.sas i { a with stopped := true } })))
      bad 5 s
    else if o.status ≠ 0 then bad o.status s
    else
      let data := pktBytes s p pkt.buf
      let f := data.take (data.length - 4)
      match protParts a pkt.vec f off with
      | none => bad 6 s
      | some parts =>
        if !icvGood a o.num f off parts then bad 2 s
        else
          let c := saCommit i o.num s
          if !c.2 then bad 3 c.1
          else
            let s := c.1
            let a' := Tab.get a s.cow.sas i
            let plain := plaintext a o.num f parts.2.2.1 parts.2.2.2
            let n := parts.2.2.2
            let padN := (plain.getD (n - 2) 0).toNat
            let padOk := a.proto == 1 || (padN + 2 ≤ n &&
              (List.range padN).all (fun j => (plain.getD (n - 2 - padN + j) 0).toNat == j + 1))
            let enc := a.proto ≠ 1 || bitOf (a.b 2) 2
            if !padOk then bad 6 s
            else if bitOf (a.b 2) 3 then
              let r := stripFrame a pkt.vec f parts plain
              let g := r.1 ++ data.drop (data.length - 4)
              let s := shorten p pkt.buf r.2.2.1 r.2.1 g s
              let cut := r.2.2.1
              let vec := pkt.vec.filter (fun e => match e with
                | .hdr h => h.off < cut
                | .field x => x.bit + x.width ≤ 8 * cut)
              (s, { pkt with len := g.length, vec := vec },
                cowResult 1 a.proto r.2.2.1 r.2.2.2.1 r.2.2.2.2 (b2n enc + 2 + b2n a'.softDone * 4) (some i) o.num)
            else
              let g := f.take parts.2.2.1 ++ plain ++ f.drop (parts.2.2.1 + n) ++ data.drop (data.length - 4)
              let s := if enc then relay p pkt.buf g 0 none s else s
              let next := if a.proto = 1 then 0 else (plain.getD (n - 1) 0).toNat
              let len := if a.proto = 1 then n else n - 2 - padN
              (s, pkt, cowResult 1 a.proto parts.2.2.1 len next (b2n enc + b2n a'.softDone * 4) (some i) o.num)

/-- An egress operation's outcome (13 R348, R355, R358): the head of the protection is written, or the packet is dropped at its
queue position. -/
def cowEgress (o : CowOp) (g seq : Nat) (eccOk : Bool) (s : State) : State :=
  let put := fun (f : QPkt → QPkt) (s : State) =>
    showDepth g (s.updQ g (fun q => { q with pk := q.pk.map (fun x => if x.seq = seq then f x else x) }))
  match (s.q g).pk.find? (fun x => x.seq == seq) with
  | none => s
  | some x =>
    match o.sa.bind (fun i => (Tab.find s.cow.sas i).map (fun a => (i, a))) with
    | none => put (fun x => { x with cow := false, doomed := 8 }) s
    | some (i, a) =>
      if !eccOk then
        put (fun x => { x with cow := false, doomed := 8 })
          (raise 0x0B9 i none (saView i (s.updCow (fun c => { c with sas := Tab.put c.sas i { a with stopped := true } }))))
      else if o.status ≠ 0 then put (fun x => { x with cow := false, doomed := 8 }) s
      else
        let h := pktHome x.pkt
        let data := pktBytes s h x.pkt.buf
        if a.proto = 2 && ip6Ext (tpids s (qPetal g)) data then put (fun x => { x with cow := false, doomed := 8 }) s
        else
        let r := protectFrame (tpids s (qPetal g)) a o.num (data.take (data.length - 4))
        let out := r.1 ++ data.drop (data.length - 4)
        match lengthen h x.pkt.buf r.2 out s with
        | (s, some b) => saView i (put (fun x => { x with cow := false, prot := true, pkt := { x.pkt with buf := b, len := out.length } }) s)
        | (s, none) =>
          let s := raiseOnceAny 0x0B500000 0x0B5 none s
          put (fun x => { x with cow := false, doomed := 7 }) s

/-- COWSLIP_COMMIT: an operation whose blocks have run and that no older operation of its SA precedes commits: a task's operand
fills, or a queued packet is protected; an uncorrectable SA stops (13 R354 to R363). A job has its own completion. -/
def execCowslipCommit (op : Nat) (eccOk : Bool) (s : State) : Out :=
  match s.cow.ops.find? (fun o => o.id == op) with
  | none => .next s
  | some o =>
    let first := !(s.cow.ops.any (fun x => x.id < o.id && x.sa == o.sa && o.sa.isSome))
    if (o.left ≠ 0 && o.status = 0) || !first then .next s
    else
      let rm := fun (s : State) => s.updCow (fun c => { c with ops := c.ops.filter (fun x => x.id ≠ o.id) })
      let fin := fun (s : State) => match o.sa with
        | some i => saDrained i s
        | none => s
      match o.srv with
      | .job _ _ => .next s
      | .egress g seq => .next (fin (rm (cowEgress o g seq eccOk s)))
      | .ingress id order =>
        let p : Petal := ⟨o.petal % 4, Nat.mod_lt _ (by decide)⟩
        match (taskOf s p id).filter (fun t => t.order == order && !bitOf t.mask 3) with
        | none => .next (fin (rm (s.bump (pix 0x3200 p) 0x0A)))
        | some t =>
            let r := cowFinish p o t eccOk s
            let st := (r.2.2.getD 0 0).toNat
            let s := cowCount st r.1
            let s := updTask p id (fun t =>
              { t with pkt := { r.2.1 with cow := r.2.2 }, strictDrop := strictFails o.word st }) s
            .next (fin (rm (histAdd p 7 none o.since (fillBit p id 3 s))))

/-! ## Stores of the parser and Teasel (03, 05): effects of dictionary writes -/

/-- A rule record's check (03 R78). -/
def ruleReserved (r : List Byte) : Bool :=
  ((r.take 40).zip ((r.drop 40).take 40)).any (fun e => e.1 &&& ~~~ e.2 ≠ 0) || 4096 ≤ leNat (slice r 82 2) ||
  1 < (r.getD 84 0).toNat || leNat (slice r 85 11) ≠ 0

/-- The effect of a write of the rule store (03 R78, R79; 04 R92): groups and places are checked, counts follow. A group of at most
8 rules always finds places; a larger one may not, as a free function of Config tells (DESIGN CHOICE, assumption 6). -/
def effRules (p : Petal) (off : Nat) (data : List Byte) (s : State) : Except Abort State :=
  let recs := (List.range (data.length / 96)).map (fun i => slice data (96 * i) 96)
  if recs.any ruleReserved then .error 0x06090030
  else
    let s' := tableDomainWrite (pix 0x3107 p) 0 off data s
    let t := s'.tables.accepted
    let masks := masksUsed s' p
    let group := fun (m : List Byte) => ((ruleNumbers t p).filter (fun n => slice (ruleRec t p n) 40 40 == m)).length
    let noPlace := recs.any (fun r => bitOf (r.getD 84 0).toNat 0 && 8 < group (slice r 40 40) &&
      Config.ruleFails (group (slice r 40 40)) r)
    if 256 < masks.length || noPlace then .error 0x08000024
    else .ok ((s'.dset (pix 0x3105 p) 1 (ruleNumbers t p).length).dset (pix 0x3105 p) 2 masks.length)

/-- A refused rule write for want of a resource is counted (03 R79). -/
def countRuleRefusal (p : Petal) (c : Abort) (s : State) : State :=
  if c = 0x08000024 then s.bump (pix 0x3105 p) 3 else s

/-- The template length of an index in a content. -/
def tmplLen (t : TabSnap) (p : Petal) (i : Nat) : Nat := leNat (t.bytes (pix 0x3109 p) 0 (128 * i) 1)

/-- The effect of a write of the action lists (03 R82 to R85). -/
def effLists (p : Petal) (off : Nat) (data : List Byte) (s : State) : Except Abort State :=
  let recs := (List.range (data.length / 72)).map (fun i => slice data (72 * i) 72)
  if recs.any (listReserved (tmplLen s.tables.accepted p)) then .error 0x06090030
  else .ok (tableDomainWrite (pix 0x3108 p) 0 off (recs.flatMap maskList) s)

/-- The numbers of the lists of a petal that a content holds other than empty. -/
def listNumbers (t : TabSnap) (p : Petal) : List Nat :=
  let base := domKey (pix 0x3108 p) 0 0
  ((t.recs.filter (fun e => base ≤ e.1 && e.1 < base + 4096 * 72)).map (fun e => (e.1 - base) / 72)).eraseDups

/-- The effect of a write of the encapsulation templates (03 R85). -/
def effTemplates (p : Petal) (off : Nat) (data : List Byte) (s : State) : Except Abort State :=
  let recs := (List.range (data.length / 128)).map (fun i => slice data (128 * i) 128)
  let s' := tableDomainWrite (pix 0x3109 p) 0 off data s
  let t := s'.tables.accepted
  if recs.any (fun r => 96 < (r.getD 0 0).toNat) then .error 0x06090030
  else if (listNumbers t p).any (fun n =>
      128 < listPushes (tmplLen t p) (listWords (t.bytes (pix 0x3108 p) 0 (72 * n) 72)).2) then .error 0x08000024
  else .ok s'

/-- The effect of a write of the thresholds of 05 R149 and of the store's limits (R151). -/
def effPause (p : Petal) (idx sub : Nat) (data : List Byte) (s : State) : Except Abort State :=
  let s' := plainScalar idx sub data s
  let ok := if idx = pix 0x3203 p then
      (List.range 8).all (fun c => s'.dget idx (0x11 + c) < s'.dget idx (1 + c) && s'.dget idx (1 + c) ≤ s'.dget idx (0x21 + c))
    else s'.dget idx 0x0F ≤ 16384 - s'.dget idx 2 && s'.dget idx 0x10 < s'.dget idx 0x0F
  if ok then .ok (refreshPause p s') else .error 0x06090030

/-- RULE_STORE_WRITE (03 R78, R79). -/
def execRuleStoreWrite (w : Writer) (p : Petal) (off : Nat) (data : List Byte) (s : State) : Out :=
  if windowShut s w then .next (windowRefused w (pix 0x3107 p) 0 s)
  else match dictDo w (pix 0x3107 p) 0 off data none (effRules p off data) s with
  | .ok s' => .next s'
  | .error (c, u) => .next (refuseWrite w (pix 0x3107 p) 0 c u (writerPc w s) (countRuleRefusal p c s))

/-- TEMPLATE_WRITE (03 R85). -/
def execTemplateWrite (w : Writer) (p : Petal) (off : Nat) (data : List Byte) (s : State) : Out :=
  .next (dictCmd w (pix 0x3109 p) 0 off data none (effTemplates p off data) s)

/-! ## The forwarding tables' commands (04) -/

/-- The effect of a batch written (04 R97 to R101): cause 5 and 3 are resource limits, the others reserved values. -/
def effBatch (mid off : Nat) (data : List Byte) (s : State) : State × Option Abort :=
  let r := submitBatch mid off data s
  (r.1, if r.2.1 = 0 then none else if r.2.1 ≤ 2 then some 0x06090030 else some 0x08000024)

/-- TABLE_BATCH_SUBMIT: a batch of table commands (04 R97 to R101); a refused batch leaves its record. -/
def execTableBatchSubmit (w : Writer) (off : Nat) (data : List Byte) (s : State) : Out :=
  if windowShut s w then .next (windowRefused w 0x5000 0x10 s)
  else match checkWrite w 0x5000 0x10 off data none s with
  | some (c, u) => .next (refuseWrite w 0x5000 0x10 c u (writerPc w s) s)
  | none =>
    match effBatch w.mid off data s with
    | (s, none) => .next s
    | (s, some c) => .next (refuseWrite w 0x5000 0x10 c false (writerPc w s) s)

/-- TABLE_COMMIT_APPLY (04 R93). -/
def execTableCommitApply (s : State) : Out := if s.isoPorts.contains 12 then .next s else .next (commitApply s)

/-- PETAL_COPY_COMPLETE (04 R93). -/
def execPetalCopyComplete (p : Petal) (s : State) : Out := .next (copyComplete p s)

/-- GENERATION_HOLD_EXPIRY (04 R95). -/
def execGenerationHoldExpiry (p : Petal) (s : State) : Out := .next (holdExpiry p s)

/-- MEMORY_RECLAIM (04 R96). -/
def execMemoryReclaim (s : State) : Out := .next (reclaim s)

/-- LEARN_COMMIT (04 R115). -/
def execLearnCommit (s : State) : Out := .next (learnCommit s)

/-- LEARN_FILTER_EXPIRY: a key leaves a petal's learn filter (04 R114). -/
def execLearnFilterExpiry (p : Petal) (key : BitVec 60) (s : State) : Out :=
  .next (s.updPet p (fun r => { r with filter := r.filter.filter (· ≠ key.toNat) }))

/-- TABLE_TICK: the tick count advances (04 R100). -/
def execTableTick (s : State) : Out := .next (s.updTab (fun t => { t with ticks := (t.ticks + 1) % 65536 }))

/-- AGING_SCAN (04 R117). -/
def execAgingScan (s : State) : Out := .next (agingScan s)

/-- CONTEXT_EXPIRY_SCAN (04 R123). -/
def execContextExpiryScan (s : State) : Out := .next (expiryScan s)

end Sys2Proof.Machine
end

