-- ==== Sys2Proof/Machine/Host.lean ====
section
/-!
DEFINITION. Machine/Host.lean: queue objects, doorbells, host rings, function resets, links, CXL, lanes and time (14 R364 to
R395; 11 R300).
-/
namespace Sys2Proof.Machine

/-! ## Queue object writes (14 R365, R366) -/

/-- The table size of a function's MSI-X vectors (14 R380); 0 for a VF that lies in no PF's range, which has no table. -/
def fnVectors (s : State) (vf : Bool) (n : Nat) : Nat :=
  if vf then (match vfPf s n with | some p => s.dget (0x4480 + p) 4 | none => 0) else s.dget (0x4480 + n % 8) 3

/-- A value of the format of 12 R333 that is reserved. -/
def expReserved (v : Nat) : Bool :=
  let m := bitsOf v 13 5
  m < 256 && !(m == 0 && v % 32 == 0)

/-- The writable bits of words W0 to W5 (14 R365). -/
def qMask : Nat → Nat
  | 0 => 2 ^ 64 - 2 ^ 37
  | 1 => 2 ^ 40 - 1
  | 2 => 2 ^ 63 + (2 ^ 46 - 2 ^ 32) + (2 ^ 14 - 1)
  | 3 => 2 ^ 64 - 2 ^ 6
  | 4 => 2 ^ 64 - 2 ^ 6
  | _ => 2 ^ 64 - 2 ^ 16

/-- Whether the words of a queue object of a petal hold a reserved value (14 R365). -/
def qReserved (s : State) (p : Petal) (w : Nat → Nat) : Bool :=
  let kind := bitsOf (w 0) 62 60
  let port := bitsOf (w 0) 59 55
  let host := kind == 2 || kind == 3
  let vf := bitOf (w 5) 53
  let fnum := bitsOf (w 5) 52 42
  4 ≤ kind || (kind == 1 && port / 8 ≠ p.val) || (kind ≠ 1 && (port ≠ 0 || bitsOf (w 0) 54 52 ≠ 0)) ||
  bitsOf (w 1) 39 32 == 0 || bitsOf (w 1) 31 16 == 0 || w 1 % 65536 == 0 ||
  expReserved (bitsOf (w 2) 45 32) || expReserved (bitsOf (w 2) 13 0) ||
  (!host && (w 3 ≠ 0 || w 4 ≠ 0 || w 5 ≠ 0)) ||
  (host && (bitsOf (w 5) 63 59 < 6 || 15 < bitsOf (w 5) 63 59 || bitsOf (w 5) 58 54 < 6 || 15 < bitsOf (w 5) 58 54 ||
    (!vf && 7 < fnum) || (0 < fnVectors s vf fnum && fnVectors s vf fnum ≤ bitsOf (w 5) 41 31)))

/-- Whether two objects differ in a class S field (14 R365). -/
def qClassS (a b : Nat → Nat) : Bool :=
  bitsOf (a 0) 62 52 ≠ bitsOf (b 0) 62 52 || a 3 ≠ b 3 || a 4 ≠ b 4 || bitsOf (a 5) 63 42 ≠ bitsOf (b 5) 63 42

/-- Bus Master Enable of functions set. No command of the table carries the host's write of it: the model takes it as set when a
link comes up, when the host makes VFs, and when a queue of the function is enabled (PRESUMED, assumption 14). -/
def setMaster (fns : List Nat) (s : State) : State :=
  { s with busMaster := s.busMaster ++ fns.filter (fun f => !s.busMaster.contains f) }

/-- The effect of a write of a queue object (14 R365, R366): W6 to W15 stay, reserved bits are ignored, class S fields change
only on a stopped queue, ENABLE acts. -/
def effQueue (p : Petal) (q off : Nat) (data : List Byte) (s : State) : Except Abort State :=
  let g := 16384 * p.val + q
  let old := fun w => qWord s g w
  let bytes := s.domRead (qIdx g) (qSub g) 0 48
  let merged := (bytes.zipIdx.map (fun (b, i) => if off ≤ i then data.getD (i - off) b else b))
  let new := fun w => leNat (slice merged (8 * w) 8) &&& qMask w
  if qReserved s p new then .error 0x06090030
  else if qClassS old new && (qOn s g || (s.q g).pk ≠ []) then .error 0x08000022
  else
    let on := bitOf (new 0) 63
    let was := qOn s g
    let kind := bitsOf (new 0) 62 60
    let s := (List.range 6).foldl (fun s w => setQWord g w (new w) s) s
    let cnt := s.dget (pix 0x33B0 p) 3
    let s := s.dset (pix 0x33B0 p) 3 (cnt + b2n (kind ≠ 0) - b2n (bitsOf (old 0) 62 60 ≠ 0))
    let s := if on && !was && (kind = 2 || kind = 3) then
        (setQWord g 6 0 s).updQ g (fun x => { x with cpls := [], started := false, irqDue := false, lastMsg := 0 })
      else s
    let s := if on && !was && (kind = 2 || kind = 3) then setMaster [qFn s g] s else s
    .ok (if was && !on && kind = 2 then flushQueue g s else s)

/-- QUEUE_OBJECT_WRITE (14 R365, R366). -/
def execQueueObjectWrite (w : Writer) (p : Petal) (q : Fin 16384) (off : Nat) (data : List Byte) (s : State) : Out :=
  let g := 16384 * p.val + q.val
  .next (dictCmd w (qIdx g) (qSub g) off data none (effQueue p q.val off data) s)

/-- PACKET_TRANSMIT: one decision of a traffic manager's exit (14 R369). -/
def execPacketTransmit (e : Egress) (s : State) : Out :=
  match e with
  | .port q => if s.frozen.contains (1 + q.val / 8) then .next s else .next (transmitPort q.val s)
  | .host h => if s.frozen.contains (5 + h.val) then .next s else .next (transmitHost h.val s)

/-- EGRESS_STALL_EXPIRY: a port has sent nothing for the egress stall time with a packet waiting (05 R156). -/
def execEgressStallExpiry (port : Port) (s : State) : Out := .next (stallDiscard port.val s)

/-! ## Doorbells and rings (14 R384 to R389) -/

/-- A doorbell of a function: accepted whole, ignored whole and counted, or refused (14 R384). -/
def doorbell (fn g size v : Nat) (s : State) : State :=
  let k := qKind s g
  let h := fnHost s fn
  if size ≠ 8 || !(k == 2 || k == 3) || !qOn s g || qFn s g ≠ fn then
    raiseOnceAny (0x10000000 + h) 0x100 none (s.bump (hostIdx h) 8)
  else
    let w := qWord s g 6
    let head := w % 65536
    let tail := bitsOf w 31 16
    let ctail := bitsOf w 47 32
    let chead := bitsOf w 63 48
    let nt := v % 65536
    let nc := bitsOf v 31 16
    let d := fun a b => (a + 65536 - b) % 65536
    if d nt head ≤ 2 ^ bitsOf (qWord s g 5) 63 59 && d tail head ≤ d nt head && d nc chead ≤ d ctail chead then
      writeCpls 65536 g (setQWord g 6 (nc * 2 ^ 48 + ctail * 2 ^ 32 + nt * 2 ^ 16 + head) s)
    else raiseAny 0x101 none ((bumpQ g 15 1 s).bump (hostIdx h) 9)

/-- DOORBELL (14 R384); nothing comes over a frozen crossing (01 R29). -/
def execDoorbell (fn : BitVec 16) (g : BitVec 16) (size : Nat) (v : BitVec 64) (s : State) : Out :=
  if s.frozen.contains (5 + fnHost s fn.toNat) then .next s else .next (doorbell fn.toNat g.toNat size v.toNat s)

/-- Whether a transmit descriptor is well formed, but for its place in the packet (14 R383). -/
def txDescOk (d : List Byte) : Bool :=
  let len := leNat (slice d 8 2)
  d.length == 32 && 1 ≤ len && len ≤ 16383 && (d.getD 10 0).toNat < 16 && d.getD 11 0 == 0 && leNat (slice d 18 14) == 0

/-- EOP of a transmit descriptor. -/
def txEop (d : List Byte) : Bool := bitOf (d.getD 10 0).toNat 0

/-- The head index of a ring advanced. -/
def advanceHead (g n : Nat) (s : State) : State :=
  let w := qWord s g 6
  setQWord g 6 (w / 65536 * 65536 + (w + n) % 65536) s

/-- A descriptor error of a transmit ring (14 R384, R387): its descriptors are used up, with a completion of STATUS 1. -/
def txError (g n tag : Nat) (s : State) : State :=
  let h := fnHost s (qFn s g)
  let s := raiseAny 0x101 none ((bumpQ g 15 1 s).bump (hostIdx h) 9)
  let c := (s.q g).nextCpl
  let s := (advanceHead g n s).updQ g (fun q => { q with nextCpl := c + 1 })
  writeCpls 65536 g (addCpl g ⟨c, tag, 0, 1, 1, 0, 0, List.replicate 10 0, true⟩ s)

/-- HOST_TX_FETCH: a transmit ring fetches its next packet: the descriptors as read and its data. The packet takes buffers and
waits to be formed; a full ring, share or pool makes the fetch wait (05 R152; 12 R319; 14 R383, R386, R391). -/
def execHostTxFetch (g : BitVec 16) (descs : List (List Byte)) (data : List Byte) (s : State) : Out :=
  let g := g.toNat
  let p := qPetal g
  let n := descs.length
  if qKind s g ≠ 3 || !ringReady s g || n = 0 || posted s g < n || modeOn s .device 0 || draining s p || petalHalted s p ||
      s.dget (pix 0x3200 p) 2 ≤ hostCount s p + ((s.pet p).form.filter Prod.snd).length || s.frozen.contains (5 + fnHost s (qFn s g)) then .next s
  else
    let last := descs.getLast?.getD []
    let tag := leNat (slice last 12 4)
    let total := (descs.map (fun d => leNat (slice d 8 2))).sum
    let fl := (last.getD 10 0).toNat
    let off := leNat (slice last 16 2)
    let s := descs.foldl (fun (acc : Nat × State) d =>
      (acc.1 + 1, acc.2.emit (.hostRead (qFn s g)
        (bitsOf (qWord s g 3) 63 6 * 64 + 32 * ((qWord s g 6 + acc.1) % 2 ^ bitsOf (qWord s g 5) 63 59)) d.length))) (0, s) |>.2
    if !(descs.all txDescOk) || 16 < n || !txEop last || descs.dropLast.any txEop || 16383 < total ||
        (bitOf fl 2 && total < off + 44) then
      .next (txError g n tag s)
    else
      let s := descs.foldl (fun s d => s.emit (.hostRead (qFn s g) (leNat (slice d 0 8)) (leNat (slice d 8 2)))) s
      let body := slice data 0 total
      match allocBufs p (refillReserve s p) (total + 4) s with
      | (s, none) => .next s
      | (s, some bufs) =>
        let r := writePkt p bufs (body ++ fcs body) s
        let c := (s.q g).nextCpl
        let ts := bitOf fl 1
        let one := bitOf fl 2
        let req : Option TsReq := if ts || one then
            some ⟨if ts then some (g, c) else none, if one then some (off, bitOf fl 3) else none⟩ else none
        let pkt : Pkt :=
          { task := 0, seq := 0, dom := 0, pstat := 0, gen := genInUse s p, tstamp := s.time % 2 ^ 32, len := total + 4,
            src := 128, cls := 0, rule := 0xFFFF, flags := if modeOn s (.petal p) 3 then 16 else 0, buf := r.2, hq := g % 16384,
            hash := 0, lenIn := total + 4, vec := [], cow := List.replicate 32 0, edits := [], ts := req, copied := false,
            home := p.val, key := [] }
        let s := (advanceHead g n r.1).updQ g (fun q => { q with nextCpl := c + 1 })
        let s := addCpl g ⟨c, tag, total, 0, 1, 0, 0, List.replicate 10 0, !ts⟩ s
        .next (writeCpls 65536 g (s.updPet p (fun r => { r with form := r.form ++ [(pkt, true)] })))

/-- HOST_RECEIVE_WRITE (14 R385). -/
def execHostReceiveWrite (g : BitVec 16) (descs : List (List Byte)) (s : State) : Out :=
  if qKind s g.toNat = 2 && !s.frozen.contains (5 + fnHost s (qFn s g.toNat)) then .next (receiveWrite g.toNat descs s) else .next s

/-- MSIX_RAISE: the holdoff of a queue whose completions wait for their message has passed (14 R388). -/
def execMsixRaise (g : BitVec 16) (s : State) : Out :=
  let g := g.toNat
  let w := qWord s g 5
  if (s.q g).irqDue && bitOf w 30 then
    .next ((msix (qFn s g) (bitsOf w 41 31) s).updQ g (fun q => { q with irqDue := false, lastMsg := s.time + 1 }))
  else .next s

/-- HOST_READ_ERROR: a host read of a ring's work returned an error or poison (14 R389). Which descriptors the packet had is not
told: their number and its TAG are free values (DESIGN CHOICE, assumption 3). -/
def hostReadError (g : Nat) (s : State) : State :=
  let k := qKind s g
  let h := fnHost s (qFn s g)
  if !(k == 2 || k == 3) || !ringReady s g || posted s g = 0 then s
  else
    let s := raiseAny 0x102 none ((bumpQ g 14 1 s).bump (hostIdx h) 0x0A)
    if k = 2 then disableQueue g s
    else
      let n := 1 + Config.freeChoice s.fresh % min 16 (posted s g)
      let tag := (Config.freeWord s.fresh).toNat % 2 ^ 32
      let c := (s.q g).nextCpl
      let s := (advanceHead g n s.tick).updQ g (fun q => { q with nextCpl := c + 1 })
      writeCpls 65536 g (addCpl g ⟨c, tag, 0, 3, 1, 0, 0, List.replicate 10 0, true⟩ s)

/-- HOST_READ_ERROR (14 R389). -/
def execHostReadError (g : BitVec 16) (s : State) : Out := .next (hostReadError g.toNat s)

/-! ## Function resets (14 R390, 11 R300) -/

/-- The queues whose objects are listed, by global number. -/
def queuesListed (s : State) : List Nat :=
  ((s.doms.filter (fun e => dk 0x6000 0 ≤ e.1 / 2 ^ 28 && e.1 / 2 ^ 28 < dk 0x7000 0)).map (fun e =>
    let k := e.1 / 2 ^ 28
    (k / 256 - 0x6000) * 16 + (k % 256 - 1))).eraseDups

/-- The VFs of a PF (14 R380). -/
def vfsOf (s : State) (pf : Nat) : List Nat :=
  (List.range (s.dget (0x4480 + pf) 1)).map (fun i => 0x1800 + s.dget (0x4480 + pf) 2 + i)

/-- The functions that a reset of a function covers (11 R300). -/
def covered (s : State) (fn : Nat) : List Nat := if bitOf fn 11 then [fn] else fn :: vfsOf s (fn % 8)

/-- The functions of a host controller's PFs. -/
def fnsOfPfs (s : State) (l : List Nat) : List Nat := (l.map (fun pf => covered s (0x1000 + pf))).flatten

/-- What a reset does to the queues, the DMA and the messages of a list of functions (14 R390). -/
def stopFns (fns : List Nat) (s : State) : State :=
  let qs := (queuesListed s).filter (fun g => (qKind s g == 2 || qKind s g == 3) && fns.contains (qFn s g))
  let s := qs.foldl (fun s g => disableQueue g s) s
  let s := qs.foldl (fun s g => s.updQ g (fun q => { q with cpls := [], irqDue := false })) s
  { s with busMaster := s.busMaster.filter (fun f => !fns.contains f) }

/-- The SPDM sessions that a condition names end; 0x1E20.03 reads the count of those left (16 R433). -/
def endSessions (sel : Session → Bool) (s : State) : State :=
  let l := s.sessions.filter (fun x => !sel x)
  { s with sessions := l }.dset 0x1E20 3 l.length

/-- A reset of a list of functions (11 R300, 14 R390): their locks too; their vectors are masked and not pending. -/
def resetFns (rep : Nat) (fns : List Nat) (s : State) : State :=
  let s := holderResetAll rep fns (stopFns fns s)
  let own := fun k => fns.contains (k / 2048)
  let s := endSessions (fun x => match x.ep with
    | .pf n => fns.contains (0x1000 + n.val)
    | _ => false) s
  { s with msixOpen := s.msixOpen.filter (fun k => !own k), msixPend := s.msixPend.filter (fun k => !own k) }

/-- FUNCTION_LEVEL_RESET (14 R390). -/
def execFunctionLevelReset (fn : BitVec 16) (s : State) : Out :=
  let f := fn.toNat
  if f / 4096 = 1 then .next (resetFns f (covered s f) s) else .next s

/-- BUS_MASTER_DISABLE: Bus Master Enable of a function is cleared (14 R390). -/
def execBusMasterDisable (fn : BitVec 16) (s : State) : Out := .next (stopFns [fn.toNat] s)

/-- The PFs of a controller. -/
def pfsOf (h : Nat) : List Nat := [4 * h, 4 * h + 1, 4 * h + 2, 4 * h + 3]

/-- PERST_ASSERT: the controller is stopped and its functions are reset; its links go down (14 R379, R390). -/
def execPerstAssert (h : Fin 2) (s : State) : Out :=
  let i := hostIdx h.val
  let s := resetFns (0x1000 + 4 * h.val) (fnsOfPfs s (pfsOf h.val)) s
  let s := { s with perst := if s.perst.contains h.val then s.perst else s.perst ++ [h.val] }
  .next ([4, 5, 6, 7].foldl (fun s sub => s.dset i sub 0) s)

/-- A controller's actual mode becomes the requested one; a change advances the generation (14 R379, 16 R426). -/
def setHostMode (i : Nat) (s : State) : State :=
  if s.dget i 2 = s.dget i 1 then s else bumpGen i 1 (s.dset i 2 (s.dget i 1))

/-- PERST_DEASSERT: the controller takes its requested mode (14 R379). -/
def execPerstDeassert (h : Fin 2) (s : State) : Out :=
  let i := hostIdx h.val
  let s := { s with perst := s.perst.filter (· ≠ h.val) }
  .next (setHostMode i s)

/-- The PFs that lie on a link of a controller (14 R379). -/
def pfsOfLink (s : State) (h link : Nat) : List Nat :=
  if s.dget (hostIdx h) 2 = 2 then (if link = 0 then [4 * h, 4 * h + 1] else [4 * h + 2, 4 * h + 3])
  else if link = 0 then pfsOf h else []

/-- A link of a controller goes down: every function of that controller is reset, in either mode (11 R300, 14 R390). -/
def linkDown (h link : Nat) (s : State) : State :=
  let i := hostIdx h
  let s := if pfsOfLink s h link = [] then s else resetFns (0x1000 + 4 * h) (fnsOfPfs s (pfsOf h)) s
  (s.dset i (4 + 2 * link) 0).dset i (5 + 2 * link) 0

/-- HOST_LINK_DOWN (14 R390). -/
def execHostLinkDown (h : Fin 2) (link : Fin 2) (s : State) : Out := .next (linkDown h.val link.val s)

/-- HOST_LINK_UP: a link has trained at a width and a rate; the controller runs its requested mode (14 R379). The links of an
isolated port stay down (18 R480). -/
def execHostLinkUp (h : Fin 2) (link : Fin 2) (width : BitVec 8) (rate : BitVec 8) (s : State) : Out :=
  let i := hostIdx h.val
  let m := s.dget i 1
  if s.perst.contains h.val || m = 0 || (link.val = 1 && m ≠ 2) || s.isoPorts.contains (8 + h.val) then .next s
  else
    let s := ((setHostMode i s).dset i (4 + 2 * link.val) width.toNat).dset i (5 + 2 * link.val) rate.toNat
    .next (setMaster (fnsOfPfs s (pfsOfLink s h.val link.val)) s)

/-- NUMVFS_WRITE: the host sets how many VFs of a PF exist; VFs that cease to exist are reset, and those up to the number may
master the bus (14 R380, R390; 11 R300). -/
def execNumvfsWrite (pf : Fin 8) (n : BitVec 16) (s : State) : Out :=
  let all := vfsOf s pf.val
  if n = 0 then .next (resetFns (0x1000 + pf.val) ((0x1000 + pf.val) :: all) s)
  else .next (setMaster (all.take n.toNat) (resetFns (0x1000 + pf.val) (all.drop n.toNat) s))

/-- The mask bit of a vector is cleared; a pending vector is sent (14 R381, R388). -/
def msixUnmask (fn vec : Nat) (s : State) : State :=
  let k := fn * 2048 + vec
  let s := { s with msixOpen := if s.msixOpen.contains k then s.msixOpen else s.msixOpen ++ [k] }
  if s.msixPend.contains k && s.busMaster.contains fn then msix fn vec { s with msixPend := s.msixPend.filter (· ≠ k) } else s

/-- MSIX_VECTOR_UNMASK. -/
def execMsixVectorUnmask (fn : BitVec 16) (vec : BitVec 11) (s : State) : Out := .next (msixUnmask fn.toNat vec.toNat s)

/-! ## CXL (14 R392 to R394) -/

/-- CXL_MEM_REQUEST: a 64-byte read or write of device physical memory, translated into the map of the core view and checked as a
request of kind 1 with the CXL.mem ID (01 R36, R38); poison is returned, counted and reported. An address that the HDM decoder
does not map is unmapped (01 R37; DESIGN CHOICE, assumption 41). -/
def execCxlMemRequest (addr : Nat) (wr : Option (List Byte)) (s : State) : Out :=
  let ex := cxlExport s
  let a := ex.1 + addr / 64 * 64
  if s.frozen.contains 6 || s.isoPorts.contains 9 then .next s
  else if ex.2 ≤ addr then .next ((accessEvent 0x1400 addr .unmapped s).emit (.accessFault 0x1400 addr))
  else match checkAccess 0x1400 a wr.isSome s with
  | .ok _ =>
    match wr with
    | some d => .next (dramStore a (slice d 0 64) true (s.bump 0x4500 5))
    | none =>
      let r := loadHome a 64 true (s.bump 0x4500 4)
      let s := r.1.emit (.readData 0x1400 addr r.2.1)
      .next (if r.2.2 then raiseAny 0x10C none (s.bump 0x4500 6) else s)
  | r => .next ((accessEvent 0x1400 a r s).emit (.accessFault 0x1400 a))

/-- The bytes of an answer whose content the spec does not give: free bytes (DESIGN CHOICE, assumption 3). -/
def freeBytes (s : State) (n : Nat) : List Byte := (List.range n).map (Config.freeByte s.fresh)

/-- CXL_IDENTIFY_MEMORY_DEVICE: answered; the payload is that of CXL 2.0, whose values the spec leaves open (14 R394;
DESIGN CHOICE, assumption 3). -/
def execCxlIdentifyMemoryDevice (s : State) : Out := .next ((s.emit (.cxl 0 (freeBytes s 67))).tick)

/-- CXL_GET_HEALTH_INFO: answered likewise (14 R394; DESIGN CHOICE, assumption 3). -/
def execCxlGetHealthInfo (s : State) : Out := .next ((s.emit (.cxl 0 (freeBytes s 18))).tick)

/-- CXL_UNSUPPORTED_COMMAND: every other command returns Unsupported, return code 0x15 of CXL 2.0 (14 R394). -/
def execCxlUnsupportedCommand (_opcode : BitVec 16) (s : State) : Out := .next (s.emit (.cxl 0x15 []))

/-! ## Lanes, breakout and port states (14 R373, R374) -/

/-- The rate code of a number of lanes: 1 to 4 for 1, 2, 4, 8. -/
def rateCode (lanes : Nat) : Nat := if lanes = 8 then 4 else if lanes = 4 then 3 else if lanes = 2 then 2 else if lanes = 1 then 1 else 0

/-- The widest healthy run of a logical port's lanes (14 R374): 8, 4, 2, 1 or 0. -/
def widest (health first n : Nat) : Nat :=
  ([8, 4, 2, 1].find? (fun r => r ≤ n && (List.range 8).any (fun l =>
    l % r == 0 && first ≤ l && l + r ≤ first + n && (List.range r).all (fun j => bitOf health (l + j))))).getD 0

/-- A logical port's actual state and rate brought up to date with its requested state, the breakout, the lanes' health (14
R373, R374) and an optical module left in low-power mode (20 R533). -/
def refreshPort (q : Nat) (s : State) : State :=
  let n := q / 8
  let k := q % 8
  let i := portIdx q
  let m := portLanes s n
  let lanes := 8 / m
  let old := s.dget i 2
  let cage := s.dget 0x2064 (1 + n)
  let r := if bitOf cage 0 && 16 < bitsOf cage 15 8 then 0 else widest (s.dget (0x4200 + 0x10 * n) 2) (k * lanes) lanes
  let st := if m ≤ k then 4 else if s.dget i 1 = 0 then 0 else if r = 0 then 1 else if r = lanes then 2 else 3
  let s := (s.dset i 2 st).dset i 4 (if st = 2 || st = 3 then rateCode r else 0)
  let s := if old = st then s else bumpGen i 1 s
  let s := if old = 3 && st = 2 then s.bump (0x4200 + 0x10 * n) 3 else s
  if st = 3 && old ≠ 3 then raiseAny (0x104 + n) none s
  else if st = 1 && old ≠ 1 && old ≠ 0 && old ≠ 4 then raiseAny (0x108 + n) none s
  else s

/-- Every logical port of an Ethernet port brought up to date. -/
def refreshPorts (n : Nat) (s : State) : State := (List.range 8).foldl (fun s k => refreshPort (8 * n + k) s) s

/-- LANE_HEALTH_CHANGE: the lanes of Pn that are healthy (14 R374). -/
def execLaneHealthChange (p : Petal) (lanes : BitVec 8) (s : State) : Out :=
  .next (refreshPorts p.val (s.dset (0x4200 + 0x10 * p.val) 2 lanes.toNat))

/-! ## Time (14 R376) -/

/-- The effect of a write of OFFSET (14 R376): a value that makes the 1588 time negative is reserved. -/
def effTimeOffset (data : List Byte) (s : State) : Except Abort State :=
  if (s.time : Int) + toSigned 64 (leNat data) < 0 then .error 0x06090030 else .ok (plainScalar 0x4300 2 data s)

/-- TIME_OFFSET_WRITE (14 R376). -/
def execTimeOffsetWrite (w : Writer) (v : BitVec 64) (s : State) : Out :=
  .next (dictCmd w 0x4300 2 0 (leBytes 8 v.toNat) none (effTimeOffset (leBytes 8 v.toNat)) s)

/-- PPS_IN_EDGE: the 1588 time is latched (14 R376). -/
def execPpsInEdge (s : State) : Out :=
  .next (if s.frozen.contains 13 then s else s.domWrite 0x4300 4 0 (time80 s s.time))

/-- PPS_OUT_SECOND: a pulse at a whole second while it is enabled (14 R376). -/
def execPpsOutSecond (s : State) : Out :=
  .next (if s.dget 0x4300 5 = 1 && !s.frozen.contains 13 then s.emit .ppsOut else s)

/-! ## Effects of dictionary writes of 14 -/

/-- The effect of a write of a controller's mode (14 R379): 3 is reserved for H0; in CXL mode PF4 has no VFs (R380). -/
def effHostMode (h : Nat) (data : List Byte) (s : State) : Except Abort State :=
  let v := leNat data
  if (v = 3 && h = 0) || (v = 3 && s.dget 0x4484 1 ≠ 0) then .error 0x06090030
  else .ok (plainScalar (hostIdx h) 1 data s)

/-- The vectors of a controller's functions at full TotalVFs (14 R380). -/
def vectorSum (s : State) (h : Nat) : Nat :=
  ((pfsOf h).map (fun pf => s.dget (0x4480 + pf) 3 + s.dget (0x4480 + pf) 1 * s.dget (0x4480 + pf) 4)).sum

/-- The effect of a write of a PF entry (14 R380). -/
def effPf (pf sub : Nat) (data : List Byte) (s : State) : Except Abort State :=
  let s' := plainScalar (0x4480 + pf) sub data s
  let rng := fun q => (s'.dget (0x4480 + q) 2, s'.dget (0x4480 + q) 1)
  let bad := 2048 < (rng pf).1 + (rng pf).2 || (List.range 8).any (fun q => q ≠ pf && (rng q).2 ≠ 0 && (rng pf).2 ≠ 0 &&
    overlap (rng pf).1 (rng pf).2 (rng q).1 (rng q).2)
  if bad || (pf = 4 && (rng 4).2 ≠ 0 && s.dget 0x4440 1 = 3) || 2048 < vectorSum s' (pf / 4) then .error 0x06090030 else .ok s'

/-- The effect of a write of the export's size or base (14 R392). -/
def effExport (sub : Nat) (data : List Byte) (s : State) : Except Abort State :=
  let s' := plainScalar 0x4500 sub data s
  let b := s'.dget 0x4500 2
  let e := b + s'.dget 0x4500 1
  if 52 < e || (s'.dget 0x4500 1 ≠ 0 && overlapsArea s' [0, 1, 2, 3, 4, 5, 6] (b * 2 ^ 30) (e * 2 ^ 30)) then .error 0x06090030
  else .ok s'

/-- The effect of a write of the shared windows (14 R393). -/
def effWindows (off : Nat) (data : List Byte) (s : State) : Except Abort State :=
  let words := (List.range (data.length / 8)).map (fun i => leNat (slice data (8 * i) 8))
  let bad := words.any (fun e => bitOf e 63 && (e % 65536 = 0 || 16384 < e % 65536 ||
    s.dget 0x4500 1 * 512 < bitsOf e 31 16 + e % 65536))
  if bad then .error 0x06090030
  else .ok (s.domWrite 0x4500 3 off ((words.map (fun e => leBytes 8 (e &&& (3 * 2 ^ 62 + 2 ^ 32 - 1)))).flatten))

/-- The effect of a write of the policers (14 R368, 12 R333): a reserved number format or bit is refused. -/
def effPolicers (p : Petal) (off : Nat) (data : List Byte) (s : State) : Except Abort State :=
  let recs := (List.range (data.length / 16)).map (fun i => slice data (16 * i) 16)
  let bad := recs.any (fun r => (List.range 4).any (fun j => expReserved (leNat (slice r (2 * j) 2))))
  if bad then .error 0x06090030
  else .ok (s.domWrite (pix 0x33B0 p) 1 off
    ((recs.map (fun r => r.take 8 ++ [r.getD 8 0 &&& 7] ++ List.replicate 7 0)).flatten))

/-- The effect of a write of a shaper word (14 R371). -/
def effShaper (idx sub : Nat) (data : List Byte) (s : State) : Except Abort State :=
  let v := leNat data &&& qMask 2
  if expReserved (bitsOf v 45 32) || expReserved (bitsOf v 13 0) then .error 0x06090030
  else .ok (s.dset idx sub v)

/-- The effect of a write of a logical port's requested state or of the breakout: the actual states follow (14 R373). The write of a
requested state advances its generation once (16 R426). -/
def effPortState (idx sub : Nat) (data : List Byte) (s : State) : Except Abort State :=
  let s := plainScalar idx sub data s
  .ok (if idx < 0x4200 then (refreshPort ((idx - 0x4000) / 0x10) s).dset idx 3 (s.dget idx 3) else refreshPorts ((idx - 0x4200) / 0x10) s)

end Sys2Proof.Machine
end

