-- ==== Sys2Proof/Machine/Modes.lean ====
section
/-!
DEFINITION. Machine/Modes.lean: the mode words and what entering and leaving each mode does (02 R42 to R60, R538), parking
(08 R244, 09 R267, 10 R289, 11 R313) and the state mismatch of 16 R427.
-/
namespace Sys2Proof.Machine

/-! ## Flags wanted, held and forced -/

/-- The flags whose scope is the unit's own word (02 R42, R43). -/
def ownBits : ModeUnit → Nat
  | .device => 0x95
  | .petal _ => 0x18C
  | .cluster _ _ => 0x22

/-- Every unit with a mode word. -/
def allUnits : List ModeUnit :=
  .device :: (allPetals.map ModeUnit.petal ++ allPetals.flatMap (fun p => allClusters.map (ModeUnit.cluster p)))

/-- A unit's own-scope flags in effect. -/
def ownModes (s : State) (u : ModeUnit) : Nat := Tab.get 0 s.modes (modeKey u)

/-- The state with a unit's own-scope flags in effect set. -/
def setOwn (u : ModeUnit) (v : Nat) (s : State) : State := { s with modes := Tab.set 0 s.modes (modeKey u) v }

/-- A number with one bit set or cleared. -/
def withBit (v bit : Nat) (on : Bool) : Nat := if on then v ||| 2 ^ bit else v - b2n (bitOf v bit) * 2 ^ bit

/-- The state with one own-scope flag of a unit in effect or not. -/
def setOwnBit (u : ModeUnit) (bit : Nat) (on : Bool) (s : State) : State := setOwn u (withBit (ownModes s u) bit on) s

/-- A forcing cause of R48 holds. -/
def causeOn (s : State) (bit : Nat) : Bool := bitOf (s.dget 0x2000 6) bit

/-- The petal of a swap's unit, for the units of R47: cores, instruction-memory banks, trie stage banks and SRAM macros. -/
def unitPetal (unit : Nat) : Option Petal :=
  let k := bitsOf unit 31 28
  if k = 1 || k = 2 || k = 3 || k = 8 then some ⟨bitsOf unit 27 26 % 4, Nat.mod_lt _ (by decide)⟩ else none

/-- A swap runs in a unit of a petal (02 R47). -/
def petalSwaps (s : State) (p : Petal) : Bool := s.swaps.any (fun w => unitPetal w.unit == some p)

/-- A swap runs in a core of a cluster. -/
def clusterSwaps (s : State) (p : Petal) (c : Cluster) : Bool :=
  s.swaps.any (fun w => (bitsOf w.unit 31 28 == 1 || bitsOf w.unit 31 28 == 2) && unitPetal w.unit == some p &&
    bitsOf w.unit 25 23 == c.val)

/-- The flags that causes force on the whole device (02 R48), SPARING apart. -/
def forcedDevice (s : State) : Nat :=
  b2n (causeOn s 0) * 4 + b2n (causeOn s 1 || causeOn s 3) + b2n (causeOn s 2) * 16 + b2n (causeOn s 4) * 128

/-- The own-scope flags that a unit is to have in effect: requested or forced, and not held (02 R47, R48, R56). MINIMAL
changes at a start only; a halted petal has none (R60). -/
def wantOf (s : State) : ModeUnit → Nat
  | .device => ((s.dget 0x2000 1 ||| forcedDevice s) &&& 0x85) ||| (ownModes s .device &&& 0x10)
  | .petal p => if petalHalted s p then 0 else s.dget (modeIdx (.petal p)) 1 &&& 0x18C
  | .cluster p c =>
    if petalHalted s p then 0
    else s.dget (modeIdx (.cluster p c)) 1 &&& (if minimalOn s then (if c.val = 0 then 0x20 else 0) else 0x22)

/-- The flags that a cluster's word holds: DETERMINISTIC under MINIMAL, DEBUG under MINIMAL but for cluster 0 (02 R56). -/
def heldOf (s : State) (p : Petal) (c : Cluster) : Nat :=
  if minimalOn s then s.dget (modeIdx (.cluster p c)) 1 &&& (if c.val = 0 then 2 else 0x22) else 0

/-- A held word (02 R47). -/
def heldWord (s : State) : ModeUnit → Nat
  | .cluster p c => heldOf s p c
  | .petal p => allClusters.foldl (fun v c => v ||| heldOf s p c) 0
  | .device => allPetals.foldl (fun v p => allClusters.foldl (fun v c => v ||| heldOf s p c) v) 0

/-- A petal's actual word (02 R46); a halted petal reads 0 (R60). -/
def petalActual (s : State) (p : Petal) : Nat :=
  if petalHalted s p then 0
  else ownModes s (.petal p) ||| (ownModes s .device &&& 0x95) ||| (b2n (petalSwaps s p) * 64)

/-- A cluster's actual word (02 R46). -/
def clusterActual (s : State) (p : Petal) (c : Cluster) : Nat :=
  if petalHalted s p then 0 else ownModes s (.cluster p c) ||| petalActual s p

/-- An actual word (02 R46). -/
def actualWord (s : State) : ModeUnit → Nat
  | .cluster p c => clusterActual s p c
  | .petal p => petalActual s p
  | .device =>
    let v := ownModes s .device ||| (b2n (!s.swaps.isEmpty) * 64)
    allPetals.foldl (fun v p => allClusters.foldl (fun v c => v ||| clusterActual s p c) (v ||| petalActual s p)) v

/-- A forced word (02 R47); cluster words have none. -/
def forcedWord (s : State) : ModeUnit → Nat
  | .device => forcedDevice s ||| (b2n (!s.swaps.isEmpty) * 64)
  | .petal p => forcedDevice s ||| (b2n (petalSwaps s p) * 64)
  | .cluster _ _ => 0

/-- A cause word (02 R47). -/
def causeWord (s : State) : ModeUnit → Nat
  | .device => (s.dget 0x2000 6 &&& 0x1F) ||| (b2n (!s.swaps.isEmpty) * 32)
  | .petal p => (s.dget 0x2000 6 &&& 0x1F) ||| (b2n (petalSwaps s p) * 32)
  | .cluster _ _ => 0

/-- Writes a unit's held, forced, cause and actual words as they now are; a change of the actual or forced word advances the
generation (02 R45), but for an exempt unit (`ex`): the entry or exit of a flag that follows an accepted write of the unit's own
requested word is no change that hardware makes, since the write itself advanced the generation (16 R426 and its worked
example; DEDUCED, assumption 28). -/
def showUnit (ex : ModeUnit → Bool) (u : ModeUnit) (s : State) : State :=
  let i := modeIdx u
  let act := actualWord s u
  let fo := forcedWord s u
  let changed := s.dget i 2 ≠ act || (match u with | .cluster _ _ => false | _ => s.dget i 5 ≠ fo)
  let s := (s.dset i 2 act).dset i 4 (heldWord s u)
  let s := match u with
    | .cluster _ _ => s
    | _ => (s.dset i 5 fo).dset i 6 (causeWord s u)
  if changed && !ex u then bumpGen i 1 s else s

/-- Writes every mode word as it now is, with the units that are exempt from R45. -/
def showModes (ex : ModeUnit → Bool) (s : State) : State := allUnits.foldl (fun s u => showUnit ex u s) s

/-- No unit is exempt: hardware makes the change. -/
def byHardware (_ : ModeUnit) : Bool := false

/-- The units whose own requested word carries a flag: its late entry follows their accepted write. -/
def asked (s : State) (bit : Nat) (u : ModeUnit) : Bool := modeReq s u bit

/-! ## Dispatch holds and parking -/

/-- The reasons that Teasel holds dispatch to a cluster: 1 DETERMINISTIC transition, 2 ECO, 3 power cap, 4 activation. -/
def holdOn (p : Petal) (c : Cluster) (r : Nat) (on : Bool) (s : State) : State :=
  s.updClus p c (fun x =>
    let l := x.hold.filter (· != r)
    { x with hold := if on then l ++ [r] else l })

/-- Whether no thread of a cluster holds a task or a store that has not drained. -/
def clusterQuiet (s : State) (p : Petal) (c : Cluster) : Bool :=
  (clusterThreads p c).all (fun t =>
    let sl := Tab.get Slot.reset s.slots t.mid
    sl.cur.isNone && sl.next.isNone && (s.thr (.thr t)).sb.isEmpty)

/-- Whether a cluster chosen for parking holds no task any more: each has released, and its stores have drained (02 R49). -/
def clusterReleased (s : State) (p : Petal) (c : Cluster) : Bool :=
  clusterQuiet s p c && !(s.pet p).tasks.any (fun t => match t.thr with
    | some m => midCluster m == some (p, c)
    | none => false)

/-- The bound receiver of a mailbox (11 R307): 0 valid, its master ID. -/
def mboxRecv (s : State) (m : Nat) : Option Nat :=
  let e := s.domNat 0x9010 0 (8 * m) 8
  if bitOf e 32 then some (bitsOf e 31 16) else none

/-- A mailbox. -/
def State.mbox (s : State) (m : Nat) : Mbox := Tab.get Mbox.reset s.mboxes m

/-- Whether a full mailbox keeps a cluster unparked (11 R311). -/
def mboxKeeps (s : State) (p : Petal) (c : Cluster) : Bool :=
  (List.range 64).any (fun m => (s.mbox m).full &&
    match mboxRecv s m with
    | some mid => midCluster mid == some (p, c)
    | none => false)

/-- What keeps a quiet cluster from being parked: a channel held (09 R267), a table operation outstanding (10 R289), a lock
held (11 R313), a swap (02 R56), a full mailbox (11 R311). -/
def parkBlocked (s : State) (p : Petal) (c : Cluster) : Bool :=
  (clusterThreads p c).any (fun t => !(holds s t).isEmpty || !(s.thr (.thr t)).tops.isEmpty || holdsLock s t.mid) ||
    clusterSwaps s p c || mboxKeeps s p c

/-- A cluster parks (08 R244, 09 R267): its L1 caches are cleaned, its merging buffers drain, its channel waits end and run
again after unpark. -/
def doPark (p : Petal) (c : Cluster) (reasons : List Nat) (s : State) : State :=
  let s := if (s.clus p c).parked.isEmpty then
      let s := (coresOf p c).foldl (fun s k => cleanCore k s) s
      (clusterThreads p c).foldl (fun s t =>
        if (s.thr (.thr t)).st.chanWait then (endWait t s).updThr (.thr t) (fun x => { x with st := .running }) else s) s
    else s
  s.updClus p c (fun x => { x with parked := x.parked ++ reasons.filter (fun r => !x.parked.contains r) })

/-- A reason for parking ends; with the last one the cluster unparks, its L1 caches and the unlocked ways of L2 invalid
(08 R244), its pace monitor without a reading (01 R25). -/
def unpark (p : Petal) (c : Cluster) (r : Nat) (s : State) : State :=
  if (s.clus p c).parked.contains r then
    let s := s.updClus p c (fun x => { x with parked := x.parked.filter (· != r) })
    if (s.clus p c).parked.isEmpty then
      let s := (coresOf p c).foldl (fun s k => invalidateCore k s) (s.dset (pix 0x3010 p) (0x10 + c.val) 0)
      s.updClus p c (fun x => { x with l2 := x.l2.filter (fun e => wayMode s p c (e.1 / 8192) (e.1 % 16) ≠ 0) })
    else s
  else s

/-! ## DETERMINISTIC -/

/-- A transition in progress of a unit's flag, with its direction. -/
def transOf (s : State) (u : ModeUnit) (bit : Nat) : Option Bool :=
  (s.trans.find? (fun e => e.1 == modeKey u && e.2.1 == bit)).map (fun e => e.2.2)

/-- A transition begins, or ends where `dir` is none. -/
def setTrans (u : ModeUnit) (bit : Nat) (dir : Option Bool) (s : State) : State :=
  let l := s.trans.filter (fun e => !(e.1 == modeKey u && e.2.1 == bit))
  { s with trans := match dir with
      | some d => l ++ [(modeKey u, bit, d)]
      | none => l }

/-- DETERMINISTIC of a cluster follows its request: dispatch stops until the transition completes; a request that returns
cancels the transition (02 R49, R59). -/
def detSync (p : Petal) (c : Cluster) (s : State) : State :=
  let u := ModeUnit.cluster p c
  let want := bitOf (wantOf s u) 1
  let eff := bitOf (ownModes s u) 1
  let d := if want == eff then none else some want
  if transOf s u 1 = d then s else holdOn p c 1 d.isSome (setTrans u 1 d s)

/-! ## DEBUG -/

/-- A cluster leaves DEBUG: its halted threads resume, its breakpoints and watchpoints are disarmed (02 R49, 19 R507). -/
def debugExit (p : Petal) (c : Cluster) (s : State) : State :=
  let s := (clusterThreads p c).foldl (fun s t => unhaltThread t 0 s) s
  (coresOf p c).foldl (fun s k =>
    let i := 0x8100 + 0x40 * p.val + k.lc
    (List.range 6).foldl (fun s b => s.dset i (3 + b) (s.dget i (3 + b) % 2 ^ 63)) s) s

/-! ## ECO -/

/-- ECO is wanted in a petal, by its own word or the device's. -/
def ecoWant (s : State) (p : Petal) : Bool := bitOf (wantOf s (.petal p)) 2 || bitOf (wantOf s .device) 2

/-- The clusters that ECO parks in a petal: as many as the park count, from cluster 5 downward, clusters in DETERMINISTIC or
DEBUG passed over; none under MINIMAL (02 R49, R56). -/
def ecoChosen (s : State) (p : Petal) : List Cluster :=
  if ecoWant s p && !minimalOn s then
    (([5, 4, 3, 2, 1, 0] : List Cluster).filter (fun c =>
      ((wantOf s (.cluster p c) ||| ownModes s (.cluster p c)) &&& 0x22) == 0)).take (s.dget (pix 0x3000 p) 0x0A)
  else []

/-- Dispatch to the chosen clusters is held for parking; the others are held and parked for ECO no longer. -/
def ecoClusters (p : Petal) (s : State) : State :=
  let l := ecoChosen s p
  allClusters.foldl (fun s c =>
    if l.contains c then holdOn p c 2 true s else unpark p c 2 (holdOn p c 2 false s)) s

/-- Every cluster chosen in a petal is parked. -/
def ecoParked (s : State) (p : Petal) : Bool := (ecoChosen s p).all (fun c => (s.clus p c).parked.contains 2)

/-- The limit of the power cap on a rail's target (20 R518). -/
def capLimitOf (s : State) (r : Nat) : Nat := Tab.get 0x0640 s.capLimit r

/-- A rail's target but for throttling (20 R522): rails 0 to 3 are the petals', 4 is the stem's. The governor takes the ECO
target as the first entry action of ECO (02 R49). -/
def coolTarget (s : State) (r : Nat) : Nat :=
  let eco := if h : r < 4 then ecoWant s ⟨r, h⟩ else bitOf (wantOf s .device) 2
  min (min (s.dget 0x2060 1) (if eco then s.dget 0x2000 9 else 0x0640)) (capLimitOf s r)

/-- A rail's target (20 R522, 0x2060.10 to 0x2060.14). -/
def railTarget (s : State) (r : Nat) : Nat := min (coolTarget s r) s.heatLimit

/-- The entries of the monitors on a rail. -/
def railEntries (r : Nat) : List (Nat × Nat) :=
  if r < 4 then (List.range 9).map (fun i => (0x3010 + 0x400 * r, 0x10 + i)) else [(0x2010, 0x10), (0x2010, 0x11)]

/-- The readings of a list of entries, those of 0x0000 left out: such a unit has no reading (01 R25). -/
def paceReads (s : State) (l : List (Nat × Nat)) : List Nat := (l.map (fun e => s.dget e.1 e.2)).filter (· ≠ 0)

/-- The governor's ramp of a rail is done: the core supply is up (02 R60), and where the rail has readings, one of them has
found it at its target, or at the end of the voltage range (20 R522; DESIGN CHOICE, assumption 44: a rail without a reading holds
no ramp up). -/
def railSettled (s : State) (r : Nat) : Bool :=
  3 ≤ s.dget 0x2100 1 && ((paceReads s (railEntries r)).isEmpty || Tab.get 0 s.paceSet r == railTarget s r)

/-- The ramps of a unit's rails are done: a petal's own rail; every rail for the device, halted petals passed over. -/
def ramped (s : State) : ModeUnit → Bool
  | .petal p => railSettled s p.val
  | _ => railSettled s 4 && allPetals.all (fun p => petalHalted s p || railSettled s p.val)

/-- ECO of a unit is in effect once the clusters to be parked are parked and the governor has ramped to its target, and leaves
effect once the governor has ramped to the normal target (02 R49); an entry that is cancelled never shows (R59). -/
def ecoUnit (u : ModeUnit) (s : State) : State :=
  let want := bitOf (wantOf s u) 2
  let parked := match u with
    | .petal p => ecoParked s p
    | _ => allPetals.all (fun p => petalHalted s p || ecoParked s p)
  let own := bitOf (ownModes s u) 2
  let eff := if want then own || (parked && ramped s u) else own && !ramped s u
  setTrans u 2 (if want == eff then none else some want) (setOwnBit u 2 eff s)

/-- ECO follows its requests. -/
def ecoSync (s : State) : State :=
  let s := allPetals.foldl (fun s p => ecoClusters p s) s
  ecoUnit .device (allPetals.foldl (fun s p => ecoUnit (.petal p) s) s)

/-! ## DRAIN -/

/-- The index of a drain status. -/
def drainIdx : DrainUnit → Nat
  | .device => 0x2000
  | .petal p => pix 0x3000 p

/-- DRAIN is wanted of a unit: of a petal by its own word or the device's, and for as long as a device drain that has begun
has not completed (02 R53, R59). -/
def drainWant (s : State) : DrainUnit → Bool
  | .device => bitOf (wantOf s .device) 7
  | .petal p => bitOf (wantOf s (.petal p)) 7 || bitOf (wantOf s .device) 7 || s.dget 0x2000 7 == 1 || s.dget 0x2000 7 == 3

/-- A petal's drain begins: ingress closes, halted threads resume (02 R53, R56). -/
def drainEnter (p : Petal) (s : State) : State :=
  let s := s.dset (pix 0x3000 p) 7 1
  let s := allClusters.foldl (fun s c => (clusterThreads p c).foldl (fun s t => unhaltThread t 7 s) s) s
  refreshPause p s

/-- A petal's drain follows what is wanted: a drain that has begun completes before it ends (02 R59). The petal's own flag is
in effect only for the petal's own request; the device's flag shows in every petal (R46). -/
def drainPetal (p : Petal) (s : State) : State :=
  let st := s.dget (pix 0x3000 p) 7
  let want := drainWant s (.petal p)
  let s := if want && st = 0 then drainEnter p s
    else if !want && st = 2 then refreshPause p (s.dset (pix 0x3000 p) 7 0) else s
  setOwnBit (.petal p) 7 (s.dget (pix 0x3000 p) 7 == 2 && bitOf (wantOf s (.petal p)) 7) s

/-- The device's drain, and the petals' with it. -/
def drainSync (s : State) : State :=
  let st := s.dget 0x2000 7
  let want := drainWant s .device
  let s := if want && st = 0 then s.dset 0x2000 7 1 else if !want && st = 2 then s.dset 0x2000 7 0 else s
  let s := setOwnBit .device 7 (s.dget 0x2000 7 == 2) s
  allPetals.foldl (fun s p => drainPetal p s) s

/-- The tasks left in a petal and the bytes in its queues. -/
def drainLeft (s : State) (p : Petal) : Nat × Nat :=
  (entriesUsed (s.pet p), (((s.pet p).queues.map (fun q => (q.2.pk.map (fun k => k.pkt.len)).sum)).sum))

/-- The four parts of a petal's drain are done (02 R53), and no swap runs in it (R56). -/
def petalDrained (s : State) (p : Petal) : Bool :=
  let r := s.pet p
  r.rx.isEmpty && r.form.isEmpty && r.tasks.isEmpty && r.copies.isEmpty && r.queues.all (fun q => q.2.pk.isEmpty) && r.spill.isNone &&
    allClusters.all (fun c => (coresOf p c).all (fun k => (s.core k).merge.isEmpty)) && !petalSwaps s p

/-- A unit's drain has run its timeout: status 3 and event 0x028 (02 R53). -/
def drainLate (u : DrainUnit) (s : State) : State :=
  if s.dget (drainIdx u) 7 = 1 then
    let (n, b, k) := match u with
      | .petal p => ((drainLeft s p).1, (drainLeft s p).2, p.val)
      | .device => ((allPetals.map (fun p => (drainLeft s p).1)).sum, (allPetals.map (fun p => (drainLeft s p).2)).sum, 4)
    raiseD 0x028 (k * 2 ^ 16 + min n 0xFFFF) none (leBytes 4 n ++ [0, 0, 0, 0] ++ leBytes 8 b) (s.dset (drainIdx u) 7 3)
  else s

/-! ## All modes together -/

/-- The flags that need no step of other units follow their request: AUTONOMOUS, WITNESS, WITNESS_STRICT, DEBUG (02 R49). -/
def promptSync (u : ModeUnit) (s : State) : State :=
  let want := wantOf s u
  let m := ownModes s u
  let s := match u with
    | .cluster p c => if bitOf m 5 && !bitOf want 5 then debugExit p c s else s
    | _ => s
  [0, 3, 5, 8].foldl (fun s b => setOwnBit u b (bitOf want b) s) s

/-- Every mode follows its requests and causes as far as it can at once, and the words show it, with the units that are exempt
from R45. -/
def syncModes (ex : ModeUnit → Bool) (s : State) : State :=
  let s := allUnits.foldl (fun s u => promptSync u s) s
  let s := allPetals.foldl (fun s p => allClusters.foldl (fun s c => detSync p c s) s) s
  showModes ex (drainSync (ecoSync s))

/-- A forcing cause of R48 begins or ends. -/
def setCause (bit : Nat) (on : Bool) (s : State) : State :=
  syncModes byHardware (s.dset 0x2000 6 (withBit (s.dget 0x2000 6) bit on))

/-- Debug unlock has ended: DEBUG is cleared in the requested word of every cluster, which advances its generation (02 R45, R54). -/
def clearDebugRequests (s : State) : State :=
  let ex := asked s 5
  let s := allPetals.foldl (fun s p => allClusters.foldl (fun s c =>
    let i := modeIdx (.cluster p c)
    if bitOf (s.dget i 1) 5 then bumpGen i 1 (s.dset i 1 (withBit (s.dget i 1) 5 false)) else s) s) s
  syncModes ex s

/-- A write of a mode word (02 R43, R44, R54). -/
def effMode (u : ModeUnit) (data : List Byte) (s : State) : Except Abort State :=
  let v := leNat data % 512
  if v &&& ownBits u ≠ v || (bitOf v 8 && !bitOf v 3) then .error 0x06090030
  else if (match u with | .cluster _ _ => bitOf v 5 && !unlocked s | _ => false) then .error 0x08000020
  else .ok (syncModes (· == u) (bumpGen (modeIdx u) 1 (s.dset (modeIdx u) 1 v)))

/-- Event 0x029 of a refused DEBUG request (02 R54). -/
def modeRefused (w : Writer) (idx : Nat) (s : State) : State :=
  raiseD 0x029 (idx % 2 ^ 16) none (leBytes 2 idx ++ leBytes 2 w.mid) s

/-- A write of one flag of a mode word: the other flags keep their requested values. -/
def modeWrite (w : Writer) (u : ModeUnit) (gen : BitVec 16) (bit : Nat) (on : Bool) (s : State) : State :=
  let i := modeIdx u
  let data := leBytes 4 (withBit (s.dget i 1) bit on)
  if windowShut s w then windowRefused w i 1 s
  else match dictDo w i 1 0 data (some gen.toNat) (effMode u data) s with
  | .ok s' => s'
  | .error (c, un) =>
    let s := if c = 0x08000020 then modeRefused w i s else s
    refuseWrite w i 1 c un (writerPc w s) s

/-! ## The commands -/

def execModeAutonomousWrite (w : Writer) (u : ModeUnit) (gen : BitVec 16) (on : Bool) (s : State) : Out :=
  .next (modeWrite w u gen 0 on s)

def execModeDeterministicWrite (w : Writer) (u : ModeUnit) (gen : BitVec 16) (on : Bool) (s : State) : Out :=
  .next (modeWrite w u gen 1 on s)

def execModeEcoWrite (w : Writer) (u : ModeUnit) (gen : BitVec 16) (on : Bool) (s : State) : Out :=
  .next (modeWrite w u gen 2 on s)

def execModeWitnessWrite (w : Writer) (u : ModeUnit) (gen : BitVec 16) (on : Bool) (s : State) : Out :=
  .next (modeWrite w u gen 3 on s)

def execModeWitnessStrictWrite (w : Writer) (u : ModeUnit) (gen : BitVec 16) (on : Bool) (s : State) : Out :=
  .next (modeWrite w u gen 8 on s)

def execModeMinimalWrite (w : Writer) (u : ModeUnit) (gen : BitVec 16) (on : Bool) (s : State) : Out :=
  .next (modeWrite w u gen 4 on s)

def execModeDebugWrite (w : Writer) (u : ModeUnit) (gen : BitVec 16) (on : Bool) (s : State) : Out :=
  .next (modeWrite w u gen 5 on s)

def execModeDrainWrite (w : Writer) (u : ModeUnit) (gen : BitVec 16) (on : Bool) (s : State) : Out :=
  .next (modeWrite w u gen 7 on s)

/-- The transition of DETERMINISTIC completes once the cluster holds no task (02 R49): on entry L1 is cleaned and invalidated
and the step counter starts at 0 (07 R215); dispatch resumes. -/
def execDeterministicEntryComplete (p : Petal) (c : Cluster) (s : State) : Out :=
  let u := ModeUnit.cluster p c
  match transOf s u 1 with
  | none => .next s
  | some entry =>
    if clusterQuiet s p c then
      let s := if entry then
          let s := (coresOf p c).foldl (fun s k => (invalidateCore k (cleanCore k s)).updCore k (fun x => { x with pred := [] })) s
          (clusterThreads p c).foldl (fun s t => s.updThr (.thr t) (fun x => { x with due := 0, rstack := [] })) (s.dset (pipeIdx p c) 0x0A 0)
        else s
      .next (showModes (· == u) (setOwnBit u 1 entry (holdOn p c 1 false (setTrans u 1 none s))))
    else .next s

/-- A cluster chosen for parking, by ECO or under the power cap, is parked once every task that it held has released and
nothing blocks it (02 R49, 20 R518). -/
def execClusterParked (p : Petal) (c : Cluster) (s : State) : Out :=
  let rs := (s.clus p c).hold.filter (fun r => (r == 2 || r == 3) && !(s.clus p c).parked.contains r)
  if rs.isEmpty || petalHalted s p || !clusterReleased s p c || parkBlocked s p c then .next s
  else .next (showModes (asked s 2) (ecoSync (doPark p c rs s)))

/-- A unit's drain has completed (02 R53). -/
def execDrainComplete (u : DrainUnit) (s : State) : Out :=
  let st := s.dget (drainIdx u) 7
  let done := match u with
    | .petal p => petalDrained s p
    | .device => allPetals.all (fun p => s.dget (pix 0x3000 p) 7 == 2) && s.swaps.isEmpty
  if (st = 1 || st = 3) && done && s.dget 0x2100 1 == 7 then .next (syncModes (asked s 7) (s.dset (drainIdx u) 7 2)) else .next s

/-- A drain timeout expires (02 R53): the device's names every petal that still drains before the device. -/
def execDrainTimeout (u : DrainUnit) (s : State) : Out :=
  match u with
  | .petal p => .next (drainLate (.petal p) s)
  | .device =>
    if s.dget 0x2000 7 = 1 then
      .next (drainLate .device (allPetals.foldl (fun s p => drainLate (.petal p) s) s))
    else .next s

/-- A link of host controller `h` is up. -/
def hostUp (s : State) (h : Nat) : Bool := s.dget (0x4400 + 0x40 * h) 4 ≠ 0 || s.dget (0x4400 + 0x40 * h) 6 ≠ 0

/-- Both host links have been down for the auto-entry time: cause [1] (02 R48). -/
def execHostLinksDownExpiry (s : State) : Out :=
  if s.dget 0x2000 0x0B ≠ 0 && !hostUp s 0 && !hostUp s 1 then .next (setCause 1 true s) else .next s

/-- A host link has been up for the auto-entry time: cause [1] ends (02 R48). -/
def execHostLinkUpExpiry (s : State) : Out :=
  if hostUp s 0 || hostUp s 1 then .next (setCause 1 false s) else .next s

/-- A write of the auto-entry time: 0 disables cause [1] (02, its dictionary table; DEDUCED, assumption 18). -/
def effAutoEntry (data : List Byte) (s : State) : Except Abort State :=
  let s := plainScalar 0x2000 0x0B data s
  .ok (if leNat data = 0 then setCause 1 false s else s)

/-- A halted thread has held a swap of its DETERMINISTIC core for 1 ms (02 R57): event 0x02A names the thread by its master ID. -/
def execSwapHaltWaitExpiry (t : ThreadId) (s : State) : Out :=
  let held := s.swaps.any (fun w => bitsOf w.unit 31 28 == 1 && unitPetal w.unit == some t.p &&
    bitsOf w.unit 25 23 == t.c.val && bitsOf w.unit 15 0 == t.lc % 8) ||
    s.sorrel.any (fun w => bitsOf w.1 31 28 == 1 && unitPetal w.1 == some t.p &&
      bitsOf w.1 25 23 == t.c.val && bitsOf w.1 15 0 == t.lc % 8)
  if held && detOn s t.p t.c && (s.thr (.thr t)).st == .halted then .next (raise 0x02A t.mid none s) else .next s

/-! ## State mismatch (16 R427, 02 R538) -/

/-- The mode unit whose words an index holds, if it holds any. -/
def unitOfIdx (idx : Nat) : Option ModeUnit := allUnits.find? (fun u => modeIdx u == idx)

/-- The flags of a mode word that count as different (02 R538). -/
def modeDiff (s : State) (u : ModeUnit) : Nat :=
  let i := modeIdx u
  let req := s.dget i 1
  let act := s.dget i 2
  let skip := heldWord s u ||| forcedWord s u ||| 0x50
  let ageOff := match u with
    | .device => allPetals.any (fun p => s.dget (pix 0x3200 p) 4 == 0)
    | .petal p => s.dget (pix 0x3200 p) 4 == 0
    | .cluster p _ => s.dget (pix 0x3200 p) 4 == 0
  (([0, 1, 2, 3, 5, 7, 8].filter (fun b =>
    bitOf req b != bitOf act b && !bitOf skip b && bitOf (ownBits u) b &&
      !(bitOf act b && !bitOf (ownModes s u) b) && !((b == 1 || b == 2) && ageOff) && !(b == 7 && bitOf req 7))).map
        (fun b => 2 ^ b)).sum

/-- A difference of requested and actual state has outlasted its settle time (16 R427): reported once per requested value. -/
def execStateMismatchExpiry (idx : BitVec 16) (s : State) : Out :=
  let i := idx.toNat
  let req := s.dget i 1
  let act := s.dget i 2
  let differs := match unitOfIdx i with
    | some u => modeDiff s u ≠ 0
    | none => (genEntry i 1).isSome && i ≠ 0x4800 && req ≠ act
  if differs && Tab.get 0 s.mism i ≠ req + 1 then
    let s := { s with mism := Tab.put s.mism i (req + 1) }
    let s := s.domWrite 0x1E50 1 0 (leBytes 2 i ++ [1, 0] ++ leBytes 2 (s.dget i 3) ++ [0, 0] ++ leBytes 8 req ++ leBytes 8 act)
    .next (raise 0x130 i none (s.bump 0x1E50 2))
  else .next s

end Sys2Proof.Machine
end

