-- ==== Sys2Proof/Machine/ThreadCmds.lean ====
section
/-!
DEFINITION. Machine/ThreadCmds.lean: thread reset and thread commands (06 R166, R189; 09 R248, R249), share words (09 R251),
channel bindings, commands and posts (09 R253 to R261), and the wait census (09 R262 to R266).
-/
namespace Sys2Proof.Machine

/-! ## Reset of a thread (06 R166, R189) -/

/-- A task slot of a thread. -/
def State.slot (s : State) (t : ThreadId) : Slot := Tab.get Slot.reset s.slots t.mid

/-- The state with a thread's task slots changed. -/
def State.updSlot (s : State) (t : ThreadId) (f : Slot → Slot) : State :=
  { s with slots := Tab.put s.slots t.mid (f (s.slot t)) }

/-- The task in a thread's prefetch slot returns to the ready pool with its original age (05 R159, 06 R189). -/
def returnPrefetch (t : ThreadId) (s : State) : State :=
  match (s.slot t).next with
  | none => s
  | some id =>
    updTask t.p id (fun x => { x with thr := none, pref := false }) (s.updSlot t (fun x => { x with next := none, nextBytes := [] }))

/-- A thread's current task ends as a drop at its own release position (06 R189). -/
def dropCurrent (t : ThreadId) (s : State) : State :=
  match (s.slot t).cur with
  | none => s
  | some id =>
    let s := if (s.slot t).gone then s else updTask t.p id (fun x => { x with ended := true, strictDrop := true }) s
    s.updSlot t (fun x => { Slot.reset with next := x.next, nextBytes := x.nextBytes })

/-- A thread's staging is discarded and its holds are released (06 R189, 09 R270). -/
def dropStaging (t : ThreadId) (s : State) : State :=
  let s := s.updThr (.thr t) (fun x => { x with staged := [], stagedEnd := [] })
  (holds s t).foldl (fun s ch => releaseHold t.p ch s) s

/-- A thread's registers, buffers and waits after `THRST` (06 R166, R189; 07 R219; 09 R270; 10 R289): system registers
marked RO keep their values but for VALID of TCAUSE; pending notifications stay (09 R248). -/
def Thread.cleared (x : Thread) (st : TState) (entry : Addr) (bank : Nat) : Thread :=
  { Thread.reset with
    pc := entry, st := st, bank := bank, ecause := x.ecause, einst := x.einst, steps := x.steps, evsyn := x.evsyn,
    tcause := x.tcause &&& BitVec.ofNat 64 (2 ^ 63 - 1), tpc := x.tpc, tfpc := x.tfpc, evq := x.evq, inh := x.inh,
    waits := x.waits }

/-- The state that a thread takes up after a reset: running where its cluster has been started (06 R166, 09 R246); one
stopped for sparing stays so. -/
def startState (s : State) (t : ThreadId) : TState :=
  if (s.thr (.thr t)).st == .sparing then .sparing else if (s.clus t.p t.c).started then .running else .notStarted

/-- The generations that a thread's outstanding lookups hold are let go: their results will be discarded (10 R289; 04 R94). -/
def dropTops (t : ThreadId) (s : State) : State :=
  (s.thr (.thr t)).tops.foldl (fun s o => match o.gen with
    | some g => s.updPet t.p (fun r => { r with lookGens := r.lookGens.erase g })
    | none => s) s

/-- A thread's own part of a reset, its locks apart. -/
def clearThread (t : ThreadId) (s : State) : State :=
  let s := dropTops t (endWait t s)
  let s := squash t (s.thr (.thr t)).pc s
  let s := s.setPipe t.core ((s.pipe t.core).drop t.t.val)
  let s := dropStaging t (dropCurrent t (returnPrefetch t s))
  s.updThr (.thr t) (fun x => x.cleared (startState s t) (s.clus t.p t.c).entry (s.dget (pix 0x3381 t.p) 2))

/-- `THRST` of a thread, or thread command 4 (06 R189, 11 R300). -/
def resetThread (t : ThreadId) (s : State) : State := holderReset t.mid (clearThread t s)

/-! ## Thread commands (09 R248) -/

/-- A write of the thread command of a core; its reserved bits are ignored (R8). -/
def effThreadCmd (k : CoreId) (data : List Byte) (s : State) : Except Abort State :=
  let v := leNat data
  let op := bitsOf v 63 60
  let t := k.thread ⟨bitsOf v 58 56 % 8, Nat.mod_lt _ (by decide)⟩
  let addr : Addr := BitVec.ofNat 48 v
  if op = 0 || 4 < op || (op ≠ 2 && bitsOf v 47 0 ≠ 0) then .error 0x06090030
  else .ok (match op with
    | 1 => resumeThread t none s
    | 2 => resumeThread t (some addr) s
    | 3 => parkThread t s
    | _ => resetThread t s)

/-- A thread command as a command of its own. -/
def threadCmd (w : Writer) (t : ThreadId) (op : Nat) (addr : Nat) (s : State) : State :=
  let data := leBytes 8 (op * 2 ^ 60 + t.t.val * 2 ^ 56 + addr % 2 ^ 48)
  dictCmd w (coreIdx t.p t.lc) 0x0B 0 data none (effThreadCmd t.core data) s

def execThreadCommandResume (w : Writer) (t : ThreadId) (s : State) : Out := .next (threadCmd w t 1 0 s)

def execThreadCommandResumeAt (w : Writer) (t : ThreadId) (addr : BitVec 48) (s : State) : Out :=
  .next (threadCmd w t 2 addr.toNat s)

def execThreadCommandPark (w : Writer) (t : ThreadId) (s : State) : Out := .next (threadCmd w t 3 0 s)

def execThreadCommandReset (w : Writer) (t : ThreadId) (s : State) : Out := .next (threadCmd w t 4 0 s)

/-! ## Share words (09 R251) -/

/-- Floor and ceiling of a share word's resource: 0 packet-buffer units, 1 side-buffer lines, 2 merging-buffer entries. -/
def shareOf (v res : Nat) : Nat × Nat :=
  match res with
  | 0 => (bitsOf v 47 32, bitsOf v 63 48)
  | 1 => (bitsOf v 26 22, bitsOf v 31 27)
  | _ => (bitsOf v 17 14, bitsOf v 21 18)

/-- Whether a core's floors of a resource fit their total (09 R250). -/
def floorsFit (s : State) (k : CoreId) : Bool :=
  let i := coreIdx k.p k.lc
  let sum := fun (res : Nat) => ((List.range 8).map (fun t => (shareOf (s.dget i (t + 1)) res).1)).sum
  sum 0 ≤ s.dget i 9 && sum 1 ≤ 16 && sum 2 ≤ 8

/-- A write of a share word (subs 0x01 to 0x08) or of the core buffer budget (sub 0x09). -/
def effShare (k : CoreId) (sub : Nat) (data : List Byte) (s : State) : Except Abort State :=
  let v := leNat data
  let s' := plainScalar (coreIdx k.p k.lc) sub data s
  let bad :=
    if sub = 9 then
      65536 < ((List.range 48).map (fun l => s'.dget (coreIdx k.p l) 9)).sum
    else [0, 1, 2].any (fun r => (shareOf v r).2 < (shareOf v r).1) || 16 < (shareOf v 1).2 || 16 < (shareOf v 1).1 ||
      8 < (shareOf v 2).2 || 8 < (shareOf v 2).1
  if bad || !floorsFit s' k then .error 0x06090030 else .ok s'

def execShareWordWrite (w : Writer) (k : CoreId) (sub : Fin 9) (v : BitVec 64) (s : State) : Out :=
  let n := sub.val + 1
  let data := leBytes (if n = 9 then 2 else 8) v.toNat
  .next (dictCmd w (coreIdx k.p k.lc) n 0 data none (effShare k n data) s)

/-! ## Channels -/

/-- Whether a binding record holds a reserved value (09 R253). -/
def bindReserved (p : Petal) (r : List Byte) : Bool :=
  let flags := leNat ((r.drop 10).take 1)
  let mid := fun (j : Nat) => leNat ((r.drop (2 * j)).take 2)
  let own := fun (m : Nat) => match threadOf m with
    | some t => t.p == p
    | none => false
  let slots := (List.range 4).filter (fun i => bitOf flags (1 + i))
  let senders := slots.map (fun i => mid (i + 1))
  let named := (if bitOf flags 0 then [mid 0] else []) ++ (if bitOf flags 0 then senders else [])
  flags / 64 ≠ 0 || (r.drop 11).any (· ≠ 0) || !named.all own || senders.eraseDups.length ≠ senders.length

/-- A write of the binding table (09 R253, R254): wholly or not at all. -/
def effBinding (p : Petal) (off : Nat) (data : List Byte) (s : State) : Except Abort State :=
  let i := pix 0x3341 p
  let recs := (List.range (data.length / 16)).map (fun j => (off / 16 + j, (data.drop (16 * j)).take 16))
  if recs.any (fun r => bindReserved p r.2) then .error 0x06090030
  else if recs.any (fun r => s.domRead i 0 (16 * r.1) 16 ≠ r.2 && !chanIdle s p r.1) then .error 0x08000022
  else .ok (plainDomain i 0 off data s)

def execChannelBindingWrite (w : Writer) (p : Petal) (off : Nat) (data : List Byte) (s : State) : Out :=
  .next (dictCmd w (pix 0x3341 p) 0 off data none (effBinding p off data) s)

/-- The mask of the slots of a channel's waiting senders (09 R259). -/
def waitMask (s : State) (p : Petal) (ch : Nat) : Nat :=
  (((s.chan p ch).waiting.filterMap (fun m => senderSlot s p ch m)).map (fun i => 2 ^ i)).sum

/-- A halted or parked thread has held a channel for the hold time (09 R259): reported once per hold. -/
def execChannelHoldExpiry (p : Petal) (ch : BitVec 12) (s : State) : Out :=
  let n := ch.toNat
  let c := s.chan p n
  match c.holder.bind threadOf with
  | none => .next s
  | some t =>
    let st := (s.thr (.thr t)).st
    if !c.raised && (st.parked || st == .halted) then
      let syn := n + t.t.val * 2 ^ 12 + (waitMask s p n % 16) * 2 ^ 15
      let s := s.updChan p n (fun c => { c with raised := true })
      let s := (s.bump (pix 0x3340 p) 5).dset (pix 0x3340 p) 0x0A (n + t.mid * 2 ^ 16 + waitMask s p n * 2 ^ 32)
      .next (deliver (.thr t.sup) (0x048 + p.val) syn (raise (0x048 + p.val) syn (some p) s))
    else .next s

/-- A channel command (09 R260). -/
def effChannelCmd (p : Petal) (data : List Byte) (s : State) : Except Abort State :=
  let v := leNat data
  let op := bitsOf v 63 60
  let m := bitsOf v 47 32
  let ch := bitsOf v 11 0
  if (op ≠ 1 && op ≠ 2) || (op = 2 && m ≠ 0) then .error 0x06090030
  else if op = 1 then
    match threadOf m with
    | none => .error 0x08000022
    | some t =>
      let x := s.thr (.thr t)
      if t.p = p && (x.st.parked || x.st == .halted) && (x.stagedEnd.contains ch || !(stagedFor x ch).isEmpty) then
        let s := discardStaging p ch m s
        let s := s.updThr (.thr t) (fun y => { y with discard := y.discard.filter (· != ch) ++ [ch] })
        .ok (s.bump (pix 0x3340 p) 6)
      else .error 0x08000022
  else .ok (slotFreed p ch (s.updChan p ch (fun c => { c with fifo := [], times := [] })))

def execChannelDiscardStaging (w : Writer) (p : Petal) (m : BitVec 16) (ch : BitVec 12) (s : State) : Out :=
  let data := leBytes 8 (2 ^ 60 + m.toNat * 2 ^ 32 + ch.toNat)
  .next (dictCmd w (pix 0x3342 p) 1 0 data none (effChannelCmd p data) s)

def execChannelFlushFifo (w : Writer) (p : Petal) (ch : BitVec 12) (s : State) : Out :=
  let data := leBytes 8 (2 * 2 ^ 60 + ch.toNat)
  .next (dictCmd w (pix 0x3342 p) 1 0 data none (effChannelCmd p data) s)

/-- The 64-bit words of a byte list. -/
def words64 : List Byte → List Word
  | b0 :: b1 :: b2 :: b3 :: b4 :: b5 :: b6 :: b7 :: l =>
    BitVec.ofNat 64 (leNat [b0, b1, b2, b3, b4, b5, b6, b7]) :: words64 l
  | _ => []

/-- A post of Golne firmware (09 R261). -/
def effPost (p : Petal) (data : List Byte) (s : State) : Except Abort State :=
  let hdr := leNat (data.take 8)
  let ws := words64 (data.drop 8)
  let n := bitsOf hdr 19 16
  let ch := bitsOf hdr 11 0
  if bitsOf hdr 15 12 ≠ 0 || bitsOf hdr 63 20 ≠ 0 || n = 0 || 8 < n || data.length ≠ 8 + 8 * n then .error 0x06090030
  else if !chanExt s p ch then .error 0x06010000
  else if 4 ≤ (s.chan p ch).fifo.length then .error 0x08000024
  else .ok (wakeRecv p ch (s.updChan p ch (fun c =>
    { c with fifo := c.fifo ++ [ws.map (fun w => ⟨w, false⟩)], times := c.times ++ [s.time] })))

def execChannelPost (w : Writer) (p : Petal) (hdr : BitVec 64) (words : List (BitVec 64)) (s : State) : Out :=
  let data := leBytes 8 hdr.toNat ++ words.flatMap (fun x => leBytes 8 x.toNat)
  .next (dictCmd w (pix 0x3342 p) 2 0 data none (effPost p data) s)

/-! ## The wait census -/

/-- The participating threads of a core (09 R263). -/
def takesPart (s : State) (k : CoreId) : List ThreadId :=
  (threadsOf k).filter (fun t => bitOf (s.dget (coreIdx k.p k.lc) 0x0A) t.t.val)

/-- A wait group: its number and its participating threads in order of master ID (09 R263). -/
def waitGroup (s : State) (p : Petal) (c : Cluster) : Nat × List ThreadId :=
  if s.dget 0x2040 1 = 1 then (7, (allClusters.flatMap (coresOf p)).flatMap (takesPart s))
  else (c.val, (coresOf p c).flatMap (takesPart s))

/-- Whether a thread's channel wait meets the conditions of a wait cycle in a group (09 R264). -/
def stuck (s : State) (p : Petal) (g : List ThreadId) (t : ThreadId) : Bool :=
  let x := s.thr (.thr t)
  let inGroup := fun (m : Nat) => g.any (fun u => u.mid == m)
  match x.st, x.wait with
  | .recvWait, .recv _ ch =>
    (s.chan p ch).fifo.isEmpty && !(s.threads.any (fun e => e.1 / 1024 == p.val && e.1 < 4096 && e.2.stagedEnd.contains ch)) &&
      !chanExt s p ch && (chanSenders s p ch).all (fun e => inGroup e.2)
  | .sendWait, .sendWord ch _ => (match (s.chan p ch).holder with | some m => inGroup m | none => false)
  | .sendWait, .sendEnd ch =>
    x.stagedEnd.contains ch && 4 ≤ (s.chan p ch).fifo.length &&
      (match chanRecv s p ch with | some m => inGroup m | none => false)
  | _, _ => false

/-- The channel on which a thread waits. -/
def waitChan (x : Thread) : Nat :=
  match x.wait with
  | .recv _ ch => ch
  | .sendWord ch _ => ch
  | .sendEnd ch => ch
  | _ => 0

/-- What a declaration does to a participating thread 0 of the group (09 R265): a receive wait returns CYCLE, a send wait
parks with CHAN. -/
def cycleSup (t : ThreadId) (s : State) : State :=
  let x := s.thr (.thr t)
  match x.st, x.wait with
  | .recvWait, .recv rd _ => waitDone (.thr t) (s.setD (.thr t) rd 0x10)
  | .sendWait, _ => faultThread t 9 (waitChan x) x.pc x.pc (endWait t s)
  | _, _ => s

/-- An evaluation of the census (09 R264 to R266). -/
def execWaitCensusEvaluation (p : Petal) (c : Cluster) (s : State) : Out :=
  if petalHalted s p then .next s
  else
  let (g, ts) := waitGroup s p c
  let key := 8 * p.val + g
  let stamp := 1 + (ts.map (fun t => (s.thr (.thr t)).waits)).sum
  match ts with
  | [] => .next s
  | first :: _ =>
    if Tab.get 0 s.census key = stamp || !ts.all (stuck s p ts) then .next s
    else
      let n := ts.length
      let syn := p.val * 2 ^ 17 + g * 2 ^ 14 + n % 512
      let s := { s with census := Tab.put s.census key stamp }
      let s := (s.bump (pix 0x3340 p) 3).dset (pix 0x3340 p) 9
        (first.mid * 2 ^ 32 + waitChan (s.thr (.thr first)) * 2 ^ 16 + g * 2 ^ 12 + n % 512)
      let s := raise 0x04D syn (some p) s
      let sups := (ts.map ThreadId.sup).eraseDups
      let s := sups.foldl (fun s t => deliver (.thr t) 0x04D syn s) s
      .next ((ts.filter (fun t => t.t.val == 0)).foldl (fun s t => cycleSup t s) s)

/-- A write that changes a participation mask ends the suppression of the groups that the core's threads may be in: its cluster's
and the petal-wide one (09 R266). -/
def effPart (p : Petal) (idx : Nat) (data : List Byte) (s : State) : Except Abort State :=
  let u := plainScalar idx 0x0A data s
  let mine := fun (k : Nat) => k == 8 * p.val + (idx - coreIdx p 0) / 8 || k == 8 * p.val + 7
  .ok (if u.dget idx 0x0A = s.dget idx 0x0A then u else { u with census := u.census.filter (fun e => !mine e.1) })

/-- A write that changes the wait group scope ends every suppression (09 R266). -/
def effScope (data : List Byte) (s : State) : Except Abort State :=
  let u := plainScalar 0x2040 1 data s
  .ok (if u.dget 0x2040 1 = s.dget 0x2040 1 then u else { u with census := [] })

def execParticipationMaskWrite (w : Writer) (x : CensusWrite) (s : State) : Out :=
  match x with
  | .mask p lc v =>
    let i := coreIdx p lc.val
    .next (dictCmd w i 0x0A 0 (leBytes 1 v.toNat) none (effPart p i (leBytes 1 v.toNat)) s)
  | .scope v => .next (dictCmd w 0x2040 1 0 (leBytes 1 v.toNat) none (effScope (leBytes 1 v.toNat)) s)

end Sys2Proof.Machine
end

