-- ==== Sys2Proof/Machine/Sparing.lean ====
section
/-!
DEFINITION. Machine/Sparing.lean: Sorrel (18 R483 to R489): unit IDs, the spare map, triggers, and the swaps of every kind with
what the owning chapters say of them (07 R201, R219; 04 R125; 15 R413 to R415; 13 R361; 09 R268).
-/
namespace Sys2Proof.Machine

/-! ## Unit IDs and the spare map -/

/-- The kind of a unit ID (18 R483). -/
def unitKind (u : Nat) : Nat := bitsOf u 31 28

/-- The petal field of a unit ID. -/
def unitPet (u : Nat) : Petal := ⟨bitsOf u 27 26 % 4, Nat.mod_lt _ (by decide)⟩

/-- The cluster field of a unit ID. -/
def unitClu (u : Nat) : Cluster := ⟨bitsOf u 25 23 % 6, Nat.mod_lt _ (by decide)⟩

/-- The core that a unit ID of kind 1 names. -/
def unitCore (u : Nat) : CoreId := ⟨unitPet u, unitClu u, ⟨bitsOf u 15 0 % 8, Nat.mod_lt _ (by decide)⟩⟩

/-- The unit ID of a core (18 R483). -/
def coreUnit (k : CoreId) : Nat := 2 ^ 28 + k.p.val * 2 ^ 26 + k.c.val * 2 ^ 23 + k.k.val

/-- Whether a number is a unit ID (18 R483). -/
def validUnit (u : Nat) : Bool :=
  let p := bitsOf u 27 26
  let c := bitsOf u 25 23
  let sub := bitsOf u 22 16
  let i := bitsOf u 15 0
  u < 2 ^ 32 && match unitKind u with
  | 1 => c < 6 && sub == 0 && i < 8
  | 2 => c < 6 && sub == 0 && i < 8
  | 3 => c == 0 && sub < 12 && i < 8
  | 4 => p == 0 && c == 0 && sub == 0 && i < 32
  | 5 => p == 0 && c == 0 && sub == 0 && i < 16
  | 6 => p == 0 && c == 0 && sub == 0 && i < 12
  | 7 => p == 0 && c == 0 && sub < 13 && i < 16
  | 8 => c < 6 && sub < 6
  | _ => false

/-- The first place and the size of a unit's pool in the spare map, kinds 1 to 7 (18 R486). -/
def sparePool (u : Nat) : Nat × Nat :=
  let pc := 6 * (unitPet u).val + (unitClu u).val
  match unitKind u with
  | 1 => (9 * pc, 9)
  | 2 => (216 + 9 * pc, 9)
  | 3 => (432 + 9 * (12 * (unitPet u).val + bitsOf u 22 16), 9)
  | 4 => (864 + 9 * (bitsOf u 15 0 / 8), 9)
  | 5 => (900, 18)
  | 6 => (918, 14)
  | 7 => (932 + 17 * bitsOf u 22 16, 17)
  | _ => (0, 0)

/-- The places of a unit's pool. -/
def poolList (u : Nat) : List Nat := (List.range (sparePool u).2).map (fun i => (sparePool u).1 + i)

/-- The unit ID that a physical unit serves, and its state: 0 in service, 1 free spare, 2 swapping, 3 retired (0x2303.00). -/
def mapState (s : State) (r : Nat) : Nat × Nat := (s.domNat 0x2303 0 (8 * r) 4, s.domNat 0x2303 0 (8 * r + 4) 1)

/-- The physical index of a place of the spare map. -/
def physOf (r : Nat) : Nat := (mapUnit r).2

/-- The physical unit that serves a unit ID. -/
def servedBy (s : State) (u : Nat) : Option Nat :=
  (poolList u).find? (fun r => (mapState s r).1 == u && ((mapState s r).2 == 0 || (mapState s r).2 == 2))

/-- A free spare of a unit's pool. -/
def freeSpare (s : State) (u : Nat) : Option Nat := (poolList u).find? (fun r => (mapState s r).2 == 1)

/-- A record of the spare map written; the phase table (20) and the entries that show free spares (13, 15) follow. -/
def setMap (r unit st : Nat) (s : State) : State :=
  let s := s.domWrite 0x2303 0 (8 * r) (leBytes 4 unit ++ leBytes 1 st)
  if 864 ≤ r && r < 900 then
    let g := (r - 864) / 9
    s.dset (grpIdx g) 0x0B (b2n ((List.range 9).any (fun i => (mapState s (864 + 9 * g + i)).2 == 1)))
  else if 900 ≤ r && r < 918 then
    s.dset 0x4C00 4 ((List.range 18).filter (fun i => (mapState s (900 + i)).2 == 1)).length
  else if 918 ≤ r && r < 932 then
    s.domWrite 0x2063 0 (8 * (r - 918)) (leBytes 1 (if unit = 0 then 0xFF else unit % 2 ^ 16) ++ leBytes 1 st)
  else s

/-- Whether a unit is retired: no physical unit serves it (18 R486). -/
def unitRetired (s : State) (u : Nat) : Bool := unitKind u ≠ 8 && (servedBy s u).isNone

/-! ## Triggers -/

/-- The priority of a trigger, the first lowest (18 R486). -/
def trigPrio (t : Nat) : Nat := if t = 0 then 0 else if t = 1 then 1 else if t = 3 then 3 else 2

/-- A trigger enters Sorrel's queue: it merges with an earlier one of its unit, which takes the higher priority of the two
(DEDUCED, assumption 18), and is ignored for a retired unit (18 R486). -/
def trigger (u t : Nat) (s : State) : State :=
  if unitRetired s u || s.swaps.any (fun w => w.unit == u) then s
  else if s.sorrel.any (fun e => e.1 == u) then
    { s with sorrel := s.sorrel.map (fun e => if e.1 == u && trigPrio t < trigPrio e.2 then (u, t) else e) }
  else { s with sorrel := s.sorrel ++ [(u, t)] }

/-- A trigger whose enable in 0x2300.01 is bit `b` (18 R484). -/
def triggerIf (b u t : Nat) (s : State) : State := if bitOf (s.dget 0x2300 1) b then trigger u t s else s

/-- A corrected error of a unit (18 R484): within the CE window its kind's threshold makes a trigger. -/
def ceError (u : Nat) (s : State) : State :=
  if !validUnit u then s
  else
    let l := (s.ceTimes ++ [(u, s.time)]).filter (fun e => s.time ≤ e.2 + s.dget 0x2300 4 * 1000000000)
    let thr := s.dget 0x2301 (unitKind u)
    if thr ≠ 0 && thr ≤ (l.filter (fun e => e.1 == u)).length then
      triggerIf 0 u 2 { s with ceTimes := l.filter (fun e => e.1 != u) }
    else { s with ceTimes := l }

/-- An uncorrectable error of a DRAM row (18 R484): two different rows of one position within the CE window make a trigger. -/
def ueError (pos row : Nat) (s : State) : State :=
  let l := s.ueTimes.filter (fun e => s.time ≤ e.2.2 + s.dget 0x2300 4 * 1000000000)
  if l.any (fun e => e.1 == pos && e.2.1 != row) then
    triggerIf 2 (4 * 2 ^ 28 + pos) 4 { s with ueTimes := l.filter (fun e => e.1 != pos) }
  else { s with ueTimes := l ++ [(pos, row, s.time)] }

/-! ## The swap log -/

/-- A record of the swap log (0x2302.00); the slot it took. -/
def logSwap (w : Swap) (result : Nat) (s : State) : State × Nat :=
  let slot := s.swapLogged % 256
  ({ s with swapLogged := s.swapLogged + 1 }.domWrite 0x2302 0 (32 * slot)
    (leBytes 4 w.unit ++ leBytes 2 w.old ++ leBytes 2 w.new ++ leBytes 1 w.trig ++ leBytes 1 result ++
      List.replicate 6 0 ++ leBytes 8 w.start ++ leBytes 8 (s.time - w.start)), slot)

/-- The swaps in progress as 0x2300.07 and the mode words show them. -/
def showSwaps (s : State) : State := syncModes byHardware (s.dset 0x2300 7 s.swaps.length)

/-! ## Core isolation -/

/-- A core that has no spare left is isolated: dispatch stops, its threads are reset with their locks abandoned under one
reset, and its accept mask reads 0 (18 R487, 11 R300; DEDUCED, assumption 18: the reset is named by thread 0). -/
def isolateCore (k : CoreId) (s : State) : State :=
  let s := s.updCore k (fun c => { c with isolated := true })
  let s := (threadsOf k).foldl (fun s t => clearThread t s) s
  let s := holderResetAll (k.thread 0).mid ((threadsOf k).map ThreadId.mid) s
  s.dset (pix 0x3205 k.p) (k.lc + 1) 0

/-- A trigger that finds no free spare (18 R487). -/
def noSpare (u t : Nat) (s : State) : State :=
  let s := raise 0x149 (unitKind u) none s
  let old := ((servedBy s u).map physOf).getD 0
  let s := (logSwap ⟨u, t, old, 0, s.time⟩ 2 s).1
  match unitKind u with
  | 1 => isolateCore (unitCore u) s
  | 5 => raiseAny 0x0BA none (s.dset 0x4C00 3 (withBit (s.dget 0x4C00 3) (bitsOf u 15 0) false))
  | _ => s

/-! ## Starting a swap -/

/-- Whether two units share a pool (18 R486). -/
def samePool (u v : Nat) : Bool :=
  unitKind u == unitKind v && (if unitKind u = 8 then u == v else sparePool u == sparePool v)

/-- Whether a thread is at a task boundary: it holds no task that has not released. -/
def atBoundary (s : State) (t : ThreadId) : Bool := (s.slot t).cur.isNone

/-- Whether Sorrel may start a queued trigger now (18 R486; 02 R56). Under DETERMINISTIC a core waits until every thread is at a
task boundary, but not after its fault has escalated (02 R57; 18 R470, R486). -/
def mayStart (s : State) (u t : Nat) : Bool :=
  let ucc := t == 0 || t == 4
  let drains := match unitPetal u with
    | some p => draining s p
    | none => s.dget 0x2000 7 ≠ 0
  let used := match unitKind u with
    | 1 => unitClu u == 0
    | 2 => unitClu u == 0
    | 5 => false
    | 8 => unitClu u == 0
    | _ => true
  let det := unitKind u == 1 && detOn s (unitPet u) (unitClu u)
  !(s.swaps.any (fun w => samePool w.unit u)) &&
    !(unitKind u == 1 && s.swaps.any (fun w => unitKind w.unit == 1 && unitPet w.unit == unitPet u)) &&
    !((unitPetal u).isSome && petalHalted s (unitPet u)) &&
    (!drains || ucc) && (!minimalOn s || (ucc && used)) &&
    (!det || t == 0 || (threadsOf (unitCore u)).all (atBoundary s))

/-- The trigger that Sorrel takes next (18 R486). -/
def nextTrigger (s : State) : Option (Nat × Nat) :=
  let l := s.sorrel.filter (fun e => mayStart s e.1 e.2)
  (List.range 4).findSome? (fun pr => l.find? (fun e => trigPrio e.2 == pr))

/-- What the owning chapter does when a swap starts (05 R159, 04 R125, 15 R413). -/
def beginKind (u : Nat) (s : State) : State :=
  match unitKind u with
  | 1 => (threadsOf (unitCore u)).foldl (fun s t => returnPrefetch t s) s
  | 3 => s.updTab (fun t => { t with fills := t.fills ++ [(unitPet u).val * 96 + bitsOf u 22 16 * 8 + bitsOf u 15 0] })
  | 4 =>
    let pos := bitsOf u 15 0
    let s := s.updDram (pos / 8) (fun d => { d with copy := some (pos, 0) })
    s.dset (grpIdx (pos / 8)) 0x0C (2 ^ 31 + pos % 8 * 2 ^ 20)
  | _ => s

/-- Sorrel takes its next trigger and starts the swap (18 R486 to R488). -/
def execSwapStart (s : State) : Out :=
  match nextTrigger s with
  | none => .next s
  | some (u, t) =>
    let s := { s with sorrel := s.sorrel.filter (fun e => e.1 != u) }
    if unitKind u = 8 then
      let n := Tab.get 0 s.repairs u
      if n < 8 then
        .next (showSwaps { s.tick with swaps := s.swaps ++ [⟨u, t, (Config.freeWord s.fresh).toNat % 2 ^ 16, n, s.time⟩] })
      else .next (noSpare u t s)
    else match servedBy s u, freeSpare s u with
      | some r, some f =>
        let s := setMap f 0 2 (setMap r u 2 s)
        let s := { s with swaps := s.swaps ++ [⟨u, t, physOf r, physOf f, s.time⟩] }
        .next (showSwaps (beginKind u s))
      | some _, none => .next (noSpare u t s)
      | none, _ => .next s

/-! ## Completing a swap -/

/-- A core of a running swap has reached the point at which its state may move (18 R488, 07 R219, 10 R289): every thread is
at a task boundary, checkpointed, parked or halted, and its stores and helper operations are done. -/
def coreSettled (s : State) (k : CoreId) : Bool :=
  (threadsOf k).all (fun t =>
    let x := s.thr (.thr t)
    (atBoundary s t || x.st == .sparing || x.st.parked || x.st == .halted) && x.sb.isEmpty && x.tops.isEmpty)

/-- A thread as it stands on the spare (06 R166, 07 R219, 09 R268); what was asked of it meanwhile follows. -/
def Thread.onSpare (x : Thread) : Thread :=
  let x := { x with resv := none, fetch := [], rstack := [], lines := [], stream := Thread.reset.stream, stride := Thread.reset.stride }
  if x.st == .sparing then { x with st := x.haltFrom, haltFrom := .running } else x

/-- The state of a core moves to its spare (18 R488): L1 is cleaned, the merging buffer drains, the spare starts empty. -/
def moveCore (k : CoreId) (s : State) : State :=
  let s := invalidateCore k (cleanCore k s)
  let s := (s.updCore k (fun c => { c with pred := [], lfsr := 0 })).setPipe k Pipe.reset
  (threadsOf k).foldl (fun s t =>
    let s := if (s.thr (.thr t)).st.chanWait then (endWait t s).updThr (.thr t) (fun x => { x with st := .running }) else s
    s.updThr (.thr t) Thread.onSpare) s

/-- Whether a running swap may complete: DRAM copies and trie fills have completions of their own (15 R413, 04 R125); a lane
swaps at a segment boundary (13 R361). -/
def maySettle (s : State) (u : Nat) : Bool :=
  match unitKind u with
  | 1 => coreSettled s (unitCore u)
  | 3 => !s.tables.fills.contains ((unitPet u).val * 96 + bitsOf u 22 16 * 8 + bitsOf u 15 0)
  | 4 => (s.dram (bitsOf u 15 0 / 8)).copy.isNone
  | 5 => s.cow.ops.all (fun o => o.lane ≠ some (bitsOf u 15 0))
  | _ => true

/-- A running swap completes (18 R487): the old unit is retired, the new one takes its unit ID, the swap is logged and
reported. The halts and parks that waited for a core's migration take effect (02 R56, 09 R249). -/
def finishSwap (w : Swap) (s : State) : State :=
  let u := w.unit
  let s := if unitKind u = 1 then moveCore (unitCore u) s else s
  let s := if unitKind u = 8 then { s with repairs := Tab.put s.repairs u (Tab.get 0 s.repairs u + 1) }
    else setMap ((sparePool u).1 + w.new) u 0 (setMap ((sparePool u).1 + w.old) 0 3 s)
  let s := { s with swaps := s.swaps.filter (fun x => x.unit != u) }
  let s := if unitKind u = 1 then (threadsOf (unitCore u)).foldl (fun s t => takeAsked t s) s else s
  let r := logSwap w 0 s
  showSwaps (raise 0x148 r.2 none r.1)

def execSwapComplete (unit : BitVec 32) (s : State) : Out :=
  match s.swaps.find? (fun w => w.unit == unit.toNat) with
  | none => .next s
  | some w => if maySettle s w.unit then .next (finishSwap w s) else .next s

/-- The fill of a trie stage's spare bank has completed (04 R125). -/
def execTrieBankFillComplete (p : Petal) (stage : Fin 12) (s : State) : Out :=
  match s.swaps.find? (fun w => unitKind w.unit == 3 && unitPet w.unit == p && bitsOf w.unit 22 16 == stage.val) with
  | none => .next s
  | some w =>
    let f := p.val * 96 + stage.val * 8 + bitsOf w.unit 15 0
    .next (finishSwap w (s.updTab (fun t => { t with fills := t.fills.filter (· != f) })))

/-- A group's copy to its spare has completed (15 R413, R414): the position is switched; its entry starts at 0. -/
def execDramCopyComplete (g : Fin 4) (s : State) : Out :=
  match (s.dram g.val).copy with
  | none => .next s
  | some (pos, _) =>
    let s := s.updDram g.val (fun d => { d with copy := none, openRows := d.openRows.filter (fun e => e.1 / 8 != pos) })
    let s := [3, 4, 5, 6, 7].foldl (fun s sub => s.dset (0x4900 + pos) sub 0) (s.dset (grpIdx g.val) 0x0C 0)
    let s := raiseAny (0x124 + g.val) none s
    match s.swaps.find? (fun w => w.unit == 4 * 2 ^ 28 + pos) with
    | some w => .next (finishSwap w s)
    | none => .next s

/-- A thread is checkpointed at an instruction boundary (18 R488, 09 R268): it keeps its task and stops for sparing, with TPC at
its next or waiting instruction; a lock request stays queued under its ID (11 R301). -/
def checkpoint (t : ThreadId) (s : State) : State :=
  let x := s.thr (.thr t)
  match x.st with
  | .parkedFault => s
  | .parkedSup => s
  | .halted => s
  | .notStarted => s
  | .sparing => s
  | .lockWait => s.updThr (.thr t) (fun y => { y with st := .sparing, haltFrom := .lockWait, tpc := y.pc })
  | .fetchWait => s.updThr (.thr t) (fun y => { y with st := .sparing, haltFrom := .fetchWait, tpc := y.pc })
  | _ => (endWait t (squash t x.pc s)).updThr (.thr t) (fun y =>
      { y with st := .sparing, haltFrom := .running, resv := none, tpc := y.pc })

/-- The finish limit of a core migration has passed: threads with a task are checkpointed; under DETERMINISTIC they finish
(18 R488, 02 R56), unless the fault has escalated (R57). -/
def execMigrationFinishLimitExpiry (k : CoreId) (s : State) : Out :=
  if s.swaps.any (fun w => w.unit == coreUnit k && (!detOn s k.p k.c || w.trig == 0)) then
    .next ((threadsOf k).foldl (fun s t => if atBoundary s t then s else checkpoint t s) s)
  else .next s

/-! ## Abandoned swaps -/

/-- The swaps that a condition names are abandoned (18 R489): the old unit keeps its identity, the spare is free again. -/
def abandonSwaps (sel : Swap → Bool) (s : State) : State :=
  (s.swaps.filter sel).foldl (fun s w =>
    let s := if unitKind w.unit = 8 then s
      else setMap ((sparePool w.unit).1 + w.new) 0 1 (setMap ((sparePool w.unit).1 + w.old) w.unit 0 s)
    let s := if unitKind w.unit = 3 then s.updTab (fun t => { t with
        fills := t.fills.filter (· != (unitPet w.unit).val * 96 + bitsOf w.unit 22 16 * 8 + bitsOf w.unit 15 0) }) else s
    (logSwap w 1 { s with swaps := s.swaps.filter (fun x => x.unit != w.unit) }).1) s

/-! ## Wear (18 R485) -/

/-- The place of a physical unit in the wear table, for the kinds that carry wear rings. -/
def wearSlot (r : Nat) : Nat := if r < 216 then r else if r < 864 then r - 216 else if r < 918 then r - 252 else r - 266

/-- A wear reading: the loss L of a unit in 1/1,024, against the wear threshold. -/
def execWearReading (unit : BitVec 32) (loss : Nat) (s : State) : Out :=
  let u := unit.toNat
  let k := unitKind u
  match servedBy s u with
  | none => .next s
  | some r =>
    if !validUnit u || !(k == 1 || k == 3 || k == 5 || k == 7) then .next s
    else
      let thr := s.dget 0x2300 5
      let s := s.domWrite 0x2304 0 (16 * wearSlot r) (leBytes 4 u)
      let s := s.domWrite 0x2304 0 (16 * wearSlot r + 6) (leBytes 2 (Config.freeWord s.fresh).toNat ++ leBytes 2 loss)
      let s := s.tick
      let s := if 3 * thr ≤ 4 * loss && !s.wearWarned.contains r then
          raiseAny 0x14A none { s with wearWarned := s.wearWarned ++ [r] } else s
      .next (if thr ≤ loss then triggerIf 1 u 3 s else s)

/-! ## The Sorrel command (0x2300.02) -/

/-- A Sorrel command: swap a unit, retire a free spare of its pool, or cancel its queued trigger. -/
def effSorrel (data : List Byte) (s : State) : Except Abort State :=
  let v := leNat data
  let op := bitsOf v 63 60
  let u := bitsOf v 31 0
  if op = 0 || 3 < op || bitsOf v 59 32 ≠ 0 || !validUnit u then .error 0x06090030
  else if unitRetired s u then .error 0x08000022
  else match op with
    | 1 =>
      let none_ := if unitKind u = 8 then 8 ≤ Tab.get 0 s.repairs u else (freeSpare s u).isNone
      if none_ then .error 0x08000024 else .ok (trigger u 1 s)
    | 2 =>
      (match freeSpare s u with
       | some f => .ok (setMap f 0 3 s)
       | none => .error 0x08000024)
    | _ => .ok { s with sorrel := s.sorrel.filter (fun e => e.1 != u) }

/-- A Sorrel command with the OP of the command's row. -/
def sorrelCmd (w : Writer) (op : Nat) (v : BitVec 64) (s : State) : State :=
  let data := leBytes 8 (op * 2 ^ 60 + v.toNat % 2 ^ 60)
  dictCmd w 0x2300 2 0 data none (effSorrel data) s

def execSorrelSwapCommand (w : Writer) (v : BitVec 64) (s : State) : Out := .next (sorrelCmd w 1 v s)

def execSorrelRetireSpare (w : Writer) (v : BitVec 64) (s : State) : Out := .next (sorrelCmd w 2 v s)

def execSorrelCancelTrigger (w : Writer) (v : BitVec 64) (s : State) : Out := .next (sorrelCmd w 3 v s)

end Sys2Proof.Machine
end

