-- ==== Sys2Proof/Machine/Debug.lean ====
section
/-!
DEFINITION. Machine/Debug.lean: counters and their chains and snapshots (19 R496 to R499), the instruction sampler's ring
(R500 to R502), histogram units (R503, R504), the end of debug unlock (R507), halts, breakpoints and thread states (R508
to R511), and Tansy's lanes (R513).
-/
namespace Sys2Proof.Machine

/-! ## Counters -/

/-- The index of a counter block: 0 to 3 a petal's, 4 the device's (19, its dictionary table). -/
def ctrIdx (b : Nat) : Nat := 0x7000 + 0x100 * b

/-- The counters of a block. -/
def ctrCount (b : Nat) : Nat := if b = 4 then 256 else 1024

/-- Whether counter `i` of a block is chained into the next (19 R498). -/
def ctrChained (s : State) (b i : Nat) : Bool := bitOf (s.domByte (ctrIdx b) 2 (i / 8)).toNat (i % 8)

/-- The events that a counter's own wire has seen: the entry that it mirrors, or events that no entry shows (19 R496); a
reserved counter has none. -/
def ctrOwn (s : State) (b i : Nat) : Nat :=
  if b < 4 && 0x380 ≤ i then 0
  else match Config.counterMirror b i with
    | some (idx, sub) => s.dget idx sub
    | none => Config.otherEvents b i s.time

/-- The running totals of a block's counters, in order (19 R497, R498). -/
def ctrTotals (s : State) (b : Nat) : List Nat :=
  ((List.range (ctrCount b)).foldl (fun (acc : List Nat × Nat) i =>
    let raw := if i ≠ 0 && ctrChained s b (i - 1) then acc.2 / 2 ^ 32 else ctrOwn s b i
    let tot := ((raw : Int) - Tab.get 0 s.cntBase (b * 1024 + i)).toNat
    (tot :: acc.1, tot)) ([], 0)).1.reverse

/-- The counters of a block as their entry shows them: 32 bits each. -/
def ctrImage (s : State) (b : Nat) : List Byte := (ctrTotals s b).flatMap (fun v => leBytes 4 (v % 2 ^ 32))

/-- Every counter of a block takes the value of a list: its base is set anew. -/
def ctrSet (b : Nat) (want : List Nat) (s : State) : State :=
  ((List.range (ctrCount b)).foldl (fun (acc : State × Nat) i =>
    let s := acc.1
    let raw := if i ≠ 0 && ctrChained s b (i - 1) then acc.2 / 2 ^ 32 else ctrOwn s b i
    let v := want.getD i 0
    ({ s with cntBase := Tab.set 0 s.cntBase (b * 1024 + i) ((raw : Int) - (v : Int)) }, v)) (s, 0)).1

/-- A write of a chain entry (19 R498): a counter whose chain bit changes starts at 0; the reserved last bit is ignored. -/
def effChain (b off : Nat) (data : List Byte) (s : State) : Except Abort State :=
  let old := ctrTotals s b
  let last := ctrCount b / 8 - 1
  let s' := plainDomain (ctrIdx b) 2 off data s
  let s' := s'.domWrite (ctrIdx b) 2 last (leBytes 1 ((s'.domByte (ctrIdx b) 2 last).toNat % 128))
  let want := (List.range (ctrCount b)).map (fun i =>
    if i ≠ 0 && ctrChained s b (i - 1) != ctrChained s' b (i - 1) then 0 else old.getD i 0 % 2 ^ 32)
  .ok (ctrSet b want s')

def execCounterChainWrite (w : Writer) (blk : Fin 5) (off : Nat) (data : List Byte) (s : State) : Out :=
  .next (dictCmd w (ctrIdx blk.val) 2 off data none (effChain blk.val off data) s)

/-- A snapshot: every counter of the block copied at one instant (19 R499). -/
def effSnapshot (b : Nat) (data : List Byte) (s : State) : Except Abort State :=
  .ok (if leNat data = 1 then s.domWrite (ctrIdx b) 4 0 (ctrImage s b) else s)

def execCounterSnapshot (w : Writer) (blk : Fin 5) (v : BitVec 8) (s : State) : Out :=
  .next (dictCmd w (ctrIdx blk.val) 3 0 (leBytes 1 v.toNat) none (effSnapshot blk.val (leBytes 1 v.toNat)) s)

/-! ## The sampler -/

/-- The next state of a core's 32-bit Galois LFSR (19 R500). -/
def lfsrStep (x : Nat) : Nat := (x / 2) ^^^ (if x % 2 = 1 then 0x80200003 else 0)

/-- Whether tagging is enabled for a petal and core (19 R500). -/
def tagOn (s : State) (k : CoreId) : Bool :=
  bitOf (s.dget (0x7500 + k.p.val) 1) 31 && bitOf (s.dget (0x7500 + k.p.val) 2) k.lc

/-- The core's LFSR advances for an issued instruction; the mark tells whether it is tagged (19 R500). The seed, drawn at
device reset, is a free non-zero value that stands before the first instruction with tagging enabled (DESIGN CHOICE, assumption 3). -/
def tagStep (k : CoreId) (s : State) : State × Bool :=
  let x := (s.core k).lfsr
  let seeded := x ≠ 0
  let x := if seeded then x else max 1 ((Config.freeWord s.fresh).toNat % 2 ^ 32)
  let s := if seeded then s else s.tick
  let y := lfsrStep x
  let n := bitsOf (s.dget (0x7500 + k.p.val) 1) 28 24
  (s.updCore k (fun c => { c with lfsr := y }), y % 2 ^ n == 2 ^ n - 1)

/-- Puts a record into a petal's tag ring, or counts it as dropped (19 R502). -/
def tagPut (p : Petal) (r : List Byte) (s : State) : State :=
  let i := 0x7500 + p.val
  let size := 2 ^ s.dget i 4
  let j := s.dget i 5
  if j < s.dget i 6 + size then (storeHome (s.dget i 3 + 64 * (j % size)) r false s).dset i 5 (j + 1)
  else raiseOnceAny (0x16000000 + p.val) (0x160 + p.val) (some p) (s.bump i 7)

/-- The 64-byte record of a tagged instruction of thread `t` (19 R501): its PC, its word, the cause that it raised (0: none),
its data address, and its task as it stood at issue. Step counts and the flags of the pipeline's inside are free
(DESIGN CHOICE, assumption 3). -/
def tagRecord (t : ThreadId) (pc : Addr) (word : BitVec 32) (cause daddr : Nat) (task : Option Task) (s : State) : List Byte :=
  let f := (Config.freeWord s.fresh).toNat
  let g := (Config.freeWord (s.fresh + 1)).toNat
  let flags := f % 8 + b2n (cause ≠ 0) * 8 + f / 8 % 4 * 16 + b2n (detOn s t.p t.c) * 64 + f / 32 % 2 * 128
  leBytes 8 (pc.toNat + t.mid * 2 ^ 48) ++ leBytes 4 word.toNat ++ [BitVec.ofNat 8 flags, BitVec.ofNat 8 cause, 0, 0] ++
    leBytes 8 g ++ leBytes 2 (f / 256) ++ [0, 0] ++ leBytes 2 (s.dget (pix 0x3010 t.p) (0x10 + t.c.val)) ++ [0, 0] ++
    leBytes 8 daddr ++ leBytes 8 (s.time % 2 ^ 64) ++
    (match task with
     | some k => leBytes 4 (k.pkt.dom % 2 ^ 20) ++ leBytes 2 k.pkt.seq ++ leBytes 2 k.id
     | none => List.replicate 8 0) ++ List.replicate 8 0

/-- A write of the tag control, the tagged cores, the ring base or the consumer index (19 R500, R502). -/
def effTag (p : Petal) (sub : Nat) (data : List Byte) (s : State) : Except Abort State :=
  let i := 0x7500 + p.val
  let v := leNat data
  match sub with
  | 1 =>
    let k := bitsOf v 28 24
    if k < 8 || 20 < k then .error 0x06090030 else .ok (s.dset i 1 (v &&& 0x9F000000))
  | 2 => .ok (s.dset i 2 (v % 2 ^ 48))
  | 3 => if v % 4096 ≠ 0 || (region v ≠ .dram) then .error 0x06090030 else .ok (s.dset i 3 v)
  | 6 => if v < s.dget i 6 || s.dget i 5 < v then .error 0x06090030 else .ok (s.dset i 6 v)
  | _ => .ok (plainScalar i sub data s)

/-! ## Histogram units -/

/-- A write of a histogram unit's control, filter or clear entry (19 R503, R504): SOURCE changes only while EN is 0. -/
def effHist (i sub : Nat) (data : List Byte) (s : State) : Except Abort State :=
  let v := leNat data
  match sub with
  | 1 =>
    let src := bitsOf v 30 27
    if bitOf v 31 && (src = 0 || 9 ≤ src) then .error 0x06090030
    else if bitOf (s.dget i 1) 31 && src ≠ bitsOf (s.dget i 1) 30 27 then .error 0x08000022
    else
      let s := if bitOf v 31 && !bitOf (s.dget i 1) 31 then { s with histOn := Tab.put s.histOn i s.time } else s
      .ok (s.dset i 1 (v &&& 0xF8000000))
  | 2 => .ok (s.dset i 2 (v &&& 0x80FFFFFF))
  | 5 => .ok (if v = 1 then (s.domClear i 4 0 512).dset i 6 0 else s)
  | _ => .ok (plainScalar i sub data s)

def execHistogramClear (w : Writer) (p : Petal) (u : Fin 16) (v : BitVec 8) (s : State) : Out :=
  let i := 0x7600 + 0x10 * p.val + u.val
  .next (dictCmd w i 5 0 (leBytes 1 v.toNat) none (effHist i 5 (leBytes 1 v.toNat)) s)

/-! ## The end of debug unlock (19 R507) -/

/-- Every Tansy lane is disabled. -/
def lanesOff (s : State) : State :=
  (List.range 16).foldl (fun s l => s.dset 0x8200 (l + 1) (s.dget 0x8200 (l + 1) % 2 ^ 15)) s

/-- Every breakpoint and watchpoint is disarmed. -/
def disarmAll (s : State) : State :=
  allPetals.foldl (fun s p => (List.range 48).foldl (fun s lc =>
    (List.range 6).foldl (fun s b =>
      let i := 0x8100 + 0x40 * p.val + lc
      s.dset i (3 + b) (s.dget i (3 + b) % 2 ^ 63)) s) s) s

/-- Debug unlock ends, if it is granted (19 R507). -/
def endUnlock (s : State) : State :=
  if unlocked s then
    let s := s.dset 0x8000 2 (s.dget 0x8000 2 % 2 ^ 31)
    let s := { s with unlockMeas := [], unlockEnd := 0, unlockPetals := 0 }
    raiseAny 0x166 none (clearDebugRequests (disarmAll (lanesOff s)))
  else s

def execUnlockExpiry (s : State) : Out := .next (endUnlock s)

/-- A write of the relock entry: 1 ends the unlock (19 R507). -/
def effRelock (data : List Byte) (s : State) : Except Abort State := .ok (if leNat data = 1 then endUnlock s else s)

def execRelock (w : Writer) (v : BitVec 8) (s : State) : Out :=
  .next (dictCmd w 0x8000 3 0 (leBytes 1 v.toNat) none (effRelock (leBytes 1 v.toNat)) s)

/-! ## Halts -/

/-- The index of a core's debug entry (19, before R508). -/
def dbgIdx (k : CoreId) : Nat := 0x8100 + 0x40 * k.p.val + k.lc

/-- A halted thread is let issue one instruction, after which it halts with cause 5 (19 R508). The instruction is the
thread's next one of the command queue. -/
def stepThread (t : ThreadId) (s : State) : State :=
  if (s.thr (.thr t)).st == .halted then
    (unhaltThread t 0 s).updThr (.thr t) (fun x => if x.st.parked then x else { x with haltAsked := 5 })
  else s

/-- A write of a core's halt command (19 R508); its reserved bits are ignored (00 R8). -/
def effHalt (k : CoreId) (data : List Byte) (s : State) : Except Abort State :=
  let v := leNat data
  let op := bitsOf v 63 60
  let t := k.thread ⟨bitsOf v 58 56 % 8, Nat.mod_lt _ (by decide)⟩
  if op = 0 || 4 < op then .error 0x06090030
  else .ok (match op with
    | 1 => haltOne t 1 s
    | 2 => unhaltThread t 0 s
    | 3 => stepThread t s
    | _ => (clusterThreads k.p k.c).foldl (fun s u => haltThread u 6 s) s)

/-- A halt command as a command of its own. -/
def haltCmd (w : Writer) (k : CoreId) (op t : Nat) (s : State) : State :=
  let data := leBytes 8 (op * 2 ^ 60 + t * 2 ^ 56)
  dictCmd w (dbgIdx k) 1 0 data none (effHalt k data) s

def execDebugHalt (w : Writer) (t : ThreadId) (s : State) : Out := .next (haltCmd w t.core 1 t.t.val s)

def execDebugResume (w : Writer) (t : ThreadId) (s : State) : Out := .next (haltCmd w t.core 2 t.t.val s)

def execDebugStep (w : Writer) (t : ThreadId) (s : State) : Out := .next (haltCmd w t.core 3 t.t.val s)

def execDebugClusterHalt (w : Writer) (k : CoreId) (s : State) : Out := .next (haltCmd w k 4 0 s)

/-- A write of a breakpoint (subs 0x03 to 0x06) or a watchpoint (subs 0x07 and 0x08) (19 R510); its reserved bits read 0 (00 R8). -/
def effBreak (i sub : Nat) (data : List Byte) (s : State) : Except Abort State :=
  let v := leNat data
  let kind := bitsOf v 54 53
  let size := bitsOf v 52 51
  let a := v % 2 ^ 48
  let bad := if sub ≤ 6 then kind ≠ 0 || size ≠ 0 || a % 4 ≠ 0 else kind = 0 || a % 2 ^ size ≠ 0
  if bad then .error 0x06090030 else .ok (s.dset i sub (v - bitsOf v 50 48 * 2 ^ 48))

/-- Whether an access of `n` bytes at an address overlaps an armed watchpoint of the thread's core (19 R510). -/
def watchHit (s : State) (t : ThreadId) (a n : Nat) (wr : Bool) : Bool :=
  let i := dbgIdx t.core
  unlocked s && debugOn s t.p t.c && [7, 8].any (fun sub =>
    let w := s.dget i sub
    let kind := bitsOf w 54 53
    let b := w % 2 ^ 48
    bitOf w 63 && bitOf w (55 + t.t.val) && (kind = 3 || (kind = 1 && !wr) || (kind = 2 && wr)) &&
      b < a + n && a < b + 2 ^ bitsOf w 52 51)

/-! ## Thread states -/

/-- The number of a thread state (09 R247); a thread that the boot path has not started reads 0 (DESIGN CHOICE, assumption 12). -/
def TState.num : TState → Nat
  | .notStarted => 0 | .running => 0 | .taskWait => 1 | .recvWait => 2 | .sendWait => 3 | .eventWait => 4 | .lockWait => 5
  | .parkedFault => 6 | .parkedSup => 7 | .halted => 8 | .fetchWait => 9 | .sparing => 10

/-- STATUS of a hart (06, its field map). -/
def statusReg (s : State) (h : Hart) : Nat :=
  b2n (s.thr h).it + (match h with
    | .golne => 8
    | .thr t => b2n (detOn s t.p t.c) * 2 + b2n (t.t.val == 0) * 4)

/-- The 512-byte thread record of 18 R492. -/
def threadRecord (s : State) (t : ThreadId) : List Byte :=
  let x := s.thr (.thr t)
  ((List.range 16).flatMap (fun r => leBytes 8 (Tab.get 0 x.d r).toNat)) ++
  ((List.range 16).flatMap (fun r => leBytes 8 (Tab.get 0 x.a r).toNat)) ++
  ((List.range 4).flatMap (fun r => leBytes 12 (Tab.get 0 x.ac r).toNat)) ++
  leBytes 8 x.pc.toNat ++ leBytes 8 (statusReg s (.thr t)) ++ leBytes 8 x.tvec.toNat ++ leBytes 8 x.epc.toNat ++
  leBytes 8 x.ecause.toNat ++ leBytes 8 x.einst.toNat ++ leBytes 8 x.prio.toNat ++ leBytes 8 x.tcause.toNat ++
  leBytes 8 x.tfpc.toNat ++ leBytes 1 x.st.num ++ leBytes 1 x.staged.length ++ leBytes 2 t.mid ++ [0, 0, 0, 0] ++
  ((x.staged.flatMap (fun (e : Nat × ChWord) => leBytes 8 e.2.w.toNat)) ++ List.replicate 64 0).take 64 ++
  ((x.recvBuf.flatMap (fun (e : ChWord) => leBytes 8 e.w.toNat)) ++ List.replicate 64 0).take 64

/-- A slice of a byte list as a number. -/
def sliceNat (l : List Byte) (off n : Nat) : Nat := leNat ((l.drop off).take n)

/-- A thread with its registers and PC taken from the first 312 bytes of a record (19 R511). -/
def Thread.ofRecord (x : Thread) (r : List Byte) : Thread :=
  let x := (List.range 16).foldl (fun (x : Thread) i => { x with d := Tab.set 0 x.d i (BitVec.ofNat 64 (sliceNat r (8 * i) 8)) }) x
  let x := (List.range 16).foldl (fun (x : Thread) i =>
    { x with a := Tab.set 0 x.a i (BitVec.ofNat 48 (sliceNat r (128 + 8 * i) 8)) }) x
  let x := (List.range 4).foldl (fun (x : Thread) i =>
    { x with ac := Tab.set 0 x.ac i (BitVec.ofNat 96 (sliceNat r (256 + 12 * i) 12)) }) x
  { x with pc := BitVec.ofNat 48 (sliceNat r 304 8) }

/-- A write of a halted thread's state: bytes 0 to 311 take effect (19 R511). -/
def effThreadState (t : ThreadId) (off : Nat) (data : List Byte) (s : State) : Except Abort State :=
  if (s.thr (.thr t)).st == .halted then
    let r := threadRecord s t
    let r := r.take off ++ data ++ r.drop (off + data.length)
    .ok (s.updThr (.thr t) (fun x => x.ofRecord r))
  else .error 0x08000022

def execDebugThreadStateWrite (w : Writer) (t : ThreadId) (off : Nat) (data : List Byte) (s : State) : Out :=
  .next (dictCmd w (dbgIdx t.core) (0x10 + t.t.val) off data none (effThreadState t off data) s)

/-! ## Tansy -/

/-- A write of a Tansy lane (19 R513): its petal must be in the permit's mask; its reserved bit reads 0 (00 R8). -/
def effLane (sub : Nat) (data : List Byte) (s : State) : Except Abort State :=
  let v := leNat data
  if !bitOf s.unlockPetals (bitsOf v 13 12) then .error 0x06090030 else .ok (s.dset 0x8200 sub (v - bitsOf v 14 14 * 2 ^ 14))

def execTansyLaneWrite (w : Writer) (lane : Fin 16) (v : BitVec 16) (s : State) : Out :=
  let data := leBytes 2 v.toNat
  .next (dictCmd w 0x8200 (lane.val + 1) 0 data none (effLane (lane.val + 1) data) s)

end Sys2Proof.Machine
end

