-- ==== Sys2Proof/Machine/Journal.lean ====
section
/-!
DEFINITION. Machine/Journal.lean: images and their verification (17 R442), the checks of customer banks (10 R284, R285,
R288), the Campion journal's records, hold store and acknowledgement (17 R451 to R455), and what asks for a record: forced
releases (11 R303) and debug permits (19 R505, R506).
-/
namespace Sys2Proof.Machine

/-! ## Images (17 R442) -/

/-- A byte list cut or filled with zeros to a length. -/
def fit (n : Nat) (l : List Byte) : List Byte := (l ++ List.replicate n 0).take n

/-- SHA-384 of bytes, as 48 bytes. -/
def hash48 (l : List Byte) : List Byte := fit 48 (Config.sha384 l)

/-- The measurement of an image: SHA-384 of header bytes 0 to 79. -/
def imgMeas (img : List Byte) : List Byte := hash48 (img.take 80)

/-- VERSION of an image. -/
def imgVersion (img : List Byte) : Nat := sliceNat img 8 4

/-- The body of an image. -/
def imgBody (img : List Byte) : List Byte := (img.drop 256).take (sliceNat img 12 4)

/-- The public key of a signer, if its slot is valid (17 R442): 0xFF is Craviril's. -/
def signerKey (s : State) (n : Nat) : Option (List Byte) :=
  if n = 0xFF then some Config.cravirilKey
  else if n < 4 && s.domByte 0x2120 4 (128 * n) == 1 then some (s.domRead 0x2120 4 (128 * n + 2) 97)
  else none

/-- Whether every byte of a slice is 0. -/
def zeroSlice (l : List Byte) (off n : Nat) : Bool := ((l.drop off).take n).all (· == 0)

/-- Whether an image verifies as one of kind `k`, 1 to 5 (17 R442). -/
def verifyImage (s : State) (k : Nat) (img : List Byte) : Bool :=
  let signer := sliceNat img 5 1
  let len := sliceNat img 12 4
  let entry := sliceNat img 16 4
  let body := imgBody img
  let okSigner := if k = 1 || k = 5 then signer == 0xFF else signer < 4 || signer == 0xFF
  let okLen := match k with
    | 2 => len ≤ 0x40000 && entry % 4 == 0 && entry < len
    | 3 => len == 0x8000 && entry == 0
    | 4 => len == 0x8800 && entry == 0
    | _ => entry == 0
  sliceNat img 0 4 == 1 && sliceNat img 4 1 == k && okSigner && zeroSlice img 6 2 && zeroSlice img 20 12 &&
    zeroSlice img 176 80 && body.length == len && okLen && (img.drop 32).take 48 == hash48 body &&
    (match signerKey s signer with
     | some key => Config.sigOk key (img.take 80) ((img.drop 80).take 96)
     | none => false) &&
    s.domNat 0x2120 6 (4 * (k - 1)) 4 ≤ imgVersion img

/-- An entry of a record, or a record of the image table: 56 bytes (17 R451). -/
def imgEntry (kind target version : Nat) (meas : List Byte) : List Byte :=
  leBytes 1 kind ++ leBytes 3 target ++ leBytes 4 version ++ fit 48 meas

/-- Record `i` of the image table written (17, 0x2100.08). -/
def setImage (i kind target version : Nat) (meas : List Byte) (s : State) : State :=
  s.domWrite 0x2100 8 (56 * i) (imgEntry kind target version meas)

/-! ## Customer banks (10 R284, R285) -/

/-- A map entry of a customer bank. -/
def mapEntry (s : State) (p : Petal) (bank i : Nat) : Nat := s.domNat (pix (0x3382 + bank) p) 0 (8 * i) 8

/-- A microword of a customer bank. -/
def microword (s : State) (p : Petal) (bank i : Nat) : Nat := s.domNat (pix (0x3382 + bank) p) 0 (0x800 + 8 * i) 8

/-- A map entry holds a reserved value or a non-zero reserved bit (10 R284, R288). -/
def mapReserved (e : Nat) : Bool :=
  bitsOf e 63 62 == 3 || bitsOf e 61 60 == 3 || bitsOf e 59 58 == 3 || bitsOf e 57 56 == 3 ||
    (bitOf e 55 && bitsOf e 61 60 == 2) || bitsOf e 54 12 ≠ 0

/-- A microword holds a reserved UOP, a non-zero reserved bit, or a bit in a field that its operation does not use
(10 R285, R288). -/
def microReserved (w : Nat) : Bool :=
  let u := bitsOf w 63 58
  let ud := bitsOf w 57 55
  let ua := bitsOf w 54 52
  let ub := bitsOf w 51 49
  let imm := bitsOf w 31 0
  0x10 ≤ u || bitsOf w 48 32 ≠ 0 ||
    (if u = 0 || u = 0x0F then ud ≠ 0 || ua ≠ 0 || ub ≠ 0 || imm ≠ 0
     else if u ≤ 8 then imm ≠ 0
     else if u = 9 then ua ≠ 0 || ub ≠ 0
     else if u = 0x0A then ua ≠ 0 || ub ≠ 0 || 4 ≤ imm
     else if u = 0x0B then ud ≠ 0 || ub ≠ 0 || 4096 ≤ imm
     else if u = 0x0C then ud ≠ 0 || ua ≠ 0 || ub ≠ 0 || 4096 ≤ imm
     else if u = 0x0D then ub ≠ 0 || imm ≠ 0
     else ud ≠ 0 || imm ≠ 0)

/-- The check of a customer bank: cause and first offending item (10 R288). Map entries come before microwords, so that
cause 3 can be told (DEDUCED, assumption 19). -/
def custCheck (s : State) (p : Petal) (bank : Nat) : Nat × Nat :=
  let cause := fun (i : Nat) =>
    let e := mapEntry s p bank i
    if mapReserved e then 1
    else if bitsOf e 63 62 == 1 && 0x10 ≤ bitsOf (microword s p bank (e % 4096)) 63 58 then 3 else 0
  match (List.range 256).find? (fun i => cause i ≠ 0) with
  | some i => (cause i, i)
  | none =>
    match (List.range 4096).find? (fun i => microReserved (microword s p bank i)) with
    | some i => (2, i)
    | none => (0, 0)

/-! ## Journal records (17 R451 to R455) -/

/-- The public key that signs records now: the alias key of the Golne firmware that runs (17 R440). -/
def aliasPub (s : State) : List Byte := Config.aliasKey (s.domRead 0x2100 8 (56 * 33 + 8) 48)

/-- The hold store's address of a sequence number (17 R455). -/
def holdAddr (q : Nat) : Nat := 0x000DFF800000 + 512 * (q % 16384)

/-- The time in a record: 0 while time is unset, which is while the offset is 0 (17 R451; DEDUCED, assumption 19). -/
def recordTime (s : State) : List Byte := if s.dget 0x4300 2 = 0 then List.replicate 10 0 else time80 s s.time

/-- The 512 bytes of the next record (17 R451). -/
def recordBytes (r : JReq) (s : State) : List Byte :=
  let q := s.dget 0x2110 1
  let done := s.dget 0x2110 3
  let missing := (List.range (q - 1 - done)).map (fun i => done + 1 + i)
  let lost := missing.any (fun m => !s.heldSeqs.contains m)
  let unpd := if missing.isEmpty then List.replicate 48 0
    else if lost then List.replicate 48 0xFF
    else hash48 (missing.flatMap (fun m => s.memRead (holdAddr m) 512))
  let head := leBytes 1 r.type ++ leBytes 1 r.nmeas ++ leBytes 2 r.reason ++ [BitVec.ofNat 8 (b2n lost), 0] ++
    leBytes 2 r.info ++ leBytes 8 q ++ recordTime s ++ leBytes 4 missing.length ++ [0, 0] ++
    fit 8 (Config.sha384 (aliasPub s)) ++ fit 48 s.lastHash ++ unpd ++ fit 280 r.entries
  head ++ fit 96 (Config.sign 0 (aliasPub s ++ head))

/-- Free slots of JOURNAL: A + 65,536 − (next sequence − 1) (17 R454). -/
def freeSlotsJ (s : State) : Int := (s.dget 0x2110 2 : Int) + 65536 - ((s.dget 0x2110 1 : Int) - 1)

/-- Whether the hold store can take a record (17 R455): DRAM is initialised and in use, and the record's slot is free. -/
def holdFree (s : State) (q : Nat) : Bool :=
  4 ≤ s.dget 0x2100 1 && !s.noDram && s.heldSeqs.all (fun m => m % 16384 ≠ q % 16384)

/-- A record of 17 R453 is created and committed: in its flash slot where R454 allows it, no held record comes before it and
the write verifies; else in the hold store; else it is counted as lost. -/
def commitRecord (r : JReq) (flashOk : Bool) (s : State) : State :=
  let q := s.dget 0x2110 1
  let bytes := recordBytes r s
  let first := s.dget 0x2110 3 + 1 == q
  let toFlash := flashOk && q ≤ s.dget 0x2110 2 + 65536 && s.heldSeqs.isEmpty
  let s := { (s.dset 0x2110 1 (q + 1)) with lastHash := hash48 bytes }
  let s :=
    if toFlash then (s.domWrite 0x2110 8 (512 * (q % 65536)) bytes).dset 0x2110 3 q
    else
      let s := if first then raiseAny 0x139 none s else s
      if holdFree s q then
        let s := storeHome (holdAddr q) bytes false { s with heldSeqs := s.heldSeqs ++ [q] }
        s.dset 0x2110 4 s.heldSeqs.length
      else raiseAny 0x13A none (s.bump 0x2110 6)
  if s.dget 0x2110 7 ≠ 0 && freeSlotsJ s = (s.dget 0x2110 7 : Int) then raiseAny 0x138 none s else s

/-- Asks the journal arbiter for a record (17 R453). -/
def askRecord (r : JReq) (s : State) : State := { s with journal := s.journal ++ [r] }

/-- Writes held records to flash in sequence order, as far as the acknowledged sequence allows (17 R455). -/
def flushHeld : Nat → State → State
  | 0, s => s
  | n + 1, s =>
    match s.heldSeqs with
    | [] => s
    | q :: l =>
      if q ≤ s.dget 0x2110 2 + 65536 then
        let s := (s.domWrite 0x2110 8 (512 * (q % 65536)) (s.memRead (holdAddr q) 512)).dset 0x2110 3 q
        flushHeld n ({ s with heldSeqs := l }.dset 0x2110 4 l.length)
      else s

/-- A write of the acknowledged sequence (17 R454, R455). -/
def effAck (data : List Byte) (s : State) : Except Abort State :=
  let v := leNat data
  if v < s.dget 0x2110 2 || s.dget 0x2110 3 < v then .error 0x06090030
  else
    let s := s.dset 0x2110 2 v
    .ok (flushHeld s.heldSeqs.length s)

def execAcknowledgedSequenceWrite (w : Writer) (v : BitVec 64) (s : State) : Out :=
  .next (dictCmd w 0x2110 2 0 (leBytes 8 v.toNat) none (effAck (leBytes 8 v.toNat)) s)

/-- A write that would lower a minimum version is refused (17 R442). -/
def effMinVersion (off : Nat) (data : List Byte) (s : State) : Except Abort State :=
  let s' := plainDomain 0x2120 6 off data s
  if (List.range 5).any (fun i => s'.domNat 0x2120 6 (4 * i) 4 < s.domNat 0x2120 6 (4 * i) 4) then .error 0x08000022
  else .ok s'

/-- A write of a flash partition (17 R456): the partition in use, the active Golne slot or the firmware set that runs, is
refused. -/
def effPartition (sub off : Nat) (data : List Byte) (s : State) : Except Abort State :=
  let inUse := match sub with
    | 1 => !s.golneB
    | 2 => s.golneB
    | 3 => s.dget 0x2100 5 == 0
    | _ => s.dget 0x2100 5 == 1
  if inUse then .error 0x08000022 else .ok (plainDomain 0x2131 sub off data s)

def execFlashPartitionWrite (w : Writer) (part : Fin 4) (off : Nat) (data : List Byte) (s : State) : Out :=
  .next (dictCmd w 0x2131 (part.val + 1) off data none (effPartition (part.val + 1) off data) s)

/-! ## Forced releases (11 R303) -/

/-- The held lock words that an address names: an L2 scratch address names its word in every cluster (DEDUCED, assumption 16). -/
def heldAt (s : State) (addr : Nat) : List Nat := (s.holders.filter (fun e => lockAddr e.1 == addr)).map Prod.fst

/-- A forced release takes effect: the holder entry ends with ABANDONED, event 0x098 for a pinned lock, the count. -/
def forceRelease (key : Nat) (s : State) : State :=
  match Tab.find s.holders key with
  | none => s
  | some h =>
    let pin := pinned s key
    let s := (lockAbandon key s).bump 0x9000 5
    if pin then raiseD 0x098 h.mid none (leBytes 2 h.mid ++ List.replicate 6 0 ++ leBytes 8 (lockAddr key)) s else s

/-- A write of the forced-release entry: at once for an ordinary lock, after its journal record for a pinned one. -/
def effForced (data : List Byte) (s : State) : Except Abort State :=
  let v := leNat data
  if bitsOf v 63 48 ≠ 0 then .error 0x06090030
  else .ok ((heldAt s v).foldl (fun s key =>
    if pinned s key then
      match Tab.find s.holders key with
      | some h => askRecord ⟨5, 0, 0, h.mid, leBytes 8 v, .forced key⟩ s
      | none => s
    else forceRelease key s) s)

def execForcedRelease (w : Writer) (v : BitVec 64) (s : State) : Out :=
  .next (dictCmd w 0x9000 3 0 (leBytes 8 v.toNat) none (effForced (leBytes 8 v.toNat)) s)

/-! ## Debug permits (19 R505, R506) -/

/-- The PSEQ that the next permit must exceed: that of the last accepted, one that waits for its record included. -/
def lastPseq (s : State) : Nat :=
  s.journal.foldl (fun m r => match r.eff with
    | .unlock d => max m (sliceNat d 16 8)
    | _ => m) s.pseq

/-- The first check that a permit fails: 1 format and reserved values, 2 serial, 3 signer and signature, 4 PSEQ; 0 where it
passes (19 R506). -/
def permitCheck (s : State) (d : List Byte) : Nat :=
  let signer := sliceNat d 5 1
  let dur := sliceNat d 24 4
  let form := d.length == 256 && sliceNat d 0 4 == 1 && sliceNat d 4 1 == 7 && (signer < 4 || signer == 0xFF) &&
    zeroSlice d 6 2 && 60 ≤ dur && dur ≤ 86400 && sliceNat d 28 1 < 16 && zeroSlice d 29 51 && zeroSlice d 176 80
  if !form then 1
  else if sliceNat d 8 8 ≠ Config.serial.toNat then 2
  else if !(match signerKey s signer with
      | some key => Config.sigOk key (d.take 80) ((d.drop 80).take 96)
      | none => false) then 3
  else if sliceNat d 16 8 ≤ lastPseq s then 4 else 0

/-- A permit is presented by a master (19 R506): refused with its reason and event 0x164, or its record is asked for. -/
def presentPermit (mid : Nat) (d : List Byte) (s : State) : State :=
  let r := permitCheck s d
  if r = 0 then askRecord ⟨4, 1, 0, mid, imgEntry 7 0 0 (hash48 (d.take 80)), .unlock d⟩ s
  else
    let v := s.dget 0x8000 2
    raiseAny 0x164 none (s.dset 0x8000 2 (b2n (bitOf v 31) * 2 ^ 31 + r * 2 ^ 28))

/-- A permit's record is committed: PSEQ is stored, unlock is granted or renewed, event 0x165 (19 R506). -/
def grantUnlock (d : List Byte) (s : State) : State :=
  let v := s.dget 0x8000 2
  let s := s.dset 0x8000 2 (2 ^ 31 + v % 2 ^ 31)
  raiseAny 0x165 none { s with
    pseq := max s.pseq (sliceNat d 16 8), unlockMeas := hash48 (d.take 80),
    unlockEnd := s.time + sliceNat d 24 4 * 1000000000, unlockPetals := sliceNat d 28 1 % 16 }

def execPermitPresent (w : Writer) (permit : List Byte) (s : State) : Out :=
  .next (dictCmd w 0x8000 1 0 permit none (fun s => .ok (presentPermit w.mid permit s)) s)

end Sys2Proof.Machine
end

