-- ==== Sys2Proof/Machine/Boot.lean ====
section
/-!
DEFINITION. Machine/Boot.lean: device reset (02 R60, 17 R463 and each chapter's reset rule), the start sequence and failed
starts (17 R443 to R450), live activations (03 R63, 10 R288, 17 R456 to R459), restarts of Golne firmware (18 R481), and
the commit of journal records with the effect of each (17 R453).
-/
namespace Sys2Proof.Machine

/-! ## What a device reset keeps (17 R439, 00 R7) -/

/-- Scalar entries kept in MRAM or flash. -/
def keptScalar (k : Nat) : Bool :=
  let i := k / 256
  let sub := k % 256
  (i = 0x2100 && (sub = 3 || sub = 4)) || (i = 0x2101 && sub = 1) || (i = 0x2102 && 1 ≤ sub && sub ≤ 3) ||
    (i = 0x2110 && (sub = 1 || sub = 2 || sub = 3 || sub = 6)) || (i = 0x4800 && (sub = 1 || sub = 4)) ||
    (i = 0x1E10 && (sub = 1 || sub = 2)) || (i = 0x1E20 && sub = 1) || (i = 0x2061 && 3 ≤ sub && sub ≤ 5) ||
    (i = 0x2062 && (sub = 4 || sub = 5)) || (i = 0x2220 && sub = 2) || i = 0x2065

/-- DOMAIN and OSTRING entries kept in MRAM or flash. -/
def keptDomain (k : Nat) : Bool :=
  let i := k / 256
  let sub := k % 256
  (i = 0x2102 && sub = 4) || (i = 0x2110 && sub = 8) || i = 0x2120 || i = 0x2131 || i = 0x2222 || i = 0x2303 || i = 0x2304

/-- The keys that the random bit generator draws at a device reset (05 R130, 12 R334). -/
def drawKeys (s : State) : State :=
  allPetals.foldl (fun s p =>
    let s := (s.domWrite (pix 0x3201 p) 1 0 (freeBytes s 44)).tick
    let s := (s.domWrite (pix 0x3201 p) 2 0 (freeBytes s 44)).tick
    (s.domWrite (pix 0x33A6 p) 5 0 (freeBytes s 184)).tick) s

/-- The entries that show the spare map's spares (13, 15, 20), as the map stands. -/
def showSpares (s : State) : State :=
  (List.range 68).foldl (fun s i => setMap (864 + i) (mapState s (864 + i)).1 (mapState s (864 + i)).2 s) s

/-- MRAM marks a dump pending or held journal records (17 R446). -/
def keepsDump (s : State) : Bool := !s.dumps.isEmpty || !s.heldSeqs.isEmpty

/-- A start begins (17 R444, 0x2100.03). -/
def beginStart (s : State) : State := s.dset 0x2100 3 ((s.dget 0x2100 3 + 1) % 2 ^ 32)

/-- A device reset with the cause of the start that it begins (17 R443): every entry at its default but for those kept in
MRAM or flash, running swaps abandoned, MINIMAL, ECO and DRAIN forced where their causes hold (02 R60). -/
def deviceReset (cause : Nat) (s : State) : State :=
  let s := abandonSwaps (fun _ => true) (endUnlock s)
  let keep := cause ≠ 1 && keepsDump s
  let inDump := fun (a : Nat) => 0x000DC0000000 ≤ a && a ≤ 0x000DFFFFFFFF
  let lost := if keep then [] else s.heldSeqs
  let forced := b2n (causeOn s 0) + b2n (s.dget 0x2102 2 ≤ s.dget 0x2102 1) * 4 + b2n (bitOf (s.dget 0x2065 1) 1) * 16
  let r : State := { State.reset with
    pending := s.pending, fresh := s.fresh, out := s.out,
    dict := s.dict.filter (fun e => keptScalar e.1),
    doms := s.doms.filter (fun e => keptDomain (e.1 / 2 ^ 28)),
    mem := if keep then s.mem.filter (fun e => inDump e.1) else [],
    poison := if keep then s.poison.filter (fun b => inDump (32 * b)) else [],
    perst := s.perst, repairs := s.repairs, wearWarned := s.wearWarned, power := s.power, lastHash := s.lastHash,
    heldSeqs := if keep then s.heldSeqs else [], dumps := if keep then s.dumps else [], golneB := s.golneB,
    nextRaise := s.nextRaise, rootSyn := s.rootSyn, pseq := s.pseq, minStart := modeReq s .device 4 }
  let r := showSpares (drawKeys (r.dset 0x2110 4 r.heldSeqs.length))
  let r := lost.foldl (fun r _ => raiseAny 0x13A none (r.bump 0x2110 6)) r
  syncModes byHardware (beginStart ((r.dset 0x2100 2 cause).dset 0x2000 6 forced))

/-- DEVICE_RESET: a reset that no other command causes is that of power applied (17 R443; DEDUCED, assumption 19). -/
def execDeviceReset (s : State) : Out := .next (deviceReset 1 s)

/-! ## Failed starts (17 R447 to R449) -/

/-- The failure records held, oldest first. -/
def failRecords (s : State) : List (List Byte) :=
  ((List.range 7).map (fun i => s.domRead 0x2102 4 (16 * i) 16)).filter (fun r => sliceNat r 2 1 ≠ 0)

/-- A start fails in a step for a reason (17 R447, R448): the failure record, the count, the other Golne slot for a failed
Golne image, and the reset; a MINIMAL start then waits for its retry; failed golden Golne firmware leaves the ROM alone. -/
def startFail (reason step : Nat) (s : State) : State :=
  let r := leBytes 2 reason ++ leBytes 1 step ++ [0] ++ leBytes 4 (s.dget 0x2100 3) ++ leBytes 8 (s.time % 2 ^ 64)
  let n := (failRecords s).length
  let s := if n < 7 then s.domWrite 0x2102 4 (16 * n) r else s
  let s := s.dset 0x2102 1 (min 7 (s.dget 0x2102 1 + 1))
  let golden := causeOn s 2
  let minimal := golden || s.minStart
  let golne := step = 1 && (reason = 0x0101 || reason = 0x0181)
  if golne && golden then { s with romStuck := true }
  else
    let s := if golne then { s with golneB := !s.golneB } else s
    let again := s.minStart
    let s := deviceReset 4 s
    if minimal then { (s.dset 0x2100 3 ((s.dget 0x2100 3 + 2 ^ 32 - 1) % 2 ^ 32)) with minRetry := true, minStart := again } else s

/-- Nothing of the start runs: no standby power, a retry awaited, or the ROM alone (17 R448, 20 R529). -/
def startHeld (s : State) : Bool := s.power ≠ 2 || s.minRetry || s.romStuck

/-- A watchdog of R444 expires in the step that runs; step 3's counts from HP_EN (17 R444, R447). -/
def execStartWatchdogExpiry (s : State) : Out :=
  let st := s.dget 0x2100 1
  if startHeld s || 6 ≤ st || (st = 2 && !bitOf (s.dget 0x2065 1) 0) then .next s
  else .next (startFail (0x0300 + st + 1) (st + 1) s)

def execMinimalRetryExpiry (s : State) : Out :=
  if s.minRetry then .next (beginStart { s with minRetry := false }) else .next s

def execGoldenRetryExpiry (verifies : Bool) (s : State) : Out :=
  if s.romStuck && verifies then .next { s with romStuck := false } else .next s

/-- The failed-start count and the failure records cleared (17 R449). -/
def clearFails (s : State) : State := (s.dset 0x2102 1 0).domClear 0x2102 4 0 112

def execFailedStartClearExpiry (s : State) : Out :=
  if s.dget 0x2100 1 == 7 && !causeOn s 2 then .next (clearFails s) else .next s

def execClearFailedStarts (w : Writer) (v : BitVec 8) (s : State) : Out :=
  .next (dictCmd w 0x2102 5 0 (leBytes 1 v.toNat) none (fun s => .ok (if v = 1 then clearFails s else s)) s)

/-- A write of the restart entry (17 R450). -/
def effRestart (data : List Byte) (s : State) : Except Abort State :=
  if leNat data ≠ 0xA55A then .error 0x06090030
  else if s.dget 0x2000 7 == 2 || minimalOn s then .ok (deviceReset 2 s) else .error 0x08000022

def execRestart (w : Writer) (v : BitVec 32) (s : State) : Out :=
  .next (dictCmd w 0x2100 7 0 (leBytes 4 v.toNat) none (effRestart (leBytes 4 v.toNat)) s)

/-! ## Loading images -/

/-- A new alias certificate is stored: newest first, 16 kept; its bytes are free (17 R441; DESIGN CHOICE, assumptions 3, 19). -/
def newAlias (s : State) : State :=
  let old := s.domRead 0x2120 2 0 (15 * 1024)
  (s.domWrite 0x2120 2 0 (freeBytes s 1024 ++ old)).tick

/-- An image in a cluster's instruction memory, its ENTRY and its record of the image table (17 R444, R457). The rest of the
memory keeps its content. -/
def putCluster (p : Petal) (c : Cluster) (kind version entry : Nat) (meas body : List Byte) (s : State) : State :=
  let s := imemWritten p c 0 body.length (s.memWrite (imemAddr p.val c.val 0) body)
  let s := s.updClus p c (fun x => { x with entry := BitVec.ofNat 48 (0x001000000000 + entry) })
  setImage (6 * p.val + c.val) kind (2 ^ (6 * p.val + c.val)) version meas s

/-- A parse bank put in force (03 R63): its number in the actual entry. From then on a petal that has been started accepts frames
(R89). -/
def parseActual (p : Petal) (bank : Nat) (s : State) : State :=
  (s.dset (pix 0x3100 p) 2 bank).updPet p (fun r => { r with parseOn := r.parseOn || (s.clus p 0).started })

/-- A customer bank put in force (10 R288): at once for threads without a task, at the next task boundary for the others. -/
def custActual (p : Petal) (bank : Nat) (s : State) : State :=
  let s := s.dset (pix 0x3381 p) 2 bank
  allClusters.foldl (fun s c => (clusterThreads p c).foldl (fun s t =>
    if (s.slot t).cur.isNone then s.updThr (.thr t) (fun x => { x with bank := bank }) else s) s) s

/-- A parse graph in a bank, with its check; the mark tells whether it passed (03 R64). -/
def loadParse (p : Petal) (bank kind version : Nat) (meas body : List Byte) (s : State) : State × Bool :=
  let s := s.domWrite (pix (0x3101 + bank) p) 0 0 (maskNodes 0 body)
  let c := bankCheck s p bank
  if c.1 = 0 then (setImage (24 + p.val) kind (2 ^ p.val) version meas (parseActual p bank s), true)
  else (raise (0x030 + p.val) (c.1 * 256 + c.2) (some p) (s.dset (pix 0x3100 p) 9 (c.1 * 2 ^ 24 + c.2)), false)

/-- A customer bank loaded, with its check; the mark tells whether it passed (10 R288). -/
def loadCust (p : Petal) (bank kind version : Nat) (meas body : List Byte) (s : State) : State × Bool :=
  let s := (s.domWrite (pix (0x3382 + bank) p) 0 0 body).updPet p (fun r => { r with
    microBad := r.microBad.filter (fun w => w / 4096 != bank) })
  let c := custCheck s p bank
  if c.1 = 0 then (setImage (28 + p.val) kind (2 ^ p.val) version meas (custActual p bank s), true)
  else (raiseAny (0x088 + p.val) (some p) (s.dset (pix 0x3381 p) 4 (c.1 * 2 ^ 24 + c.2)), false)

/-- One image that a start step or a petal's reload loads, in the petals that a condition names (17 R444, 18 R477): under
MINIMAL cluster 0 of each petal only. -/
def loadImage (in_ : Petal → Bool) (m : LoadedImage) (s : State) : State :=
  let k := m.kind.toNat
  let ver := m.version.toNat
  let t := m.target.toNat
  match k % 128 with
  | 1 => setImage 33 k 0 ver m.meas s
  | 2 =>
    allPetals.foldl (fun s p => allClusters.foldl (fun s c =>
      if in_ p && bitOf t (6 * p.val + c.val) && (!minimalOn s || c.val == 0) then
        putCluster p c k ver m.entry.toNat m.meas m.body s else s) s) s
  | 3 => allPetals.foldl (fun s p => if in_ p && bitOf t p.val then (loadParse p (s.dget (pix 0x3100 p) 2) k ver m.meas m.body s).1 else s) s
  | 4 => allPetals.foldl (fun s p => if in_ p && bitOf t p.val then (loadCust p (s.dget (pix 0x3381 p) 2) k ver m.meas m.body s).1 else s) s
  | 5 => setImage 32 k 0 ver m.meas s
  | 6 => setImage 34 6 0 0 m.meas s
  | _ => s

/-! ## The start sequence (17 R444 to R448) -/

/-- The spare of the group that holds a position failed its training: it is retired (17 R445). -/
def retireSpare (s : State) (b : BitVec 8) : State :=
  match freeSpare s (4 * 2 ^ 28 + b.toNat % 32) with
  | some f => setMap f 0 3 s
  | none => s

/-- The outcome of the training of an active position (17 R445): nothing, its spare assigned at once without a copy, or none
left. -/
def trainOne (pos : Nat) (s : State) : State × Bool :=
  let u := 4 * 2 ^ 28 + pos
  match servedBy s u, freeSpare s u with
  | some r, some f => (setMap r 0 3 (setMap f u 0 s), true)
  | _, _ => (s, false)

/-- Step 4 with the positions whose training failed: the first that no spare serves fails the start; under MINIMAL DRAM is
left unused instead. -/
def trainAll (res : StepResult) (s : State) : State × Option Nat :=
  res.trainFail.foldl (fun (acc : State × Option Nat) b =>
    match acc.2 with
    | some _ => acc
    | none =>
      let pos := b.toNat % 32
      let r := trainOne pos acc.1
      if r.2 then (r.1, none)
      else if minimalOn r.1 then ({ r.1 with noDram := true }, none) else (r.1, some pos)) (((res.spareFail.map (fun b => b.toNat % 32 / 8)).eraseDups.map (fun g => BitVec.ofNat 8 (8 * g))).foldl retireSpare s, none)

/-- The distinct images of the image table, in the order Golne firmware, clusters, parse graphs, customer banks, Cowslip
firmware, configuration set, each with the union of its targets (17 R451, R452). -/
def distinctImages (s : State) : List (List Byte) :=
  let recs := ((33 :: List.range 33) ++ [34]).map (fun i => s.domRead 0x2100 8 (56 * i) 56)
  let key := fun (r : List Byte) => r.take 1 ++ r.drop 4
  let live := recs.filter (fun r => sliceNat r 0 1 ≠ 0)
  ((live.map key).eraseDups).map (fun k =>
    let t := ((live.filter (fun r => key r == k)).map (fun r => sliceNat r 1 3)).foldl (fun a b => a ||| b) 0
    k.take 1 ++ leBytes 3 t ++ k.drop 1)

/-- The BOOT record of a start, with its CONTINUATION records (17 R452). -/
def bootRecords (reason cause : Nat) (l : List (List Byte)) : List JReq :=
  (List.range (max 1 ((l.length + 4) / 5))).map (fun i =>
    let five := (l.drop (5 * i)).take 5
    ⟨if i = 0 then 1 else 2, five.length, reason, cause, five.flatten, .none⟩)

/-- The records of a start are asked for as step 6 begins; the reason of a MINIMAL start is stored and reported (17 R448,
R452). -/
def startRecords (s : State) : State :=
  let reason := if causeOn s 2 then ((failRecords s).getLast?.map (fun r => sliceNat r 0 2)).getD 0
    else if minimalOn s then 0x0400 else 0
  let s := s.dset 0x2101 1 reason
  let s := if causeOn s 2 then raiseAny 0x13D none s else s
  let fails := (failRecords s).map (fun r => (⟨6, 0, sliceNat r 0 2, sliceNat r 2 1, r, .none⟩ : JReq))
  (fails ++ bootRecords reason (s.dget 0x2100 2) (distinctImages s)).foldl (fun s r => askRecord r s) s

/-- A thread starts at its cluster's ENTRY (06 R166); one that a thread command has parked stays parked there (09 R248). -/
def startThread (t : ThreadId) (s : State) : State :=
  s.updThr (.thr t) (fun x => { x with
    pc := (s.clus t.p t.c).entry, tpc := if x.st.parked then (s.clus t.p t.c).entry else x.tpc
    st := if x.st == .notStarted then .running else x.st, bank := s.dget (pix 0x3381 t.p) 2 })

/-- A petal's clusters start: under MINIMAL cluster 0 runs and the others are parked (02 R50). It accepts frames where its parse
bank holds a graph that passes its check (03 R89). -/
def startPetal (p : Petal) (s : State) : State :=
  let s := allClusters.foldl (fun s c =>
    if minimalOn s && c.val ≠ 0 then s.updClus p c (fun x => { x with parked := 5 :: x.parked.filter (· != 5) })
    else (clusterThreads p c).foldl (fun s t => startThread t s) (s.updClus p c (fun x => { x with started := true }))) s
  s.updPet p (fun r => { r with parseOn := (bankCheck s p (s.dget (pix 0x3100 p) 2)).1 == 0 })

/-- The event sources that wait for this start (18 R482; 20 R519 to R531). -/
def raiseNext (s : State) : State :=
  let l := s.nextRaise
  let s := l.foldl (fun s e => raise e.1 e.2 none s) { s with nextRaise := [] }
  match s.rootSyn with
  | some syn => raise 0x15F syn none { s with rootSyn := none }
  | none => s

/-- A unit's actual state takes a value; a change advances the generation of its requested entry (16 R426). -/
def hwChange (idx req act v : Nat) (s : State) : State :=
  if s.dget idx act = v then s else bumpGen idx req (s.dset idx act v)

/-- START_STEP_COMPLETE (17 R444). -/
def execStartStepComplete (res : StepResult) (s : State) : Out :=
  let st := s.dget 0x2100 1
  let load := fun (ks : List Nat) (s : State) =>
    (res.load.filter (fun m => ks.contains (m.kind.toNat % 128))).foldl (fun s m => loadImage (fun _ => true) m s) s
  if startHeld s then .next s
  else match st, res.verifyFail with
    | 0, some k => .next (startFail (0x0100 + k.toNat) 1 s)
    | 0, none =>
      let s := s.updThr .golne (fun x => { x with st := .running })
      .next (raiseNext ((newAlias (load [1] s)).dset 0x2100 1 1))
    | 1, some k => .next (startFail (0x0100 + k.toNat) 2 s)
    | 1, none =>
      let min_ := causeOn s 2 || s.minStart
      let s := if min_ then (setOwnBit .device 4 true s).dset 0x2000 6 (withBit (s.dget 0x2000 6) 3 true) else s
      let s := hwChange 0x2100 4 5 (if min_ then 2 else s.dget 0x2100 4) s
      .next (syncModes byHardware ((load [6] s).dset 0x2100 1 2))
    | 2, _ =>
      if bitOf (s.dget 0x2065 1) 0 && bitOf (s.dget 0x2065 1) 4 then .next (syncModes byHardware (s.dset 0x2100 1 3)) else .next s
    | 3, _ =>
      let s := hwChange 0x4800 4 5 (s.dget 0x4800 4) (hwChange 0x4800 1 2 (s.dget 0x4800 1) s)
      (match trainAll res s with
       | (s, some pos) => .next (startFail (0x0200 + pos) 4 s)
       | (s, none) => .next (s.dset 0x2100 1 4))
    | 4, some k => .next (startFail (0x0100 + k.toNat) 5 s)
    | 4, none =>
      let s := load (if minimalOn s then [2, 3, 4] else [2, 3, 4, 5]) s
      let s := allPetals.foldl (fun s p => carveReset p s) s
      .next (startRecords (s.dset 0x2100 1 5))
    | 5, _ =>
      if s.journal.isEmpty then
        let s := allPetals.foldl (fun s p => startPetal p s) s
        .next (syncModes byHardware ((s.dset 0x9011 1 1).dset 0x2100 1 7))
      else .next s
    | _, _ => .next s

/-! ## Golne firmware restarts (16 R431, 18 R481) -/

/-- The SDO transfer that is open ends (16 R429): a DOMAIN transfer's offset and length return to 0. -/
def sdoEnd (s : State) : State :=
  match s.sdo with
  | none => s
  | some x =>
    let s := { s with sdo := none }
    match (entrySpec x.idx x.sub).map EntrySpec.ty with
    | some (.dom _ _) => (s.dset 0x1E10 4 0).dset 0x1E10 5 0
    | _ => s

/-- Golne firmware restarts: debug unlock ends (19 R507), its locks are abandoned (11 R300), its thread starts anew, and the
transfers that it served are lost (16 R431). -/
def golneRestart (s : State) : State :=
  let s := sdoEnd (holderReset 0x2000 (endUnlock s))
  { s.setThr .golne { Thread.reset with st := .notStarted } with golneDown := true, accums := [] }

/-! ## Activations (17 R456 to R459) -/

/-- The activation status: state, the targets not yet applied, the reason (0x2130.02). -/
def setActStatus (st targets reason : Nat) (s : State) : State :=
  s.dset 0x2130 2 (st * 2 ^ 24 + (if st = 5 then reason % 2 ^ 16 else targets % 2 ^ 24))

/-- A list of target numbers as a mask. -/
def maskOf (l : List Nat) : Nat := (l.map (fun i => 2 ^ i)).sum

/-- The petal and cluster of target number 6n + c. -/
def targetCluster (i : Nat) : Petal × Cluster := (⟨i / 6 % 4, Nat.mod_lt _ (by decide)⟩, ⟨i % 6, Nat.mod_lt _ (by decide)⟩)

/-- The activation ends with the targets of a list not applied. -/
def actDone (left : List Nat) (s : State) : State := setActStatus 4 (maskOf left) 0 { s with act := none }

/-- Dispatch to the first target cluster stops, unless a swap of one of its cores defers it (17 R457 step 1, R458). -/
def actBegin (s : State) : State :=
  match s.act with
  | none => s
  | some a =>
    match a.left with
    | [] => actDone [] s
    | i :: _ =>
      let (p, c) := targetCluster i
      if a.kind ≠ 2 || a.draining || clusterSwaps s p c then s
      else
        let s := (clusterThreads p c).foldl (fun s t => returnPrefetch t s) (holdOn p c 4 true s)
        { s with act := some { a with draining := true } }

/-- Whether a target cluster's drain is complete (17 R457 step 2, R458). -/
def actQuiet (s : State) (p : Petal) (c : Cluster) : Bool :=
  clusterQuiet s p c && (clusterThreads p c).all (fun t => !((s.thr (.thr t)).st == .halted)) && !clusterSwaps s p c

/-- CLUSTER_ACTIVATION_DRAINED: steps 3 to 5 of 17 R457 on the first target, then the next one begins. -/
def execClusterActivationDrained (s : State) : Out :=
  let s := actBegin s
  match s.act with
  | none => .next s
  | some a =>
    match a.left with
    | [] => .next s
    | i :: rest =>
      let (p, c) := targetCluster i
      if a.kind = 2 && a.draining && actQuiet s p c then
        let s := putCluster p c 2 (imgVersion a.img) (sliceNat a.img 16 4) (imgMeas a.img) (imgBody a.img) s
        let s := (clusterThreads p c).foldl (fun s t => resetThread t s) s
        let s := (clusterThreads p c).foldl (fun s t => s.updThr (.thr t) (fun x => { x with due := 0 })) (s.dset (pipeIdx p c) 0x0A 0)
        let s := setActStatus 3 (maskOf rest) 0 (holdOn p c 4 false s)
        .next (actBegin { s with act := some { a with left := rest, draining := false } })
      else .next s

/-- ACTIVATION_DRAIN_LIMIT_EXPIRY (17 R457): this target and the later ones keep their image. -/
def execActivationDrainLimitExpiry (s : State) : Out :=
  match s.act with
  | none => .next s
  | some a =>
    match a.left with
    | [] => .next s
    | i :: _ =>
      if a.kind = 2 && a.draining then
        let (p, c) := targetCluster i
        let s := askRecord ⟨3, 1, 0x0600, a.mid, imgEntry 2 (maskOf a.left) (imgVersion a.img) (imgMeas a.img), .none⟩ (holdOn p c 4 false s)
        .next (raiseAny 0x13C none (actDone a.left s))
      else .next s

/-- The image of an activation applied to one petal: the shadow bank is written, checked and activated (03 R63, 10 R288); the
mark tells whether it was. -/
def applyBank (kind : Nat) (img : List Byte) (p : Petal) (s : State) : State × Bool :=
  if kind = 3 then
    let b := 1 - s.dget (pix 0x3100 p) 2 % 2
    let r := loadParse p b 3 (imgVersion img) (imgMeas img) (imgBody img) s
    if r.2 then (bumpGen (pix 0x3100 p) 1 (r.1.dset (pix 0x3100 p) 1 b), true) else r
  else
    let b := 1 - s.dget (pix 0x3381 p) 2 % 2
    let used := allClusters.any (fun c => (clusterThreads p c).any (fun t => (s.slot t).cur.isSome && (s.thr (.thr t)).bank == b))
    if used then (s, false)
    else
      let r := loadCust p b 4 (imgVersion img) (imgMeas img) (imgBody img) s
      if r.2 then (bumpGen (pix 0x3381 p) 1 (r.1.dset (pix 0x3381 p) 1 b), true) else r

/-- An activation's record is committed: the image is applied (17 R456 step 3). -/
def actApply (s : State) : State :=
  match s.act with
  | none => s
  | some a =>
    let s := setActStatus 3 (maskOf a.left) 0 s
    match a.kind with
    | 1 => golneRestart { s with golneB := !s.golneB }
    | 2 => actBegin s
    | 5 => s
    | k =>
      let r := a.left.foldl (fun (acc : State × List Nat) i =>
        let x := applyBank k a.img ⟨i % 4, Nat.mod_lt _ (by decide)⟩ acc.1
        (x.1, if x.2 then acc.2 else acc.2 ++ [i])) (s, [])
      actDone r.2 r.1

/-- Cowslip firmware takes effect at a frame boundary once no operation is in progress (17 R456). -/
def actCowslip (s : State) : State :=
  match s.act with
  | some a =>
    if a.kind = 5 && bitsOf (s.dget 0x2130 2) 31 24 = 3 && s.cow.ops.isEmpty then
      actDone [] (setImage 32 5 0 (imgVersion a.img) (imgMeas a.img) s)
    else s
  | none => s

/-- A write of the activation word (17 R456, R463); its reserved bits are ignored (00 R8). A target bit of a kind that names petals
beyond petal 3 is a reserved value (DESIGN CHOICE, assumption 19). -/
def effActivate (mid : Nat) (data : List Byte) (s : State) : Except Abort State :=
  let v := leNat data
  let k := bitsOf v 63 56
  let t := bitsOf v 23 0
  if k = 0 || 5 < k || ((k = 1 || k = 5) && t ≠ 0) || (2 ≤ k && k ≤ 4 && t = 0) ||
      ((k = 3 || k = 4) && 16 ≤ t) then .error 0x06090030
  else if s.act.isSome || (minimalOn s && 2 ≤ k) then .error 0x08000022
  else
    let head := s.domRead 0x2130 0 0 256
    let len := sliceNat head 12 4
    let img := head ++ (if len ≤ 0xFFFF00 then s.domRead 0x2130 0 256 len else [])
    let slot := if s.golneB then 1 else 2
    let ok := verifyImage s k img && (k ≠ 1 || s.domRead 0x2131 slot 0 img.length == img)
    if ok then
      let left := (List.range 24).filter (fun i => bitOf t i)
      let s := { s with act := some ⟨k, mid, img, left, false⟩ }
      .ok (setActStatus 2 t 0 (askRecord ⟨3, 1, 0, mid, imgEntry k t (imgVersion img) (imgMeas img), .activate⟩ s))
    else .ok (raiseAny 0x13B none (setActStatus 5 0 (0x0100 + k) s))

/-- An activation word as a command of its own. -/
def activateCmd (w : Writer) (kind : Nat) (target : BitVec 24) (s : State) : State :=
  let data := leBytes 8 (kind * 2 ^ 56 + target.toNat)
  dictCmd w 0x2130 1 0 data none (effActivate w.mid data) s

def execActivateGolneFirmware (w : Writer) (target : BitVec 24) (s : State) : Out := .next (activateCmd w 1 target s)

def execActivateClusterFirmware (w : Writer) (target : BitVec 24) (s : State) : Out := .next (activateCmd w 2 target s)

def execActivateParseGraph (w : Writer) (target : BitVec 24) (s : State) : Out := .next (activateCmd w 3 target s)

def execActivateCustomerBank (w : Writer) (target : BitVec 24) (s : State) : Out := .next (activateCmd w 4 target s)

def execActivateCowslipFirmware (w : Writer) (target : BitVec 24) (s : State) : Out := .next (activateCmd w 5 target s)

/-- Golne firmware is in service again (18 R481): event 0x150; its activation, if one waits for it, is done (17 R459). -/
def golneBack (s : State) : State :=
  if s.golneDown then
    let s := { s.updThr .golne (fun x => { x with st := .running }) with golneDown := false }
    let s := match s.act with
      | some a =>
        if a.kind = 1 && bitsOf (s.dget 0x2130 2) 31 24 = 3 then
          actDone [] (newAlias (setImage 33 1 0 (imgVersion a.img) (imgMeas a.img) s))
        else s
      | none => s
    raiseAny 0x150 none s
  else s

/-- GOLNE_ACTIVATION_TIMEOUT (17 R459): the previous slot is active again with a new alias certificate, its firmware records the
rollback. -/
def execGolneActivationTimeout (s : State) : Out :=
  match s.act with
  | none => .next s
  | some a =>
    if a.kind = 1 && s.golneDown then
      let s := { s.updThr .golne (fun x => { x with st := .running }) with golneB := !s.golneB, golneDown := false, act := none }
      let r := s.domRead 0x2100 8 (56 * 33) 56
      let s := askRecord ⟨3, 1, 0x0601, a.mid, r, .none⟩ s
      .next (raiseAny 0x13E none (setActStatus 5 0 0x0601 (newAlias s)))
    else .next s

/-- A fault of Golne firmware restarts it (18 R481). -/
def execGolneFirmwareFault (s : State) : Out := .next (golneRestart s)

/-- A fault of the root unit (18 R482): source 0x15F and its syndrome in MRAM, then a device reset of cause 3. -/
def execRootUnitFault (syn : BitVec 19) (s : State) : Out :=
  .next (deviceReset 3 { s with rootSyn := some syn.toNat })

/-! ## Banks that a write activates (03 R63, R64; 10 R288) -/

/-- A write of a requested bank: its check refuses it, or its record is asked for. `parse` tells a parse bank. The record of a bank
that has no image header carries the SHA-384 of the bank's bytes as its measurement and version 0 (DESIGN CHOICE, assumption 42: 03
R63 and 10 R288 say measured and journaled, and no more); 0x3100.09 and 0x3381.04 keep the last refusal after a later activation
(DESIGN CHOICE, assumption 42). -/
def effBank (parse : Bool) (mid : Nat) (p : Petal) (data : List Byte) (s : State) : Except Abort State :=
  let b := leNat data % 2
  let i := if parse then pix 0x3100 p else pix 0x3381 p
  let bad := if parse then (bankCheck s p b).1 ≠ 0 else (custCheck s p b).1 ≠ 0
  if bad then .error 0x08000022
  else
    let s := bumpGen i 1 (s.dset i 1 b)
    let body := s.domRead (if parse then pix (0x3101 + b) p else pix (0x3382 + b) p) 0 0 (if parse then 0x8000 else 0x8800)
    let k := if parse then 3 else 4
    .ok (askRecord ⟨3, 1, 0, mid, imgEntry k (2 ^ p.val) 0 (hash48 body), if parse then .parseBank p b else .custBank p b⟩ s)

/-- What a refused activation leaves behind: its cause and first offending item, and the event (03 R64, 10 R288). -/
def bankRefused (parse : Bool) (p : Petal) (data : List Byte) (s : State) : State :=
  let b := leNat data % 2
  if parse then
    let c := bankCheck s p b
    if c.1 = 0 then s
    else raise (0x030 + p.val) (c.1 * 256 + c.2) (some p) (s.dset (pix 0x3100 p) 9 (c.1 * 2 ^ 24 + c.2))
  else
    let c := custCheck s p b
    if c.1 = 0 then s else raiseAny (0x088 + p.val) (some p) (s.dset (pix 0x3381 p) 4 (c.1 * 2 ^ 24 + c.2))

/-- A bank activation as a command of its own. -/
def bankCmd (parse : Bool) (w : Writer) (p : Petal) (gen : BitVec 16) (bank : BitVec 8) (s : State) : State :=
  let i := if parse then pix 0x3100 p else pix 0x3381 p
  let data := leBytes 1 bank.toNat
  if windowShut s w then windowRefused w i 1 s
  else match dictDo w i 1 0 data (some gen.toNat) (effBank parse w.mid p data) s with
  | .ok s' => s'
  | .error (c, un) =>
    refuseWrite w i 1 c un (writerPc w s) (if c = 0x08000022 then bankRefused parse p data s else s)

def execParseBankActivate (w : Writer) (p : Petal) (gen : BitVec 16) (bank : BitVec 8) (s : State) : Out :=
  .next (bankCmd true w p gen bank s)

def execCustomerBankActivate (w : Writer) (p : Petal) (gen : BitVec 16) (bank : BitVec 8) (s : State) : Out :=
  .next (bankCmd false w p gen bank s)

/-! ## Commits (17 R453) -/

/-- What a committed record lets happen. -/
def recordEffect (r : JReq) (s : State) : State :=
  match r.eff with
  | .none => s
  | .activate => actApply s
  | .unlock d => grantUnlock d s
  | .forced key => forceRelease key s
  | .parseBank p b => setImage (24 + p.val) 3 (2 ^ p.val) 0 (r.entries.drop 8) (parseActual p b s)
  | .custBank p b => setImage (28 + p.val) 4 (2 ^ p.val) 0 (r.entries.drop 8) (custActual p b s)

/-- JOURNAL_RECORD_COMMITTED: the oldest record that waits is committed and takes effect (17 R453). -/
def execJournalRecordCommitted (flashOk : Bool) (s : State) : Out :=
  match s.journal with
  | [] => .next s
  | r :: l => .next (recordEffect r (commitRecord r flashOk { s with journal := l }))

end Sys2Proof.Machine
end

