-- ==== Sys2Proof/Machine/Faults.lean ====
section
/-!
DEFINITION. Machine/Faults.lean: error raises and collectors' words (18 R464 to R473), petal halts, dumps and restarts
(R477 to R479, R490 to R495), isolated crossbar ports (R480), and crossings, clocks and transfers of the stem (01 R27 to
R32).
-/
namespace Sys2Proof.Machine

/-! ## Raises of errors -/

/-- The petal whose unit raises a source, for the sources that a range gives to petals 0 to 3; the petal of 0x04E is that of
its unit, or of its syndrome (09 R269; DESIGN CHOICE, assumption 20); 0x042 and 0x043 are a petal's where their unit is. -/
def srcPetal (src syn : Nat) (unit : Option Nat) : Option Petal :=
  let four := fun (lo hi : Nat) => lo ≤ src && src ≤ hi
  let pet : Petal := ⟨src % 4, Nat.mod_lt _ (by decide)⟩
  if four 0x034 0x037 || four 0x05C 0x05F || four 0x06C 0x07B || four 0x080 0x083 || four 0x08C 0x08F || four 0x0A4 0x0A7 ||
      four 0x0AC 0x0AF || four 0x110 0x113 || four 0x140 0x143 then some pet
  else if src = 0x04E then
    match unit.bind unitPetal with
    | some p => some p
    | none => some ⟨syn / 2 ^ 17 % 4, Nat.mod_lt _ (by decide)⟩
  else if src = 0x042 || src = 0x043 then unit.bind unitPetal
  else none

/-- One entry of a list, where the spec does not say which: a free choice (DESIGN CHOICE, assumption 3). -/
def freeOf {α : Type} (l : List α) (s : State) : Option α := l[Config.freeChoice s.fresh % l.length]?

/-- The word of a number among the words of some messages, marked poisoned. -/
def poisonMsgs : Nat → List (List ChWord) → List (List ChWord)
  | _, [] => []
  | n, m :: l =>
    if n < m.length then m.zipIdx.map (fun e => if e.2 = n then { e.1 with poison := true } else e.1) :: l
    else m :: poisonMsgs (n - m.length) l

/-- The word of a number among those that a staging area holds for a channel, marked poisoned. -/
def poisonStaged (ch : Nat) : Nat → List (Nat × ChWord) → List (Nat × ChWord)
  | _, [] => []
  | n, (c, w) :: l =>
    if c ≠ ch then (c, w) :: poisonStaged ch n l
    else match n with
      | 0 => (c, { w with poison := true }) :: l
      | k + 1 => (c, w) :: poisonStaged ch k l

/-- An uncorrectable word of a channel: a word of its FIFO, of the receive buffer that holds its last message, or of the words staged
for it by the thread that holds it; which one, is free (09 R269; DESIGN CHOICE, assumption 20). -/
def channelPoison (p : Petal) (ch : Nat) (s : State) : State :=
  let fifo := (s.chan p ch).fifo
  let recv := ((chanRecv s p ch).bind threadOf).filter (fun t => (s.thr (.thr t)).recvCh == ch)
  let send := (s.chan p ch).holder.bind threadOf
  let a := (fifo.map List.length).sum
  let b := match recv with
    | some t => (s.thr (.thr t)).recvBuf.length
    | none => 0
  let c := match send with
    | some t => (stagedFor (s.thr (.thr t)) ch).length
    | none => 0
  let n := Config.freeChoice s.fresh % (a + b + c)
  if a + b + c = 0 then s
  else if n < a then (s.updChan p ch (fun x => { x with fifo := poisonMsgs n fifo })).tick
  else if n < a + b then
    match recv with
    | some t => (s.updThr (.thr t) (fun x => { x with recvBuf := (poisonMsgs (n - a) [x.recvBuf]).flatten })).tick
    | none => s
  else match send with
    | some t => (s.updThr (.thr t) (fun x => { x with staged := poisonStaged ch (n - a - b) x.staged })).tick
    | none => s

/-- An uncorrectable word of a petal's L2 scratch: a word of a way in scratch mode, a free choice (08 R239, R245; DESIGN CHOICE,
assumption 20). -/
def scratchError (p : Petal) (s : State) : State :=
  let ways := allClusters.flatMap (fun c => (List.range 4).flatMap (fun b => (List.range 8).filterMap (fun w =>
    if wayMode s p c b w = 1 then some (c, b, w) else none)))
  match freeOf ways s with
  | none => s
  | some (c, b, w) =>
    let j := Config.freeChoice (s.fresh + 1) % 4096
    let a := scratchAddr p.val c.val (w * 0x20000 + j / 8 * 256 + b * 64 + j % 8 * 8)
    { s with fresh := s.fresh + 2, scratchBad := if s.scratchBad.contains (a / 8) then s.scratchBad else a / 8 :: s.scratchBad }

/-- An uncorrectable word of packet data: a word of an allocated buffer of the petal, a free choice (12 R337; DESIGN CHOICE,
assumption 20). -/
def packetError (p : Petal) (s : State) : State :=
  let bufs := (List.range 5).flatMap (fun k => ((poolOf s p k).states.filter (fun e => e.2 == 1)).map (fun e => (k, e.1)))
  match freeOf bufs s with
  | none => s
  | some (k, i) =>
    let w := (bufAddr s p k i + 8 + Config.freeChoice (s.fresh + 1) % (poolSize k / 8 - 1) * 8) / 8
    { s with fresh := s.fresh + 2, scratchBad := if s.scratchBad.contains w then s.scratchBad else w :: s.scratchBad }

/-- The thread whose next instruction reads a C register in error: a running thread of the petal at a table helper instruction
that reads one, a free choice; it faults with REGFILE (10 R279, R290; DESIGN CHOICE, assumption 20). -/
def cRegisterFault (p : Petal) (s : State) : State :=
  let reads := fun (t : ThreadId) =>
    let w := s.memNat (imemAddr t.p.val t.c.val ((s.thr (.thr t)).pc.toNat % 0x40000)) 4
    (s.thr (.thr t)).st == .running && w / 2 ^ 26 == 0x3D && [1, 2, 3, 4, 5, 8].contains (bitsOf w 11 6)
  match freeOf ((allClusters.flatMap (clusterThreads p)).filter reads) s with
  | none => s
  | some t => (faultThread t 0x0B 0 (s.thr (.thr t)).pc (s.thr (.thr t)).pc s).tick

/-- An uncorrectable microword of the customer bank in use, a free choice (10 R290; DESIGN CHOICE, assumption 20). -/
def microError (p : Petal) (s : State) : State :=
  let w := 4096 * s.dget (pix 0x3381 p) 2 + Config.freeChoice s.fresh % 4096
  s.tick.updPet p (fun r => { r with microBad := if r.microBad.contains w then r.microBad else w :: r.microBad })

/-- An uncorrectable word of an instruction memory, at the place that the syndrome gives (07 R200; DESIGN CHOICE, assumption 48). -/
def imemBadWord (p : Petal) (syn : Nat) (s : State) : State :=
  let c := syn / 2 ^ 16 % 8
  let w := syn % 2 ^ 13
  let o := w / 4 * 128 + syn / 2 ^ 13 % 8 * 16 + w % 4 * 4
  if h : c < 6 then
    (s.updClus p ⟨c, h⟩ (fun r => { r with imemBad := if r.imemBad.contains o then r.imemBad else o :: r.imemBad })).bump
      (pipeIdx p ⟨c, h⟩) 9
  else s

/-- An uncorrectable dirty L1 line or merging-buffer entry of a petal: one of them, a free choice, is marked poisoned (08 R245;
DESIGN CHOICE, assumption 20). -/
def dirtyPoison (p : Petal) (s : State) : State :=
  let cores := ([0, 1, 2, 3, 4, 5] : List Cluster).flatMap (coresOf p)
  let l := cores.flatMap (fun k =>
    (((s.core k).l1.filter Line.dirty).map (fun x => (k, x.addr, true))) ++ ((s.core k).merge.map (fun x => (k, x.addr, false))))
  match freeOf l s with
  | none => s
  | some (k, a, inL1) =>
    (s.updCore k (fun c => if inL1 then { c with l1 := c.l1.map (fun x => if x.addr = a then { x with poison := true } else x) }
      else { c with merge := c.merge.map (fun x => if x.addr = a then { x with poison := true } else x) })).tick

/-- A stem crossbar port is isolated: what lies behind it (18 R480; 01 R41). -/
def shutPort (n : Nat) (s : State) : State :=
  if s.isoPorts.contains n then s
  else
    let s := { s with isoPorts := s.isoPorts ++ [n] }
    if h : n < 4 then raiseFatal ⟨n, h⟩ 0 n s
    else if n < 8 then allPetals.foldl (fun s p => raiseFatal p 0 n s) s
    else if n < 10 then linkDown (n - 8) 1 (linkDown (n - 8) 0 s)
    else if n = 10 then s.updCow (fun c => { c with ops := c.ops.map (fun o => { o with status := 7, left := 0, lane := none }) })
    else s

/-- A stem crossbar port is isolated, with event 0x14F. -/
def isolatePort (n : Nat) (s : State) : State :=
  if s.isoPorts.contains n then s else shutPort n (raise 0x14F n none s)

/-- What an error does beside its raise, in the unit that holds it: a corrected error of table memory or of the SA store counts
(04 R124; 13 R363); an uncorrectable SA becomes stopped (13 R363); the thread that reads a bad register faults with REGFILE (06
R191); a channel's word is poisoned (09 R269); a dirty line is poisoned (08 R245); the lock of a bad holder entry is freed with
ABANDONED (11 R313); a word of instruction memory, of L2 scratch or of a customer bank is bad until it is written, and a thread that
reads a C register in error faults (07 R200; 08 R245; 10 R290); a queue whose record is bad flushes and its ENABLE clears (14 R395); a faulty crossbar arbiter isolates its
port (01 R41). Which entry it is where the raise does not say so is a free choice (DESIGN CHOICE, assumption 20). -/
def errorEffect (src syn : Nat) (s : State) : State :=
  let p : Petal := ⟨src % 4, Nat.mod_lt _ (by decide)⟩
  let q : Petal := ⟨syn / 2 ^ 17 % 4, Nat.mod_lt _ (by decide)⟩
  if src = 0x042 then s.bump 0x5100 6
  else if src = 0x14F then (if syn % 16 < 13 then shutPort (syn % 16) s else s)
  else if src = 0x0B8 then s.bump 0x4C12 0x0A
  else if src = 0x0B9 then
    match Tab.find s.cow.sas syn with
    | some a => saView syn (s.updCow (fun c => { c with sas := Tab.put c.sas syn { a with stopped := true } }))
    | none => s
  else if 0x06C ≤ src && src ≤ 0x06F then
    match threadOf (syn % 2 ^ 16) with
    | some t =>
      let x := s.thr (.thr t)
      if t.p = p && x.st == .running then faultThread t 0x0B 0 x.pc x.pc s else s
    | none => s
  else if src = 0x04E then channelPoison q (syn % 4096) s
  else if 0x070 ≤ src && src ≤ 0x073 then imemBadWord p syn s
  else if 0x074 ≤ src && src ≤ 0x077 then dirtyPoison p s
  else if 0x078 ≤ src && src ≤ 0x07B then scratchError p s
  else if 0x080 ≤ src && src ≤ 0x083 then cRegisterFault p s
  else if 0x08C ≤ src && src ≤ 0x08F then microError p s
  else if src = 0x09B then
    match freeOf ((s.holders.map Prod.fst).filter (fun k => trackPetal k = q)) s with
    | some k => (lockAbandon k s).tick
    | none => s
  else if 0x0AC ≤ src && src ≤ 0x0AF then packetError p s
  else if 0x110 ≤ src && src ≤ 0x113 then
    match freeOf ((qLive s p).filter (fun g => qKind s g ≠ 0)) s with
    | some g => (setQWord g 0 (qWord s g 0 % 2 ^ 63) (flushQueue g s)).tick
    | none => s
  else s

/-- A corrected error that its chapter counts and reports with no source (06 R191, 07 R200, 08 R245, 09 R269, 10 R290,
11 R313, 12 R337, 14 R395). A clean line
that holds an uncorrectable error is dropped, to be fetched again, and counts as corrected; a pinned entry of L2 stays assigned. -/
def eccCounted (x : EccPlace) (s : State) : State :=
  match x with
  | .registers p => s.bump (pix 0x3300 p) 8
  | .imem p c => s.bump (pipeIdx p c) 8
  | .caches p c => s.bump (cacheIdx p c) 0x0E
  | .channels p => s.bump (pix 0x3340 p) 8
  | .customerBanks p => s.bump (pix 0x3380 p) 0x0A
  | .locks p => s.bump (pix 0x3390 p) 7
  | .buffers p => s.bump (pix 0x33A3 p) 0x0B
  | .queues p => s.bump (pix 0x33B0 p) 4
  | .cRegisters p c => s.bump (0x3388 + 0x400 * p.val + c.val) 4
  | .cleanLine k a =>
    let ln := lineOf a.toNat
    let l2 := (l2Find s k.p k.c ln).filter (fun e => e.2.valid)
    if (l1Find s k ln).any Line.dirty then s
    else if (l1Find s k ln).isSome || (s.core k).side.any (fun x => x.addr == ln) then
      sideDrop k ln ((l1Remove k ln s).bump (cacheIdx k.p k.c) 0x0E)
    else match l2 with
      | some e => l2Invalidate k.p k.c e.1 (s.bump (cacheIdx k.p k.c) 0x0E)
      | none => s

/-- ERROR_RAISE: a unit raises a source of class CE, UCC or FATAL (18 R465, R467), or reports a corrected error that has no
source; a corrected error counts for its unit's rate (R484); source 0x15F resets the device (R482). -/
def execErrorRaise (report : ErrReport) (syn : BitVec 19) (unit : Option (BitVec 32)) (s : State) : Out :=
  let rate := fun (s : State) => match unit with
    | some u => ceError u.toNat s
    | none => s
  match report with
  | .corrected x => .next (rate (eccCounted x s))
  | .stateWord p k i =>
    let x := poolOf s p k.val
    .next (if i < x.cnt then updPool p k.val (fun x =>
      { x with states := Tab.set 0 x.states i 1, bad := if x.bad.contains i then x.bad else i :: x.bad }) s else s)
  | .source src =>
    let n := src.toNat
    if srcKind n = 0 then .next s
    else if n = 0x15F then .next (deviceReset 3 { s with rootSyn := some syn.toNat })
    else
      let s := errorEffect n syn.toNat (raise n syn.toNat (srcPetal n syn.toNat (unit.map (fun x => x.toNat))) s)
      .next (if srcKind n = 1 then rate s else s)

/-! ## Clears and escalation -/

/-- The sub of a class's status word. -/
def clsSub : ErrClass → Nat
  | .ce => 1
  | .ucc => 2
  | .fatal => 3

/-- A status word at 0, its timer stopped and its list empty (18 R468). -/
def clearWord (col : Collector) (cls : ErrClass) (s : State) : State :=
  let s := s.dset (collIdx col) (clsSub cls) 0
  showLists col (s.updColl col (fun r => match cls with
    | .ce => { r with ceTimer := false }
    | .ucc => { r with uccTimer := false, ucc := [] }
    | .fatal => { r with fatalTimer := false, fatal := [] }))

/-- A write of a status word: the exact value that was read clears it (18 R468). -/
def effClear (col : Collector) (cls : ErrClass) (data : List Byte) (s : State) : Except Abort State :=
  if leNat data ≠ s.dget (collIdx col) (clsSub cls) then .error 0x08000021 else .ok (clearWord col cls s)

def execStatusWordClear (w : Writer) (col : Collector) (cls : ErrClass) (v : BitVec 64) (s : State) : Out :=
  let data := leBytes 8 v.toNat
  .next (dictCmd w (collIdx col) (clsSub cls) 0 data none (effClear col cls data) s)

/-- A repair of a row of an SRAM macro asked for; a macro of a unit without a spare and without a repair row halts its petal,
cause 1 (18 R471). -/
def repairOr (src : Nat) (u : Option Nat) (s : State) : State :=
  match u with
  | none => s
  | some u =>
    if unitKind u = 8 && 8 ≤ Tab.get 0 s.repairs u then raiseFatal ⟨src % 4, Nat.mod_lt _ (by decide)⟩ 1 src s
    else trigger u 0 s

/-- The action of 18 R471 for a pending UCC entry, whose unit the expiry names; a core fault's unit is that of the thread in
its syndrome. -/
def uccAction (src syn : Nat) (u : Option Nat) (s : State) : State :=
  let p : Petal := ⟨src % 4, Nat.mod_lt _ (by decide)⟩
  if 0x034 ≤ src && src ≤ 0x037 then raiseFatal p 1 src s
  else if (0x05C ≤ src && src ≤ 0x05F) || (0x110 ≤ src && src ≤ 0x113) then repairOr src u s
  else if src = 0x025 || src = 0x026 || src = 0x027 || (0x0A4 ≤ src && src ≤ 0x0A7) || (0x11C ≤ src && src ≤ 0x11F) ||
      src = 0x14F then s
  else match u with
    | some u => trigger u 0 s
    | none =>
      if 0x06C ≤ src && src ≤ 0x06F then
        match threadOf (syn % 2 ^ 16) with
        | some t => trigger (coreUnit t.core) 0 s
        | none => s
      else s

/-- Whether a class's escalation timer runs. -/
def timerRuns (s : State) (col : Collector) (cls : ErrClass) : Bool :=
  match cls with
  | .ce => (s.coll col).ceTimer
  | .ucc => (s.coll col).uccTimer
  | .fatal => (s.coll col).fatalTimer

/-- ESCALATION_EXPIRY: a class's timer expires before its word is cleared (18 R470, R471). -/
def execEscalationExpiry (col : Collector) (cls : ErrClass) (units : List (Option (BitVec 32))) (s : State) : Out :=
  if !timerRuns s col cls then .next s
  else
    let s := match cls with
      | .ce => clearWord col cls s
      | .ucc =>
        let l := (s.coll col).ucc
        let us := (units ++ List.replicate l.length none).take l.length
        let s := (l.zip us).foldl (fun s (e : (Nat × Bool) × Option (BitVec 32)) =>
          if e.1.2 then uccAction (bitsOf e.1.1 59 51) (bitsOf e.1.1 50 32) (e.2.map (fun (x : BitVec 32) => x.toNat)) s else s) s
        clearWord col cls s
      | .fatal => s.updColl col (fun r => { r with fatalTimer := false })
    .next (raise 0x14B (collKey col * 2 ^ 16 + clsSub cls) none (s.bump (collIdx col) 9))

/-! ## Isolated ports (18 R480) -/

/-- HANG_DETECTED (18 R472). -/
def execHangDetected (x : HangPlace) (s : State) : Out :=
  match x with
  | .petal p port => .next (raiseFatal p 0 port.toNat s)
  | .stem port => .next (isolatePort port.val s)

/-- A write of the port reset: the port's arbiter starts anew (18 R480). -/
def effPortReset (data : List Byte) (s : State) : Except Abort State :=
  .ok { s with isoPorts := s.isoPorts.filter (· ≠ leNat data) }

def execPortResetCommand (w : Writer) (v : BitVec 8) (s : State) : Out :=
  .next (dictCmd w 0x2220 0x0A 0 (leBytes 1 v.toNat) none (effPortReset (leBytes 1 v.toNat)) s)

/-! ## Petal halts (18 R477) -/

/-- The packets of a petal, in its parser, matching store and queues. -/
def flushPetal (p : Petal) (s : State) : State :=
  let qs := (s.pet p).queues.map (fun e => p.val * 16384 + e.1)
  let host := (queuesListed s).filter (fun g => qPetal g == p && (qKind s g == 2 || qKind s g == 3))
  let s := qs.foldl (fun s g => flushQueue g s) s
  host.foldl (fun s g => disableQueue g s) s

/-- Every buffer of a petal's pools is free, and its spill records are abandoned with their slots freed (05 R161; 12 R338). The link
words are written when the restart carves the pools (18 R477). -/
def freePools (p : Petal) (s : State) : State :=
  let s := s.updPet p (fun r => { r with
    owners := [], pools := r.pools.map (fun e => (e.1, { e.2 with head := none, states := [], bad := [], rebuild := false })) })
  (List.range 5).foldl (fun s k => s.dset (pix 0x33A3 p) (k + 1) (poolOf s p k).cnt) (s.dset (pix 0x33A5 p) 0x0B 0)

/-- The helper state of a petal's threads is discarded: C registers, scoreboard bits and outstanding operations (10 R289). -/
def dropHelpers (p : Petal) (s : State) : State :=
  { s with threads := s.threads.map (fun e =>
      if e.1 / 1024 == p.val && e.1 < 4096 then (e.1, { e.2 with c := [], cBusy := [], tops := [] }) else e) }

/-- The FATAL, UCC and CE words of a petal's collector and its UCC list, as a dump's header shows them (18 R491). -/
def collWords (s : State) (p : Petal) : List Byte :=
  let i := collIdx (.petal p)
  leBytes 8 (s.dget i 3) ++ leBytes 8 (s.dget i 2) ++ leBytes 8 (s.dget i 1) ++ [0, 0, 0, 0] ++ s.domRead i 4 0 128

/-- Steps 1 and 2 of a petal's halt (18 R477): isolation; tasks, queues, Cowslip operations, locks and dirty context lines go, the
buffers are free, the helper state and the table copy are discarded, so that its generations read the last committed one (04 R127);
pauses end; its modes leave effect (02 R60); running swaps of its units are abandoned, to be queued again (R489). -/
def haltPetal (p : Petal) (s : State) : State :=
  let s := flushPetal p s
  let s := cowHalt p (ctxHalt p s)
  let s := { s with halts := Tab.put s.halts p.val 3, haltDue := s.haltDue.filter (· ≠ p.val),
                    haltTimes := s.haltTimes ++ [(p.val, s.time)], haltWords := Tab.put s.haltWords p.val (collWords s p) }
  let s := refreshPause p s
  let s := s.updPet p (fun r => { PetalSt.reset with
    seqs := r.seqs, lasts := r.lasts, carved := r.carved, pools := r.pools, owners := r.owners, sketch := r.sketch,
    marks := r.marks, shapes := r.shapes, pols := r.pols, microBad := r.microBad })
  let s := dropHelpers p (freePools p s)
  let g := s.dget 0x5000 1
  let s := (s.dset 0x5001 (1 + p.val) g).dset 0x5001 (5 + p.val) g
  let mids := (allClusters.flatMap (clusterThreads p)).map ThreadId.mid
  let s := { s with slots := s.slots.filter (fun e => !mids.contains e.1) }
  let s := holderResetAll (p.val * 1024) mids s
  let again := (s.swaps.filter (fun w => unitPetal w.unit == some p)).map (fun w => (w.unit, w.trig))
  let s := abandonSwaps (fun w => unitPetal w.unit == some p) { s with requeue := s.requeue ++ again }
  let own := fun (k : Nat) => k == 24 + p.val || (k < 24 && k / 6 == p.val)
  syncModes byHardware { s with modes := s.modes.filter (fun e => !own e.1), trans := s.trans.filter (fun e => !own e.1) }

/-- PETAL_HALT: a petal whose FATAL raise was latched or listed halts (18 R477). -/
def execPetalHalt (p : Petal) (s : State) : Out :=
  if s.haltDue.contains p.val && !petalHalted s p then .next (haltPetal p s) else .next s

/-- A write of the petal halt: FATAL cause 4 with the writer's master ID (18 R473). -/
def execPetalHaltCommand (w : Writer) (v : BitVec 8) (s : State) : Out :=
  let data := leBytes 1 v.toNat
  .next (dictCmd w 0x2220 7 0 data none (fun s =>
    .ok (raiseFatal ⟨leNat data % 4, Nat.mod_lt _ (by decide)⟩ 4 w.mid s)) s)

/-! ## Dumps (18 R490 to R495) -/

/-- The newest `n` records of the event log, oldest first (18 R476). -/
def newestLog (s : State) (n : Nat) : List Byte :=
  let c := s.dget 0x2400 4
  let k := min c (min n 4096)
  fit (16 * n) ((List.range k).flatMap (fun i => s.domRead 0x2400 1 (16 * ((c - k + i) % 4096)) 16))

/-- The stack windows of a core and whether one of them is not in DRAM (18 R491, TYPE 0x0003). -/
def stackWindows (s : State) (k : CoreId) : List Byte × Bool :=
  let one := fun (t : ThreadId) =>
    let a := (s.areg (.thr t) 15).toNat
    if region a = .dram && a + 256 ≤ 0x000DC0000000 then (s.memRead a 256, false) else (List.replicate 256 0xFF, true)
  (((threadsOf k).flatMap (fun t => (one t).1)), (threadsOf k).any (fun t => (one t).2))

/-- The order domains of a petal (18 R491, TYPE 0x0005). -/
def domainSection (s : State) (p : Petal) : List Byte :=
  (List.range 1048576).flatMap (fun d =>
    let next := Tab.get 0 (s.pet p).seqs d
    leBytes 8 (next % 2 ^ 16 + next % 2 ^ 16 * 2 ^ 16 + Tab.get 0 (s.pet p).lasts d % 64 * 2 ^ 32))

/-- A channel's status record, 0x3342.03 (09 R258): words in the FIFO and its holder, and its FIFO slots (18 R491). -/
def channelSlots (s : State) (p : Petal) (ch : Nat) : List Byte :=
  fit 320 ((s.chan p ch).fifo.flatMap (fun m =>
    fit 80 (leBytes 1 m.length ++ List.replicate 15 0 ++ m.flatMap (fun (w : ChWord) => leBytes 8 w.w.toNat))))

/-- The sections of a petal's dump in order: TYPE, INSTANCE, unreadable elements, bytes (18 R491). A section whose layout the
spec does not give holds free bytes (DESIGN CHOICE, assumption 20). -/
def dumpSections (s : State) (p : Petal) : List (Nat × Nat × Bool × List Byte) :=
  let cores := allClusters.flatMap (coresOf p)
  let free := fun (n : Nat) (j : Nat) => (List.range n).map (fun i => Config.freeByte (s.fresh + j) i)
  let poolsLen := 40 + ((List.range 5).map (fun k => ((poolOf s p k).cnt * 2 + 7) / 8)).sum
  [(1, 0, false, newestLog s 1024)] ++
  cores.map (fun k => (2, k.lc, false, (threadsOf k).flatMap (threadRecord s))) ++
  cores.map (fun k => (3, k.lc, (stackWindows s k).2, (stackWindows s k).1)) ++
  [(4, 0, false, List.replicate 4194304 0), (5, 0, false, domainSection s p),
   (6, 0, false, s.memRead (pbAddr p.val 0) 0x2000000), (7, 0, false, free poolsLen 0), (8, 0, false, free 9437184 1)] ++
  allClusters.map (fun c => (9, c.val, false, free 2359296 (2 + c.val))) ++
  cores.map (fun k => (10, k.lc, false, free 40960 (8 + k.lc))) ++
  allClusters.map (fun c => (11, c.val, false, s.memRead (imemAddr p.val c.val 0) 0x40000)) ++
  [(12, 0, false, free 16384 56 ++ (List.range 4096).flatMap (channelSlots s p)),
   (13, 0, false, (List.range 1024).flatMap (fun i => (List.range 16).flatMap (fun j =>
      s.domRead (0x6000 + p.val * 0x400 + i) (j + 1) 0 128))),
   (14, 0, false, free 65536 57)]

/-- The base address of a dump slot (18 R490). -/
def dumpBase (p : Petal) : Nat := 0x000DC0000000 + 0x0FE00000 * p.val

/-- A number rounded up to a multiple of 4,096. -/
def pageUp (n : Nat) : Nat := (n + 4095) / 4096 * 4096

/-- The sections with their offsets from the slot base, the first at 0x2000. -/
def placeSections (l : List (Nat × Nat × Bool × List Byte)) : List (Nat × Nat × Nat × Bool × List Byte) :=
  (l.foldl (fun (acc : Nat × List (Nat × Nat × Nat × Bool × List Byte)) x =>
    (acc.1 + pageUp x.2.2.2.length, (acc.1, x) :: acc.2)) (0x2000, [])).2.reverse

/-- The header of a dump (18 R491), with the words of the collector as the halt left them. -/
def dumpHeader (s : State) (p : Petal) (state no cause n : Nat) (hash : List Byte) : List Byte :=
  leBytes 4 1 ++ leBytes 1 p.val ++ leBytes 1 state ++ leBytes 2 n ++ leBytes 8 no ++
    time80 s (((s.haltTimes.reverse.find? (fun e => e.1 == p.val)).map Prod.snd).getD s.time) ++ leBytes 1 cause ++ [0] ++
    fit 156 (Tab.get [] s.haltWords p.val) ++ fit 48 hash ++
    List.replicate 24 0

/-- The petal returns to its reset state (18 R477 step 4): registers, caches, channels, census, helpers (08 R244, 09 R270, 10
R289, 12 R338); isolated cores stay so. -/
def petalReset (p : Petal) (s : State) : State :=
  let mine := fun (k : Nat) => k / 1024 == p.val && k < 4096
  let inScratch := fun (a : Nat) => scratchAddr p.val 0 0 ≤ a && a < scratchAddr p.val 6 0
  let ths := s.threads.filter (fun (e : Nat × Thread) => !mine e.1)
  let cos := s.cores.filterMap (fun (e : Nat × CoreSt) => if e.1 / 64 = p.val then
    (if e.2.isolated then some (e.1, { CoreSt.reset with isolated := true }) else none) else some e)
  let cls := s.clusters.map (fun (e : Nat × ClusterSt) => if e.1 / 8 = p.val then
    (e.1, { e.2 with l2 := [], imemBad := [], started := false, hold := [], parked := e.2.parked.filter (· == 5) }) else e)
  let chs := s.chans.filter (fun (e : Nat × Chan) => !(e.1 / 4096 == p.val))
  let cen := s.census.filter (fun (e : Nat × Nat) => !(e.1 / 8 == p.val))
  let pipes := s.pipes.filter (fun (e : Nat × Pipe) => !(e.1 / 64 == p.val))
  let s := { s with threads := ths, cores := cos, clusters := cls, chans := chs, census := cen, pipes := pipes,
                    scratchBad := s.scratchBad.filter (fun w => !inScratch (8 * w)),
                    halts := Tab.put s.halts p.val 5, restartAsked := s.restartAsked.filter (fun i => !(i == p.val)) }
  let s := (List.range 6).foldl (fun s i => s.memClear (scratchAddr p.val i 0) 0x200000) s
  let s := (List.range 48).foldl (fun s lc => s.dset (coreIdx p lc) 0x0A 0xFE) ((s.dset (pix 0x3340 p) 3 0).dset (pix 0x3340 p) 9 0)
  (s.domClear (pix 0x3341 p) 0 0 65536).updPet p (fun r => { PetalSt.reset with microBad := r.microBad })

/-- The halts of a petal in the last hour (18 R479). -/
def recentHalts (s : State) (p : Petal) : Nat := (s.haltTimes.filter (fun e => e.1 == p.val && s.time < e.2 + 3600000000000)).length

/-- DUMP_COMPLETE: the dump of a halted petal is written, or only its summary while the slot still holds a dump or DRAM is
unavailable (18 R490 to R495); it waits for Golne firmware (R481). Which sections a dump with unreadable or omitted parts marks is free (DESIGN CHOICE, assumption 20). -/
def execDumpComplete (p : Petal) (unreadable : Bool) (truncated : Bool) (s : State) : Out :=
  if Tab.get 0 s.halts p.val ≠ 3 || s.golneDown then .next s
  else
    let no := s.dget 0x2220 2 + 1
    let s := s.dset 0x2220 2 no
    let skip := (Tab.find s.dumps p.val).isSome
    let whole := !skip && !s.noDram
    let secs := if whole then placeSections (dumpSections s p) else []
    let cut := Config.freeChoice s.fresh % (secs.length + 1)
    let bad := Config.freeChoice (s.fresh + 1) % (secs.length + 1)
    let status := fun (j : Nat) (un : Bool) => if truncated && cut ≤ j then 2 else if un || (unreadable && j == bad) then 1 else 0
    let num := (List.range secs.length).zip secs
    let dir := fit 4096 (num.flatMap (fun e => leBytes 2 e.2.2.1 ++ leBytes 2 e.2.2.2.1 ++ leBytes 1 (status e.1 e.2.2.2.2.1) ++ [0, 0, 0] ++
      leBytes 4 e.2.1 ++ leBytes 4 e.2.2.2.2.2.length))
    let live := num.filter (fun e => status e.1 e.2.2.2.2.1 ≠ 2)
    let hash := hash48 (dir ++ live.flatMap (fun e => e.2.2.2.2.2))
    let st := if truncated then 4 else if num.any (fun e => status e.1 e.2.2.2.2.1 = 1) then 3 else 2
    let cause := bitsOf (sliceNat (Tab.get [] s.haltWords p.val) 0 8) 50 48
    let head := if whole then dumpHeader s p st no cause secs.length hash else dumpHeader s p 2 no cause 0 (List.replicate 48 0)
    let dirW := if whole then dir else List.replicate 4096 0
    let log := newestLog s 64
    let s := { s with fresh := s.fresh + 64 }
    let s := if whole then
        let s := live.foldl (fun s e => s.memWrite (dumpBase p + e.2.1) e.2.2.2.2.2) s
        let s := (s.memWrite (dumpBase p + 0x100) dir).memWrite (dumpBase p) head
        { s with dumps := Tab.put s.dumps p.val no }
      else s
    let s := s.domWrite 0x2222 0 (8192 * (no % 128)) (fit 8192 (head ++ dirW ++ log))
    let s := if skip then raiseAny 0x14D none (s.bump 0x2220 4) else if whole then raise 0x14C p.val none s else s
    let s := { s with halts := Tab.put s.halts p.val 4 }
    .next (if s.restartAsked.contains p.val then petalReset p s else s)

/-- A write of the dump acknowledge: the slot of that DUMPNO is released (18 R494). -/
def effDumpAck (data : List Byte) (s : State) : Except Abort State :=
  let v := leNat data
  if s.dumps.any (fun e => e.2 == v) then .ok { s with dumps := s.dumps.filter (fun e => e.2 ≠ v) } else .error 0x06090030

def execDumpAcknowledge (w : Writer) (v : BitVec 64) (s : State) : Out :=
  .next (dictCmd w 0x2220 3 0 (leBytes 8 v.toNat) none (effDumpAck (leBytes 8 v.toNat)) s)

/-! ## Restarts (18 R477 steps 4 to 6, R479) -/

/-- PETAL_RESTART: the automatic restart of a halted petal begins (18 R479). -/
def execPetalRestart (p : Petal) (s : State) : Out :=
  let held := bitOf (s.dget (collIdx (.petal p)) 3) 63 && (s.coll (.petal p)).fatalTimer
  if Tab.get 0 s.halts p.val = 4 && s.dget 0x2220 5 == 1 && recentHalts s p < 4 && !held && !s.isoPorts.contains p.val &&
      !([4, 5, 6, 7].any (fun n => s.isoPorts.contains n)) then
    .next (petalReset p s)
  else .next s

/-- A write of the petal restart (18 R479). -/
def effRestartPetal (data : List Byte) (s : State) : Except Abort State :=
  let p : Petal := ⟨leNat data % 4, Nat.mod_lt _ (by decide)⟩
  match Tab.get 0 s.halts p.val with
  | 0 => .error 0x08000022
  | 3 => .ok { s with restartAsked := s.restartAsked.filter (· ≠ p.val) ++ [p.val] }
  | 4 => .ok (petalReset p s)
  | _ => .ok s

def execPetalRestartCommand (w : Writer) (v : BitVec 8) (s : State) : Out :=
  .next (dictCmd w 0x2220 6 0 (leBytes 1 v.toNat) none (effRestartPetal (leBytes 1 v.toNat)) s)

/-- PETAL_RESTART_COMPLETE: cluster firmware, parse graph and customer bank have been reloaded from flash and verified; the pools are carved, the table copy is the current one,
the threads start at ENTRY, the FATAL word is cleared and event 0x144 + n is raised; or an image failed and the petal stays
halted with event 0x151 (18 R470, R477; 04 R127). -/
def execPetalRestartComplete (p : Petal) (res : StepResult) (s : State) : Out :=
  if Tab.get 0 s.halts p.val ≠ 5 then .next s
  else match res.verifyFail with
    | some k => .next (raise 0x151 k.toNat none { s with halts := Tab.put s.halts p.val 4 })
    | none =>
      let mine := s.requeue.filter (fun e => unitPetal e.1 == some p)
      let s := { s with halts := Tab.erase s.halts p.val, requeue := s.requeue.filter (fun e => unitPetal e.1 ≠ some p) }
      let imgs := res.load.filter (fun m => [2, 3, 4].contains (m.kind.toNat % 128))
      let s := imgs.foldl (fun s m => loadImage (fun q => q == p) m s) s
      let s := startPetal p (carveReset p s)
      let s := clearWord (.petal p) .fatal s
      let s := mine.foldl (fun s e => trigger e.1 e.2 s) s
      .next (raise (0x144 + p.val) 0 (some p) (refreshPause p (syncModes byHardware s)))

/-! ## The stem: crossings, clocks and transfers (01 R27 to R32) -/

/-- The frame that a transmission has just sent, marked with a bad FCS: the first of the outputs that came after `old` (01 R27). -/
def badFrame (old : List Output) (s : State) : State :=
  let n := s.out.length - old.length
  let go := (s.out.take n).reverse.foldl (fun (acc : Bool × List Output) o => match o, acc.1 with
    | .frameTx q f false, false => (true, .frameTx q f true :: acc.2)
    | o, d => (d, o :: acc.2)) (false, [])
  { s with out := go.2 ++ s.out.drop n }

/-- A word leaves its crossing: one that passes its parity check moves on, with no effect of its own; one that fails is
discarded, event 0x026 is raised and its transfer fails as a whole (01 R27). A DRAM read's word is that of the read that its
group serves next (15 R405). -/
def crossWord (d : Nat) (inward : Bool) (x : CrossXfer) (ok : Bool) (s : State) : State :=
  if ok then s
  else
    let s := raise 0x026 d none s
    match x with
    | .rxFrame q => if inward then s.bump (portIdx q.val) 0x16 else s
    | .txFrame q => badFrame s.out (transmitPort q.val s)
    | .hostWrite _ => s
    | .hostRead m => s.emit (.hostCompletion m.toNat true [])
    | .deviceRead g => hostReadError g.toNat s
    | .deviceWrite g => disableQueue g.toNat s
    | .dramRead g =>
      (match nextRead (s.dram g.val).reads with
       | none => s
       | some r =>
         let s := s.updDram g.val (fun q => { q with reads := q.reads.erase r })
         s.emit (.poisonData r.mid r.addr (s.memRead (r.addr / 64 * 64) 64)))
    | .dramWrite _ m a =>
      (match threadOf m.toNat with
       | some t => refuseStore (.thr t) a.toNat (s.thr (.thr t)).pc s
       | none => s.emit (.accessFault m.toNat a.toNat))
    | .other => s

/-- The words held in the frozen crossing into a domain (01 R29). -/
def crossHeld (s : State) (d : Nat) : List (CrossXfer × Bool) := Tab.get [] s.cross d

/-- CROSSING_WORD_IN (01 R27, R29). A frozen crossing takes no word from its domain; a word of the interior waits in its FIFO of
8 entries, and finds back-pressure when that is full. -/
def execCrossingWordIn (d : Fin 18) (inward : Bool) (x : CrossXfer) (parityOk : Bool) (s : State) : Out :=
  let n := d.val + 1
  if !s.frozen.contains n then .next (crossWord n inward x parityOk s)
  else if inward || 8 ≤ (crossHeld s n).length then .next s
  else .next { s with cross := Tab.put s.cross n (crossHeld s n ++ [(x, parityOk)]) }

/-- CLOCK_LOSS: the domain's crossing freezes and event 0x025 is raised (01 R29). -/
def execClockLoss (d : Fin 18) (s : State) : Out :=
  if s.frozen.contains (d.val + 1) then .next s
  else .next (raise 0x025 (d.val + 1) none { s with frozen := s.frozen ++ [d.val + 1] })

/-- The port of the crossbar that a transfer names is not isolated. -/
def portOpen (s : State) (n : Nat) : Bool := !s.isoPorts.contains n

end Sys2Proof.Machine
end

