-- ==== Sys2Proof/Machine/Power.lean ====
section
/-!
DEFINITION. Machine/Power.lean: the power supply and its protection, the governor, thermal protection, hot plug and the
optics cages (20 R516 to R534), pace readings and the count window (01 R24 to R26, 00 R540).
-/
namespace Sys2Proof.Machine

/-! ## Caps and targets -/

/-- The effective power cap (20 R517, 0x2060.03). -/
def effCap (s : State) : Nat := if causeOn s 0 then min 160 (s.dget 0x2060 2) else s.dget 0x2060 2

/-- The throttle's limit constrains a rail's target (20 R526, 0x2062.03). -/
def throttled (s : State) : Bool := (List.range 5).any (fun r => s.heatLimit < coolTarget s r)

/-! ## Power-downs (20 R530, R531) -/

/-- The main rails turn off, PWRGD low; the reset begins a start of cause 1, which waits at step 3 (20 R530, steps 4 and 5). -/
def powerDown (s : State) : State :=
  deviceReset 1 (s.dset 0x2065 1 (withBit (s.dget 0x2065 1) 4 false))

/-- What an unclean power-down leaves in MRAM: its count, and event 0x177 at the next start (20 R531). -/
def uncleanMark (s : State) : State :=
  { s.bump 0x2061 4 with nextRaise := s.nextRaise ++ [(0x177, s.dget 0x2000 7 % 8)] }

/-- A protection powers the module down as for an unclean fall of HP_EN: its own count and its event at the next start beside
those of R531 (20 R519, R521, R526; DEDUCED, assumption 21). -/
def protectDown (idx sub src : Nat) (s : State) : State :=
  let s := s.bump idx sub
  powerDown (uncleanMark { s with nextRaise := s.nextRaise ++ [(src, s.anySyn)] }.tick)

/-- Every rail of the module is off: what stands in MRAM and flash stays, and no start runs (20 R516, R532). -/
def allOff (s : State) : State :=
  let n := s.dget 0x2100 3
  let s := powerDown s
  { s.dset 0x2100 3 n with power := 0 }

def execVinApply (s : State) : Out :=
  if s.power = 0 then .next (deviceReset 1 { s with power := 1 }) else .next s

def execStandbyGood (s : State) : Out := if s.power = 1 then .next { s with power := 2 } else .next s

def execUndervoltageLockout (s : State) : Out := .next (allOff s)

def execOvervoltageCutoff (s : State) : Out :=
  if s.power = 0 then .next s else .next { powerDown s with railLock := true }

def execInputLimitTrip (s : State) : Out := if s.power = 0 then .next s else .next (protectDown 0x2061 3 0x172 s)

def execRailFault (s : State) : Out :=
  if s.power = 0 then .next s else .next { protectDown 0x2061 5 0x179 s with railLock := true }

def execThermalShutdown (s : State) : Out := if s.power = 0 then .next s else .next (protectDown 0x2062 4 0x174 s)

/-! ## Hot plug (20 R528 to R532) -/

/-- HP_EN_ASSERT: the host asserts it only with both PRSNT contacts low (20 R529 step 4). -/
def execHpEnAssert (s : State) : Out := .next (s.dset 0x2065 1 (s.dget 0x2065 1 ||| 0b1101))

/-- RAILS_GOOD: PWRGD rises once the rails that HP_EN let ramp are good (20 R529 steps 5 and 6). -/
def execRailsGood (s : State) : Out :=
  if bitOf (s.dget 0x2065 1) 0 && s.power = 2 && !s.railLock then
    .next (s.dset 0x2065 1 (withBit (s.dget 0x2065 1) 4 true)) else .next s

/-- HP_EN_DEASSERT: a planned removal when the device has drained, else an unclean power-down (20 R530, R531). -/
def execHpEnDeassert (s : State) : Out :=
  if bitOf (s.dget 0x2065 1) 0 then
    let s := s.dset 0x2065 1 (withBit (s.dget 0x2065 1) 0 false)
    .next { powerDown (if s.dget 0x2000 7 = 2 then s else uncleanMark s) with railLock := false }
  else .next s

def execAttnAssert (s : State) : Out :=
  .next (setCause 4 true (s.dset 0x2065 1 (withBit (s.dget 0x2065 1) 1 true)))

def execAttnDeassert (s : State) : Out :=
  .next (setCause 4 false (s.dset 0x2065 1 (withBit (s.dget 0x2065 1) 1 false)))

/-- SURPRISE_REMOVAL: HP_EN falls with the contacts, and then VIN (20 R531, R532). -/
def execSurpriseRemoval (s : State) : Out :=
  let s := if s.power = 0 || s.dget 0x2000 7 = 2 then s else uncleanMark s
  .next { allOff (s.dset 0x2065 1 0) with railLock := false }

/-! ## VIN and input power (20 R517, R518) -/

/-- VIN_MEASUREMENT: the 100 µs average (20 R517). -/
def execVinMeasurement (avgMv : BitVec 32) (s : State) : Out :=
  let s := s.dset 0x2061 1 avgMv.toNat
  if avgMv.toNat < 9000 && !causeOn s 0 then .next (raiseAny 0x170 none (setCause 0 true s)) else .next s

/-- VIN_RESTORE_EXPIRY: the average has stayed at 9.3 V or more for 100 ms (20 R517). -/
def execVinRestoreExpiry (s : State) : Out :=
  if causeOn s 0 && 9300 ≤ s.dget 0x2061 1 then .next (setCause 0 false s) else .next s

/-- A cluster that parking for the cap passes over (20 R518). -/
def passedOver (s : State) (p : Petal) (c : Cluster) : Bool :=
  detOn s p c || debugOn s p c || clusterSwaps s p c ||
    (clusterThreads p c).any (fun t => !(holds s t).isEmpty || holdsLock s t.mid || !(s.thr (.thr t)).tops.isEmpty)

/-- The clusters in the order in which the cap parks them: cluster 5 of each petal in turn, then cluster 4, down to 1
(20 R518). -/
def capOrder : List (Petal × Cluster) :=
  ([5, 4, 3, 2, 1] : List Cluster).flatMap (fun c => allPetals.map (fun p => (p, c)))

/-- One more cluster is held for parking, the first that may be (20 R518). -/
def capPark (s : State) : State :=
  match capOrder.find? (fun e => !s.capParked.contains (6 * e.1.val + e.2.val) && !passedOver s e.1 e.2) with
  | none => s
  | some (p, c) =>
    let s := if s.capParked.isEmpty then raiseAny 0x171 none s else s
    holdOn p c 3 true { s with capParked := s.capParked ++ [6 * p.val + c.val] }

/-- INPUT_POWER_MEASUREMENT: above the cap every rail's target falls by 1 index, and at pace 50 a cluster is parked
(20 R518). -/
def execInputPowerMeasurement (watts : BitVec 16) (ma : BitVec 32) (s : State) : Out :=
  let s := (s.dset 0x2060 4 watts.toNat).dset 0x2061 2 ma.toNat
  if watts.toNat ≤ effCap s then .next s
  else if (List.range 5).all (fun r => railTarget s r ≤ 0x0320) then .next (capPark s)
  else
    let lims := (List.range 5).map (fun r => (r, max 0x0320 (railTarget s r - 16)))
    .next { s with capLimit := lims }

/-- POWER_CAP_RESTORE_EXPIRY: input power has stayed 5 % below the cap for 10 ms: the parked clusters return in the reverse
order, then the targets (20 R518). -/
def execPowerCapRestoreExpiry (s : State) : Out :=
  if 100 * s.dget 0x2060 4 ≤ 95 * effCap s then
    let s' := s.capParked.reverse.foldl (fun s k =>
      let p : Petal := ⟨k / 6 % 4, Nat.mod_lt _ (by decide)⟩
      let c : Cluster := ⟨k % 6, Nat.mod_lt _ (by decide)⟩
      unpark p c 3 (holdOn p c 3 false s)) s
    .next (showModes byHardware { s' with capParked := [], capLimit := [] })
  else .next s

/-! ## Phases and temperature (20 R524 to R527) -/

/-- PHASE_FAULT: the phase turns off; the logical phase that it served makes a Sorrel trigger (20 R524, 18 R484). -/
def execPhaseFault (phase : Fin 14) (s : State) : Out :=
  let s := raise 0x175 phase.val none (s.bump 0x2063 1)
  let l := s.domNat 0x2063 0 (8 * phase.val) 1
  if l < 12 then .next (trigger (6 * 2 ^ 28 + l) 5 s) else .next s

/-- JUNCTION_SENSOR_READ: the highest of the 20 readings, in m°C (20 R525 to R527). -/
def execJunctionSensorRead (highest : BitVec 32) (s : State) : Out :=
  let avg := Config.lifeAverage (BitVec.ofNat 32 (s.dget 0x2062 5)) highest
  let s := (s.dset 0x2062 1 highest.toNat).dset 0x2062 5 avg.toNat
  let thr : Int := s.dget 0x2062 2 * 1000
  let hot := (List.range 4).any (fun g => (s.dram g).hot ≠ 0)
  let was := throttled s
  let s := if thr < highest.toInt || hot then { s with heatLimit := max 0x0320 (s.heatLimit - 16) }
    else if highest.toInt < thr - 3000 then { s with heatLimit := min 0x0640 (s.heatLimit + 16) } else s
  if throttled s && !was then .next (raiseAny 0x173 none s) else .next s

/-! ## Optics cages (20 R533) -/

/-- OPTICS_INSERT: a module above 16 W is left in low-power mode (20 R533). -/
def execOpticsInsert (cage : Fin 4) (maxPower : BitVec 8) (s : State) : Out :=
  let w := maxPower.toNat
  let s := refreshPorts cage.val (s.dset 0x2064 (1 + cage.val) (0b11 + b2n (w ≤ 16) * 8 + w * 256))
  if 16 < w then .next (raiseAny 0x176 none s) else .next s

def execOpticsRemove (cage : Fin 4) (s : State) : Out :=
  .next (refreshPorts cage.val (s.dset 0x2064 (1 + cage.val) 0))

/-- CAGE_OVERCURRENT: the rail turns off and the fault bit is set (20 R533). -/
def execCageOvercurrent (cage : Fin 4) (s : State) : Out :=
  let w := s.dget 0x2064 (1 + cage.val)
  .next (raiseAny 0x176 none (s.dset 0x2064 (1 + cage.val) (withBit (withBit w 1 false) 2 true)))

/-- A write of 1 to a cage's power restore turns the rail of a faulted cage on (20 R533). -/
def effCageRestore (n : Nat) (data : List Byte) (s : State) : Except Abort State :=
  let w := s.dget 0x2064 (1 + n)
  .ok (if leNat data = 1 && bitOf w 2 then s.dset 0x2064 (1 + n) (withBit (withBit w 2 false) 1 true) else s)

def execCagePowerRestore (w : Writer) (cage : Fin 4) (v : BitVec 8) (s : State) : Out :=
  .next (dictCmd w 0x2064 (5 + cage.val) 0 (leBytes 1 v.toNat) none (effCageRestore cage.val (leBytes 1 v.toNat)) s)

/-! ## Pace readings (01 R24 to R26) and the governor's loop (20 R522, R523) -/

/-- The entry of a pace monitor: index and sub (01). -/
def paceEntry : PaceUnit → Nat × Nat
  | .stem => (0x2010, 0x10)
  | .cowslip => (0x2010, 0x11)
  | .cluster p c => (pix 0x3010 p, 0x10 + c.val)
  | .teasel p => (pix 0x3010 p, 0x16)
  | .parser p => (pix 0x3010 p, 0x17)
  | .tables p => (pix 0x3010 p, 0x18)

/-- The rail that carries a monitor's unit: a petal's, or the stem's, 4 (20 R521). -/
def paceRail : PaceUnit → Nat
  | .stem => 4
  | .cowslip => 4
  | .cluster p _ => p.val
  | .teasel p => p.val
  | .parser p => p.val
  | .tables p => p.val

/-- The lowest of a list of readings, none for no reading. -/
def lowest : List Nat → Option Nat
  | [] => none
  | a :: l => some (l.foldl min a)

/-- The readings of the DETERMINISTIC clusters on a rail (20 R522). -/
def detReads (s : State) (r : Nat) : List Nat :=
  if h : r < 4 then
    paceReads s ((allClusters.filter (fun c => detOn s ⟨r, h⟩ c)).map (fun c => (0x3010 + 0x400 * r, 0x10 + c.val)))
  else []

/-- The governor's loop on a rail after a reading (20 R522, R523): 1 mV and no dead band with a DETERMINISTIC cluster, else
5 mV; towards 0.90 V while a monitor of the rail has raised 0x024. A reading that leaves the voltage as it is has found the rail
at its target. -/
def governor (r : Nat) (s : State) : State :=
  let v := s.dget 0x2060 (0x18 + r)
  let tgt := railTarget s r
  let boosted := s.boost.any (fun (e : Nat × Nat) => (railEntries r).contains (e.1 / 256, e.1 % 256))
  let det := lowest (detReads s r)
  let v' :=
    if boosted then v + 5
    else match det, lowest (paceReads s (railEntries r)) with
      | some d, _ => if d < tgt then v + 1 else if tgt < d then v - 1 else v
      | none, some a => if a + 8 < tgt then v + 5 else if tgt + 8 < a then v - 5 else v
      | none, none => v
  let new := max 600 (min 900 v')
  let s := if !boosted && new = v then { s with paceSet := Tab.put s.paceSet r tgt } else s
  s.dset 0x2060 (0x18 + r) new

/-- PACE_READING: a monitor's new reading; the third below the floor in a row raises 0x024, once in a window, for as long as
the condition lasts (01 R26). -/
def execPaceReading (u : PaceUnit) (v : BitVec 16) (s : State) : Out :=
  let e := paceEntry u
  let k := dk e.1 e.2
  let s := s.dset e.1 e.2 v.toNat
  let fl := s.dget 0x2010 0x20
  let low := fl ≠ 0 && v ≠ 0 && v.toNat < fl
  let n := if low then Tab.get 0 s.paceLow k + 1 else 0
  let s := { s with paceLow := Tab.set 0 s.paceLow k (min n 3) }
  let s := if 3 ≤ n then
      let s := raiseOnce (0x02400000 + k) 0x024 e.1 none (leBytes 2 e.1 ++ leBytes 2 e.2 ++ leBytes 2 v.toNat) s
      { s with boost := Tab.put s.boost k 0 }
    else match Tab.find s.boost k with
      | none => s
      | some m =>
        if fl < v.toNat then
          (if 99 ≤ m then { s with boost := Tab.erase s.boost k } else { s with boost := Tab.put s.boost k (m + 1) })
        else { s with boost := Tab.put s.boost k 0 }
  let s := ecoSync (governor (paceRail u) s)
  .next (showModes (asked s 2) s)

/-- COUNT_WINDOW_BOUNDARY: device time reaches the next multiple of 10^6 ns; counts and once-per-window marks restart
(00 R540). -/
def execCountWindowBoundary (s : State) : Out :=
  .next (if s.frozen.contains 13 then s else { s with time := (s.time / 1000000 + 1) * 1000000, win := [] })

end Sys2Proof.Machine
end

