-- ==== Sys2Proof/Machine/Mailboxes.lean ====
section
/-!
DEFINITION. Machine/Mailboxes.lean: the lock-register windows, the pin list and the mailboxes (11 R302 to R313).
-/
namespace Sys2Proof.Machine

/-- The answer to an access of a window: the bytes read (none for a write), or an access fault. -/
inductive WinAns where
  | data (l : List Byte)
  | refused
deriving DecidableEq, Repr

/-! ## The lock-register windows (11 R304, R305) -/

/-- The image of a lock word (11 R292). -/
def lockImage (s : State) (key : Nat) : Nat := lockUser s key + lockImageHi s key (lockAban s key) * 2 ^ 32

/-- A window's result word: the status and the user field as it stands (11 R305). -/
def winResult (s : State) (key st : Nat) : WinAns := .data (leBytes 8 (st % 256 + lockUser s key * 2 ^ 32))

/-- A window master's standing on a lock: 0 or 1 when it holds the lock, 6 when it waits on it, 5 otherwise (11 R305). -/
def winPoll (s : State) (key mid : Nat) : Nat :=
  match Tab.find s.holders key with
  | some h => if h.mid = mid then b2n h.aban
    else if s.waiters.any (fun w => w.key == key && w.mid == mid && w.rd.isNone) then 6 else 5
  | none => 5

/-- A window ACQUIRE: a window master has at most one queued request; BUSY while it waits on another lock, QUEUED again on
this one (11 R305; DEDUCED, assumption 22). -/
def winAcquire (key mid : Nat) (s : State) : State × Nat :=
  let other := s.waiters.find? (fun w => w.mid == mid && w.rd.isNone)
  match Tab.find s.holders key, other with
  | some _, some w =>
    (reImage key (endResv key s), if pinned s key && !mayPin mid then 4 else if w.key = key then 6 else 2)
  | _, _ =>
    match lockAcquire key mid (s.dget 0x9000 2) false none s with
    | (s, .status n) => (s, n)
    | (s, .waits) => (s, 6)

/-- An access to the lock-register windows at a byte offset from 0x0040_0000_0000, already checked against the region table:
`wr` is the value written (11 R304). -/
def lockWindow (mid off size : Nat) (wr : Option Nat) (s : State) : State × WinAns :=
  let n := s.dget 0x9000 1
  let op := off / 2 ^ 30 % 4
  let dbg := mid / 4096 == 3
  let key := n * 2 ^ 30 + off % 2 ^ 30
  if size ≠ 8 || off % 8 ≠ 0 || n = 0xFF || s.noDram || (wr.isSome && (op < 2 || dbg)) then (s.bump 0x9000 6, .refused)
  else match wr with
    | none =>
      if dbg || op = 3 then (s, .data (leBytes 8 (lockImage s key)))
      else if op = 2 then (s, winResult s key (winPoll s key mid))
      else if op = 1 then
        match lockAcquire key mid (s.dget 0x9000 2) true none s with
        | (s, .status st) => (s, winResult s key st)
        | (s, .waits) => (s, winResult s key 6)
      else
        let r := winAcquire key mid s
        (r.1, winResult r.1 key r.2)
    | some v =>
      if op = 2 then (withdrawSel (fun w => w.key == key && w.mid == mid && w.rd.isNone) s, .data [])
      else
        let r := lockRelease key mid (bitOf v 32) (v % 2 ^ 32) (bitOf v 33) s
        (if r.2.1 = 5 then r.1.bump 0x9000 7 else r.1, .data [])

/-- What a master sees of an answer of a window, with a core thread's refused store imprecise (06 R175). -/
def winAnswer (m a : Nat) (wr : Bool) (r : State × WinAns) : State :=
  match r.2 with
  | .data l => if wr then r.1 else r.1.emit (.readData m a l)
  | .refused =>
    match threadOf m, wr with
    | some t, true => refuseStore (.thr t) a (r.1.thr (.thr t)).pc r.1
    | _, _ => r.1.emit (.accessFault m a)

/-- The checks of an address before a window sees an access (01 R35 to R38): a refused request is reported. -/
def winChecked (m a : Nat) (wr : Bool) (f : State → State × WinAns) (s : State) : State × WinAns :=
  match checkAccess m a wr s with
  | .ok _ => f s
  | r => (accessEvent m a r s, .refused)

/-- A command on the lock-register windows: OP `op`, byte offset `off` within it. -/
def lockWinCmd (op : Nat) (m : BitVec 16) (off : BitVec 30) (size : Nat) (wr : Option Nat) (s : State) : State :=
  let o := op * 2 ^ 30 + off.toNat
  let a := 0x004000000000 + o
  winAnswer m.toNat a wr.isSome (winChecked m.toNat a wr.isSome (lockWindow m.toNat o size wr) s)

def execLockWindowAcquire (m : BitVec 16) (off : BitVec 30) (size : Nat) (s : State) : Out :=
  .next (lockWinCmd 0 m off size none s)

def execLockWindowTry (m : BitVec 16) (off : BitVec 30) (size : Nat) (s : State) : Out :=
  .next (lockWinCmd 1 m off size none s)

def execLockWindowPoll (m : BitVec 16) (off : BitVec 30) (size : Nat) (s : State) : Out :=
  .next (lockWinCmd 2 m off size none s)

def execLockWindowCancel (m : BitVec 16) (off : BitVec 30) (size : Nat) (s : State) : Out :=
  .next (lockWinCmd 2 m off size (some 0) s)

def execLockWindowPeek (m : BitVec 16) (off : BitVec 30) (size : Nat) (s : State) : Out :=
  .next (lockWinCmd 3 m off size none s)

def execLockWindowRelease (m : BitVec 16) (off : BitVec 30) (size : Nat) (data : BitVec 64) (s : State) : Out :=
  .next (lockWinCmd 3 m off size (some data.toNat) s)

/-! ## The pin list (11 R302) -/

/-- Entries of 8 bytes of a list of bytes. -/
def words8 (data : List Byte) : List Nat := (List.range (data.length / 8)).map (fun i => sliceNat data (8 * i) 8)

/-- A write of the pin list: an address newly listed must not be held by a master that may not take pinned locks. -/
def effPin (off : Nat) (data : List Byte) (s : State) : Except Abort State :=
  let ws := words8 data
  let fresh := ws.filter (fun e => bitOf e 63 && !(List.range 64).any (fun i => s.domNat 0x9000 4 (8 * i) 8 == e))
  if ws.any (fun e => bitsOf e 62 48 ≠ 0 || e % 8 ≠ 0) then .error 0x06090030
  else if fresh.any (fun e => s.holders.any (fun (h : Nat × Holder) => lockAddr h.1 == e % 2 ^ 48 && !mayPin h.2.mid)) then
    .error 0x08000022
  else .ok (plainDomain 0x9000 4 off data s)

def execPinListWrite (w : Writer) (off : Nat) (data : List Byte) (s : State) : Out :=
  .next (dictCmd w 0x9000 4 off data none (effPin off data) s)

/-! ## Mailboxes (11 R307 to R312) -/

/-- A master ID that a binding may name: a core thread, a host function, Golne firmware. -/
def mboxParty (m : Nat) : Bool := (m / 4096 == 0 || (m / 4096 == 1 && m ≠ 0x1400) || m == 0x2000) && validMid m

/-- A write of the binding table (11 R307). -/
def effMboxBind (off : Nat) (data : List Byte) (s : State) : Except Abort State :=
  if s.dget 0x9011 1 = 1 then .error 0x08000022
  else if (words8 data).any (fun e => bitsOf e 63 33 ≠ 0 ||
      !(mboxParty (bitsOf e 15 0) && mboxParty (bitsOf e 31 16))) then .error 0x06090030
  else .ok (plainDomain 0x9010 0 off data s)

def execMailboxBindingWrite (w : Writer) (off : Nat) (data : List Byte) (s : State) : Out :=
  .next (dictCmd w 0x9010 0 off data none (effMboxBind off data) s)

/-- The bound sender of a mailbox. -/
def mboxSend (s : State) (m : Nat) : Option Nat :=
  let e := s.domNat 0x9010 0 (8 * m) 8
  if bitOf e 32 then some (bitsOf e 15 0) else none

/-- The state with a mailbox changed. -/
def updMbox (m : Nat) (f : Mbox → Mbox) (s : State) : State := { s with mboxes := Tab.put s.mboxes m (f (s.mbox m)) }

/-- A master may reach a mailbox: Golne firmware, the debugger's reads, and the bound sender and receiver (11 R307). -/
def mboxMay (s : State) (mb mid : Nat) : Bool :=
  mid == 0x2000 || mid / 4096 == 3 || mboxSend s mb == some mid || mboxRecv s mb == some mid

/-- Delivers an event of a mailbox to a core thread or to Golne firmware, or raises a function's management vector
(11 R310, R311; 14 R388). -/
def mboxTell (mid src syn : Nat) (s : State) : State :=
  match hartOf mid with
  | some h => deliver h src syn (raise src syn none s)
  | none => if mid / 4096 = 1 then msix mid 0 s else s

/-- A receiver's cluster that is parked by ECO, or by the power cap as by ECO, unparks (11 R311). -/
def mboxUnpark (mid : Nat) (s : State) : State :=
  match midCluster mid with
  | some (p, c) => showModes byHardware (ecoSync (unpark p c 3 (unpark p c 2 s)))
  | none => s

/-- An accepted GO (11 R309, R311); event 0x0C0 + m has a syndrome that the spec does not lay out (DESIGN CHOICE, assumption 3). -/
def mboxGo (mb len : Nat) (s : State) : State :=
  let full := (s.mbox mb).full
  let s := updMbox mb (fun x => { x with
    vis := x.stage, len := len, seq := (x.seq + 1) % 2 ^ 16, full := true, timer := true, collision := x.collision || full }) s
  let s := s.bump (0x9040 + mb) 2
  let s := if full then s.bump (0x9040 + mb) 3 else s
  match mboxRecv s mb with
  | some r => mboxUnpark r (mboxTell r (0x0C0 + mb) s.anySyn s.tick)
  | none => s

/-- A TAKE with its TSEQ (11 R309). -/
def mboxTake (mb tseq : Nat) (s : State) : State :=
  let x := s.mbox mb
  if x.full && tseq = x.seq then updMbox mb (fun x => { x with full := false, timer := false }) s
  else s.bump (0x9040 + mb) 5

/-- A write of CTRL (11 R308): GO by the sender, TAKE by the receiver; reserved values of LEN and a write with both are
refused, reserved bits are ignored (00 R8). -/
def mboxCtrl (mb mid v : Nat) (s : State) : State × WinAns :=
  let go := bitOf v 0
  let take := bitOf v 1
  let len := bitsOf v 8 4
  if (go && take) || (go && mboxSend s mb ≠ some mid) || (take && mboxRecv s mb ≠ some mid) ||
      (go && (len = 0 || 16 < len)) then (s, .refused)
  else if go then (mboxGo mb len s, .data [])
  else if take then (mboxTake mb (bitsOf v 31 16) s, .data [])
  else (s, .data [])

/-- The STATUS register of a mailbox (11 R308). -/
def mboxStatus (x : Mbox) : Nat :=
  x.seq % 2 ^ 16 * 2 ^ 16 + x.len % 32 * 256 + b2n x.timeout * 4 + b2n x.collision * 2 + b2n x.full

/-- A write of STATUS: 1s clear TIMEOUT and COLLISION for the sender; from others it changes nothing (11 R308;
DEDUCED, assumption 22). -/
def mboxClear (mb mid v : Nat) (s : State) : State :=
  if mboxSend s mb = some mid then
    updMbox mb (fun x => { x with timeout := x.timeout && !bitOf v 2, collision := x.collision && !bitOf v 1 }) s
  else s

/-- A 4-byte write of a mailbox, its master allowed (11 R308): MSG goes to staging but is refused from the receiver; writes to
reserved offsets are ignored. -/
def mboxWrite4 (mid off v : Nat) (s : State) : State × WinAns :=
  let mb := off / 256 % 64
  let o := off % 256
  if o < 0x40 then
    if mboxRecv s mb = some mid && mboxSend s mb ≠ some mid then (s, .refused)
    else (updMbox mb (fun x => { x with stage := Tab.set 0 x.stage (o / 4) (v % 2 ^ 32) }) s, .data [])
  else if o = 0x40 then mboxCtrl mb mid v s
  else if o = 0x44 then (mboxClear mb mid v s, .data [])
  else (s, .data [])

/-- A 4-byte read of a mailbox (11 R308): staging for the sender, the visible copy for the others; CTRL is write-only and
reads 0 (DEDUCED, assumption 22), as do reserved offsets. -/
def mboxRead4 (mid off : Nat) (s : State) : Nat :=
  let mb := off / 256 % 64
  let o := off % 256
  let x := s.mbox mb
  if o < 0x40 then Tab.get 0 (if mboxSend s mb = some mid then x.stage else x.vis) (o / 4)
  else if o = 0x44 then mboxStatus x else 0

/-- An access to the mailbox block at a byte offset, already checked against the region table (11 R307): 4 aligned bytes, or
an aligned 8-byte write of a MSG pair as two. -/
def mboxWindow (mid off size : Nat) (wr : Option Nat) (s : State) : State × WinAns :=
  let mb := off / 256 % 64
  if !mboxMay s mb mid then (accessEvent mid (0x005000000000 + off) .refused s, .refused)
  else match wr with
    | none => if size = 4 && off % 4 = 0 then (s, .data (leBytes 4 (mboxRead4 mid off s))) else (s, .refused)
    | some v =>
      if size = 4 && off % 4 = 0 then mboxWrite4 mid off v s
      else if size = 8 && off % 8 = 0 && off % 256 < 0x40 then
        match mboxWrite4 mid off (v % 2 ^ 32) s with
        | (s, .data _) => mboxWrite4 mid (off + 4) (v / 2 ^ 32) s
        | r => r
      else (s, .refused)

/-- A command on a mailbox register. -/
def mboxCmd (m : BitVec 16) (mb : Fin 64) (o : Nat) (v : BitVec 32) (s : State) : State :=
  let off := 256 * mb.val + o
  let a := 0x005000000000 + off
  winAnswer m.toNat a true (winChecked m.toNat a true (mboxWindow m.toNat off 4 (some v.toNat)) s)

def execMailboxMsgWrite (m : BitVec 16) (mb : Fin 64) (reg : Fin 16) (v : BitVec 32) (s : State) : Out :=
  .next (mboxCmd m mb (4 * reg.val) v s)

/-- MAILBOX_GO: a write of CTRL with its word. -/
def execMailboxGo (m : BitVec 16) (mb : Fin 64) (ctrl : BitVec 32) (s : State) : Out := .next (mboxCmd m mb 0x40 ctrl s)

/-- MAILBOX_TAKE: a write of CTRL with its word. -/
def execMailboxTake (m : BitVec 16) (mb : Fin 64) (ctrl : BitVec 32) (s : State) : Out := .next (mboxCmd m mb 0x40 ctrl s)

def execMailboxStatusClear (m : BitVec 16) (mb : Fin 64) (v : BitVec 32) (s : State) : Out := .next (mboxCmd m mb 0x44 v s)

/-- MAILBOX_TIMEOUT: FULL is still 1 when the timer that the last GO started runs out (11 R310). -/
def execMailboxTimeout (mb : Fin 64) (s : State) : Out :=
  let x := s.mbox mb.val
  if x.full && x.timer then
    let s := (updMbox mb.val (fun x => { x with timeout := true, timer := false }) s).bump (0x9040 + mb.val) 4
    match mboxSend s mb.val with
    | some m => .next (mboxTell m 0x09A mb.val s)
    | none => .next s
  else .next s

end Sys2Proof.Machine
end

