-- ==== Sys2Proof/Machine/DictEffects.lean ====
section
/-!
DEFINITION. Machine/DictEffects.lean: what an accepted write of each dictionary entry does (step 12 of 16 R424 and the owning
chapters' effects), what a read of each entry answers, and the accesses that the dictionary's entries perform.
-/
namespace Sys2Proof.Machine

/-! ## Names of an entry's unit -/

/-- The petal of an index of 0x3000 to 0x3FFF (16 R419). -/
def idxPetal (idx : Nat) : Petal := ⟨(idx - 0x3000) / 0x400 % 4, Nat.mod_lt _ (by decide)⟩

/-- Cluster `n` of a petal. -/
def clusterNo (n : Nat) : Cluster := ⟨n % 6, Nat.mod_lt _ (by decide)⟩

/-- Logical core `n` of a petal as a core. -/
def coreNo (p : Petal) (n : Nat) : CoreId := ⟨p, clusterNo (n / 8), ⟨n % 8, Nat.mod_lt _ (by decide)⟩⟩

/-- The core of a debug entry's index (19, before R508). -/
def dbgCore (idx : Nat) : CoreId := coreNo ⟨(idx - 0x8100) / 0x40 % 4, Nat.mod_lt _ (by decide)⟩ ((idx - 0x8100) % 0x40)

/-- Thread `n` of a core. -/
def threadNo (k : CoreId) (n : Nat) : ThreadId := k.thread ⟨n % 8, Nat.mod_lt _ (by decide)⟩

/-- The collector of an index of the fault collectors. -/
def idxColl (idx : Nat) : Collector := if idx = 0x2200 then .device else .petal ⟨(idx - 0x2210) % 4, Nat.mod_lt _ (by decide)⟩

/-! ## Further conditions of plain entries -/

/-- The bytes that 16 segment descriptors take together (03 R77). -/
def segSum (s : State) (idx lo n : Nat) : Nat := ((List.range n).map (fun i => s.dget idx (lo + i) % 32)).sum

/-- A segment descriptor that holds a reserved value (03 R77, 04 R119): LEN above 16, an unassigned metadata item, or more
bytes together than `cap`. -/
def segReserved (s : State) (idx lo n cap sub v : Nat) : Bool :=
  16 < v % 32 || (bitOf v 15 && 4 < bitsOf v 14 9) || cap < segSum (s.dset idx sub v) idx lo n

/-- The cases that owning chapters refuse on a scalar entry of their own with 0x0609_0030. -/
def scalarRefused (idx sub v : Nat) (s : State) : Bool :=
  let b := (idx - 0x3000) % 0x400
  if 0x3000 ≤ idx ∧ idx < 0x4000 then
    if b = 0x103 && sub ≤ 6 then bitsOf v 31 30 == 3
    else if b = 0x105 && 0x10 ≤ sub then segReserved s idx 0x10 16 38 sub v
    else if b = 0x3A0 then
      (let s' := s.dset idx sub v
       33554432 < ((List.range 5).map (fun k => s'.dget idx (k + 1) * poolSize k)).sum)
    else false
  else if idx = 0x4C03 then 2 ≤ bitsOf v 29 28
  else if idx = 0x5300 && sub = 3 then bitsOf v 31 30 == 3
  else if idx = 0x5300 && 0x10 ≤ sub then segReserved s idx 0x10 8 40 sub v
  else if idx = 0x4300 && sub = 3 then (let a := toSigned 32 v; a < -128000000 || 128000000 < a)
  else if idx = 0x4C01 then (let s' := s.dset idx sub v; 16 < ((List.range 4).map (fun k => s'.dget idx (k + 1))).sum)
  else if idx = 0x4C02 then v ≠ 255 && overlapsArea s [0, 1, 2, 3, 4, 5] (v * 2 ^ 30) (v * 2 ^ 30 + 134217728)
  else false

/-- The bits of a plain scalar that take what is written, for the field maps that leave bits reserved (00 R8). -/
def scalarMask (idx sub : Nat) : Nat :=
  let b := (idx - 0x3000) % 0x400
  if 0x3000 ≤ idx ∧ idx < 0x4000 then
    if b = 0x103 && sub ≤ 6 then 0xC0003FFF
    else if b = 0x202 then 0x87FFFFFF
    else if b = 0x380 && sub = 1 then 0x1FC
    else 2 ^ 64 - 1
  else if idx = 0x4C03 then 0xF8000000
  else if idx = 0x5400 then 0x3FFFFFFF
  else if idx = 0x5300 && sub = 3 then 0xFFFF0000
  else if idx = 0x7500 && sub = 2 then 2 ^ 48 - 1
  else 2 ^ 64 - 1

/-- The route table (18 R474): THREAD names a core thread where DELIVER is 1; reserved bits stay 0. -/
def effRoutes (off : Nat) (data : List Byte) (s : State) : Except Abort State :=
  let words := (List.range (data.length / 8)).map (fun i => leNat (slice data (8 * i) 8))
  if words.any (fun e => bitOf e 63 && (threadOf (e % 2 ^ 16)).isNone) then .error 0x06090030
  else .ok (s.domWrite 0x2400 0 off (words.flatMap (fun e => leBytes 8 (e &&& (0xF0E0 * 2 ^ 48 + 0xFFFF)))))

/-- The egress binding table (13 R348): bits [30:16] are 0. -/
def effBindings (off : Nat) (data : List Byte) (s : State) : Except Abort State :=
  .ok (s.domWrite 0x4C05 0 off ((List.range (data.length / 4)).flatMap (fun i =>
    leBytes 4 (leNat (slice data (4 * i) 4) &&& 0x8000FFFF))))

/-- Principal roots and image signing keys (17): byte 0 is 0 or 1, and so is a root's role. -/
def effKeys (sub off : Nat) (data : List Byte) (s : State) : Except Abort State :=
  let recs := (List.range (data.length / 128)).map (fun i => slice data (128 * i) 128)
  if recs.any (fun r => 1 < (r.getD 0 0).toNat || (sub = 3 && 1 < (r.getD 1 0).toNat)) then .error 0x06090030
  else .ok (plainDomain 0x2120 sub off data s)

/-- A parse bank's program is written only while another bank is in use (03 R63). -/
def effParseProgram (p : Petal) (bank off : Nat) (data : List Byte) (s : State) : Except Abort State :=
  if s.dget (pix 0x3100 p) 2 = bank then .error 0x08000022 else .ok (plainDomain (pix (0x3101 + bank) p) 0 off (maskNodes off data) s)

/-- A customer bank is written only while no thread uses it (10 R288); the microwords written are good again (R290). -/
def effCustProgram (p : Petal) (bank off : Nat) (data : List Byte) (s : State) : Except Abort State :=
  let used := s.dget (pix 0x3381 p) 2 = bank ||
    allClusters.any (fun c => (clusterThreads p c).any (fun t => (s.thr (.thr t)).bank == bank &&
      ((s.slot t).cur).isSome))
  if used then .error 0x08000022
  else .ok ((plainDomain (pix (0x3382 + bank) p) 0 off data s).updPet p (fun r => { r with
    microBad := r.microBad.filter (fun w => w / 4096 != bank ||
      0x800 + w % 4096 * 8 + 8 ≤ off || off + data.length ≤ 0x800 + w % 4096 * 8) }))

/-- A cluster's pipeline control (07 R204): PRED_EN falling to 0 clears the predictors and the return stacks. -/
def effPipe (idx : Nat) (data : List Byte) (s : State) : Except Abort State :=
  let s := plainScalar idx 1 data s
  let p := idxPetal idx
  let c := clusterNo ((idx - 0x3000) % 0x400 - 0x320)
  if bitOf (s.dget idx 1) 1 then .ok s
  else
    let s := (coresOf p c).foldl (fun s k => s.updCore k (fun x => { x with pred := [] })) s
    .ok ((clusterThreads p c).foldl (fun s t => s.updThr (.thr t) (fun x => { x with rstack := [] })) s)

/-- A cache maintenance command of a core thread (08 R235 to R238): reserved fields are refused. -/
def effCacheOp (t : ThreadId) (data : List Byte) (s : State) : Except Abort State :=
  let v := leNat data
  let op := bitsOf v 63 60
  let sel := bitsOf v 59 58
  let level := bitsOf v 57 56
  let count := bitsOf v 55 48
  let addr := v % 2 ^ 48
  if cacheReserved op sel level count addr then .error 0x06090030 else .ok (cacheOp t op sel level count addr s)

/-! ## Writes -/

/-- A result of an effect on Except as a state and an abort code; a refusal leaves the state. -/
def settle (s : State) (r : Except Abort State) : State × Option Abort :=
  match r with
  | .ok s => (s, none)
  | .error c => (s, some c)

/-- The effect of a plain scalar: refused values of the owning chapter, then its writable bits. -/
def effScalar (idx sub : Nat) (data : List Byte) (s : State) : Except Abort State :=
  let v := leNat data
  if scalarRefused idx sub v s then .error 0x06090030
  else if tableScalar idx sub then .ok (tableScalarWrite idx sub (v &&& scalarMask idx sub) s)
  else
    let s' := bumpGen idx sub (s.dset idx sub (v &&& (writeMask idx sub &&& scalarMask idx sub)))
    .ok (if idx = 0x1E00 && sub = 3 && v ≠ 0 then s'.bump 0x1E00 5 else s')

/-- The effect of a write of an entry of a petal. -/
def petalEffect (w : Writer) (idx sub off : Nat) (data : List Byte) (s : State) : Except Abort State :=
  let p := idxPetal idx
  let b := (idx - 0x3000) % 0x400
  let v := leNat data
  if b = 0 && sub = 1 then effMode (.petal p) data s
  else if b = 0 && sub = 0x0A then .ok (syncModes byHardware (plainScalar idx sub data s))
  else if 1 ≤ b && b ≤ 6 && sub = 1 then effMode (.cluster p (clusterNo (b - 1))) data s
  else if b = 0x100 && sub = 1 then effBank true w.mid p data s
  else if b = 0x101 || b = 0x102 then effParseProgram p (b - 0x101) off data s
  else if b = 0x107 then effRules p off data s
  else if b = 0x108 then effLists p off data s
  else if b = 0x109 then effTemplates p off data s
  else if b = 0x203 || (b = 0x200 && (sub = 2 || sub = 0x0F || sub = 0x10)) then effPause p idx sub data s
  else if 0x320 ≤ b && b ≤ 0x325 && sub = 1 then effPipe idx data s
  else if 0x328 ≤ b && b ≤ 0x32D && 1 ≤ sub && sub ≤ 4 then .ok (lockWord p (clusterNo (b - 0x328)) (sub - 1) v s)
  else if b = 0x330 && sub = 1 then
    (match w with
     | .core t => effCacheOp t data s
     | _ => .error 0x06010002)
  else if b = 0x341 then effBinding p off data s
  else if b = 0x342 && sub = 1 then effChannelCmd p data s
  else if b = 0x342 && sub = 2 then effPost p data s
  else if 0x350 ≤ b && b < 0x380 then
    let k := coreNo p (b - 0x350)
    if sub ≤ 9 then effShare k sub data s
    else if sub = 0x0A then effPart p idx data s
    else effThreadCmd k data s
  else if b = 0x381 && sub = 1 then effBank false w.mid p data s
  else if b = 0x382 || b = 0x383 then effCustProgram p (b - 0x382) off data s
  else if b = 0x3A0 then
    if scalarRefused idx sub v s then .error 0x06090030 else effThreshold p idx sub data s
  else if b = 0x3A1 || b = 0x3A2 then effThreshold p idx sub data s
  else if b = 0x3A4 then effFree w p data s
  else if b = 0x3A5 && sub ≤ 2 then effSpillArea p sub data s
  else if b = 0x3A6 && sub = 3 then .ok (if v = 1 then sketchClear p s else s)
  else if b = 0x3B0 && sub = 1 then effPolicers p off data s
  else match entrySpec idx sub with
    | some e => if (scalSize e.ty).isSome then effScalar idx sub data s else .ok (plainDomain idx sub off data s)
    | none => .error 0x06090011

/-- The job descriptor's address as a write of 0x4C20.01 (13 R359): core threads and Golne firmware only; refusals counted. -/
def effJob (w : Writer) (data : List Byte) (s : State) : State × Option Abort :=
  let a := leNat data
  let may := match w with
    | .core _ => true
    | .golne g => g.val == 0
    | _ => false
  let r : Except Abort State :=
    if !may then .error 0x06010000
    else if a % 64 ≠ 0 || !inGeneral s a 64 then .error 0x06090030
    else jobSubmit w.mid a s
  match r with
  | .ok s => (s, none)
  | .error c => (s.bump 0x4C20 3, some c)

/-- The body of an SA command in its DOMAIN entry (13 R351): OP, index, and the 128 bytes. -/
def effSa (data : List Byte) (s : State) : State × Option Abort :=
  let op := (data.getD 0 0).toNat
  if data.length ≠ 136 || op = 0 || 4 < op || (slice data 1 3).any (· ≠ 0) then (s, some 0x06090030)
  else saCommand op (leNat (slice data 4 4)) (data.drop 8) s

/-- The effect of a write of an entry of the device. -/
def deviceEffect (w : Writer) (idx sub off : Nat) (data : List Byte) (s : State) : Except Abort State :=
  let v := leNat data
  if idx = 0x2000 && sub = 1 then effMode .device data s
  else if idx = 0x2000 && sub = 0x0B then effAutoEntry data s
  else if idx = 0x2030 then pageWrite off data s
  else if idx = 0x2040 then effScope data s
  else if idx = 0x2064 then effCageRestore (sub - 5) data s
  else if idx = 0x2100 && sub = 7 then effRestart data s
  else if idx = 0x2102 && sub = 5 then .ok (if v = 1 then clearFails s else s)
  else if idx = 0x2110 && sub = 2 then effAck data s
  else if idx = 0x2120 && (sub = 3 || sub = 4) then effKeys sub off data s
  else if idx = 0x2120 && sub = 6 then effMinVersion off data s
  else if idx = 0x2130 && sub = 1 then effActivate w.mid data s
  else if idx = 0x2131 then effPartition sub off data s
  else if (idx = 0x2200 || (0x2210 ≤ idx && idx < 0x2214)) && 1 ≤ sub && sub ≤ 3 then
    effClear (idxColl idx) (if sub = 1 then .ce else if sub = 2 then .ucc else .fatal) data s
  else if idx = 0x2220 && sub = 3 then effDumpAck data s
  else if idx = 0x2220 && sub = 6 then effRestartPetal data s
  else if idx = 0x2220 && sub = 7 then .ok (raiseFatal ⟨v % 4, Nat.mod_lt _ (by decide)⟩ 4 w.mid s)
  else if idx = 0x2220 && sub = 0x0A then effPortReset data s
  else if idx = 0x2221 then .error 0x06010002
  else if idx = 0x2300 && sub = 2 then effSorrel data s
  else if idx = 0x2400 then effRoutes off data s
  else if 0x4000 ≤ idx && idx < 0x4200 && sub = 1 then effPortState idx sub data s
  else if 0x4000 ≤ idx && idx < 0x4200 && (sub = 6 || (0x0A ≤ sub && sub ≤ 0x11)) then effShaper idx sub data s
  else if 0x4200 ≤ idx && idx < 0x4240 && sub = 1 then effPortState idx sub data s
  else if idx = 0x4300 && sub = 2 then effTimeOffset data s
  else if (idx = 0x4400 || idx = 0x4440) && sub = 1 then effHostMode ((idx - 0x4400) / 0x40) data s
  else if 0x4480 ≤ idx && idx < 0x4488 then effPf (idx - 0x4480) sub data s
  else if idx = 0x4500 && sub ≤ 2 then effExport sub data s
  else if idx = 0x4500 then effWindows off data s
  else if idx = 0x4C05 then effBindings off data s
  else if 0x6000 ≤ idx && idx < 0x7000 then
    effQueue ⟨(idx - 0x6000) / 0x400 % 4, Nat.mod_lt _ (by decide)⟩ (16 * ((idx - 0x6000) % 0x400) + (sub - 1)) off data s
  else if 0x7000 ≤ idx && idx < 0x7500 && sub = 2 then effChain ((idx - 0x7000) / 0x100) off data s
  else if 0x7000 ≤ idx && idx < 0x7500 && sub = 3 then effSnapshot ((idx - 0x7000) / 0x100) data s
  else if 0x7500 ≤ idx && idx < 0x7504 then effTag ⟨(idx - 0x7500) % 4, Nat.mod_lt _ (by decide)⟩ sub data s
  else if 0x7600 ≤ idx && idx < 0x7640 then effHist idx sub data s
  else if idx = 0x8000 && sub = 1 then .ok (presentPermit w.mid data s)
  else if idx = 0x8000 && sub = 3 then effRelock data s
  else if 0x8100 ≤ idx && idx < 0x8200 then
    let k := dbgCore idx
    if sub = 1 then effHalt k data s
    else if sub ≤ 8 then effBreak idx sub data s
    else effThreadState (threadNo k (sub - 0x10)) off data s
  else if idx = 0x8200 then effLane sub data s
  else if idx = 0x9000 && sub = 3 then effForced data s
  else if idx = 0x9000 && sub = 4 then effPin off data s
  else if idx = 0x9010 then effMboxBind off data s
  else match entrySpec idx sub with
    | some e => if (scalSize e.ty).isSome then effScalar idx sub data s else .ok (plainDomain idx sub off data s)
    | none => .error 0x06090011

/-- What a refused write leaves behind beside its answer, as the owning chapters say: event 0x029 of a DEBUG request, the
record of a refused bank, the count of a rule's refusal. -/
def refusalNote (w : Writer) (idx sub : Nat) (data : List Byte) (c : Abort) (s : State) : State :=
  let b := (idx - 0x3000) % 0x400
  if 0x3000 ≤ idx ∧ idx < 0x4000 then
    if 1 ≤ b && b ≤ 6 && sub = 1 && c = 0x08000020 then modeRefused w idx s
    else if b = 0x100 && sub = 1 && c = 0x08000022 then bankRefused true (idxPetal idx) data s
    else if b = 0x381 && sub = 1 && c = 0x08000022 then bankRefused false (idxPetal idx) data s
    else if b = 0x107 then countRuleRefusal (idxPetal idx) c s
    else s
  else s

/-! ## Accesses that a debugger's port or the stem makes -/

/-- The effect of a write of 0x8010.02 (19 R511): one aligned 8-byte write at the address of 0x8010.01 as master kind 3, in
the plain memory that 01 R38 lets a debugger write. -/
def debugStore (m v : Nat) (s : State) : State × Option Abort :=
  let a := s.dget 0x8010 1
  if a % 8 ≠ 0 || 2 ^ 48 ≤ a then (s, some 0x06090030)
  else match checkAccess m a true s with
    | .ok _ => (codeWritten a 8 (storeHome (memKey m a s) (leBytes 8 v) (keepHint s m a) s), none)
    | r => (accessEvent m a r s, some 0x08000020)

/-- The master ID of a debug access by the path of its writer (19 R511): bit [11] tells PCIe. -/
def debugMid : Writer → Nat
  | .debugger pcie => 0x3000 + 0x800 * b2n pcie
  | .bar2 _ => 0x3800
  | .vdm _ _ => 0x3800
  | _ => 0x3000

/-- The address of a bulk request's descriptor (16 R435): 32-byte aligned, in host memory for a PF, in DRAM, general, for the
other principals of the window. -/
def effBulk (w : Writer) (a : Nat) (s : State) : Except Abort State :=
  let host := match w with | .bar2 _ => true | _ => false
  if !onWindow w then .error 0x06010000
  else if a % 32 ≠ 0 || (!host && !inGeneral s a 32) then .error 0x06090030 else .ok s

/-- The effect of a write that has passed steps 1 to 11 of R424. -/
def dictEffect (w : Writer) (idx sub off : Nat) (data : List Byte) (s : State) : State × Option Abort :=
  if 0x3000 ≤ idx ∧ idx < 0x4000 then settle s (petalEffect w idx sub off data s)
  else if idx = 0x5000 && sub = 0x10 then effBatch w.mid off data s
  else if idx = 0x4C10 then effSa data s
  else if idx = 0x4C20 then effJob w data s
  else if idx = 0x1E30 then settle s (effBulk w (leNat data) s)
  else if idx = 0x8010 && sub = 2 then debugStore (debugMid w) (leNat data) s
  else settle s (deviceEffect w idx sub off data s)

/-- A write of an entry on any path (16 R424): the checks, the effect, and what the entry's own chapter leaves of a refusal.
The answer is the abort code, with whether it counts as unauthenticated. -/
def dictWrite (w : Writer) (idx sub off : Nat) (data : List Byte) (gen : Option Nat) (s : State) :
    State × Option (Abort × Bool) :=
  match checkWrite w idx sub off data gen s with
  | some r => (s, some (stepOrder r ((dictEffect w idx sub off data s).2.getD 0)))
  | none =>
    let r := dictEffect w idx sub off data s
    match r.2 with
    | none => (r.1, none)
    | some c => (refusalNote w idx sub data c r.1, some (c, false))

/-- The count and event of an unauthenticated write (16 R424), on a path other than the window. -/
def unauthNote (w : Writer) (idx : Nat) (s : State) : State :=
  raiseOnce 0x13100000 0x131 (pathNo w * 2 ^ 16 + idx % 2 ^ 16) none [] (s.bump 0x1E00 4)

/-- A write on a path that answers with an abort code: SDO, MCTP, a bulk request, JTAG. -/
def pathWrite (w : Writer) (idx sub off : Nat) (data : List Byte) (gen : Option Nat) (s : State) : State × Abort :=
  match dictWrite w idx sub off data gen s with
  | (s, none) => (s, 0)
  | (s, some (c, u)) => (if u then unauthNote w idx s else s, c)

/-! ## Reads -/

/-- The object directory's records (16 R437), in ascending order of index and sub. -/
def directory : List (Nat × EntrySpec) :=
  let all := dictRows.flatMap (fun e =>
    (List.range e.fam.2.1).flatMap (fun i => (List.range e.fam.2.2.2).flatMap (fun j =>
      (List.range (e.hi - e.lo + 1)).flatMap (fun d => (List.range (e.shi - e.slo + 1)).map (fun k =>
        ((e.lo + e.fam.1 * i + e.fam.2.2.1 * j + d) * 256 + e.slo + k, e))))))
  all.mergeSort (fun a b => a.1 ≤ b.1)

/-- The access code of the object directory (16 R437). -/
def Acc6.code : Acc6 → Nat
  | .con => 0 | .ro => 1 | .rw => 2 | .wo => 3 | .rws => 4

/-- The class code of the object directory (16 R437). -/
def Cls.code : Cls → Nat
  | .stopped => 0 | .boundary => 1 | .live => 2

/-- A record of the object directory. -/
def dirRecord (x : Nat × EntrySpec) : List Byte :=
  leBytes 2 (x.1 / 256) ++ leBytes 1 (x.1 % 256) ++ leBytes 1 x.2.ty.code ++ leBytes 1 x.2.acc.code ++
    leBytes 1 x.2.cls.code ++ leBytes 2 (match x.2.ty with
      | .dom _ r => r
      | .ostr n => n
      | _ => 0)

/-- The error register (16 R436). -/
def errorRegister (s : State) : Nat :=
  let bad := [Collector.device, .petal 0, .petal 1, .petal 2, .petal 3].any (fun c =>
    bitOf (s.dget (collIdx c) 2) 63 || bitOf (s.dget (collIdx c) 3) 63)
  b2n bad + 4 * b2n (causeOn s 0) + 8 * b2n (throttled s) + 16 * b2n s.canErr +
    128 * b2n (allPetals.any (fun p => petalHalted s p))

/-- Threads of a petal in a state. -/
def threadsIn (s : State) (p : Petal) (st : TState) : Nat :=
  ((allClusters.flatMap (clusterThreads p)).filter (fun t => (s.thr (.thr t)).st == st)).length

/-- A channel's status record (09, 0x3342.03). -/
def chanStatus (s : State) (p : Petal) (ch : Nat) : Nat :=
  let c := s.chan p ch
  let endStaged := (allClusters.flatMap (clusterThreads p)).any (fun t => (s.thr (.thr t)).stagedEnd.contains ch)
  let slot := (c.holder.bind (fun m => senderSlot s p ch m)).getD 0
  let recvW := (allClusters.flatMap (clusterThreads p)).any (fun t =>
    (s.thr (.thr t)).st == .recvWait && (match (s.thr (.thr t)).wait with | .recv _ c => c == ch | _ => false))
  c.fifo.length + 8 * b2n endStaged + 16 * b2n c.holder.isSome + 32 * slot + 128 * waitMask s p ch + 2048 * b2n recvW

/-- The value that a scalar entry reads: entries that show a unit's state are computed from it, the rest are held. -/
def dictValue (idx sub : Nat) (s : State) : Nat :=
  let p := idxPetal idx
  let b := (idx - 0x3000) % 0x400
  if 0x3000 ≤ idx ∧ idx < 0x4000 then
    if b = 0x10 && sub = 0x19 then
      ((List.range 9).map (fun i => s.dget idx (0x10 + i))).foldl min 0xFFFF
    else if b = 0x200 && sub = 1 then entriesUsed (s.pet p)
    else if b = 0x340 && sub = 1 then threadsIn s p .recvWait
    else if b = 0x340 && sub = 2 then threadsIn s p .sendWait
    else if 0x350 ≤ b && b < 0x380 && 0x0C ≤ sub && sub ≤ 0x0E then
      let k := coreNo p (b - 0x350)
      if sub = 0x0C then leNat ((List.range 8).map (fun t => BitVec.ofNat 8 (s.thr (.thr (threadNo k t))).st.num))
      else if sub = 0x0D then (s.thr (.thr (threadNo k 0))).tcause.toNat
      else (s.thr (.thr (threadNo k 0))).tfpc.toNat
    else if b = 0x390 && sub = 1 then holdersOf s p
    else if b = 0x390 && sub = 2 then waitersOf s p
    else if b = 0x3A5 && sub = 0x0B then (s.pet p).slots.length
    else s.dget idx sub
  else if idx = 0x1001 then errorRegister s
  else if idx = 0x1018 && sub = 1 then Config.vendorId.toNat
  else if idx = 0x1018 && sub = 4 then Config.serial.toNat % 2 ^ 32
  else if idx = 0x2010 && sub = 0x12 then ((List.range 5).flatMap railEntries).foldl (fun m e => min m (s.dget e.1 e.2)) (s.dget 0x2010 0x10)
  else if idx = 0x2060 && sub = 3 then effCap s
  else if idx = 0x2060 && 0x10 ≤ sub && sub ≤ 0x14 then railTarget s (sub - 0x10)
  else if idx = 0x2062 && sub = 3 then b2n (throttled s)
  else if idx = 0x5400 && minimalOn s then 0x23
  else if idx = 0x8000 && sub = 2 then
    let v := s.dget 0x8000 2
    v / 2 ^ 24 * 2 ^ 24 + (if unlocked s then (s.unlockEnd - s.time) / 1000000000 % 2 ^ 24 else 0)
  else if 0x8100 ≤ idx && idx < 0x8200 && sub = 2 then
    leNat ((List.range 8).map (fun t =>
      let x := s.thr (.thr (threadNo (dbgCore idx) t))
      BitVec.ofNat 8 (if x.st == .halted then x.haltCause else 0)))
  else s.dget idx sub

/-- A counter's description record (19 R496); the event's name is free. -/
def ctrRecord (idx b i : Nat) : List Byte :=
  let m := match Config.counterMirror b i with
    | some (x, sub) => sub + 256 * x
    | none => 0
  if b < 4 && 0x380 ≤ i then leBytes 2 i ++ List.replicate 46 0
  else leBytes 2 i ++ leBytes 4 m ++ [0, 0] ++ (List.range 40).map (fun j => Config.constByte (domKey idx 5 (48 * i + 8 + j)))

/-- `n` bytes of a DOMAIN, OSTRING, VSTRING or TIME80 entry from an offset on. -/
def dictBytes (idx sub off n : Nat) (s : State) : List Byte :=
  let p := idxPetal idx
  let b := (idx - 0x3000) % 0x400
  if 0x3000 ≤ idx ∧ idx < 0x4000 then
    if b = 0x342 then
      ((List.range (n / 4)).flatMap (fun i => leBytes 4 (chanStatus s p (off / 4 + i))))
    else if b = 0x3A6 && sub = 4 then
      ((List.range (n / 6)).flatMap (fun i => leBytes 6 (Tab.get 0 (s.pet p).sketch (off / 6 + i))))
    else s.domRead idx sub off n
  else if idx = 0x1008 then ([0x48, 0x47, 0x4C, 0x2D, 0x33, 0x32, 0x30, 0x30].drop off).take n
  else if idx = 0x100A then ((Config.versionText (s.domRead 0x2100 8 (56 * 33) 56)).take 255 |>.drop off).take n
  else if idx = 0x1E60 then ((directory.drop (off / 8)).take (n / 8)).flatMap dirRecord
  else if idx = 0x2110 && sub = 9 then s.memRead (0x000DFF800000 + off) n
  else if idx = 0x2221 then s.memRead (0x000DC0000000 + 0x0FE00000 * sub + off) n
  else if idx = 0x4300 && sub = 1 then (time80 s s.time |>.drop off).take n
  else if 0x7000 ≤ idx && idx < 0x7500 && sub = 1 then ((ctrImage s ((idx - 0x7000) / 0x100)).drop off).take n
  else if 0x7000 ≤ idx && idx < 0x7500 && sub = 5 then
    let k := (idx - 0x7000) / 0x100
    ((List.range (n / 48)).flatMap (fun i => ctrRecord idx k (off / 48 + i)))
  else if 0x8201 ≤ idx && idx < 0x8205 then (List.range n).map (fun i => Config.constByte (domKey idx sub (off + i)))
  else if 0x8100 ≤ idx && idx < 0x8200 then ((threadRecord s (threadNo (dbgCore idx) (sub - 0x10))).drop off).take n
  else s.domRead idx sub off n

/-- The length of a VSTRING entry's value. -/
def vstrLen (idx : Nat) (s : State) : Nat :=
  if idx = 0x1008 then 8 else ((Config.versionText (s.domRead 0x2100 8 (56 * 33) 56)).take 255).length

/-- The limits that owning chapters set on readers (16 R424, step 6): 12 R320, 19 before R508, R511. -/
def readLimit (w : Writer) (idx sub : Nat) (s : State) : Option Abort :=
  let b := (idx - 0x3000) % 0x400
  if 0x3000 ≤ idx && idx < 0x4000 && b = 0x3A4 && sub ≤ 5 then (if mayAllocate w.mid then none else some 0x06010000)
  else if 0x8010 ≤ idx && idx < 0x8200 then
    match writerLimit w idx sub [] s with
    | some c => some c
    | none =>
      if 0x8100 ≤ idx && 0x10 ≤ sub && (s.thr (.thr (threadNo (dbgCore idx) (sub - 0x10)))).st != .halted
      then some 0x08000022 else none
  else none

/-- A read of an entry (16 R421, R422, R424): steps 1, 2, 6 and 7, then its bytes; a length of 0 means to the end. `deep` tells
that a read of 0x8010.02 may itself perform an access, given as a function of the state. -/
def dictReadWith (deep : State → State × Except Abort (List Byte)) (w : Writer) (idx sub off len : Nat) (s : State) :
    State × Except Abort (List Byte) :=
  match entrySpec idx sub with
  | none => (s, .error (if indexDefined idx then 0x06090011 else 0x06020000))
  | some e =>
    match readLimit w idx sub s with
    | some c => (s, .error c)
    | none =>
      match e.ty with
      | .scal t =>
        if off ≠ 0 || (len ≠ 0 && len ≠ t.size) then (s, .error 0x06070010)
        else if e.acc == .wo then (s, .ok (List.replicate t.size 0))
        else if 0x3000 ≤ idx && idx < 0x4000 && (idx - 0x3000) % 0x400 = 0x3A4 then
          let r := allocateRead w.mid (idxPetal idx) (sub - 1) s
          (r.1, .ok (leBytes 8 r.2))
        else if idx = 0x8010 && sub = 2 then deep s
        else (s, .ok (leBytes t.size (dictValue idx sub s)))
      | .ostr n =>
        if off ≠ 0 || (len ≠ 0 && len ≠ n) then (s, .error 0x06070010)
        else (s, .ok (if e.acc == .wo then List.replicate n 0 else dictBytes idx sub 0 n s))
      | .vstr => if off ≠ 0 then (s, .error 0x06070010) else (s, .ok (dictBytes idx sub 0 (vstrLen idx s) s))
      | .time80 => if off ≠ 0 || (len ≠ 0 && len ≠ 10) then (s, .error 0x06070010) else (s, .ok (dictBytes idx sub 0 10 s))
      | .dom cap rcd =>
        let cap := if idx = 0x1E60 then 8 * directory.length else domCap idx sub cap
        if e.acc == .wo || (idx = 0x5000 && sub = 0x10) then (s, .ok [])
        else
          let n := if len = 0 then cap - off else len
          if off % rcd ≠ 0 || n % rcd ≠ 0 || cap < off + n then (s, .error 0x06090030)
          else (s, .ok (dictBytes idx sub off n s))

/-- The writer that a master is to the dictionary, if it is one (16 R423). -/
def writerOf (m : Nat) : Option Writer :=
  if m = 0x2000 then some (.golne 0) else if m = 0x2001 then some (.golne 1) else if m = 0x2002 then some (.golne 2)
  else if h : 0x1000 ≤ m ∧ m < 0x1008 then some (.bar2 ⟨m - 0x1000, by omega⟩)
  else if m = 0x3000 then some (.debugger false) else if m = 0x3800 then some (.debugger true)
  else (threadOf m).map Writer.core

/-- The entry and slot offset of an address of the dictionary window (16 R434). -/
def winEntry (a : Nat) : Nat × Nat × Nat :=
  let o := a - 0x003000000000
  (o / 0x1000, o / 0x10 % 0x100, o % 0x10)

/-- The key of a master's staged generation or snapshot of an entry (16 R434). -/
def stageKey (m idx sub : Nat) : Nat := (m * 65536 + idx) * 256 + sub

/-- A read of the dictionary window (16 R434): a scalar at slot offset 0 with its own size; a TIME80 as 8 bytes, which take a
snapshot, and then 2. -/
def windowRead (deep : State → State × Except Abort (List Byte)) (w : Writer) (idx sub slot size : Nat) (s : State) :
    State × Except Abort (List Byte) :=
  match entrySpec idx sub with
  | none => (s, .error (if indexDefined idx then 0x06090011 else 0x06020000))
  | some e =>
    match readLimit w idx sub s, e.ty with
    | some c, _ => (s, .error c)
    | none, ty => match ty with
    | .scal t => if slot ≠ 0 || size ≠ t.size then (s, .error 0x06070010) else dictReadWith deep w idx sub 0 0 s
    | .time80 =>
      let key := stageKey w.mid idx sub
      if slot = 0 && size = 8 then
        let v := dictBytes idx sub 0 10 s
        ({ s with snaps := Tab.put s.snaps key v }, .ok (v.take 8))
      else if slot = 8 && size = 2 then
        match Tab.find s.snaps key with
        | some v => ({ s with snaps := Tab.erase s.snaps key }, .ok (v.drop 8))
        | none => (s, .error 0x06070010)
      else (s, .error 0x06070010)
    | _ => (s, .error 0x06070010)

/-- A read of 8 bytes at the debug address (19 R511), as a debugger's: plain memory, and the windows' registers; a read that
would name the debug entries again is refused. -/
def debugLoad (m : Nat) (s : State) : State × Except Abort (List Byte) :=
  let a := s.dget 0x8010 1
  if a % 8 ≠ 0 || 2 ^ 48 ≤ a then (s, .error 0x06090030)
  else match checkAccess m a false s with
    | .ok .dict =>
      let e := winEntry a
      (match writerOf m with
       | some w => windowRead (fun s => (s, .error 0x08000022)) w e.1 e.2.1 e.2.2 8 s
       | none => (s, .error 0x08000020))
    | .ok .lockWin =>
      (match lockWindow m (a - 0x004000000000) 8 none s with
       | (s, .data l) => (s, .ok l)
       | (s, .refused) => (s, .error 0x08000020))
    | .ok .mailbox =>
      (match mboxWindow m (a - 0x005000000000) 8 none s with
       | (s, .data l) => (s, .ok l)
       | (s, .refused) => (s, .error 0x08000020))
    | .ok _ =>
      let r := loadHome (memKey m a s) 8 (keepHint s m a) s
      (r.1, .ok r.2.1)
    | x => (accessEvent m a x s, .error 0x08000020)

/-- A read of an entry on any path. -/
def dictRead (w : Writer) (idx sub off len : Nat) (s : State) : State × Except Abort (List Byte) :=
  dictReadWith (debugLoad (debugMid w)) w idx sub off len s

end Sys2Proof.Machine
end

