-- ==== Sys2Proof/Machine/Mgmt.lean ====
section
/-!
DEFINITION. Machine/Mgmt.lean: the management paths (16 R423 to R437; 17 R460, R461): the dictionary window's own commands,
bulk requests, SDO over CAN FD, MCTP over SMBus and PCIe VDM, and SPDM.
-/
namespace Sys2Proof.Machine

/-! ## The dictionary window (16 R434) -/

/-- The record and count of a refused access of the window (16 R434). -/
def winRecord (w : Writer) (idx sub : Nat) (c : Abort) (s : State) : State :=
  ((s.dset 0x1E40 1 (c.toNat + (idx % 2 ^ 16) * 2 ^ 32 + (sub % 256) * 2 ^ 48)).dset 0x1E40 2 w.mid).bump 0x1E40 3

/-- The answer to a refused read of the window: a host read completes with Completer Abort, any other read is an access fault
answered to its master; a load's own instruction takes the fault (16 R434). -/
def readRefused (w : Writer) (idx sub : Nat) (c : Abort) (s : State) : State :=
  let s := winRecord w idx sub c s
  match w with
  | .bar2 _ => s.emit (.hostCompletion w.mid true [])
  | _ => s.emit (.abort w.mid idx sub c)

/-- BUFFER_ALLOCATE_READ: a core thread or Golne firmware reads 0x33A4.01 to .05 and takes one buffer; the answer is the result
word. Any other master is refused, as the reader's limit (12 R320; 16 R424). -/
def execBufferAllocateRead (m : BitVec 16) (p : Petal) (pool : Fin 5) (s : State) : Out :=
  let a := 0x003000000000 + pix 0x33A4 p * 0x1000 + (pool.val + 1) * 0x10
  let closed := (accessEvent m.toNat a .refused s).emit (.accessFault m.toNat a)
  match writerOf m.toNat with
  | none => .next closed
  | some w =>
    if windowShut s w then .next closed
    else if mayAllocate m.toNat then
      let r := allocateRead m.toNat p pool.val s
      .next (r.1.emit (.readData m.toNat a (leBytes 8 r.2)))
    else .next (readRefused w (pix 0x33A4 p) (pool.val + 1) 0x06010000 s)

/-- BUFFER_FREE_WRITE: a write of a BUF word to 0x33A4.06 (12 R320, R322). -/
def execBufferFreeWrite (m : BitVec 16) (p : Petal) (buf : BitVec 32) (s : State) : Out :=
  let a := 0x003000000000 + pix 0x33A4 p * 0x1000 + 0x60
  match writerOf m.toNat with
  | some w => .next (dictCmd w (pix 0x33A4 p) 6 0 (leBytes 4 buf.toNat) none (effFree w p (leBytes 4 buf.toNat)) s)
  | none => .next ((accessEvent m.toNat a .refused s).emit (.accessFault m.toNat a))

/-- The generation of a value write: the one that it carries, or on the window the one that its master has staged, which the
write clears (16 R434). -/
def takeStaged (w : Writer) (idx sub : Nat) (gen : Option Nat) (s : State) : State × Option Nat :=
  match gen with
  | some g => (s, some g)
  | none =>
    if onWindow w then
      let key := stageKey w.mid idx sub
      ({ s with staged := Tab.erase s.staged key }, Tab.find s.staged key)
    else (s, none)

/-- The answer to a refused write on a writer's own path: as the window's, or the abort code with its notes. -/
def writeRefused (w : Writer) (idx sub : Nat) (c : Abort) (u : Bool) (pc : Addr) (s : State) : State :=
  refuseWrite w idx sub c u pc s

/-- A 2-byte write at slot offset 8 (16 R424, R434): its refusal, and whether it counts as unauthenticated, or the generation
is staged. -/
def stageGen (w : Writer) (idx sub gen : Nat) (s : State) : Except (Abort × Bool) State :=
  match checkAdmit w idx sub [] s with
  | some r => .error r
  | none => if (genEntry idx sub).isNone || !onWindow w then .error (0x06070010, false)
    else .ok { s with staged := Tab.put s.staged (stageKey w.mid idx sub) gen }

/-- GENERATION_STAGE_WRITE (16 R434). -/
def execGenerationStageWrite (w : Writer) (idx : BitVec 16) (sub : BitVec 8) (gen : BitVec 16) (s : State) : Out :=
  if windowShut s w then .next (windowRefused w idx.toNat sub.toNat s)
  else match stageGen w idx.toNat sub.toNat gen.toNat s with
    | .ok s => .next s
    | .error (c, u) => .next (writeRefused w idx.toNat sub.toNat c u (writerPc w s) s)

/-- TIME80_SNAPSHOT_READ (16 R434): the 8 bytes at slot offset 0, or the rest of the master's snapshot at 8. -/
def execTime80SnapshotRead (w : Writer) (idx : BitVec 16) (sub : BitVec 8) (rest : Bool) (s : State) : Out :=
  let i := idx.toNat
  let j := sub.toNat
  let isTime := match (entrySpec i j).map EntrySpec.ty with
    | some .time80 => true
    | _ => false
  if windowShut s w then .next (windowRefused w i j s)
  else if !onWindow w || ((entrySpec i j).isSome && !isTime) then .next (readRefused w i j ((readLimit w i j s).getD 0x06070010) s)
  else match windowRead (debugLoad (debugMid w)) w i j (if rest then 8 else 0) (if rest then 2 else 8) s with
    | (s, .ok l) => .next (s.emit (.readData w.mid (0x003000000000 + i * 0x1000 + j * 0x10 + (if rest then 8 else 0)) l))
    | (s, .error c) => .next (readRefused w i j c s)

/-! ## Bulk requests (16 R435) -/

/-- The principal of a bulk request for the limit on those outstanding: a PF, a petal's core threads, Golne firmware. -/
def bulkOwner : Writer → Nat
  | .bar2 pf => pf.val
  | .core t => 8 + t.p.val
  | _ => 12

/-- The bytes of a range of memory that a principal's request reaches, if the checks of 01 R37 and R38 allow it. -/
def bulkReach (m a n : Nat) (wr : Bool) (s : State) : Bool :=
  let ok := fun (x : Nat) => match checkAccess m x wr s with
    | .ok .dict => false
    | .ok .lockWin => false
    | .ok .mailbox => false
    | .ok _ => true
    | _ => false
  n = 0 || (ok a && ok (a + n - 1))

/-- Bytes written to a principal's buffer: host memory of a PF, the memory of any other principal (16 R435). -/
def bulkPut (w : Writer) (a : Nat) (l : List Byte) (s : State) : State :=
  match w with
  | .bar2 pf => s.emit (.hostWrite (0x1000 + pf.val) a l)
  | _ => if bulkReach w.mid a l.length true s then storeHome (memKey w.mid a s) l (keepHint s w.mid a) s else accessEvent w.mid a .refused s

/-- The size that a length of 0 names for a write: to the end of the entry (16 R422). -/
def restOf (idx sub off : Nat) : Nat :=
  match entrySpec idx sub with
  | some e => (match e.ty with
    | .scal t => t.size
    | .ostr n => n
    | .vstr => 0
    | .time80 => 10
    | .dom cap _ => domCap idx sub cap - off)
  | none => 0

/-- A bulk request performed: its abort code and the bytes transferred. -/
def bulkRun (x : Bulk) (s : State) : State × Abort × Nat :=
  let n := fun off k => leNat (slice x.desc off k)
  let idx := n 0 2
  let sub := n 2 1
  let op := n 3 1
  let off := n 8 4
  let len := n 12 4
  let buf := n 16 8
  let host := match x.w with | .bar2 _ => true | _ => false
  if op = 0 || 2 < op || 1 < n 6 1 || n 7 1 ≠ 0 || n 24 8 % 16 ≠ 0 then (s, 0x06090030, 0)
  else if op = 1 then
    match dictRead x.w idx sub off len s with
    | (s, .error c) => (s, c, 0)
    | (s, .ok l) =>
      if host || bulkReach x.w.mid buf l.length true s then (bulkPut x.w buf l s, 0, l.length)
      else (accessEvent x.w.mid buf .refused s, 0x06010000, 0)
  else
    let len := if len = 0 then restOf idx sub off else len
    if !host && !bulkReach x.w.mid buf len false s then (accessEvent x.w.mid buf .refused s, 0x06010000, 0)
    else
      let data := if host then x.host.take len else (loadHome (memKey x.w.mid buf s) len (keepHint s x.w.mid buf) s).2.1
      let r := pathWrite x.w idx sub off data (if n 6 1 = 1 then some (n 4 2) else none) s
      (r.1, r.2, if r.2 = 0 then data.length else 0)

/-- A bulk request performed and its status record written (16 R435). -/
def bulkDo (x : Bulk) (s : State) : State :=
  let r := bulkRun x s
  let idx := leNat (slice x.desc 0 2)
  let sub := leNat (slice x.desc 2 1)
  let gen := (genOf r.1 idx sub).getD 0
  let a := leNat (slice x.desc 24 8) / 16 * 16
  bulkPut x.w a (leBytes 4 r.2.1.toNat ++ leBytes 4 r.2.2 ++ leBytes 2 gen ++ [0, 0, 1, 0, 0, 0]) r.1

/-- A bulk request submitted: performed at once, or queued while Golne firmware restarts, up to its principal's limit. -/
def bulkSubmit (x : Bulk) (s : State) : State :=
  if !s.golneDown then bulkDo x s
  else
    let own := bulkOwner x.w
    let cap := if 8 ≤ own && own < 12 then 64 else 16
    if (s.bulk.filter (fun y => bulkOwner y.w == own)).length < cap then { s with bulk := s.bulk ++ [x] }
    else writeRefused x.w 0x1E30 1 0x08000024 false (writerPc x.w s) (s.bump 0x1E30 2)

/-- A bulk request as a command: its principal may write 0x1E30.01 (16 R424, R435). -/
def bulkCmd (w : Writer) (desc host : List Byte) (s : State) : State :=
  if windowShut s w then windowRefused w 0x1E30 1 s
  else if !onWindow w then s.emit (.abort w.mid 0x1E30 1 0x06010000)
  else match checkWrite w 0x1E30 1 0 (leBytes 8 0) none s with
    | some (c, u) => writeRefused w 0x1E30 1 c u (writerPc w s) s
    | none => bulkSubmit ⟨w, fit 32 desc, host⟩ s

/-- BULK_READ (16 R435). -/
def execBulkRead (w : Writer) (desc : List Byte) (s : State) : Out := .next (bulkCmd w desc [] s)

/-- BULK_WRITE (16 R435). -/
def execBulkWrite (w : Writer) (desc hostData : List Byte) (s : State) : Out := .next (bulkCmd w desc hostData s)

/-- A bulk request named by the address of its descriptor: read from DRAM; a PF's descriptor is read from host memory, whose
answer comes as BULK_READ or BULK_WRITE. -/
def bulkFetch (w : Writer) (a : Nat) (s : State) : State :=
  match w with
  | .bar2 pf => s.emit (.hostRead (0x1000 + pf.val) a 32)
  | _ => bulkSubmit ⟨w, s.memRead a 32, []⟩ s

/-- DICTIONARY_WRITE (16 R424). -/
def execDictionaryWrite (w : Writer) (idx : BitVec 16) (sub : BitVec 8) (gen : Option (BitVec 16)) (off : Nat)
    (data : List Byte) (s : State) : Out :=
  let i := idx.toNat
  let j := sub.toNat
  if windowShut s w then .next (windowRefused w i j s)
  else
    let r := takeStaged w i j (gen.map BitVec.toNat) s
    match dictWrite w i j off data r.2 r.1 with
    | (s, none) => .next (if i = 0x1E30 && j = 1 then bulkFetch w (leNat data) s else s)
    | (s, some (c, u)) => .next (writeRefused w i j c u (writerPc w s) s)

/-- A write of an entry on a principal's path as a command of its own, with the generation that its master has staged. -/
def writeCmd (w : Writer) (idx sub off : Nat) (data : List Byte) (s : State) : State :=
  if windowShut s w then windowRefused w idx sub s
  else
    let r := takeStaged w idx sub none s
    match dictWrite w idx sub off data r.2 r.1 with
    | (s, none) => s
    | (s, some (c, u)) => writeRefused w idx sub c u (writerPc w s) s

/-- Golne firmware is in service again: the bulk requests that waited end in the order submitted. -/
def bulkDrain (s : State) : State := s.bulk.foldl (fun s x => bulkDo x s) { s with bulk := [] }

/-- GOLNE_FIRMWARE_BACK (18 R481). -/
def execGolneFirmwareBack (s : State) : Out := .next (bulkDrain (golneBack s))

/-! ## SDO over CAN FD (16 R428 to R431) -/

/-- Whether the CAN controller's requests are served: its clock runs and Golne firmware is in service (01 R29, 16 R431). -/
def canServed (s : State) : Bool := !s.frozen.contains 11 && !s.golneDown

/-- A frame of the SDO server: COB-ID 0x580 + N, as long as its request (16 R428). -/
def sdoReply (node : Nat) (big : Bool) (l : List Byte) (s : State) : State :=
  s.emit (.can (0x580 + node) (fit (if big then 64 else 8) l))

/-- The first four bytes of an initiate or abort frame (16 R429). -/
def sdoHead (cs idx sub : Nat) : List Byte := leBytes 1 cs ++ leBytes 2 idx ++ leBytes 1 sub

/-- An abort of the server: the frame, its count, the end of the transfer (16 R430). -/
def sdoAbort (big : Bool) (idx sub : Nat) (c : Abort) (s : State) : State :=
  sdoEnd ((sdoReply (s.dget 0x1E10 1) big (sdoHead 0x80 idx sub ++ leBytes 4 c.toNat) s).bump 0x1E10 7)

/-- Whether an entry is a DOMAIN. -/
def isDom (idx sub : Nat) : Bool :=
  match (entrySpec idx sub).map EntrySpec.ty with
  | some (.dom _ _) => true
  | _ => false

/-- A download applied, at its last segment or expedited (16 R429): a requested entry's value carries its generation behind
it; a DOMAIN transfer has the offset and length of 0x1E10.04 and 0x1E10.05. -/
def sdoApply (idx sub : Nat) (data : List Byte) (s : State) : State × Abort :=
  let dom := isDom idx sub
  let off := if dom then s.dget 0x1E10 4 else 0
  let want := s.dget 0x1E10 5
  if (genEntry idx sub).isSome && 2 ≤ data.length then
    let n := data.length - 2
    pathWrite .can idx sub off (data.take n) (some (leNat (data.drop n))) s
  else if dom && want ≠ 0 && want ≠ data.length && (checkAdmit .can idx sub data s).isNone then (s, 0x06070010)
  else pathWrite .can idx sub off data none s

/-- The end of a transfer that succeeds: its count, its last response, and the entries of a DOMAIN transfer back at 0. -/
def sdoDone (node : Nat) (big : Bool) (reply : List Byte) (s : State) : State :=
  sdoEnd (sdoReply node big reply (s.bump 0x1E10 6))

/-- The entries of a DOMAIN transfer back at 0 after a transfer of one frame (16 R429). -/
def sdoReset (idx sub : Nat) (s : State) : State :=
  sdoEnd { s with sdo := some ⟨true, idx, sub, false, 0, [], false⟩ }

/-- An initiate download (16 R429). -/
def sdoInitDown (big : Bool) (f : List Byte) (s : State) : State :=
  let cs := leNat (slice f 0 1)
  let idx := leNat (slice f 1 2)
  let sub := leNat (slice f 3 1)
  let n := bitsOf cs 3 2
  let e := bitOf cs 1
  let node := s.dget 0x1E10 1
  let s := sdoEnd s
  let used := if e then 8 - n else 8
  if bitOf cs 4 || (!e && (!bitOf cs 0 || n ≠ 0)) || (f.drop used).any (· ≠ 0) then sdoAbort big idx sub 0x05040001 s
  else if e then
    match sdoApply idx sub (slice f 4 (4 - n)) s with
    | (s, 0) => sdoReply node big (sdoHead 0x60 idx sub) (sdoReset idx sub (s.bump 0x1E10 6))
    | (s, c) => sdoReset idx sub (sdoAbort big idx sub c s)
  else
    sdoReply node big (sdoHead 0x60 idx sub)
      { s with sdo := some ⟨true, idx, sub, big, leNat (slice f 4 4), [], false⟩ }

/-- A download segment (16 R429, R430). -/
def sdoSegDown (big : Bool) (f : List Byte) (s : State) : State :=
  let cs := leNat (slice f 0 1)
  let t := bitOf cs 4
  let n := bitsOf cs 3 1
  let last := bitOf cs 0
  match s.sdo with
  | none => sdoAbort big 0 0 0x05040001 s
  | some x =>
    let ab := fun (c : Abort) => sdoAbort big x.idx x.sub c s
    if !x.down || x.big ≠ big then ab 0x05040001
    else if t ≠ x.toggle then ab 0x05030000
    else
      let room := if big then 63 else 7
      let k := if big then (if last then x.size - x.data.length else 63) else 7 - n
      if (big && n ≠ 0) || room < k then ab (if big && n = 0 then 0x06070010 else 0x05040001)
      else if (f.drop (1 + k)).any (· ≠ 0) then ab 0x05040001
      else
        let data := x.data ++ slice f 1 k
        if x.size < data.length || (last && data.length ≠ x.size) then ab 0x06070010
        else
          let reply := leBytes 1 (0x20 + 16 * b2n t)
          if last then
            let node := s.dget 0x1E10 1
            match sdoApply x.idx x.sub data s with
            | (s, 0) => sdoDone node big reply s
            | (s, c) => sdoAbort big x.idx x.sub c s
          else sdoReply (s.dget 0x1E10 1) big reply { s with sdo := some { x with data := data, toggle := !x.toggle } }

/-- An initiate upload (16 R429): expedited for an entry of at most 4 bytes, else segmented. -/
def sdoInitUp (big : Bool) (f : List Byte) (s : State) : State :=
  let idx := leNat (slice f 1 2)
  let sub := leNat (slice f 3 1)
  let node := s.dget 0x1E10 1
  let s := sdoEnd s
  if leNat (slice f 0 1) ≠ 0x40 || (f.drop 4).any (· ≠ 0) then sdoAbort big idx sub 0x05040001 s
  else
    let dom := isDom idx sub
    let r := dictRead .can idx sub (if dom then s.dget 0x1E10 4 else 0) (if dom then s.dget 0x1E10 5 else 0) s
    match r.2 with
    | .error c => sdoReset idx sub (sdoAbort big idx sub c r.1)
    | .ok l =>
      let small := match (entrySpec idx sub).map EntrySpec.ty with
        | some (.scal t) => decide (t.size ≤ 4)
        | some (.ostr n) => decide (n ≤ 4)
        | _ => false
      if small then
        sdoReply node big (sdoHead (0x43 + 4 * (4 - l.length)) idx sub ++ l) (r.1.bump 0x1E10 6)
      else
        sdoReply node big (sdoHead 0x41 idx sub ++ leBytes 4 l.length)
          { r.1 with sdo := some ⟨false, idx, sub, big, l.length, l, false⟩ }

/-- An upload segment (16 R429, R430). -/
def sdoSegUp (big : Bool) (f : List Byte) (s : State) : State :=
  let cs := leNat (slice f 0 1)
  match s.sdo with
  | none => sdoAbort big 0 0 0x05040001 s
  | some x =>
    let ab := fun (c : Abort) => sdoAbort big x.idx x.sub c s
    if x.down || x.big ≠ big || cs % 16 ≠ 0 || (f.drop 1).any (· ≠ 0) then ab 0x05040001
    else if bitOf cs 4 ≠ x.toggle then ab 0x05030000
    else
      let room := if big then 63 else 7
      let seg := x.data.take room
      let rest := x.data.drop room
      let reply := leBytes 1 (16 * b2n x.toggle + (if big then 0 else 2 * (7 - seg.length)) + b2n rest.isEmpty) ++ seg
      if rest.isEmpty then sdoDone (s.dget 0x1E10 1) big reply s
      else sdoReply (s.dget 0x1E10 1) big reply { s with sdo := some { x with data := rest, toggle := !x.toggle } }

/-- A request frame on COB-ID 0x600 + N (16 R428 to R430): its length, then its command specifier. -/
def sdoFrame (f : List Byte) (s : State) : State :=
  if !canServed s then s
  else if f.length ≠ 8 && f.length ≠ 64 then
    let at_ := match s.sdo with | some x => (x.idx, x.sub) | none => (0, 0)
    sdoAbort false at_.1 at_.2 0x05040001 (s.bump 0x1E10 8)
  else
    let big := f.length == 64
    match leNat (slice f 0 1) / 32 with
    | 0 => sdoSegDown big f s
    | 1 => sdoInitDown big f s
    | 2 => sdoInitUp big f s
    | 3 => sdoSegUp big f s
    | 4 =>
      if leNat (slice f 0 1) = 0x80 then sdoEnd s
      else sdoAbort big (leNat (slice f 1 2)) (leNat (slice f 3 1)) 0x05040001 s
    | _ => sdoAbort big (leNat (slice f 1 2)) (leNat (slice f 3 1)) 0x05040001 s

/-- SDO_INITIATE_DOWNLOAD (16 R429). -/
def execSdoInitiateDownload (frame : List Byte) (s : State) : Out := .next (sdoFrame frame s)

/-- SDO_DOWNLOAD_SEGMENT (16 R429). -/
def execSdoDownloadSegment (frame : List Byte) (s : State) : Out := .next (sdoFrame frame s)

/-- SDO_INITIATE_UPLOAD (16 R429). -/
def execSdoInitiateUpload (frame : List Byte) (s : State) : Out := .next (sdoFrame frame s)

/-- SDO_UPLOAD_SEGMENT (16 R429). -/
def execSdoUploadSegment (frame : List Byte) (s : State) : Out := .next (sdoFrame frame s)

/-- SDO_ABORT: the client ends the transfer (16 R430). -/
def execSdoAbort (frame : List Byte) (s : State) : Out := .next (sdoFrame frame s)

/-- SDO_SEGMENT_TIMEOUT: no next request within the segment timeout (16 R430). -/
def execSdoSegmentTimeout (s : State) : Out :=
  match s.sdo with
  | some x => if canServed s then .next (sdoAbort x.big x.idx x.sub 0x05040000 s) else .next s
  | none => .next s

/-- NMT_COMMAND: a frame on COB-ID 0x000 is counted and ignored; a request frame of a bad length is counted and aborted (16
R428). A frame on any other COB-ID is not the device's. -/
def execNmtCommand (cob : BitVec 11) (frame : List Byte) (s : State) : Out :=
  if s.frozen.contains 11 then .next s
  else if cob = 0 then .next (s.bump 0x1E10 8)
  else if cob.toNat = 0x600 + s.dget 0x1E10 1 then .next (sdoFrame frame s)
  else .next s

/-- CAN_HEARTBEAT: the heartbeat's byte on COB-ID 0x700 + N, while the heartbeat time is not 0 (16 R436). -/
def execCanHeartbeat (s : State) : Out :=
  if s.dget 0x1017 0 = 0 || s.frozen.contains 11 then .next s else .next (s.emit (.can (0x700 + s.dget 0x1E10 1) [5]))

/-- CAN_GRANT_TICK: the CAN write grant counts down (16 R425). -/
def execCanGrantTick (s : State) : Out := .next (s.dset 0x1E00 3 (s.dget 0x1E00 3 - 1))

/-- CAN_ERROR_PASSIVE_OR_BUS_OFF: bit [4] of the error register follows (16 R436). -/
def execCanErrorPassiveOrBusOff (on : Bool) (s : State) : Out := .next { s with canErr := on }

/-! ## MCTP (16 R432) -/

/-- The binding of an endpoint: 0 SMBus, 1 H0, 2 H1. -/
def binding : MctpEndpoint → Nat
  | .smbus _ => 0
  | .pf n => 1 + n.val / 4

/-- Whether MCTP requests of an endpoint are served: the binding's clock runs and Golne firmware is in service. -/
def mctpServed (s : State) (ep : MctpEndpoint) : Bool :=
  !s.golneDown && !s.frozen.contains (match ep with | .smbus _ => 12 | .pf n => 5 + n.val / 4)

/-- An MCTP control response: message type 0, command, completion code and content (DSP0236; PRESUMED, assumption 24). -/
def mctpControl (ep : MctpEndpoint) (cmd cc : Nat) (l : List Byte) (s : State) : State :=
  if mctpServed s ep then s.emit (.mctp ep ([0] ++ leBytes 1 cmd ++ leBytes 1 cc ++ l)) else s

/-- MCTP_SET_ENDPOINT_ID: the bus owner's assignment; the null and the broadcast EID are no assignment (PRESUMED, assumption 24). -/
def execMctpSetEndpointId (ep : MctpEndpoint) (eid : BitVec 8) (s : State) : Out :=
  if !mctpServed s ep then .next s
  else if eid = 0 || eid = 0xFF then .next (mctpControl ep 1 2 [] s)
  else .next (mctpControl ep 1 0 [0, eid, 0] { s with eids := Tab.set 0 s.eids (binding ep) eid.toNat })

/-- MCTP_GET_ENDPOINT_ID. -/
def execMctpGetEndpointId (ep : MctpEndpoint) (s : State) : Out :=
  .next (mctpControl ep 2 0 (leBytes 1 (Tab.get 0 s.eids (binding ep)) ++ [0, 0]) s)

/-- MCTP_GET_ENDPOINT_UUID. -/
def execMctpGetEndpointUuid (ep : MctpEndpoint) (s : State) : Out := .next (mctpControl ep 3 0 (fit 16 Config.uuid) s)

/-- MCTP_GET_VERSION_SUPPORT. -/
def execMctpGetVersionSupport (ep : MctpEndpoint) (s : State) : Out :=
  .next (mctpControl ep 4 0 (leBytes 1 (Config.mctpVersions.length / 4) ++ Config.mctpVersions) s)

/-- MCTP_GET_MESSAGE_TYPE_SUPPORT: types 0x00, 0x05, 0x06 and 0x7E. -/
def execMctpGetMessageTypeSupport (ep : MctpEndpoint) (s : State) : Out :=
  .next (mctpControl ep 5 0 [4, 0x00, 0x05, 0x06, 0x7E] s)

/-- MCTP_GET_VDM_SUPPORT: one identifier, of the PCI format. -/
def execMctpGetVdmSupport (ep : MctpEndpoint) (s : State) : Out :=
  .next (mctpControl ep 6 0 ([0xFF, 0] ++ (leBytes 2 (Config.vendorId.toNat % 2 ^ 16)).reverse ++ [0, 0]) s)

/-- The endpoint and the session of an MCTP message's writer. -/
def mctpEnd : Writer → Option (MctpEndpoint × Option Nat)
  | .smbus eid sess => some (.smbus eid, sess)
  | .vdm pf sess => some (.pf pf, sess)
  | _ => none

/-- A response to a dictionary message (16 R432). -/
def mctpAnswer (ep : MctpEndpoint) (cmd tag idx sub : Nat) (c : Abort) (data : List Byte) (s : State) : State :=
  s.emit (.mctp ep (leBytes 1 (cmd % 128 + 128) ++ leBytes 1 tag ++ leBytes 4 c.toNat ++
    leBytes 2 ((unitGen s idx sub).getD 0) ++ leBytes 2 data.length ++ data))

/-- The bytes of a read with a length of 0: to the end of the entry, at most 1,024 (16 R432). -/
def mctpReadAll (w : Writer) (idx sub off : Nat) (s : State) : State × Except Abort (List Byte) :=
  match (entrySpec idx sub).map EntrySpec.ty with
  | some (.dom cap rcd) =>
    let cap := if idx = 0x1E60 then 8 * directory.length else domCap idx sub cap
    let n := min (cap - off) ((1024 + rcd - 1) / rcd * rcd)
    if cap ≤ off then dictRead w idx sub off 0 s
    else match dictRead w idx sub off n s with
      | (s, .ok l) => (s, .ok (l.take 1024))
      | r => r
  | _ => dictRead w idx sub off 0 s

/-- A dictionary message (16 R432). -/
def mctpDict (w : Writer) (msg : List Byte) (s : State) : State :=
  match mctpEnd w with
  | none => s
  | some (ep, sess) =>
    let lost := match sess with
      | some sid => !sessionOpen s sid ep
      | none => false
    if !mctpServed s ep || lost then s
    else
      let n := fun off k => leNat (slice msg off k)
      let cmd := n 0 1
      let tag := n 1 1
      let idx := n 2 2
      let sub := n 4 1
      let fl := n 5 1
      let off := n 8 4
      let len := n 12 2
      let data := msg.drop 16
      let s := s.bump 0x1E20 2
      let more := bitOf fl 1
      let acc := s.accums.find? (fun a => a.ep == ep)
      let s := { s with accums := s.accums.filter (fun a => a.ep != ep) }
      let gen := if bitOf fl 0 then some (n 6 2) else none
      let ans := fun (c : Abort) (l : List Byte) (s : State) => mctpAnswer ep cmd tag idx sub c l s
      let reserved := msg.length < 16 || (cmd ≠ 1 && cmd ≠ 2) || 4 ≤ fl || n 14 2 ≠ 0 || 1024 < len ||
        (cmd = 1 && (more || !data.isEmpty)) || (cmd = 2 && len = 0)
      match acc with
      | some a =>
        if reserved || cmd = 1 || a.idx ≠ idx || a.sub ≠ sub || a.off + a.data.length ≠ off || data.length ≠ len then
          ans 0x08000000 [] s
        else if 16777216 < a.data.length + len then ans 0x06090030 [] s
        else if more then ans 0 [] { s with accums := s.accums ++ [{ a with data := a.data ++ data }] }
        else
          let r := pathWrite w idx sub a.off (a.data ++ data) gen s
          ans r.2 [] r.1
      | none =>
        if reserved then ans 0x06090030 [] s
        else if cmd = 1 then
          match (if len = 0 then mctpReadAll w idx sub off s else dictRead w idx sub off len s) with
          | (s, .ok l) => ans 0 (l.take 1024) s
          | (s, .error c) => ans c [] s
        else if data.length ≠ len then
          let r := formRefusal w idx sub data s
          ans r.1 [] (if r.2 then unauthNote w idx s else s)
        else if more then ans 0 [] { s with accums := s.accums ++ [⟨ep, idx, sub, off, data⟩] }
        else
          let r := pathWrite w idx sub off data gen s
          ans r.2 [] r.1

/-- MCTP_DICT_READ (16 R432). -/
def execMctpDictRead (w : Writer) (msg : List Byte) (s : State) : Out := .next (mctpDict w msg s)

/-- MCTP_DICT_WRITE (16 R432). -/
def execMctpDictWrite (w : Writer) (msg : List Byte) (s : State) : Out := .next (mctpDict w msg s)

/-! ## SPDM (16 R433, 17 R460, R461) -/

/-- An SPDM response of a code and a content, while requests are served (codes of DSP0274; PRESUMED, assumption 24). -/
def spdm (ep : MctpEndpoint) (code : Nat) (l : List Byte) (s : State) : State :=
  if mctpServed s ep then s.emit (.spdm ep code l) else s

/-- An SPDM error response. -/
def spdmError (ep : MctpEndpoint) (s : State) : State := spdm ep 0x7F [] s

/-- SPDM_GET_VERSION: version 1.2. -/
def execSpdmGetVersion (ep : MctpEndpoint) (s : State) : Out := .next (spdm ep 0x04 [0x12] s)

/-- SPDM_GET_CAPABILITIES. -/
def execSpdmGetCapabilities (ep : MctpEndpoint) (s : State) : Out := .next (spdm ep 0x61 Config.spdmCapabilities s)

/-- SPDM_NEGOTIATE_ALGORITHMS: ECDSA P-384 with SHA-384, secp384r1, AES-256-GCM (17 R460), in the encoding of SPDM. -/
def execSpdmNegotiateAlgorithms (ep : MctpEndpoint) (s : State) : Out := .next (spdm ep 0x63 Config.spdmAlgorithms s)

/-- SPDM_GET_DIGESTS: the digest of the slot 0 chain. -/
def execSpdmGetDigests (ep : MctpEndpoint) (s : State) : Out :=
  .next (spdm ep 0x01 (hash48 (s.domRead 0x2120 1 0 16384)) s)

/-- SPDM_GET_CERTIFICATE: bytes of the slot 0 chain (17 R460). -/
def execSpdmGetCertificate (ep : MctpEndpoint) (off len : Nat) (s : State) : Out :=
  .next (spdm ep 0x02 (s.domRead 0x2120 1 off (min len (16777216 - off))) s)

/-- SPDM_CHALLENGE: answered with the alias key's signature. -/
def execSpdmChallenge (ep : MctpEndpoint) (nonce : List Byte) (s : State) : Out :=
  .next (spdm ep 0x03 (fit 96 (Config.sign 0 (aliasPub s ++ nonce))) s)

/-- The content of a measurement block (17 R461). -/
def measBlock (s : State) (b : Nat) : Option (List Byte) :=
  let recs := fun lo n => s.domRead 0x2100 8 (56 * lo) (56 * n)
  let meas := fun i => s.domRead 0x2100 8 (56 * i + 8) 48
  match b with
  | 1 => some (fit 48 Config.romMeasurement)
  | 2 => some (meas 33)
  | 3 => some (hash48 (recs 0 24))
  | 4 => some (hash48 (recs 24 4))
  | 5 => some (hash48 (recs 28 4))
  | 6 => some (meas 32)
  | 7 => some (meas 34)
  | 8 => some (if s.unlockMeas.isEmpty then List.replicate 48 0 else fit 48 s.unlockMeas)
  | 9 => some (leBytes 8 (s.dget 0x2110 1 - 1) ++ fit 48 s.lastHash)
  | 10 => some (leBytes 2 (s.dget 0x2101 1) ++ leBytes 1 (s.dget 0x2102 1) ++ leBytes 1 (s.dget 0x2100 5))
  | _ => none

/-- SPDM_GET_MEASUREMENTS: one block, the number of blocks for index 0, or all of them for 0xFF (17 R461; SPDM's indices). -/
def execSpdmGetMeasurements (ep : MctpEndpoint) (block : BitVec 8) (s : State) : Out :=
  if block = 0 then .next (spdm ep 0x60 [10] s)
  else if block = 0xFF then
    .next (spdm ep 0x60 ((List.range 10).flatMap (fun i =>
      (match measBlock s (i + 1) with | some l => leBytes 1 (i + 1) ++ l | none => []))) s)
  else match measBlock s block.toNat with
    | some l => .next (spdm ep 0x60 ([block] ++ l) s)
    | none => .next (spdmError ep s)

/-- Whether principal root `i` is valid (17, 0x2120.03). -/
def rootValid (s : State) (i : Nat) : Bool := s.domByte 0x2120 3 (128 * i) == 1

/-- Whether a requester's session would have role owner, or none where its chain ends at no valid root (17 R460). -/
def sessionRole (s : State) (root : Option (Fin 4)) : Option Bool :=
  if (List.range 4).all (fun i => !rootValid s i) then some true
  else match root with
    | some i => if rootValid s i.val then some (s.domByte 0x2120 3 (128 * i.val + 1) == 0) else none
    | none => none

/-- SPDM_KEY_EXCHANGE: a session opens with its requester's role; the fifth is refused and counted (16 R433, 17 R460). -/
def execSpdmKeyExchange (ep : MctpEndpoint) (root : Option (Fin 4)) (s : State) : Out :=
  if !mctpServed s ep then .next s
  else if 4 ≤ s.sessions.length then .next (spdmError ep (s.bump 0x1E20 4))
  else match sessionRole s root with
    | none => .next (spdmError ep s)
    | some owner =>
      let id := (s.sessions.map Session.id).foldl max 0 + 1
      let l := s.sessions ++ [⟨id, ep, owner, false⟩]
      .next (spdm ep 0x64 (leBytes 4 id) ({ s with sessions := l }.dset 0x1E20 3 l.length))

/-- The session of a number that an endpoint has opened. -/
def ownSession (s : State) (ep : MctpEndpoint) (sid : Nat) : Option Session :=
  s.sessions.find? (fun x => x.id == sid && x.ep == ep)

/-- SPDM_FINISH completes a session (16 R433). -/
def execSpdmFinish (ep : MctpEndpoint) (sid : Nat) (s : State) : Out :=
  match ownSession s ep sid with
  | some x =>
    if x.finished || !mctpServed s ep then .next (spdmError ep s)
    else .next (spdm ep 0x65 [] { s with
      sessions := s.sessions.map (fun y => if y.id == sid then { y with finished := true } else y) })
  | none => .next (spdmError ep s)

/-- A request inside a session: answered with its acknowledgement while the session is open. -/
def spdmAck (ep : MctpEndpoint) (sid code : Nat) (s : State) : State :=
  if sessionOpen s sid ep then spdm ep code [] s else spdmError ep s

/-- SPDM_KEY_UPDATE (16 R433): the session's keys are outside the model (DESIGN CHOICE, assumption 7). -/
def execSpdmKeyUpdate (ep : MctpEndpoint) (sid : Nat) (s : State) : Out := .next (spdmAck ep sid 0x69 s)

/-- SPDM_HEARTBEAT (16 R433): its timer is outside the model; SPDM_HEARTBEAT_TIMEOUT is its expiry. -/
def execSpdmHeartbeat (ep : MctpEndpoint) (sid : Nat) (s : State) : Out := .next (spdmAck ep sid 0x68 s)

/-- SPDM_END_SESSION (16 R433). -/
def execSpdmEndSession (ep : MctpEndpoint) (sid : Nat) (s : State) : Out :=
  if sessionOpen s sid ep && mctpServed s ep then .next (endSessions (fun x => x.id == sid) (spdm ep 0x6C [] s))
  else .next (spdmError ep s)

/-- SPDM_HEARTBEAT_TIMEOUT (16 R433). -/
def execSpdmHeartbeatTimeout (sid : Nat) (s : State) : Out := .next (endSessions (fun x => x.id == sid) s)

end Sys2Proof.Machine
end

