-- ==== Sys2Proof/Machine/Windows.lean ====
section
/-!
DEFINITION. Machine/Windows.lean: one access of a master anywhere in the address map (01 R35 to R38), with the windows of the
dictionary (16 R434), the lock registers (11 R304) and the mailboxes (11 R308); the stem's transfers (01 R31, R32); the
debugger's port and JTAG (19 R511, R512).
-/
namespace Sys2Proof.Machine

/-- The answer to an access: the bytes read with their poison mark, a write that was accepted, or an access fault. -/
inductive BusAns where
  | data (l : List Byte) (poison : Bool)
  | done
  | fault
deriving DecidableEq, Repr

/-- A write of the dictionary window (16 R434): a generation staged at slot offset 8, or a scalar at 0 with its own size. -/
def windowWrite (w : Writer) (idx sub slot : Nat) (data : List Byte) (s : State) : State × Option (Abort × Bool) :=
  match entrySpec idx sub with
  | none => (s, some (if indexDefined idx then 0x06090011 else 0x06020000, false))
  | some e =>
    if slot = 8 && data.length = 2 && (genEntry idx sub).isSome then
      match stageGen w idx sub (leNat data) s with
      | .ok s => (s, none)
      | .error r => (s, some r)
    else match scalSize e.ty with
      | some n =>
        if slot ≠ 0 || data.length ≠ n then (s, some (formRefusal w idx sub data s))
        else
          let r := takeStaged w idx sub none s
          match dictWrite w idx sub 0 data r.2 r.1 with
          | (s, none) => (if idx = 0x1E30 && sub = 1 then bulkFetch w (leNat data) s else s, none)
          | x => x
      | none => (s, some (formRefusal w idx sub data s))

/-- A core thread's refused store is an imprecise ACCESS refusal of the store at `pc` (06 R175); any other master's write is
refused without more. -/
def busRefused (m a : Nat) (wr : Bool) (pc : Addr) (s : State) : State × BusAns :=
  match threadOf m, wr with
  | some t, true => (refuseStore (.thr t) a pc s, .fault)
  | _, _ => (s, .fault)

/-- An access of master `m` at address `a`: `size` bytes read, or `wr` written. `pc` is the PC of a core thread's store. -/
def busAccess (m a size : Nat) (wr : Option (List Byte)) (pc : Addr) (s : State) : State × BusAns :=
  let window := fun (r : State × WinAns) => match r.2, wr with
    | .data l, none => (r.1, BusAns.data l false)
    | .data _, some _ => (r.1, .done)
    | .refused, _ => busRefused m a wr.isSome pc r.1
  match checkAccess m a wr.isSome s with
  | .ok .dict =>
    let e := winEntry a
    (match writerOf m with
     | none => busRefused m a wr.isSome pc s
     | some w =>
       match wr with
       | none =>
         (match windowRead (debugLoad (debugMid w)) w e.1 e.2.1 e.2.2 size s with
          | (s, .ok l) => (s, .data l false)
          | (s, .error c) => (winRecord w e.1 e.2.1 c s, .fault))
       | some l =>
         (match windowWrite w e.1 e.2.1 e.2.2 l s with
          | (s, none) => (s, .done)
          | (s, some (c, u)) => (refuseWrite w e.1 e.2.1 c u pc s, .fault)))
  | .ok .lockWin => window (lockWindow m (a - 0x004000000000) (match wr with | some l => l.length | none => size) (wr.map leNat) s)
  | .ok .mailbox => window (mboxWindow m (a - 0x005000000000) (match wr with | some l => l.length | none => size) (wr.map leNat) s)
  | .ok _ =>
    let k := memKey m a s
    (match wr with
     | some l =>
       (codeWritten a l.length (storeHome k l (keepHint s m a) s), .done)
     | none =>
       let r := loadHome k size (keepHint s m a) s
       (r.1, .data r.2.1 r.2.2))
  | r => busRefused m a wr.isSome pc (accessEvent m a r s)

/-- What a master other than an instruction's hart sees of an access. -/
def busAnswer (m a : Nat) (wr : Bool) (r : State × BusAns) : State :=
  match r.2 with
  | .data l bad => r.1.emit (if bad then .poisonData m a l else .readData m a l)
  | .done => r.1
  | .fault =>
    if m / 4096 == 1 then (if wr then r.1 else r.1.emit (.hostCompletion m true []))
    else if wr && (threadOf m).isSome then r.1
    else r.1.emit (.accessFault m a)

/-! ## A host's BARs (14 R381) -/

/-- The address of the map of the core view that a BAR offset of a function is translated into (01 R36, 14 R381): BAR2 and BAR4 of
a PF, and the mailbox block in BAR0. The other offsets of BAR0 belong to the function's doorbells and vectors. -/
def barAddr (fn : Nat) (bar : Fin 3) (off : Nat) : Option Nat :=
  let pf := !bitOf fn 11
  if bar.val = 1 then (if pf && off < 0x10000000 then some (0x003000000000 + off) else none)
  else if bar.val = 2 then (if pf && off < 0x100000000 then some (0x004000000000 + off) else none)
  else if 0x90000 ≤ off ∧ off < 0x94000 then some (0x005000000000 + (off - 0x90000))
  else none

/-- A byte of a function's MSI-X table (14 R381, R388): the mask bit of Vector Control, else what was written; a vector is masked
until it is unmasked. -/
def msixByte (s : State) (fn off : Nat) : Byte :=
  if off % 16 = 12 then (if s.msixOpen.contains (fn * 2048 + off / 16) then 0 else 1)
  else Tab.get 0 s.msixTab (fn * 2 ^ 15 + off)

/-- A byte of a function's pending bit array. -/
def msixPba (s : State) (fn off : Nat) : Byte :=
  BitVec.ofNat 8 (((List.range 8).map (fun j => if s.msixPend.contains (fn * 2048 + 8 * off + j) then 2 ^ j else 0)).sum)

/-- A byte written to a function's MSI-X table; clearing a mask bit sends a pending vector (14 R388). -/
def msixWrite (fn off : Nat) (b : Byte) (s : State) : State :=
  let v := off / 16
  if off % 16 = 12 then
    (if bitOf b.toNat 0 then { s with msixOpen := s.msixOpen.filter (· ≠ fn * 2048 + v) } else msixUnmask fn v s)
  else { s with msixTab := Tab.set 0 s.msixTab (fn * 2 ^ 15 + off) b }

/-- An access to the part of BAR0 that lies outside the map: a write to a queue's doorbell, the MSI-X table and its pending bits;
the doorbells read 0 (DESIGN CHOICE, assumption 41), as do other offsets, whose writes are ignored (14 R381). -/
def bar0Access (fn off size : Nat) (wr : Option (List Byte)) (s : State) : State × BusAns :=
  match wr with
  | none =>
    (s, .data ((List.range size).map (fun j =>
      let o := off + j
      if 0x80000 ≤ o ∧ o < 0x88000 then msixByte s fn (o - 0x80000)
      else if 0x88000 ≤ o ∧ o < 0x88100 then msixPba s fn (o - 0x88000) else 0)) false)
  | some l =>
    if off < 0x80000 then (doorbell fn (off / 8) (if off % 8 = 0 then l.length else 0) (leNat l) s, .done)
    else (l.zipIdx.foldl (fun s e =>
      let o := off + e.2
      if 0x80000 ≤ o ∧ o < 0x88000 then msixWrite fn (o - 0x80000) e.1 s else s) s, .done)

/-! ## The stem crossbar (01 R30 to R35; 05 R153 to R155) -/

/-- Whether a port of the crossbar sets a master ID on a request (01 R33, R34): each port the IDs of the masters behind it. The DRAM
groups make no request. -/
def portIssues (src m : Nat) : Bool :=
  let k := m / 4096
  let lo := m % 4096
  if src < 4 then (k == 0 && lo / 1024 == src) || (k == 4 && lo / 1024 == 2 && lo / 256 % 4 == src) || (k == 7 && lo / 1024 == src && !bitOf lo 9)
  else if src < 8 then false
  else if src < 10 then (k == 1) || (k == 4 && lo / 1024 == src - 8) || (k == 3 && bitOf lo 11)
  else if src = 10 then k == 5
  else if src = 11 then k == 2 || (k == 3 && !bitOf lo 11) || (k == 7 && bitOf lo 9)
  else k == 6

/-- The clock domain behind a port of the crossbar, for those whose far side is clocked: the DRAM groups, the hosts, Golne (01). -/
def portDomain (n : Nat) : Option Nat :=
  if 4 ≤ n ∧ n < 8 then some (n + 3) else if n = 8 then some 5 else if n = 9 then some 6 else if n = 11 then some 14 else none

/-- The ports of the crossbar behind a clock domain. -/
def stemDomainPorts (d : Nat) : List Nat := (List.range 13).filter (fun n => portDomain n == some d)

/-- Whether an output port takes a transfer: what lies behind it has its clock. -/
def outReady (s : State) (n : Nat) : Bool :=
  match portDomain n with
  | some d => !s.frozen.contains d
  | none => true

/-- The transfer that an output port serves next: the lowest credit class that waits (05 R155); within it the input port that
follows the one served last, in rotation; of that, the oldest (01 R31). -/
def stemNext (s : State) (dst : Nat) : Option StemWait :=
  let l := s.stem.filter (fun w => w.x.dst.val == dst)
  match [2, 3].find? (fun c => l.any (fun w => creditClass w.x.mid.toNat == c)) with
  | none => none
  | some c =>
    let last := Tab.get 12 s.stemRr (dst * 16 + c)
    (List.range 13).findSome? (fun j =>
      l.find? (fun w => creditClass w.x.mid.toNat == c && w.x.src.val == (last + 1 + j) % 13))

/-- The places of an output port's queue beyond the 2 reserved for each credit class: the spec gives no number (05 R154). -/
def stemRoom (s : State) (dst c : Nat) : Bool :=
  let n := fun (c : Nat) => (s.stem.filter (fun w => w.x.dst.val == dst && creditClass w.x.mid.toNat == c)).length
  n c < 2 || ([2, 3].map (fun c => n c - 2)).sum < Config.stemShared

/-- A transfer passes (01 R31, R32): one whose CRC failed is retried, and delivered exactly once in any case. The failing link is the
destination port's, and the syndrome of 0x022 and 0x023 is port * 32 + slice (DESIGN CHOICE, assumption 41). The wait at the port
is recorded as the longest of its class (05 R155). -/
def stemPass (w : StemWait) (s : State) : State :=
  let x := w.x
  let c := creditClass x.mid.toNat
  let long := min (2 ^ 32 - 1) (s.time - w.since)
  let s := if s.dget 0x2020 c < long then s.dset 0x2020 c long else s
  let s := { s with stemRr := Tab.put s.stemRr (x.dst.val * 16 + c) x.src.val }
  let n := x.crcFailures.val
  let syn := x.dst.val * 2 ^ 5 + x.slice.val
  let s := if n = 0 then s else if n < 4 then raise 0x022 syn none s else raise 0x023 syn none s
  let m := x.mid.toNat
  let a := x.addr.toNat
  let pc := match threadOf m with
    | some t => (s.thr (.thr t)).pc
    | none => 0
  match x.bar with
  | none => busAnswer m a x.wr.isSome (busAccess m a x.size x.wr pc s)
  | some b =>
    match barAddr m b a with
    | some y => busAnswer m y x.wr.isSome (busAccess m y x.size x.wr pc s)
    | none =>
      if b.val = 0 then busAnswer m a x.wr.isSome (bar0Access m a x.size x.wr s)
      else busAnswer m a x.wr.isSome (busRefused m a x.wr.isSome pc (accessEvent m a .unmapped s))

/-- An output port serves the transfers that wait for it, while it takes them. -/
def stemServe (dst : Nat) : Nat → State → State
  | 0, s => s
  | n + 1, s =>
    if outReady s dst then
      match stemNext s dst with
      | none => s
      | some w => stemServe dst n (stemPass w { s with stem := s.stem.erase w })
    else s

/-- An output port serves every transfer that waits for it. -/
def stemServeAll (dst : Nat) (s : State) : State := stemServe dst s.stem.length s

/-- STEM_TRANSFER: a request is brought to its output port and served in its turn (01 R30, R31); a request that finds no place in
the port's queue waits at its source, which offers it again (05 R154). A port that is isolated passes nothing (18 R480). The hardware sets the
master ID at the port, so no port carries an ID that is not its own; an ID of R35 comes from a hardware error. -/
def execStemTransfer (x : StemXfer) (s : State) : Out :=
  let m := x.mid.toNat
  if !portOpen s x.src.val || !portOpen s x.dst.val || (validMid m && !portIssues x.src.val m) || !stemRoom s x.dst.val (creditClass m) then .next s
  else .next (stemServeAll x.dst.val { s with stem := s.stem ++ [⟨x, s.time⟩] })

/-! ## The debugger's port (19 R511) -/

/-- DEBUG_MEMORY_ACCESS: a write or read of 0x8010.02. -/
def execDebugMemoryAccess (w : Writer) (wr : Option (BitVec 64)) (s : State) : Out :=
  if windowShut s w then .next (windowRefused w 0x8010 2 s)
  else match wr with
  | some v =>
    (match dictWrite w 0x8010 2 0 (leBytes 8 v.toNat) none s with
     | (s, none) => .next s
     | (s, some (c, u)) => .next (writeRefused w 0x8010 2 c u (writerPc w s) s))
  | none =>
    (match dictRead w 0x8010 2 0 0 s with
     | (s, .ok l) => .next (s.emit (.readData w.mid (0x003000000000 + 0x8010 * 0x1000 + 0x20) l))
     | (s, .error c) => .next (readRefused w 0x8010 2 c s))

/-! ## JTAG (19 R512) -/

/-- Whether the JTAG port's clock reaches the interior (01 R29). -/
def tapAlive (s : State) : Bool := !s.frozen.contains 16

/-- An instruction in the instruction register; only EXTEST drives the pins. -/
def tapLoad (code : Nat) (s : State) : State := { s with tapIr := code, tapDrive := code == 0 }

/-- The BYPASS register shifted: 1 bit, which captures 0. -/
def tapBypass (code : Nat) (s : State) : State := (tapLoad code s).emit (.jtag 0 1)

/-- TAP_RESET: the TAP alone; IDCODE becomes the instruction (IEEE 1149.1). -/
def execTapReset (s : State) : Out := .next (tapLoad 1 s)

/-- Bits of a list of pin levels as they are shifted: what the cells captured is a free value (DESIGN CHOICE, assumption 25). -/
def tapScan (pins : List Bool) (s : State) : State :=
  (s.emit (.jtag ((Config.freeWord s.fresh).toNat % 2 ^ pins.length) pins.length)).tick

/-- JTAG_EXTEST: the boundary scan's cells take the levels shifted in and drive the pins. -/
def execJtagExtest (pins : List Bool) (s : State) : Out :=
  if tapAlive s then .next (tapLoad 0 { tapScan pins s with tapPins := pins }) else .next s

/-- JTAG_IDCODE. -/
def execJtagIdcode (s : State) : Out :=
  if tapAlive s then .next ((tapLoad 1 s).emit (.jtag 0x23200A5B 32)) else .next s

/-- JTAG_SAMPLE_PRELOAD: the pins are sampled, the cells take the levels shifted in without driving. -/
def execJtagSamplePreload (pins : List Bool) (s : State) : Out :=
  if tapAlive s then .next (tapLoad 2 { tapScan pins s with tapPins := pins }) else .next s

/-- JTAG_PERMIT: Update-DR presents the permit. -/
def execJtagPermit (permit : List Byte) (s : State) : Out :=
  if !tapAlive s then .next s
  else if s.dbgEnHigh then .next (tapBypass 0x10 s)
  else .next (presentPermit 0x3000 (fit 256 permit) (tapLoad 0x10 s))

/-- The result of an access as Capture-DR returns it: data, DONE, and 0 or 0x7F. -/
def tapResult (r : Except Abort (List Byte)) : Nat :=
  match r with
  | .ok l => leNat l % 2 ^ 64 + 2 ^ 71
  | .error _ => 0x7F * 2 ^ 64 + 2 ^ 71

/-- An access of the debugger over JTAG: refused while debug is locked (01 R38, 19 R507). -/
def tapAccess (idx sub : Nat) (wr : Option Nat) (s : State) : State × Except Abort (List Byte) :=
  let w := Writer.debugger false
  if !unlocked s then (s, .error 0x08000020)
  else match wr with
    | some v =>
      let n := ((entrySpec idx sub).bind (fun e => scalSize e.ty)).getD 8
      let r := pathWrite w idx sub 0 (leBytes n v) none s
      (r.1, if r.2 = 0 then .ok [] else .error r.2)
    | none =>
      (match dictRead w idx sub 0 0 s with
       | (s, .ok l) => (s, if 8 < l.length then .error 0x06070010 else .ok l)
       | r => r)

/-- JTAG_DICT: Capture-DR returns the last access's result; Update-DR starts the access. -/
def execJtagDict (dr : BitVec 96) (s : State) : Out :=
  if !tapAlive s then .next s
  else if s.dbgEnHigh then .next (tapBypass 0x11 s)
  else
    let v := dr.toNat
    let s := (tapLoad 0x11 s).emit (.jtag s.tapDict 96)
    let r := if bitsOf v 70 64 ≠ 0 then (s, .error 0x06090030)
      else tapAccess (bitsOf v 95 80) (bitsOf v 79 72) (if bitOf v 71 then some (v % 2 ^ 64) else none) s
    .next { r.1 with tapDict := tapResult r.2 + bitsOf v 95 72 * 2 ^ 72 }

/-- JTAG_MEM: as DICT, through 0x8010: the address, then the data. -/
def execJtagMem (dr : BitVec 113) (s : State) : Out :=
  if !tapAlive s then .next s
  else if s.dbgEnHigh then .next (tapBypass 0x12 s)
  else
    let v := dr.toNat
    let s := (tapLoad 0x12 s).emit (.jtag s.tapMem 113)
    let a := tapAccess 0x8010 1 (some (bitsOf v 111 64)) s
    let r := match a.2 with
      | .ok _ => tapAccess 0x8010 2 (if bitOf v 112 then some (v % 2 ^ 64) else none) a.1
      | .error c => (a.1, .error c)
    .next { r.1 with tapMem := tapResult r.2 }

/-- JTAG_BYPASS and codes that act as BYPASS: 1 bit. A code of the table selects its own register, of which nothing is
updated; IDCODE's is shifted. -/
def execJtagBypass (code : BitVec 8) (s : State) : Out :=
  let c := code.toNat
  if !tapAlive s then .next s
  else if c = 1 then .next ((tapLoad 1 s).emit (.jtag 0x23200A5B 32))
  else if c = 0 || c = 2 || (0x10 ≤ c && c ≤ 0x12 && !s.dbgEnHigh) then .next (tapLoad c s)
  else .next (tapBypass c s)

end Sys2Proof.Machine
end

