-- ==== Sys2Proof/Machine/Pipeline.lean ====
section
/-!
DEFINITION. Machine/Pipeline.lean: the pipeline of a core (07 R203 to R209): the fetch buffer, the issue arbiter, dual issue,
the reservation stations, result tags and ports, and in-order retire. An instruction's effect is taken whole at its issue,
since dependent instructions wait for its result tag; what this file keeps is which thread may issue, and what is in flight.
-/
namespace Sys2Proof.Machine

/-! ## The fetch buffer (07 R203) -/

/-- The block of an address. -/
def blockOf (a : Nat) : Nat := a / 16 * 16

/-- The blocks of a thread's fetch buffer that hold its next instructions (07 R203). -/
def fetchHeld (x : Thread) : List Nat :=
  let b := blockOf x.pc.toNat
  if x.fetch.contains b then (if x.fetch.contains (b + 16) then [b, b + 16] else [b]) else []

/-- The unissued instructions in a thread's fetch buffer. -/
def unissued (x : Thread) : Nat :=
  match fetchHeld x with
  | [] => 0
  | [_] => (16 - x.pc.toNat % 16) / 4
  | _ => (16 - x.pc.toNat % 16) / 4 + 4

/-! ## What an instruction word needs of the pipeline (06 R163 to R185; 07 R206 to R208) -/

/-- The number of address register `r` among the registers of a thread; data registers have 0 to 15. -/
def aReg (r : Nat) : Nat := 16 + r

/-- The number of accumulator `n` among the registers of a thread. -/
def acReg (n : Nat) : Nat := 32 + n % 4

/-- The registers that a load or store word reads to form its address. -/
def addrRegs (w : Nat) : List Nat := aReg (bitsOf w 21 18) :: (if bitsOf w 14 13 = 2 then [bitsOf w 11 8] else [])

/-- The base register that a post-increment writes (06 R172). -/
def incReg (w : Nat) : List Nat := if bitsOf w 14 13 = 1 then [aReg (bitsOf w 21 18)] else []

/-- The registers that an instruction word reads and those that it writes. -/
def wordRegs (w : Nat) : List Nat × List Nat :=
  let rd := bitsOf w 25 22
  let ra := bitsOf w 21 18
  let rb := bitsOf w 17 14
  let rc := bitsOf w 13 10
  let f := bitsOf w 9 0
  match w / 2 ^ 26 with
  | 0x00 => if f = 6 then ([], [rd]) else if f = 0x11 then ([aReg ra], []) else ([], [])
  | 0x01 => ([ra, rb] ++ (if f = 0x11 then [rc] else []), [rd])
  | 0x02 => ([ra], [rd])
  | 0x03 => ([ra], [rd])
  | 0x04 => (if bitsOf w 21 19 = 3 then [rd] else [], [rd])
  | 0x05 =>
    (if f ≤ 1 then [ra, rb] else if f = 2 then [rd, ra, rb] else if f = 6 then [ra, rb, rc] else [ra], [rd])
  | 0x06 =>
    let op := f / 64
    let old := if bitOf f 5 then [] else [acReg rd]
    if op ≤ 1 then ([ra, rb] ++ old, [acReg rd]) else if op ≤ 4 then (ra :: old, [acReg rd]) else ([acReg ra], [rd])
  | 0x07 =>
    if f ≤ 1 then ([aReg ra, rb], [aReg rd]) else if f = 3 then ([aReg ra], [aReg rd])
    else if f = 4 then ([ra], [aReg rd]) else if f = 5 then ([aReg ra], [rd]) else ([aReg ra, aReg rb], [rd])
  | 0x08 => ([aReg ra], [aReg rd])
  | 0x09 => ([ra, rb], [rd])
  | 0x0A => ([ra], [rd])
  | 0x0B => if bitsOf w 17 16 = 0 then ([], [rd]) else ([ra], [])
  | 0x0C => (if bitsOf w 17 16 = 2 then [rd, ra] else [ra], [rd])
  | 0x10 => (addrRegs w, (if bitsOf w 17 15 = 7 then aReg rd else rd) :: incReg w)
  | 0x11 => ((if bitsOf w 17 15 = 7 then aReg rd else rd) :: addrRegs w, incReg w)
  | 0x12 => (aReg ra :: (if f = 1 || 3 ≤ f then [rb] else []), [rd])
  | 0x13 =>
    let x := if bitOf w 13 then [ra] else []
    if bitOf w 14 then (rd :: x, []) else (x, [rd])
  | 0x14 => if f = 0 then ([ra, rb], []) else if f = 1 then ([ra], []) else if f = 2 then ([ra], [rd]) else ([], [rd])
  | 0x18 => (if bitsOf w 17 15 ≤ 5 then [rd, ra] else [rd], [])
  | 0x1A => ([], [aReg 14])
  | 0x1B => ([aReg ra], if f = 1 then [aReg 14] else [])
  | 0x3C => if bitsOf w 13 8 = 3 || bitsOf w 13 8 = 4 then ([ra, rb], [rd]) else if bitsOf w 13 8 = 5 then ([ra], [rd])
    else if bitsOf w 13 8 = 2 then ([rd, ra, rb], [rd]) else ([rd, ra], [rd])
  | 0x3D => if bitsOf w 11 6 = 1 then ([], [bitsOf w 15 12]) else ([bitsOf w 15 12], [])
  | 0x3E => ([bitsOf w 18 15, bitsOf w 14 11, bitsOf w 10 7], [bitsOf w 18 15])
  | 0x3F => ([bitsOf w 18 15, bitsOf w 14 11, bitsOf w 10 7], [bitsOf w 18 15])
  | _ => ([], [])

/-- The ports that may run an instruction word (07 R208): 0 and 1 the ALUs, 2 load/store, 3 branch, 4 helper. -/
def wordPorts (w : Nat) : List Nat :=
  let m := w / 2 ^ 26
  if m = 0x01 then (if 10 ≤ bitsOf w 9 0 && bitsOf w 9 0 ≤ 12 then [1] else [0, 1])
  else if m = 0x06 then [1]
  else if (2 ≤ m && m ≤ 0x0A) || m = 0x0C then [0, 1]
  else if 0x10 ≤ m && m ≤ 0x13 then [2]
  else if 0x3C ≤ m then [4]
  else [3]

/-- The steps from a word's leaving its station to its result (07 R208). Loads, atomics and the table and customer helpers are
variable: a free number `v` of further steps. -/
def wordSteps (w v : Nat) : Nat :=
  let m := w / 2 ^ 26
  if m = 0x01 then (if 10 ≤ bitsOf w 9 0 && bitsOf w 9 0 ≤ 12 then 3 else 1)
  else if m = 0x06 then (if bitsOf w 9 6 ≤ 1 then 3 else 2)
  else if m = 0x10 then 3 + v
  else if m = 0x12 then 1 + v
  else if m = 0x13 then 2
  else if m = 0x00 || m = 0x0B || m = 0x14 || m = 0x3C then 2
  else if 0x3D ≤ m then 1 + v
  else 1

/-- An instruction of an ALU. -/
def isAlu (w : Nat) : Bool := (wordPorts w).any (· ≤ 1)

/-- A control transfer (06 R176). -/
def isTransfer (w : Nat) : Bool := 0x18 ≤ w / 2 ^ 26 && w / 2 ^ 26 ≤ 0x1B

/-- A word of a major that never issues in pairs (07 R206): 0x00, 0x0B, 0x13 and 0x14, with the exception of `NOP`. -/
def unpaired (w : Nat) : Bool := w ≠ 0 && [0x00, 0x0B, 0x13, 0x14].contains (w / 2 ^ 26)

/-! ## Stations, tags and ports (07 R207, R209) -/

/-- The result of an instruction in flight is there. -/
def Flight.done (f : Flight) : Bool := !f.held && f.left == 0

/-- The stations that a thread holds (07 R207). -/
def Pipe.stations (p : Pipe) (t : Nat) : Nat := (p.flights.filter (fun f => f.thread == t && f.held)).length

/-- The instructions of a thread that have issued and not retired (07 R207). -/
def Pipe.inFlight (p : Pipe) (t : Nat) : Nat := (p.flights.filter (fun f => f.thread == t)).length

/-- A thread's resources for one more instruction are free: at most 6 in flight, 4 of its stations, 12 stations (07 R207). -/
def Pipe.free (p : Pipe) (t : Nat) : Bool :=
  p.inFlight t < 6 && p.stations t < 4 && (p.flights.filter Flight.held).length < 12

/-- The result tag taken at issue: the lowest of the 64 that is free (07 R207). -/
def Pipe.freeTag (p : Pipe) : Nat := ((List.range 64).find? (fun n => !p.flights.any (fun f => f.tag == some n))).getD 0

/-- The retire stage of one core step: each thread's oldest finished instructions retire in program order, at most two (07 R209). -/
def retireStep (l : List Flight) : List Flight :=
  let quota := fun (t : Nat) => min 2 ((l.filter (fun f => f.thread == t)).takeWhile Flight.done).length
  (l.foldl (fun (acc : List Nat × List Flight) f =>
    if acc.1.countP (· == f.thread) < quota f.thread then (f.thread :: acc.1, acc.2)
    else (f.thread :: acc.1, acc.2 ++ [f])) ([], [])).2

/-- The ports of one core step: the oldest station whose operands are all present leaves for each free port (07 R207). -/
def portStep (l : List Flight) : List Flight :=
  (l.foldl (fun (acc : List Nat × List Flight) f =>
    match (if f.held && f.needs.isEmpty then f.ports.find? (fun q => !acc.1.contains q) else none) with
    | some q => (q :: acc.1, acc.2 ++ [{ f with held := false }])
    | none => (acc.1, acc.2 ++ [f])) ([], [])).2

/-- One core step of what is in flight: results come nearer, waiting stations see the tags that are there, instructions retire,
stations leave for their ports. -/
def Pipe.step (p : Pipe) : Pipe :=
  let l := p.flights.map (fun f => if f.held then f else { f with left := f.left - 1 })
  let waits := fun (n : Nat) => l.any (fun f => f.tag == some n && !f.done)
  { p with flights := portStep (retireStep (l.map (fun f => { f with needs := f.needs.filter waits }))), first := none }

/-- Core steps pass until a thread's resources are free, at most `n` of them. -/
def Pipe.settle : Nat → Pipe → Nat → Pipe
  | 0, p, _ => p
  | n + 1, p, t => if p.free t then p else Pipe.settle n p.step t

/-- An instruction word of a thread issues: it takes a station, and a tag if it writes a register; each operand comes by value, or
by the tag of the youngest instruction in flight of its thread that is to write it (07 R207). -/
def Pipe.issue (p : Pipe) (t w steps : Nat) : Pipe :=
  let r := wordRegs w
  let need := fun (x : Nat) =>
    ((p.flights.reverse.find? (fun f => f.thread == t && f.dest.contains x)).bind (fun f => if f.done then none else f.tag))
  { p with flights := p.flights ++ [{
      thread := t, ports := wordPorts w, tag := if r.2.isEmpty then none else some p.freeTag, dest := r.2
      needs := (r.1.filterMap need).eraseDups, held := true, left := steps }] }

/-! ## The issue arbiter (07 R205, R206) -/

/-- A thread is able to issue: it runs, its next instruction is in the fetch buffer and its resources are free (07 R205). -/
def able (s : State) (t : ThreadId) : Bool :=
  canIssue (.thr t) s && !(fetchHeld (s.thr (.thr t))).isEmpty && (s.pipe t.core).free t.t.val

/-- The starvation limit of a cluster, in steps (07 R205, R210). -/
def starveLimit (s : State) (p : Petal) (c : Cluster) : Nat := 16 * bitsOf (s.dget (pipeIdx p c) 1) 15 8

/-- The thread that the issue arbiter of a core chooses, if any is able to issue (07 R205): the first that has starved, else one
of the highest effective priority, in rotation after the last one granted at that priority. -/
def arbiter (s : State) (k : CoreId) : Option ThreadId :=
  let l := (threadsOf k).filter (able s)
  match l.find? (fun t => starveLimit s k.p k.c ≤ Tab.get 0 (s.pipe k).waits t.t.val) with
  | some t => some t
  | none =>
    let top := (l.map (fun t => eprio s (.thr t))).foldl max 0
    let last := Tab.get 0 (s.pipe k).grants top
    let order := (List.range 8).map (fun i => (last + i) % 8)
    order.findSome? (fun n => l.find? (fun t => t.t.val == n && eprio s (.thr t) == top))

/-- A thread's instruction word issues as the second of the core's present step (07 R206). -/
def pairs (s : State) (t : ThreadId) (w : Nat) : Bool :=
  let x := s.thr (.thr t)
  match (s.pipe t.core).first with
  | none => false
  | some (u, npc, v) =>
    u == t.t.val && npc == x.pc && x.fetch.contains (blockOf x.pc.toNat) &&
      bitOf (s.dget (pipeIdx t.p t.c) 1) 0 && !detOn s t.p t.c &&
      ((isAlu v && isAlu w) || (wordPorts v).all (fun q => !(wordPorts w).contains q)) &&
      !isTransfer v && !unpaired v && !unpaired w && (s.pipe t.core).free u

/-- Whether a core's arbiter lets a thread's instruction word issue (07 R205, R206, R215): as the second of a pair; as the choice
among the threads that are able; or, where none is, as its block arrives in the fetch buffer within the same command (DESIGN
CHOICE, assumption 45). Under DETERMINISTIC the step counter alone decides. -/
def granted (s : State) (t : ThreadId) (w : Nat) : Bool :=
  detOn s t.p t.c || pairs s t w ||
    (match arbiter s t.core with
     | none => true
     | some u => u == t)

/-- The record of an issue in its core's pipeline: the arbiter's step, the stations, and whether another instruction may follow in
the step. `s` is the state at the issue, `u` the state after the instruction's end; `ends` tells that a cause was found at
its retire, so that nothing of the thread stays in flight (07 R209). -/
def recordIssue (t : ThreadId) (w : Nat) (ends : Bool) (s u : State) : State :=
  let k := t.core
  let n := t.t.val
  let p := s.pipe k
  let two := pairs s t w
  let p := if two then p else (Pipe.settle 4096 p n).step
  let p := p.issue n w (wordSteps w (Config.freeSteps t.mid (s.thr (.thr t)).steps.toNat % 256))
  let p := if ends then p.drop n else p
  let p := if two || detOn s t.p t.c then p else { p with
    grants := Tab.put p.grants (eprio s (.thr t)) (n + 1)
    waits := (threadsOf k).foldl (fun l v =>
      Tab.set 0 l v.t.val (if v != t && able s v then Tab.get 0 l v.t.val + 1 else 0)) p.waits }
  let on := !two && (u.thr (.thr t)).st == .running && (u.thr (.thr t)).pc == (s.thr (.thr t)).pc + 4
  let u := u.setPipe k { p with first := if on then some (n, (s.thr (.thr t)).pc + 4, w) else none }
  if two then (u.bump (pipeIdx t.p t.c) 3).updThr (.thr t) (fun x => { x with steps := (s.thr (.thr t)).steps }) else u

/-! ## Accesses that a frozen crossing holds (01 R29) -/

/-- Whether a store of a thread that is not at its home point yet waits for a frozen crossing: in its store buffer, in its core's
merging buffer, or as a dirty line of its task line list. -/
def pendFrozen (s : State) (t : ThreadId) : Bool :=
  let k := t.core
  let at_ := fun (a : Nat) => dramFrozen s (coreKey k a s)
  (s.thr (.thr t)).sb.any (fun e => at_ ((e.bytes.head?.map Prod.fst).getD 0)) ||
    (s.core k).merge.any (fun m => m.threads.contains t.t.val && at_ m.addr) ||
    (s.thr (.thr t)).lines.any (fun ln => at_ ln && ((l1Find s k ln).any Line.dirty || (s.core k).evict.any (fun x => x.addr == ln && x.dirty)))

/-- Whether an instruction word first performs its thread's earlier stores: an atomic, a lock instruction or a fence, `TKEND`, a
table or customer instruction on memory, or a store that finds its buffer full (06 R178 to R181; 07 R211; 10 R281, R286). -/
def drainsFirst (s : State) (t : ThreadId) (w : Nat) : Bool :=
  let m := w / 2 ^ 26
  let f := w % 2 ^ 10
  m == 0x12 || (m == 0 && (f == 2 || f == 4 || (f == 1 && bitsOf w 21 18 ≠ 2))) || (m == 0x3D && 7 ≤ bitsOf w 11 6) || 0x3E ≤ m ||
    (m == 0x11 && 3 ≤ (s.thr (.thr t)).sb.length)

/-- Whether an instruction waits for a frozen crossing (01 R29): its data lie behind one and not in its core's L1, or it performs
stores that do. -/
def frozenHold (s : State) (t : ThreadId) (w : Nat) (d : Option (Nat × Nat × Bool)) : Bool :=
  let far := fun (a : Nat) => dramFrozen s (coreKey t.core a s) && (l1Find s t.core (lineOf a)).isNone
  s.frozen.any (fun n => 7 ≤ n && n ≤ 10) &&
    ((match d with | some (a, n, false) => far a || far (a + n - 1) | _ => false) || (drainsFirst s t w && pendFrozen s t))

end Sys2Proof.Machine
end

