-- ==== Sys2Proof/Machine/Issue.lean ====
section
/-!
DEFINITION. Machine/Issue.lean: how a hart issues one instruction and how it ends: retire, a wait, an emulation trap or a
fault (06 R187 to R190, R194; 07 R209), with breakpoints, watchpoints (19 R510) and the sampler's tags (19 R500).
-/
namespace Sys2Proof.Machine

/-- How an instruction ends once its effect has run. -/
inductive Done where
  /-- It retires in sequence; the number is its fixed count of 07 R216, 0 where that rule gives it none. -/
  | next (f : Nat)
  /-- It retires and the thread goes on at an address. -/
  | goto (f : Nat) (npc : Addr)
  /-- It raises UNDEF or REFUSED (06 R188). -/
  | trap (cause : Nat)
  /-- It raises a precise fault with an address (06 R189). -/
  | fault (cause addr : Nat)
  /-- It waits (09 R247). -/
  | wait (st : TState) (w : Wait)
  /-- It waits in its helper: it has not issued, and nothing has happened (10 R278, R282). -/
  | held
  /-- Its effect has set the thread's course. -/
  | set
deriving DecidableEq, Repr

/-- An emulation trap, by TVEC.EN and STATUS.IT (06 R188); Golne firmware vectors, or restarts (06 R194). -/
def takeTrap (h : Hart) (cause : Nat) (i : Instr) (s : State) : State :=
  match h with
  | .golne =>
    let r := golneFault cause (encodeWord i) s
    if r.2 then golneRestart r.1 else r.1
  | .thr t =>
    let x := s.thr h
    if !bitOf x.tvec.toNat 0 then faultThread t cause 0 x.pc x.pc s
    else if x.it then faultThread t 0x0A 0 x.pc x.pc s
    else
      takeAsked t ((s.setThr h { x with
        epc := x.pc.zeroExtend 64, ecause := BitVec.ofNat 64 cause, einst := (encodeWord i).zeroExtend 64, it := true,
        pc := BitVec.ofNat 48 ((x.tvec.toNat % 2 ^ 48) / 4 * 4), resv := none, passBp := false }).bump (pix 0x3300 t.p) cause)

/-- A precise fault: a core thread parks (06 R189), Golne firmware vectors or restarts (06 R194). -/
def takeFault (h : Hart) (cause addr : Nat) (i : Instr) (s : State) : State :=
  match h with
  | .golne =>
    let r := golneFault cause (encodeWord i) s
    if r.2 then golneRestart r.1 else r.1
  | .thr t => faultThread t cause addr (s.thr h).pc (s.thr h).pc s

/-- An instruction that raises a cause: it has taken its deterministic slot (07 R215), and the instructions after it that have
issued are discarded (07 R209; 10 R271). -/
def discardYounger (h : Hart) (s : State) : State :=
  match h with
  | .golne => s
  | .thr t => squash t ((s.thr h).pc + 4) (detIssue t 0 s)

/-- The end of an instruction whose effect has run. -/
def finish (h : Hart) (i : Instr) (r : State × Done) : State :=
  match r.2 with
  | .next f => retire h f r.1
  | .goto f npc => retireTo h f npc r.1
  | .trap c => takeTrap h c i (discardYounger h r.1)
  | .fault c a => takeFault h c a i (discardYounger h r.1)
  | .wait st w => waitIn h st w r.1
  | .held => r.1
  | .set => r.1

/-- The cause that an instruction raised, 0 for none. -/
def Done.cause : Done → Nat
  | .trap c => c
  | .fault c _ => c
  | _ => 0

/-- A data access of an instruction: address, bytes, whether it stores. -/
abbrev DAcc := Option (Nat × Nat × Bool)

/-- A watchpoint that an access met halts the thread once the access has retired (19 R510). -/
def watchStop (t : ThreadId) (d : DAcc) (dn : Done) (s : State) : State :=
  match d, dn with
  | some (a, n, wr), .next _ => if watchHit s t a n wr then haltOne t 3 s else s
  | _, _ => s

/-- The task that a thread's current slot holds. -/
def curTask (s : State) (t : ThreadId) : Option Task := (s.slot t).cur.bind (taskOf s t.p)

/-- A core thread's instruction runs: its effect, its end, its watchpoint, its place in the pipeline and its tag record. -/
def runThread (t : ThreadId) (i : Instr) (d : DAcc) (eff : State → State × Done) (s : State) : State :=
  let r := eff s
  let ran := fun (r : State × Done) =>
    recordIssue t (encodeNat i) (r.2.cause ≠ 0) s (watchStop t d r.2 (finish (.thr t) i r))
  if r.2 = .held then s
  else if !tagOn s t.core then ran r
  else
    let g := tagStep t.core s
    let r := eff g.1
    let s' := ran r
    if g.2 then
      let rec_ := tagRecord t (s.thr (.thr t)).pc (encodeWord i) r.2.cause ((d.map Prod.fst).getD 0) (curTask s t) s'
      tagPut t.p rec_ { s' with fresh := s'.fresh + 2 }
    else s'

/-- A hart issues an instruction. One that may not issue now does nothing, nor does one whose core's arbiter grants the step to
another thread (07 R205), or whose accesses a frozen crossing holds (01 R29); a PC outside the instruction memory raises FETCH (06 R177); a block that a fetch found uncorrectable
holds the thread (07 R200); a breakpoint halts it before the issue, but is only counted under DRAIN, and waits in a
migrating core (19 R510, 02 R56); an instruction that the hart lacks raises UNDEF (06 R162, R194). -/
def issue (h : Hart) (i : Instr) (d : State → DAcc) (eff : State → State × Done) (s : State) : State :=
  let eff' := fun (s : State) => if undefinedFor h i then (s, Done.trap 1) else eff s
  if !canIssue h s then s
  else match h with
  | .golne =>
    let r := eff' s
    if r.2 = .held then s else finish h i r
  | .thr t =>
    let x := s.thr h
    if !fetchOk x.pc then faultThread t 8 x.pc.toNat x.pc x.pc s
    else if blockBad s t x.pc then s.updThr h (fun x => { x with st := .fetchWait })
    else if !granted s t (encodeNat i) || frozenHold s t (encodeNat i) (d s) then s
    else if breakHit s t && !x.passBp then
      if draining s t.p then runThread t i (d s) eff' (s.bump (pix 0x3300 t.p) 5)
      else
        let u := haltOne t 2 s
        if (u.thr h).st == .running then runThread t i (d u) eff' u else u
    else runThread t i (d s) eff' s

/-- An instruction without a data access. -/
def issuePlain (h : Hart) (i : Instr) (eff : State → State × Done) (s : State) : State := issue h i (fun _ => none) eff s

/-- An instruction of fixed count 1 that writes a data register. -/
def issueD (h : Hart) (i : Instr) (rd : Reg) (v : State → Word) (s : State) : State :=
  issuePlain h i (fun s => (s.setD h rd (v s), .next 1)) s

/-- An instruction of fixed count 1 that writes an address register. -/
def issueA (h : Hart) (i : Instr) (rd : Reg) (v : State → Addr) (s : State) : State :=
  issuePlain h i (fun s => (s.setA h rd (v s), .next 1)) s

/-- UNDEFINED_INSTRUCTION: a word that is no instruction of the hart raises UNDEF (06 R162); a word that is one has its own
command, and nothing happens here. -/
def execUndefinedInstruction (h : Hart) (word : BitVec 32) (s : State) : Out :=
  if (decodeWord h word).isSome then .next s
  else .next (issuePlain h (.undefinedInstruction h word) (fun s => (s, .trap 1)) s)

end Sys2Proof.Machine
end

