-- ==== Sys2Proof/Machine/CoreMem.lean ====
section
/-!
DEFINITION. Machine/CoreMem.lean: the accesses of a hart: alignment and checks (06 R174, R175), the store buffer and its
drains (07 R211, R212), loads (R211), fetch (07 R200, R203), and accesses at the home point (06 R178).
-/
namespace Sys2Proof.Machine

/-! ## Pieces and checks (06 R174) -/

/-- The aligned pieces of an access of at most 8 bytes: address and length, in address order. -/
def pieces (a n : Nat) : List (Nat × Nat) :=
  let k := min n (8 - a % 8)
  (a, k) :: (if k < n then [((a + k) % 2 ^ 48, n - k)] else [])

/-- The regions in which an access must be naturally aligned (06 R174, 07 R199). -/
def alignedRegion : Region → Bool
  | .ownImem => true
  | .dict => true
  | .lockWin => true
  | .mailbox => true
  | .cxl => true
  | _ => false

/-- Whether an access raises ALIGN (06 R174). -/
def misaligned (a n : Nat) : Bool :=
  a % n ≠ 0 && (alignedRegion (region a) || alignedRegion (region ((a + n - 1) % 2 ^ 48)))

/-- The first piece of an access that its checks refuse (01 R35 to R38). -/
def firstRefused (m : Nat) (wr : Bool) (s : State) (l : List (Nat × Nat)) : Option Nat :=
  (l.find? (fun e => match checkAccess m e.1 wr s with
    | .ok _ => false
    | _ => true)).map Prod.fst

/-! ## The store buffer (07 R211, R212) -/

/-- Whether a store is refused at the context cache: a byte of it lies in a context's header (04 R120). -/
def inHeader (a n : Nat) : Bool :=
  match ctxAt a with
  | some i => a - ctxAddr i < 48
  | none => (match ctxAt (a + n - 1) with | some i => a + n - 1 - ctxAddr i < 48 | none => false)

/-- Whether a store of a thread meets what R144 guards after its task's early release: the context's lines and the packet's
buffers, in memory keys. -/
def guarded (s : State) (t : ThreadId) (a n : Nat) : Bool :=
  let sl := s.slot t
  let k := memKey t.mid a s
  sl.gone && ((match sl.guardCtx with | some c => c < a + n && a < c + 128 | none => false) ||
    sl.guardBufs.any (fun e => e.1 < k + n && k < e.1 + e.2))

/-- Every thread of a cluster discards its fetch buffer (07 R212). -/
def dropFetch (p : Petal) (c : Cluster) (s : State) : State :=
  (clusterThreads p c).foldl (fun s t => s.updThr (.thr t) (fun x => { x with fetch := [] })) s

/-- A code store performed: its bank is written and every fetch buffer of the cluster is discarded (07 R212). -/
def codeStore (t : ThreadId) (a : Nat) (l : List Byte) (s : State) : State :=
  let s := storeHome (memKey t.mid a s) l true s
  (dropFetch t.p t.c (imemWritten t.p t.c (a - 0x001000000000) l.length s)).bump (pipeIdx t.p t.c) 7

/-- A context whose bytes a store changed is dirty in its cache (04 R124; 12 R336). -/
def touchCtx (a : Nat) (s : State) : State :=
  match ctxAt a with
  | some i => ctxDirty i s
  | none => s

/-- A store-buffer entry performed at its address class's place, or refused (06 R175; 08 R225 to R228). -/
def performStore (t : ThreadId) (e : SbEntry) (s : State) : State :=
  let a := (e.bytes.head?.map Prod.fst).getD 0
  let n := e.bytes.length
  match checkAccess t.mid a true s with
  | .ok r =>
    if inHeader a n || guarded s t a n then refuseStore (.thr t) a e.pc s
    else match addrClass s a with
      | .general => backStore t (lineOf a) e.bytes s
      | .packet => backStore t (lineOf a) e.bytes s
      | .through => touchCtx a (mergeStore t (lineOf a) e.bytes s)
      | .uncached =>
        (match r with
         | .ownImem => codeStore t a (e.bytes.map Prod.snd) s
         | .dram => storeHome (memKey t.mid a s) (e.bytes.map Prod.snd) (keepHint s t.mid a) s
         | .ownScratch => storeHome (memKey t.mid a s) (e.bytes.map Prod.snd) true s
         | _ => (busAccess t.mid a n (some (e.bytes.map Prod.snd)) e.pc s).1)
  | r => refuseStore (.thr t) a e.pc (accessEvent t.mid a r s)

/-- The oldest entry of a thread's store buffer drains (07 R211); one behind a frozen crossing waits (01 R29). -/
def drainOne (t : ThreadId) (s : State) : State :=
  match (s.thr (.thr t)).sb with
  | [] => s
  | e :: q =>
    if dramFrozen s (memKey t.mid ((e.bytes.head?.map Prod.fst).getD 0) s) then s
    else performStore t e (s.updThr (.thr t) (fun x => { x with sb := q }))

/-- `n` entries of a thread's store buffer drain. -/
def drainN : Nat → ThreadId → State → State
  | 0, _, s => s
  | n + 1, t, s => drainN n t (drainOne t s)

/-- A thread's store buffer drains. -/
def drainAll (t : ThreadId) (s : State) : State := drainN (s.thr (.thr t)).sb.length t s

/-- Every earlier store of a thread is accepted at its home point (06 R181; 08 R226, R228). -/
def drainHome (t : ThreadId) (s : State) : State := cleanTask t (drainAll t s)

/-- Whether a hart still runs: no imprecise refusal has parked it meanwhile. -/
def stillRuns (s : State) (h : Hart) : Bool := (s.thr h).st == .running

/-- STORE_DRAIN: the oldest entry of a hart's store buffer drains (07 R211). The small configuration performs its stores as
they retire (DEDUCED, assumption 26). -/
def execStoreDrain (h : Hart) (s : State) : Out :=
  match h with
  | .golne => .next s
  | .thr t => if petalHalted s t.p then .next s else .next (drainOne t s)

/-- MERGING_BUFFER_DRAIN: the oldest entry of a core's merging buffer drains (08 R228). -/
def execMergingBufferDrain (k : CoreId) (s : State) : Out :=
  if petalHalted s k.p || (s.core k).merge.head?.any (fun m => dramFrozen s m.addr) then .next s
  else .next (mergeDrainOldest k s)

/-- The window addresses of the cache operation entries 0x3330.01 of the four petals (08 R235). -/
def opWindow (a : Nat) : Bool := [0, 1, 2, 3].any (fun p => a == 0x003000000000 + (0x3330 + 0x400 * p) * 0x1000 + 0x10)

/-- A thread's store of bytes enters its store buffer, one entry for each aligned piece; a full buffer drains its oldest
entries first (07 R209, R211). A code store drains the buffer (R212), and so does a cache maintenance command, which no later load
passes (08 R237); a thread that a refusal parks meanwhile parks at the boundary after the store (06 R175). The mark tells that
the store retires. -/
def pushStore (t : ThreadId) (a : Nat) (l : List Byte) (s : State) : State × Bool :=
  let h := Hart.thr t
  let es := (pieces a l.length).foldl (fun (acc : List SbEntry × List Byte) p =>
    (acc.1 ++ [⟨(acc.2.take p.2).zipIdx.map (fun (b, i) => (p.1 + i, b)), (s.thr h).pc⟩], acc.2.drop p.2)) ([], l)
  let full := (s.thr h).sb.length + es.1.length - 4
  let s := drainN full t s
  if !stillRuns s h then (s, false)
  else
    let s := s.updThr h (fun x => { x with sb := x.sb ++ es.1 })
    if region a == .ownImem || opWindow a then
      let s := drainAll t s
      (if stillRuns s h then s else s.updThr h (fun x => { x with tpc := x.pc + 4 }), true)
    else (s, true)

/-! ## Loads (07 R211) -/

/-- An uncorrectable word of a cluster's instruction memory met by a fetch or a load: counted, and source 0x070 + n raised with
the cluster in [18:16], the bank, which the block's address bits [6:4] select, in [15:13] and the word's address in the bank
in [12:0] (07 R197, R200; DESIGN CHOICE, assumption 48: the places of the three). -/
def imemError (p : Petal) (c : Cluster) (w : Nat) (s : State) : State :=
  let syn := c.val * 2 ^ 16 + bitsOf w 6 4 * 2 ^ 13 + bitsOf w 17 7 * 4 + bitsOf w 3 2
  raise (0x070 + p.val) syn (some p) (s.bump (pipeIdx p c) 9)

/-- A load of one piece from memory, through the caches by its address class (08 R221, R225, R229, R243): the bytes, or the
address at which it faults with ACCESS. -/
def readMem (t : ThreadId) (a n : Nat) (s : State) : State × Except Nat (List Byte) :=
  let home := fun (s : State) =>
    let r := loadHome (memKey t.mid a s) n (keepHint s t.mid a) s
    if r.2.2 then
      (if region a == .ownScratch then raiseAny (0x078 + t.p.val) (some t.p) r.1 else r.1, Except.error a)
    else (r.1, .ok r.2.1)
  let cached := fun (s : State) =>
    if detOn s t.p t.c then
      let r := loadHome (memKey t.mid a s) n (keepHint s t.mid a) s
      if r.2.2 || mergeBad s t.core a n then (r.1, Except.error a)
      else (r.1, .ok (r.2.1.zipIdx.map (fun (b, i) =>
        ((((r.1.core t.core).merge.find? (fun m => m.addr == lineOf a)).bind (fun m => Tab.find m.bytes (a + i))).getD b))))
    else
      let r := l1Read t a n s
      if r.2.2 then (r.1, .error a) else (r.1, .ok r.2.1)
  match addrClass s a with
  | .uncached =>
    (match region a with
     | .ownImem =>
       let o := a - 0x001000000000
       match (s.clus t.p t.c).imemBad.find? (fun w => w < o + n && o < w + 4) with
       | some w => (imemError t.p t.c w s, .error (0x001000000000 + w))
       | none => home s
     | .ownScratch => home s
     | .dram => home s
     | _ =>
       match busAccess t.mid a n none 0 s with
       | (s, .data l false) => (s, .ok l)
       | (s, _) => (s, .error a))
  | _ => cached s

/-- Drains a thread's store buffer until no entry overlaps the bytes of a piece; over at most `n` entries. -/
def drainOver : Nat → ThreadId → Nat → Nat → State → State
  | 0, _, _, _, s => s
  | k + 1, t, a, n, s =>
    if (s.thr (.thr t)).sb.any (fun e => e.bytes.any (fun b => a ≤ b.1 && b.1 < a + n)) then drainOver k t a n (drainOne t s)
    else s

/-- How a piece of a load stands to its thread's store buffer (07 R211): no entry overlaps it, one entry holds every byte of it,
or it must wait. -/
inductive SbHit where
  | none | covered (e : SbEntry) | wait
deriving DecidableEq, Repr

/-- The check of a piece against its thread's store buffer (07 R211). -/
def sbHit (s : State) (t : ThreadId) (a n : Nat) : SbHit :=
  match (s.thr (.thr t)).sb.filter (fun e => e.bytes.any (fun b => a ≤ b.1 && b.1 < a + n)) with
  | [] => .none
  | [e] => if (List.range n).all (fun i => e.bytes.any (fun b => b.1 == a + i)) then .covered e else .wait
  | _ => .wait

/-- A load counted once as forwarded, and once as waiting, where a piece of it is (07 R211). -/
def countHits (t : ThreadId) (l : List (Nat × Nat)) (s : State) : State :=
  let hits := l.map (fun p => sbHit s t p.1 p.2)
  let s' := if hits.any (fun h => match h with | .covered _ => true | _ => false) then s.bump (pipeIdx t.p t.c) 5 else s
  if hits.contains .wait then s'.bump (pipeIdx t.p t.c) 6 else s'

/-- A load of one piece: forwarded, or read once its overlapping stores have drained (07 R211). An error of none tells that
the thread has stopped meanwhile. -/
def loadPiece (t : ThreadId) (a n : Nat) (s : State) : State × Except (Option Nat) (List Byte) :=
  let read := fun (s : State) => match readMem t a n s with
    | (s, .ok l) => (s, Except.ok l)
    | (s, .error x) => (s, .error (some x))
  match sbHit s t a n with
  | .none => read s
  | .covered e => (s, .ok ((List.range n).map (fun i => ((e.bytes.find? (fun b => b.1 == a + i)).map Prod.snd).getD 0)))
  | .wait => wait s read
where
  /-- The load waits until the youngest overlapping entry has drained. -/
  wait (s : State) (read : State → State × Except (Option Nat) (List Byte)) : State × Except (Option Nat) (List Byte) :=
    let s := drainOver 8 t a n s
    if stillRuns s (.thr t) then read s else (s, .error none)

/-- The outcome of a load or another access of a hart: bytes, a cause with its address, or the thread has stopped. -/
inductive MemOut where
  | bytes (l : List Byte)
  | fault (cause addr : Nat)
  | stopped
deriving DecidableEq, Repr

/-- The pieces of a load that a function reads, in address order. -/
def readPieces (f : Nat → Nat → State → State × Except (Option Nat) (List Byte)) :
    List (Nat × Nat) → List Byte → State → State × MemOut
  | [], acc, s => (s, .bytes acc)
  | (a, n) :: l, acc, s =>
    match f a n s with
    | (s, .ok b) => readPieces f l (acc ++ b) s
    | (s, .error (some x)) => (s, .fault 4 x)
    | (s, .error none) => (s, .stopped)

/-- A load of a hart (06 R174, R175): ALIGN, then every piece's checks, then its pieces. -/
def loadBytes (h : Hart) (a n : Nat) (s : State) : State × MemOut :=
  let m := hartKey h
  if misaligned a n then (s, .fault 3 a)
  else match firstRefused m false s (pieces a n) with
  | some x => (accessEvent m x (checkAccess m x false s) s, .fault 4 x)
  | none =>
    match h with
    | .thr t =>
      let r := readPieces (loadPiece t) (pieces a n) [] (countHits t (pieces a n) s)
      (match r.2 with
       | .bytes _ => (strideStep t a r.1, r.2)
       | _ => r)
    | .golne =>
      readPieces (fun a n s => match busAccess m a n none 0 s with
        | (s, .data l false) => (s, .ok l)
        | (s, _) => (s, .error (some a))) (pieces a n) [] s

/-- Golne firmware's pieces of a store, performed at once; the first refused one is the fault's (06 R194; DEDUCED, assumption 26). -/
def golneStore (m : Nat) : List (Nat × Nat) → List Byte → State → State × MemOut
  | [], _, s => (s, .bytes [])
  | (a, n) :: l, b, s =>
    match busAccess m a n (some (b.take n)) 0 s with
    | (s, .fault) => (s, .fault 4 a)
    | (s, _) => golneStore m l (b.drop n) s

/-- A store of a hart (06 R174, R175): ALIGN precisely; the bytes then enter the store buffer. -/
def storeBytes (h : Hart) (a : Nat) (l : List Byte) (s : State) : State × MemOut :=
  if misaligned a l.length then (s, .fault 3 a)
  else match h with
    | .thr t =>
      let r := pushStore t a l s
      (r.1, if r.2 then .bytes [] else .stopped)
    | .golne => golneStore 0x2000 (pieces a l.length) l s

/-! ## Accesses at the home point (06 R178) -/

/-- Whether an access of a thread at the home point may be made: DRAM, general, a packet buffer or its own L2 scratch (06
R178), and its checks; none, or the cause. -/
def homeCause (t : ThreadId) (a : Nat) (wr : Bool) (s : State) : Option Nat :=
  if a % 8 ≠ 0 then some 3
  else match region a with
    | .dram => ok
    | .ownPbuf => ok
    | .pbuf => ok
    | .ownScratch => ok
    | _ => some 4
where
  /-- The checks of the request. -/
  ok : Option Nat :=
    match checkAccess t.mid a wr s with
    | .ok _ => if wr && (inHeader a 8 || guarded s t a 8) then some 4 else none
    | _ => some 4

/-- The event of a refused request, where its checks refused it. -/
def homeEvent (m a : Nat) (wr : Bool) (s : State) : State :=
  if a % 8 = 0 then accessEvent m a (checkAccess m a wr s) s else s

/-- The core's own copies of a line give way to the home point: dirty data goes there first, the copy is dropped (06 R178;
08 R241; DEDUCED, assumption 26). -/
def homeLine (t : ThreadId) (a : Nat) (s : State) : State :=
  let ln := lineOf a
  coreDrop t.core ln (coreClean t.core ln (mergeDrain t.core ln s))

/-- An aligned 8-byte read at the home point; an error is poison (15 R400). -/
def homeRead (t : ThreadId) (a : Nat) (s : State) : State × Option Word :=
  let r := loadHome (memKey t.mid a s) 8 (keepHint s t.mid a) s
  (r.1, if r.2.2 then none else some (leWord r.2.1))

/-- An aligned 8-byte write at the home point; the cluster's L2 takes it too (08 R241 item 1). -/
def homeStore (t : ThreadId) (a : Nat) (v : Word) (s : State) : State :=
  touchCtx a (l2Patch t.core (lineOf a) (addrPairs a (leBytes 8 v.toNat)) (storeHome (memKey t.mid a s) (leBytes 8 v.toNat) (keepHint s t.mid a) s))

/-! ## Cache maintenance (08 R235 to R238) -/

/-- A maintenance command of a core thread: its word of 08 R235 written to its petal's 0x3330.01 once the thread's earlier stores
have drained (08 R237); a halted petal's threads send none. -/
def maintain (t : ThreadId) (op : Nat) (sel level : BitVec 2) (count : BitVec 8) (addr : BitVec 48) (s : State) : State :=
  if petalHalted s t.p then s
  else writeCmd (.core t) (pix 0x3330 t.p) 1 0
    (leBytes 8 (op * 2 ^ 60 + sel.toNat * 2 ^ 58 + level.toNat * 2 ^ 56 + count.toNat * 2 ^ 48 + addr.toNat)) (drainAll t s)

/-- CACHE_CLEAN (08 R236). -/
def execCacheClean (t : ThreadId) (sel level : BitVec 2) (count : BitVec 8) (addr : BitVec 48) (s : State) : Out :=
  .next (maintain t 0 sel level count addr s)

/-- CACHE_INVALIDATE (08 R236). -/
def execCacheInvalidate (t : ThreadId) (sel level : BitVec 2) (count : BitVec 8) (addr : BitVec 48) (s : State) : Out :=
  .next (maintain t 1 sel level count addr s)

/-- CACHE_CLEAN_INVALIDATE (08 R236). -/
def execCacheCleanInvalidate (t : ThreadId) (sel level : BitVec 2) (count : BitVec 8) (addr : BitVec 48) (s : State) : Out :=
  .next (maintain t 2 sel level count addr s)

/-- CACHE_PREFETCH_HINT (08 R230). -/
def execCachePrefetchHint (t : ThreadId) (sel level : BitVec 2) (count : BitVec 8) (addr : BitVec 48) (s : State) : Out :=
  .next (maintain t 3 sel level count addr s)

/-- CACHE_LOCK_LINE (08 R238). -/
def execCacheLockLine (t : ThreadId) (sel level : BitVec 2) (count : BitVec 8) (addr : BitVec 48) (s : State) : Out :=
  .next (maintain t 4 sel level count addr s)

/-- CACHE_UNLOCK_LINE (08 R238). -/
def execCacheUnlockLine (t : ThreadId) (sel level : BitVec 2) (count : BitVec 8) (addr : BitVec 48) (s : State) : Out :=
  .next (maintain t 5 sel level count addr s)

/-! ## Fetch (07 R200, R203) -/

/-- Whether the fetch unit serves a thread (07 R203): its state, and a block that it may fetch. -/
def fetchServes (x : Thread) : Bool :=
  (x.st == .running || x.st == .sendWait) && (fetchHeld x).length < 2 &&
    fetchOk (BitVec.ofNat 48 (blockOf x.pc.toNat + 16 * (fetchHeld x).length))

/-- INSTRUCTION_FETCH: the fetch unit of a core reads the next block of the thread with the fewest unissued instructions (07
R203). A corrected error is counted; an uncorrectable word is reported, and the thread waits when its next instruction lies in
the block (R200). Which word of the block it is, is free (DESIGN CHOICE, assumption 3). -/
def execInstructionFetch (k : CoreId) (ecc : EccOutcome) (s : State) : Out :=
  let c := (threadsOf k).filter (fun t => fetchServes (s.thr (.thr t)))
  let least := (c.map (fun t => unissued (s.thr (.thr t)))).foldl min 16
  if petalHalted s k.p || (s.clus k.p k.c).parked ≠ [] || (s.core k).isolated then .next s
  else match c.find? (fun t => unissued (s.thr (.thr t)) == least) with
  | none => .next s
  | some t =>
    let x := s.thr (.thr t)
    let held := fetchHeld x
    let b := blockOf x.pc.toNat + 16 * held.length
    let take := fun (s : State) => s.updThr (.thr t) (fun x => { x with fetch := held ++ [b] })
    match ecc with
    | .clean => .next (take s)
    | .corrected => .next (take (s.bump (pipeIdx k.p k.c) 8))
    | .uncorrectable =>
      let o := b - 0x001000000000 + 4 * (Config.freeChoice s.fresh % 4)
      let s := s.tick.updClus k.p k.c (fun r => { r with imemBad := if r.imemBad.contains o then r.imemBad else o :: r.imemBad })
      let s := imemError k.p k.c o s
      .next (if held = [] then s.updThr (.thr t) (fun x => { x with st := if x.st = .running then .fetchWait else x.st }) else s)

end Sys2Proof.Machine
end

