-- ==== Sys2Proof/Machine/Teasel.lean ====
section
/-!
DEFINITION. Machine/Teasel.lean: dispatch, the task slot, release and the task age (05 R135 to R146), and what `TKWAIT`, `TKEND`
and `TKREL` ask of them (06 R183).
-/
namespace Sys2Proof.Machine

/-! ## The task slot (05 R135 to R137) -/

/-- The descriptor of a task (05 R136). -/
def descBytes (t : Task) : List Byte :=
  let k := t.pkt
  leBytes 2 k.task ++ leBytes 2 k.seq ++ leBytes 3 k.dom ++ leBytes 1 k.pstat ++ leBytes 4 k.gen ++ leBytes 4 k.tstamp ++
    leBytes 2 k.len ++ leBytes 1 k.src ++ leBytes 1 k.cls ++ leBytes 2 k.rule ++ leBytes 2 k.flags ++ leBytes 4 k.buf ++
    leBytes 2 k.hq ++ [0, 0] ++ leBytes 8 k.hash ++ [0, 0, 0] ++ leBytes 1 (min 24 (vecHdrs k.vec).length) ++
    List.replicate 20 0

/-- The offset table of a vector (05 R137). -/
def offsetTable (v : List VEnt) : List Byte :=
  slice (((vecHdrs v).map (fun h => leBytes 1 h.ty ++ leBytes 1 h.level ++ leBytes 2 h.off)).flatten) 0 96

/-- The field directory of a vector (05 R137): fields with their offsets in the slot, values packed from 0x1E0. -/
def fieldDir (v : List VEnt) : List Byte :=
  let places := ((vecFields v).foldl (fun (acc : List (VField × Nat) × Nat) f => (acc.1 ++ [(f, acc.2)], acc.2 + f.bytes.length))
    ([], 0x1E0)).1
  ((List.range 64).map (fun i => match places.find? (fun e => e.1.id == i) with
    | some (f, o) => leBytes 2 (2 ^ 15 + ((f.bytes.length - 1) % 16) * 2 ^ 10 + o % 2 ^ 10)
    | none => [0, 0])).flatten

/-- Bytes 0x000 to 0x25F of the slot of a task (05 R135); the vector is expanded from the form that the descriptor carries it in (03
R71). -/
def slotBytes (t : Task) : List Byte :=
  let k := t.pkt
  let v := vecRead 65 (vecForm k.vec)
  descBytes t ++ leBytes 8 t.route ++ leBytes 8 t.l2 ++ leBytes 8 t.ctx ++
    leBytes 8 (if t.held then (t.ctxIdx.map ctxAddr).getD 0 else 0) ++ slice k.cow 0 32 ++ slice k.edits 0 72 ++ List.replicate 56 0 ++
    offsetTable v ++ fieldDir v ++ slice ((vecFields v).map VField.bytes).flatten 0 128

/-- The bytes of a slot into which a task is written: its layout, and scratch that is undefined, a free value of each dispatch
(05 R135; DESIGN CHOICE, assumption 3). -/
def slotImage (t : Task) (n : Nat) : Tab Byte :=
  let scratch := (List.range 416).flatMap (fun i => [(0x260 + i, Config.freeByte n i)])
  scratch.foldl (fun b e => Tab.put b e.1 e.2) (Tab.setBytes [] 0 (slotBytes t))

/-! ## Dispatch (05 R138 to R140) -/

/-- The logical core of a petal by its number (09, before R248). -/
def coreOfLc (p : Petal) (lc : Nat) : CoreId :=
  ⟨p, ⟨lc / 8 % 6, Nat.mod_lt _ (by decide)⟩, ⟨lc % 8, Nat.mod_lt _ (by decide)⟩⟩

/-- Whether a thread is eligible for dispatch, its core apart (05 R138). -/
def threadOpen (s : State) (t : ThreadId) : Bool :=
  bitOf (s.dget (pix 0x3205 t.p) (t.lc + 1)) t.t.val && (s.slot t).next.isNone

/-- Whether a core takes dispatch (05 R138, R158, R159; 18 R487): it is neither parked, stopped for sparing nor held. -/
def coreOpen (s : State) (k : CoreId) : Bool :=
  let c := s.clus k.p k.c
  c.parked.isEmpty && c.hold.isEmpty && !(s.core k).isolated && !s.swaps.any (fun w => w.unit == coreUnit k) &&
    (!minimalOn s || k.c.val == 0)

/-- Whether a thread of a core inherits a priority above its own (11 R299). -/
def boosted (s : State) (k : CoreId) : Bool :=
  (threadsOf k).any (fun t => (s.thr (.thr t)).prio.toNat % 32 < eprio s (.thr t))

/-- The load of a core (05 R138, 11 R299). -/
def coreLoad (s : State) (k : CoreId) : Nat :=
  if boosted s k then 16
  else ((threadsOf k).map (fun t => b2n (s.slot t).cur.isSome + b2n (s.slot t).next.isSome)).sum

/-- Whether a task is ready and not dispatched (05 R132). -/
def taskReady (t : Task) : Bool := t.mask == 15 && t.thr.isNone && !t.ended

/-- The last-core field of a domain (05 R139): core 0 until a task of the domain is dispatched (05 R161). -/
def lastCore (s : State) (p : Petal) (d : Nat) : Nat := Tab.get 0 (s.pet p).lasts d

/-- Whether a task whose last-core field names another core is free (05 R139; DEDUCED, assumption 27): its domain has no other task
dispatched and unreleased, or its core is at or above the affinity limit or parked, or it has waited for longer than the affinity
wait. A task that meets none of these is left for the core that its field names. -/
def taskFree (s : State) (p : Petal) (t : Task) : Bool :=
  let k := coreOfLc p (lastCore s p t.pkt.dom)
  let wait := s.dget (pix 0x3200 p) 6
  !(s.pet p).tasks.any (fun x => x.id ≠ t.id && x.pkt.dom == t.pkt.dom && x.thr.isSome) ||
    s.dget (pix 0x3200 p) 5 ≤ coreLoad s k || !(s.clus p k.c).parked.isEmpty || (s.core k).isolated ||
    (wait ≠ 0 && t.readyAt + wait < s.time)

/-- The task that Teasel picks for a core, oldest first, affine before free; the mark tells an affine one (05 R139). -/
def pickTask (s : State) (p : Petal) (lc : Nat) : Option (Task × Bool) :=
  let ready := (s.pet p).tasks.filter taskReady
  match ready.find? (fun t => lastCore s p t.pkt.dom == lc) with
  | some t => some (t, true)
  | none => (ready.find? (taskFree s p)).map (fun t => (t, false))

/-- The cores that take dispatch with an eligible thread, least loaded first, the lower number between equals (05 R139). -/
def servedCores (s : State) (p : Petal) : List CoreId :=
  let open_ := ((List.range 48).map (coreOfLc p)).filter (fun k => coreOpen s k && (threadsOf k).any (threadOpen s))
  (List.range 17).flatMap (fun l => open_.filter (fun k => coreLoad s k == l))

/-- The byte ranges of a packet's buffers, in memory keys. -/
def bufRanges (s : State) (p : Petal) (b : Nat) : List (Nat × Nat) :=
  (chain chainFuel s p b).map (fun e => (bufAddr s p (bitsOf e.1 31 29) (bitsOf e.1 28 0), poolSize (bitsOf e.1 31 29)))

/-- What a core still holds of a task's lines is dropped before the thread's first access (05 R140): the copies of its context's two
lines, and the prefetched lines of its packet, so that the task reads its packet no older than it is (08 R241 item 7; DEDUCED,
assumption 26). -/
def dropContext (k : CoreId) (t : Task) (s : State) : State :=
  let s := match t.ctxIdx with
    | some i => if t.held then coreDrop k (ctxAddr i + 64) (coreDrop k (ctxAddr i) s) else s
    | none => s
  let rs := bufRanges s k.p t.pkt.buf
  s.updCore k (fun c => { c with side := c.side.filter (fun x =>
    !(addrClass s x.addr == .packet &&
      rs.any (fun e => e.1 < coreKey k x.addr s + 64 && coreKey k x.addr s < e.1 + e.2))) })

/-- A task becomes a thread's current task: a `TKWAIT` that waits returns; the customer bank is read anew (05 R141; 10 R288). -/
def startTask (t : ThreadId) (s : State) : State :=
  let s := s.updThr (.thr t) (fun x => { x with bank := s.dget (pix 0x3381 t.p) 2 })
  if (s.thr (.thr t)).st == .taskWait then waitDone (.thr t) s else s

/-- A task written into a slot of a core's thread (05 R140). -/
def assign (k : CoreId) (x : Task) (s : State) : State :=
  let el := (threadsOf k).filter (threadOpen s)
  let put := fun (t : ThreadId) (pref : Bool) =>
    let n := s.fresh
    let s := updTask k.p x.id (fun y => { y with thr := some t.mid, pref := pref, dispAt := s.time }) s.tick
    let s := s.updPet k.p (fun r => { r with lasts := Tab.put r.lasts x.pkt.dom k.lc })
    let s := dropContext k x s
    let b := slotImage x n
    if pref then s.updSlot t (fun sl => { sl with next := some x.id, nextBytes := b })
    else startTask t (s.updSlot t (fun sl => { Slot.reset with cur := some x.id, bytes := b, next := sl.next, nextBytes := sl.nextBytes }))
  match el.find? (fun t => (s.slot t).cur.isNone), el with
  | some t, _ => put t false
  | none, t :: _ => put t true
  | none, [] => s

/-- TASK_DISPATCH: Teasel serves the least loaded core for which it has a ready task (05 R138 to R140). -/
def execTaskDispatch (p : Petal) (s : State) : Out :=
  if petalHalted s p then .next s
  else
    let pick := (servedCores s p).findSome? (fun k => (pickTask s p k.lc).map (fun r => (k, r)))
    match pick with
    | none => .next s
    | some (k, x, affine) => .next (assign k x (if affine then s.bump (pix 0x3200 p) 9 else s))

/-! ## The end of a task (05 R141, R144; 06 R183) -/

/-- The disposition and the pending edit list of a task as its slot holds them (05 R137, R145). -/
def takeSlot (t : ThreadId) (x : Task) (s : State) : Task :=
  let b := (s.slot t).bytes
  { x with dq := leNat (Tab.bytes b 40 2), disp := leNat (Tab.bytes b 42 1),
           pkt := { x.pkt with edits := Tab.bytes b 0x80 72 } }

/-- The task of a thread's prefetch slot becomes current (05 R141). -/
def promote (t : ThreadId) (s : State) : State :=
  let sl := s.slot t
  match sl.next with
  | none => s
  | some id =>
    let s := s.updSlot t (fun sl => { Slot.reset with cur := some id, bytes := sl.nextBytes })
    let s := updTask t.p id (fun y => { y with pref := false }) s
    let s := match taskOf s t.p id with
      | some x => dropContext t.core x s
      | none => s
    startTask t s

/-- What `TKEND` does (05 R141, 08 R226): the thread's stores are performed, its packet lines leave L1, its task has ended. -/
def endTask (t : ThreadId) (s : State) : State :=
  let s := endTaskLines t s
  let sl := s.slot t
  let s := match sl.cur with
    | some id =>
      if sl.gone then s
      else match taskOf s t.p id with
        | some x => updTask t.p id (fun _ => { takeSlot t x s with ended := true }) s
        | none => s
    | none => s
  let s := s.updSlot t (fun sl => { Slot.reset with next := sl.next, nextBytes := sl.nextBytes })
  let s := s.updThr (.thr t) (fun x => { x with resv := none, bank := s.dget (pix 0x3381 t.p) 2 })
  promote t s

/-! ## Release (05 R142 to R145) -/

/-- Whether a task's release may run: it has ended, and every older task of its domain has released (05 R142). -/
def mayRelease (s : State) (p : Petal) (t : Task) : Bool :=
  t.ended && !(s.pet p).tasks.any (fun x => x.order < t.order && x.pkt.dom == t.pkt.dom)

/-- A packet with its pending edit list applied at enqueue (03 R86); a reserved action is skipped and counted. -/
def pendingEdits (p : Petal) (t : Task) (s : State) : State × Pkt :=
  if bitOf t.pkt.flags 0 then applyActions (genSnap s t.pkt.gen) p (listWords t.pkt.edits).2 t.pkt s else (s, t.pkt)

/-- The disposition of a task (05 R145) with its witness copy (14 R378), for which the packet does not wait (02 R52). -/
def dispose (p : Petal) (t : Task) (drop : Bool) (s : State) : State :=
  let free := drop || t.disp ≠ 0
  let r := if free then (s, t.pkt) else pendingEdits p t s
  let s := witness p r.2 (b2n free) t.dq (some t.id) r.1
  if free then dropPkt r.2 (if !drop && 1 < t.disp then s.bump (pix 0x3200 p) 0x0D else s)
  else enqueue p t.dq r.2 s

/-- What is left once a task's disposition has taken effect (05 R142 steps 3 to 5, R144): its entry is freed unless its witness copy
holds it, its context is let go, the token passes; a thread that goes on after `TKREL` keeps its slot and loses the context and the buffers. -/
def afterRelease (p : Petal) (t : Task) (bufs : List (Nat × Nat)) (s : State) : State :=
  let s := s.updPet p (fun r => { r with tasks := r.tasks.filter (fun x => x.id ≠ t.id) })
  let s := match t.ctxIdx with
    | some i => if t.held then ctxReleased i s else s
    | none => s
  let s := (s.bump (pix 0x3200 p) 8).dset (pix 0x3200 p) 1 (entriesUsed (s.pet p))
  let s := if t.early then s.bump (pix 0x3200 p) 0x0B else s
  let s := histAdd p 2 (some t.pkt.src) (s.time - pktAge s t.pkt.tstamp) s
  let s := match t.thr.bind threadOf with
    | some h =>
      let s := histAdd p 3 (some h.lc) t.dispAt s
      if (s.slot h).rel && (s.slot h).cur = some t.id && !(s.slot h).gone then
        s.updSlot h (fun sl => { sl with
          gone := true, guardCtx := if t.held then t.ctxIdx.map ctxAddr else none, guardBufs := bufs })
      else s
    | none => s
  refreshPause p (refreshOldest p (tokens p s))

/-- TASK_RELEASE: a task that has ended and that no older task of its domain precedes drains, takes its disposition and
passes its token (05 R142 to R145); a corrected record is counted, an uncorrectable one makes the task a drop (R160). For an entry that
a released task's copy holds, the copy is offered again. -/
def execTaskRelease (p : Petal) (task : TaskId) (ecc : EccOutcome) (s : State) : Out :=
  let s := if petalHalted s p then s else witnessRetry p s
  match taskOf s p task.val with
  | none => .next s
  | some t =>
    if petalHalted s p || !mayRelease s p t || (t.thr.bind threadOf).any (pendFrozen s) then .next s
    else
      let h := t.thr.bind threadOf
      let s := match h with
        | some h => drainHome h s
        | none => s
      let early := match h with
        | some h => (s.slot h).rel && (s.slot h).cur = some t.id && !(s.slot h).gone
        | none => false
      let t := match h with
        | some h => if early then takeSlot h t s else t
        | none => t
      let bufs := bufRanges s p t.pkt.buf
      let s := match ecc with
        | .clean => s
        | .corrected => s.bump (pix 0x3200 p) 0x0E
        | .uncorrectable => raise (0x05C + p.val) t.id (some p) s
      .next (afterRelease p t bufs (dispose p t (ecc == .uncorrectable || t.strictDrop) s))

/-! ## The task age (05 R146) -/

/-- TASK_AGE_EXPIRY: a task has been dispatched and unreleased for the task age limit: the event goes to the supervisor of its
core; 0 disables the limit. -/
def execTaskAgeExpiry (p : Petal) (task : TaskId) (s : State) : Out :=
  match (taskOf s p task.val).bind (fun t => (t.thr.bind threadOf).map (fun h => (t, h))) with
  | none => .next s
  | some (t, h) =>
    if s.dget (pix 0x3200 p) 4 = 0 then .next s
    else
      let halted := b2n ((s.thr (.thr h)).st == .halted)
      let syn := t.id + h.t.val * 2 ^ 14 + halted * 2 ^ 17
      let d := leBytes 2 t.id ++ leBytes 2 h.mid ++ leBytes 1 halted ++ [0, 0, 0] ++ leBytes 4 t.pkt.dom
      .next (deliver (.thr h.sup) (0x054 + p.val) syn (raiseD (0x054 + p.val) syn (some p) d s))

end Sys2Proof.Machine
end

