-- ==== Sys2Proof/Machine/Operands.lean ====
section
/-!
DEFINITION. Machine/Operands.lean: operand forms of the Pullasor instructions: immediates (06 R167), addresses and
post-increment (R172), the task-slot offset (R182), and the values that loads and stores carry (R173).
-/
namespace Sys2Proof.Machine

/-- A 16-bit immediate, sign-extended. -/
def sext16 (i : BitVec 16) : Word := i.signExtend 64

/-- A 16-bit immediate, zero-extended. -/
def zext16 (i : BitVec 16) : Word := i.zeroExtend 64

/-- The address that a load or store forms (06 R172). -/
def effAddr (s : State) (h : Hart) (ra : Reg) (am : AddrMode) : Addr :=
  match am with
  | .disp d => s.areg h ra + d.signExtend 48
  | .postInc _ => s.areg h ra
  | .index rb scale => s.areg h ra + ((s.dreg h rb) <<< scale.toNat).truncate 48

/-- The post-increment of mode 1, after an access that raised no cause (06 R172). -/
def postInc (h : Hart) (ra : Reg) (am : AddrMode) (s : State) : State :=
  match am with
  | .postInc d => s.setA h ra (s.areg h ra + d.signExtend 48)
  | _ => s

/-- The offset of a task-slot access (06 R182). -/
def slotOff (s : State) (h : Hart) (x : Option Reg) (off : BitVec 10) : Nat :=
  match x with
  | some r => ((s.dreg h r).toNat + off.toNat) % 1024
  | none => off.toNat

/-- The value of loaded bytes in memory order: little-endian, or big-endian where BE is 1 (06 R173), zero-extended, or
sign-extended from their width. -/
def loadValue (be signed : Bool) (l : List Byte) : Word :=
  let v := leNat (if be then l.reverse else l)
  let w := 8 * l.length
  if signed && 2 ^ (w - 1) ≤ v then BitVec.ofNat 64 (2 ^ 64 - 2 ^ w + v) else BitVec.ofNat 64 v

/-- The bytes that a store of `n` bytes of a register puts in memory order (06 R173). -/
def storeValue (be : Bool) (n : Nat) (v : Word) : List Byte :=
  let l := leBytes n v.toNat
  if be then l.reverse else l

/-- The target of a branch or jump: its word offset from the instruction itself (06 R167, R176). -/
def target {n : Nat} (s : State) (h : Hart) (off : BitVec n) : Addr := (s.thr h).pc + off.signExtend 48 * 4

end Sys2Proof.Machine
end

