-- ==== Sys2Proof/Machine/Flags.lean ====
section
/-!
DEFINITION. Machine/Flags.lean: the conditions of compares and branches (06 R169, R176). Pullasor has no flags: a compare
writes 1 or 0 to a register.
-/
namespace Sys2Proof.Machine

/-- The conditions of the compare and branch instructions. -/
inductive Cond where
  | eq | ne | lt | ge | ltu | geu
deriving DecidableEq, Repr

/-- Whether a condition holds between two values: `lt` and `ge` are signed, `ltu` and `geu` unsigned. -/
def Cond.holds {n : Nat} (c : Cond) (a b : BitVec n) : Bool :=
  match c with
  | .eq => a == b
  | .ne => a != b
  | .lt => a.slt b
  | .ge => !a.slt b
  | .ltu => a.ult b
  | .geu => !a.ult b

/-- The result of a compare: 1 or 0. -/
def flag (b : Bool) : Word := if b then 1 else 0

end Sys2Proof.Machine
end

