-- ==== Sys2Proof/Machine/Integer.lean ====
section
/-!
DEFINITION. Machine/Integer.lean: the integer, immediate, shift, constant and compare instructions (06 R169).
-/
namespace Sys2Proof.Machine

/-- Bits [127:64] of an exact product. -/
def mulHigh (a b : Int) : Word := BitVec.ofInt 64 ((a * b) / 2 ^ 64)

/-- `ADD`: d = (a + b) mod 2^64 (06 R169). -/
def execAdd (h : Hart) (rd ra rb : Reg) (s : State) : Out :=
  .next (issueD h (.add h rd ra rb) rd (fun s => s.dreg h ra + s.dreg h rb) s)

/-- `SUB`: d = (a − b) mod 2^64 (06 R169). -/
def execSub (h : Hart) (rd ra rb : Reg) (s : State) : Out :=
  .next (issueD h (.sub h rd ra rb) rd (fun s => s.dreg h ra - s.dreg h rb) s)

/-- `AND` (06 R169). -/
def execAnd (h : Hart) (rd ra rb : Reg) (s : State) : Out :=
  .next (issueD h (.and h rd ra rb) rd (fun s => s.dreg h ra &&& s.dreg h rb) s)

/-- `OR` (06 R169). -/
def execOr (h : Hart) (rd ra rb : Reg) (s : State) : Out :=
  .next (issueD h (.or h rd ra rb) rd (fun s => s.dreg h ra ||| s.dreg h rb) s)

/-- `XOR` (06 R169). -/
def execXor (h : Hart) (rd ra rb : Reg) (s : State) : Out :=
  .next (issueD h (.xor h rd ra rb) rd (fun s => s.dreg h ra ^^^ s.dreg h rb) s)

/-- `ANDN`: d = a and not b (06 R169). -/
def execAndn (h : Hart) (rd ra rb : Reg) (s : State) : Out :=
  .next (issueD h (.andn h rd ra rb) rd (fun s => s.dreg h ra &&& ~~~(s.dreg h rb)) s)

/-- `SLL`: by b[5:0] (06 R169). -/
def execSll (h : Hart) (rd ra rb : Reg) (s : State) : Out :=
  .next (issueD h (.sll h rd ra rb) rd (fun s => s.dreg h ra <<< ((s.dreg h rb).toNat % 64)) s)

/-- `SRL`: by b[5:0] (06 R169). -/
def execSrl (h : Hart) (rd ra rb : Reg) (s : State) : Out :=
  .next (issueD h (.srl h rd ra rb) rd (fun s => s.dreg h ra >>> ((s.dreg h rb).toNat % 64)) s)

/-- `SRA`: by b[5:0] (06 R169). -/
def execSra (h : Hart) (rd ra rb : Reg) (s : State) : Out :=
  .next (issueD h (.sra h rd ra rb) rd (fun s => (s.dreg h ra).sshiftRight ((s.dreg h rb).toNat % 64)) s)

/-- `ROR`: by b[5:0] (06 R169). -/
def execRor (h : Hart) (rd ra rb : Reg) (s : State) : Out :=
  .next (issueD h (.ror h rd ra rb) rd (fun s => (s.dreg h ra).rotateRight ((s.dreg h rb).toNat % 64)) s)

/-- `MUL`: d = (a × b)[63:0] (06 R169). -/
def execMul (h : Hart) (rd ra rb : Reg) (s : State) : Out :=
  .next (issueD h (.mul h rd ra rb) rd (fun s => s.dreg h ra * s.dreg h rb) s)

/-- `MULHU`: d = (a × b)[127:64], unsigned (06 R169). -/
def execMulhu (h : Hart) (rd ra rb : Reg) (s : State) : Out :=
  .next (issueD h (.mulhu h rd ra rb) rd (fun s => mulHigh (s.dreg h ra).toNat (s.dreg h rb).toNat) s)

/-- `MULHS`: d = (a × b)[127:64], signed (06 R169). -/
def execMulhs (h : Hart) (rd ra rb : Reg) (s : State) : Out :=
  .next (issueD h (.mulhs h rd ra rb) rd (fun s => mulHigh (s.dreg h ra).toInt (s.dreg h rb).toInt) s)

/-- `MIN`, signed (06 R169). -/
def execMin (h : Hart) (rd ra rb : Reg) (s : State) : Out :=
  .next (issueD h (.min h rd ra rb) rd (fun s => if (s.dreg h ra).slt (s.dreg h rb) then s.dreg h ra else s.dreg h rb) s)

/-- `MAX`, signed (06 R169). -/
def execMax (h : Hart) (rd ra rb : Reg) (s : State) : Out :=
  .next (issueD h (.max h rd ra rb) rd (fun s => if (s.dreg h ra).slt (s.dreg h rb) then s.dreg h rb else s.dreg h ra) s)

/-- `MINU`, unsigned (06 R169). -/
def execMinu (h : Hart) (rd ra rb : Reg) (s : State) : Out :=
  .next (issueD h (.minu h rd ra rb) rd (fun s => if (s.dreg h ra).ult (s.dreg h rb) then s.dreg h ra else s.dreg h rb) s)

/-- `MAXU`, unsigned (06 R169). -/
def execMaxu (h : Hart) (rd ra rb : Reg) (s : State) : Out :=
  .next (issueD h (.maxu h rd ra rb) rd (fun s => if (s.dreg h ra).ult (s.dreg h rb) then s.dreg h rb else s.dreg h ra) s)

/-- `SEL`: d = a if c ≠ 0 else b (06 R169). -/
def execSel (h : Hart) (rd ra rb rc : Reg) (s : State) : Out :=
  .next (issueD h (.sel h rd ra rb rc) rd (fun s => if s.dreg h rc ≠ 0 then s.dreg h ra else s.dreg h rb) s)

/-- `ADDI`: d = a + sext(imm16) (06 R169). -/
def execAddi (h : Hart) (rd ra : Reg) (imm : BitVec 16) (s : State) : Out :=
  .next (issueD h (.addi h rd ra imm) rd (fun s => s.dreg h ra + sext16 imm) s)

/-- `ANDI`: with zext(imm16) (06 R169). -/
def execAndi (h : Hart) (rd ra : Reg) (imm : BitVec 16) (s : State) : Out :=
  .next (issueD h (.andi h rd ra imm) rd (fun s => s.dreg h ra &&& zext16 imm) s)

/-- `ORI`: with zext(imm16) (06 R169). -/
def execOri (h : Hart) (rd ra : Reg) (imm : BitVec 16) (s : State) : Out :=
  .next (issueD h (.ori h rd ra imm) rd (fun s => s.dreg h ra ||| zext16 imm) s)

/-- `XORI`: with zext(imm16) (06 R169). -/
def execXori (h : Hart) (rd ra : Reg) (imm : BitVec 16) (s : State) : Out :=
  .next (issueD h (.xori h rd ra imm) rd (fun s => s.dreg h ra ^^^ zext16 imm) s)

/-- `SLLI` (06 R169). -/
def execSlli (h : Hart) (rd ra : Reg) (sh : BitVec 6) (s : State) : Out :=
  .next (issueD h (.slli h rd ra sh) rd (fun s => s.dreg h ra <<< sh.toNat) s)

/-- `SRLI` (06 R169). -/
def execSrli (h : Hart) (rd ra : Reg) (sh : BitVec 6) (s : State) : Out :=
  .next (issueD h (.srli h rd ra sh) rd (fun s => s.dreg h ra >>> sh.toNat) s)

/-- `SRAI` (06 R169). -/
def execSrai (h : Hart) (rd ra : Reg) (sh : BitVec 6) (s : State) : Out :=
  .next (issueD h (.srai h rd ra sh) rd (fun s => (s.dreg h ra).sshiftRight sh.toNat) s)

/-- `RORI` (06 R169). -/
def execRori (h : Hart) (rd ra : Reg) (sh : BitVec 6) (s : State) : Out :=
  .next (issueD h (.rori h rd ra sh) rd (fun s => (s.dreg h ra).rotateRight sh.toNat) s)

/-- `IMMS`: d = sext(imm16) (06 R169). -/
def execImms (h : Hart) (rd : Reg) (imm : BitVec 16) (s : State) : Out :=
  .next (issueD h (.imms h rd imm) rd (fun _ => sext16 imm) s)

/-- `IMMZ`: d = zext(imm16) (06 R169). -/
def execImmz (h : Hart) (rd : Reg) (imm : BitVec 16) (s : State) : Out :=
  .next (issueD h (.immz h rd imm) rd (fun _ => zext16 imm) s)

/-- `IMMH`: d = sext(imm16) << 16 (06 R169). -/
def execImmh (h : Hart) (rd : Reg) (imm : BitVec 16) (s : State) : Out :=
  .next (issueD h (.immh h rd imm) rd (fun _ => sext16 imm <<< 16) s)

/-- `IMMSH`: d = (d << 16) or zext(imm16) (06 R169). -/
def execImmsh (h : Hart) (rd : Reg) (imm : BitVec 16) (s : State) : Out :=
  .next (issueD h (.immsh h rd imm) rd (fun s => (s.dreg h rd <<< 16) ||| zext16 imm) s)

/-- `CEQ`: d = 1 if the condition holds, else 0 (06 R169). -/
def execCeq (h : Hart) (rd ra rb : Reg) (s : State) : Out :=
  .next (issueD h (.ceq h rd ra rb) rd (fun s => flag (Cond.eq.holds (s.dreg h ra) (s.dreg h rb))) s)

/-- `CNE`: d = 1 if the condition holds, else 0 (06 R169). -/
def execCne (h : Hart) (rd ra rb : Reg) (s : State) : Out :=
  .next (issueD h (.cne h rd ra rb) rd (fun s => flag (Cond.ne.holds (s.dreg h ra) (s.dreg h rb))) s)

/-- `CLT`: d = 1 if the condition holds, else 0 (06 R169). -/
def execClt (h : Hart) (rd ra rb : Reg) (s : State) : Out :=
  .next (issueD h (.clt h rd ra rb) rd (fun s => flag (Cond.lt.holds (s.dreg h ra) (s.dreg h rb))) s)

/-- `CGE`: d = 1 if the condition holds, else 0 (06 R169). -/
def execCge (h : Hart) (rd ra rb : Reg) (s : State) : Out :=
  .next (issueD h (.cge h rd ra rb) rd (fun s => flag (Cond.ge.holds (s.dreg h ra) (s.dreg h rb))) s)

/-- `CLTU`: d = 1 if the condition holds, else 0 (06 R169). -/
def execCltu (h : Hart) (rd ra rb : Reg) (s : State) : Out :=
  .next (issueD h (.cltu h rd ra rb) rd (fun s => flag (Cond.ltu.holds (s.dreg h ra) (s.dreg h rb))) s)

/-- `CGEU`: d = 1 if the condition holds, else 0 (06 R169). -/
def execCgeu (h : Hart) (rd ra rb : Reg) (s : State) : Out :=
  .next (issueD h (.cgeu h rd ra rb) rd (fun s => flag (Cond.geu.holds (s.dreg h ra) (s.dreg h rb))) s)

/-- `CEQI`: against sext(imm16) (06 R169). -/
def execCeqi (h : Hart) (rd ra : Reg) (imm : BitVec 16) (s : State) : Out :=
  .next (issueD h (.ceqi h rd ra imm) rd (fun s => flag (Cond.eq.holds (s.dreg h ra) (sext16 imm))) s)

/-- `CNEI`: against sext(imm16) (06 R169). -/
def execCnei (h : Hart) (rd ra : Reg) (imm : BitVec 16) (s : State) : Out :=
  .next (issueD h (.cnei h rd ra imm) rd (fun s => flag (Cond.ne.holds (s.dreg h ra) (sext16 imm))) s)

/-- `CLTI`: against sext(imm16) (06 R169). -/
def execClti (h : Hart) (rd ra : Reg) (imm : BitVec 16) (s : State) : Out :=
  .next (issueD h (.clti h rd ra imm) rd (fun s => flag (Cond.lt.holds (s.dreg h ra) (sext16 imm))) s)

/-- `CLTUI`: against sext(imm16) (06 R169). -/
def execCltui (h : Hart) (rd ra : Reg) (imm : BitVec 16) (s : State) : Out :=
  .next (issueD h (.cltui h rd ra imm) rd (fun s => flag (Cond.ltu.holds (s.dreg h ra) (sext16 imm))) s)

end Sys2Proof.Machine
end

