-- ==== Sys2Proof/Machine/AddressOps.lean ====
section
/-!
DEFINITION. Machine/AddressOps.lean: the address instructions (06 R164, R169).
-/
namespace Sys2Proof.Machine

/-- `ADDA`: d = (a + b) mod 2^48 (06 R169). -/
def execAdda (h : Hart) (rd ra rb : Reg) (s : State) : Out :=
  .next (issueA h (.adda h rd ra rb) rd (fun s => s.areg h ra + (s.dreg h rb).truncate 48) s)

/-- `SUBA`: d = (a − b) mod 2^48 (06 R169). -/
def execSuba (h : Hart) (rd ra rb : Reg) (s : State) : Out :=
  .next (issueA h (.suba h rd ra rb) rd (fun s => s.areg h ra - (s.dreg h rb).truncate 48) s)

/-- `DIFA`: d = sext48((a − b) mod 2^48) (06 R169). -/
def execDifa (h : Hart) (rd ra rb : Reg) (s : State) : Out :=
  .next (issueD h (.difa h rd ra rb) rd (fun s => (s.areg h ra - s.areg h rb).signExtend 64) s)

/-- `MVA`: d = a (06 R169). -/
def execMva (h : Hart) (rd ra : Reg) (s : State) : Out :=
  .next (issueA h (.mva h rd ra) rd (fun s => s.areg h ra) s)

/-- `MVDA`: d = a; a value with bits [63:48] set raises ADDR and leaves d (06 R164, R169). -/
def execMvda (h : Hart) (rd ra : Reg) (s : State) : Out :=
  .next (issuePlain h (.mvda h rd ra) (fun s =>
    if 2 ^ 48 ≤ (s.dreg h ra).toNat then (s, .fault 6 0) else (s.setA h rd ((s.dreg h ra).truncate 48), .next 1)) s)

/-- `MVAD`: d = zext(a) (06 R169). -/
def execMvad (h : Hart) (rd ra : Reg) (s : State) : Out :=
  .next (issueD h (.mvad h rd ra) rd (fun s => (s.areg h ra).zeroExtend 64) s)

/-- `CAEQ`: addresses compared, unsigned 48-bit (06 R169). -/
def execCaeq (h : Hart) (rd ra rb : Reg) (s : State) : Out :=
  .next (issueD h (.caeq h rd ra rb) rd (fun s => flag (Cond.eq.holds (s.areg h ra) (s.areg h rb))) s)

/-- `CANE`: addresses compared, unsigned 48-bit (06 R169). -/
def execCane (h : Hart) (rd ra rb : Reg) (s : State) : Out :=
  .next (issueD h (.cane h rd ra rb) rd (fun s => flag (Cond.ne.holds (s.areg h ra) (s.areg h rb))) s)

/-- `CALTU`: addresses compared, unsigned 48-bit (06 R169). -/
def execCaltu (h : Hart) (rd ra rb : Reg) (s : State) : Out :=
  .next (issueD h (.caltu h rd ra rb) rd (fun s => flag (Cond.ltu.holds (s.areg h ra) (s.areg h rb))) s)

/-- `CAGEU`: addresses compared, unsigned 48-bit (06 R169). -/
def execCageu (h : Hart) (rd ra rb : Reg) (s : State) : Out :=
  .next (issueD h (.cageu h rd ra rb) rd (fun s => flag (Cond.geu.holds (s.areg h ra) (s.areg h rb))) s)

/-- `ADDAI`: d = (a + sext(imm16)) mod 2^48 (06 R169). -/
def execAddai (h : Hart) (rd ra : Reg) (imm : BitVec 16) (s : State) : Out :=
  .next (issueA h (.addai h rd ra imm) rd (fun s => s.areg h ra + imm.signExtend 48) s)

end Sys2Proof.Machine
end

