-- ==== Sys2Proof/Machine/BitOps.lean ====
section
/-!
DEFINITION. Machine/BitOps.lean: the bit, permute and byte-swap instructions (06 R170) and the accumulator instructions (R171).
-/
namespace Sys2Proof.Machine

/-- A field of `w` bits from `pos` on; missing bits read 0 (06 R170). -/
def bfx (a : Word) (pos w : Nat) : Word := BitVec.ofNat 64 ((a.toNat / 2 ^ pos) % 2 ^ w)

/-- A field of `w` bits from `pos` on, sign-extended from the top bit that exists (06 R170). -/
def bfxs (a : Word) (pos w : Nat) : Word :=
  let n := min w (64 - pos)
  let v := (a.toNat / 2 ^ pos) % 2 ^ w
  if 2 ^ (n - 1) ≤ v then BitVec.ofNat 64 (2 ^ 64 - 2 ^ n + v) else BitVec.ofNat 64 v

/-- `a` inserted into a field of `w` bits at `pos` of `d`; bits above bit 63 are discarded (06 R170). -/
def bfi (d a : Word) (pos w : Nat) : Word :=
  let m : Word := BitVec.ofNat 64 ((2 ^ w - 1) * 2 ^ pos)
  (d &&& ~~~m) ||| ((a <<< pos) &&& m)

/-- The number of leading zeros among the low `n` bits of a number. -/
def leadZeros : Nat → Nat → Nat
  | 0, _ => 0
  | n + 1, v => if bitOf v n then 0 else 1 + leadZeros n v

/-- The number of trailing zeros, at most `n`. -/
def trailZeros : Nat → Nat → Nat
  | 0, _ => 0
  | n + 1, v => if bitOf v 0 then 0 else 1 + trailZeros n (v / 2)

/-- Leading zero count (06 R170). -/
def clz (a : Word) : Word := BitVec.ofNat 64 (leadZeros 64 a.toNat)

/-- Trailing zero count (06 R170). -/
def ctz (a : Word) : Word := BitVec.ofNat 64 (trailZeros 64 a.toNat)

/-- The number of 1 bits (06 R170). -/
def popc (a : Word) : Word := BitVec.ofNat 64 ((List.range 64).map (fun i => b2n (bitOf a.toNat i))).sum

/-- Byte `i` of a value: bits [8i+7:8i] (06 R170). -/
def byteOf (a : Word) (i : Nat) : Byte := BitVec.ofNat 8 (a.toNat / 2 ^ (8 * i))

/-- The low `n` bytes reversed; bits above are 0 (06 R170). -/
def swapBytes (n : Nat) (a : Word) : Word := leWord (leBytes n a.toNat).reverse

/-- `PERM`: each byte selected from the bytes of a and b (06 R170). -/
def perm (a b c : Word) : Word :=
  leWord ((List.range 8).map (fun i =>
    let q := c.toNat / 2 ^ (4 * i) % 16
    if q < 8 then byteOf a q else byteOf b (q - 8)))

/-- The sum of the first `k` bytes of a as 16-bit words in network order (06 R171). -/
def csaSum (a : Word) (k : Nat) : Acc :=
  BitVec.ofNat 96 ((List.range ((k + 1) / 2)).map (fun j =>
    (byteOf a (2 * j)).toNat * 256 + (if 2 * j + 1 < k then (byteOf a (2 * j + 1)).toNat else 0))).sum

/-- The end-around carries of a 96-bit sum applied, over at most `n` rounds (06 R171). -/
def foldAcc : Nat → Nat → Nat
  | 0, v => v
  | n + 1, v => if 0xFFFF < v then foldAcc n (v % 65536 + v / 65536) else v

/-- The part of an accumulator that `MVAC` moves (06 R171): LO, HI, SAT or FOLD. -/
def accPart (x : Acc) (part : Nat) : Word :=
  match part with
  | 0 => x.truncate 64
  | 1 => (x >>> 64).truncate 64
  | 2 => if x.toNat < 2 ^ 64 then x.truncate 64 else BitVec.allOnes 64
  | _ => BitVec.ofNat 64 (foldAcc 16 x.toNat)

/-- An accumulator instruction: its Z form starts from 0 (06 R171). -/
def issueAc (h : Hart) (i : Instr) (ac : Fin 4) (z : Bool) (v : State → Acc → Acc) (s : State) : State :=
  issuePlain h i (fun s => (s.setAc h ac (v s (if z then 0 else s.acc h ac)), .next 1)) s

/-- `BFX` (06 R170). -/
def execBfx (h : Hart) (rd ra rb : Reg) (s : State) : Out :=
  .next (issueD h (.bfx h rd ra rb) rd (fun s => bfx (s.dreg h ra) ((s.dreg h rb).toNat % 64) ((s.dreg h rb).toNat / 256 % 64 + 1)) s)

/-- `BFXS` (06 R170). -/
def execBfxs (h : Hart) (rd ra rb : Reg) (s : State) : Out :=
  .next (issueD h (.bfxs h rd ra rb) rd (fun s => bfxs (s.dreg h ra) ((s.dreg h rb).toNat % 64) ((s.dreg h rb).toNat / 256 % 64 + 1)) s)

/-- `BFI` (06 R170). -/
def execBfi (h : Hart) (rd ra rb : Reg) (s : State) : Out :=
  .next (issueD h (.bfi h rd ra rb) rd (fun s => bfi (s.dreg h rd) (s.dreg h ra) ((s.dreg h rb).toNat % 64) ((s.dreg h rb).toNat / 256 % 64 + 1)) s)

/-- `CLZ`: leading zero count; 64 for 0 (06 R170). -/
def execClz (h : Hart) (rd ra : Reg) (s : State) : Out :=
  .next (issueD h (.clz h rd ra) rd (fun s => clz (s.dreg h ra)) s)

/-- `CTZ`: trailing zero count; 64 for 0 (06 R170). -/
def execCtz (h : Hart) (rd ra : Reg) (s : State) : Out :=
  .next (issueD h (.ctz h rd ra) rd (fun s => ctz (s.dreg h ra)) s)

/-- `POPC`: number of 1 bits (06 R170). -/
def execPopc (h : Hart) (rd ra : Reg) (s : State) : Out :=
  .next (issueD h (.popc h rd ra) rd (fun s => popc (s.dreg h ra)) s)

/-- `BSWAP`: the bytes of a[63:0] reversed (06 R170). -/
def execBswap (h : Hart) (rd ra : Reg) (s : State) : Out :=
  .next (issueD h (.bswap h rd ra) rd (fun s => swapBytes 8 (s.dreg h ra)) s)

/-- `BSWAPW`: the bytes of a[31:0] reversed (06 R170). -/
def execBswapw (h : Hart) (rd ra : Reg) (s : State) : Out :=
  .next (issueD h (.bswapw h rd ra) rd (fun s => swapBytes 4 (s.dreg h ra)) s)

/-- `BSWAPH`: the bytes of a[15:0] reversed (06 R170). -/
def execBswaph (h : Hart) (rd ra : Reg) (s : State) : Out :=
  .next (issueD h (.bswaph h rd ra) rd (fun s => swapBytes 2 (s.dreg h ra)) s)

/-- `PERM` (06 R170). -/
def execPerm (h : Hart) (rd ra rb rc : Reg) (s : State) : Out :=
  .next (issueD h (.perm h rd ra rb rc) rd (fun s => perm (s.dreg h ra) (s.dreg h rb) (s.dreg h rc)) s)

/-- `BFXI`: position and width from the instruction (06 R170). -/
def execBfxi (h : Hart) (rd ra : Reg) (pos width1 : BitVec 6) (s : State) : Out :=
  .next (issueD h (.bfxi h rd ra pos width1) rd (fun s => bfx (s.dreg h ra) pos.toNat (width1.toNat + 1)) s)

/-- `BFXSI`: position and width from the instruction (06 R170). -/
def execBfxsi (h : Hart) (rd ra : Reg) (pos width1 : BitVec 6) (s : State) : Out :=
  .next (issueD h (.bfxsi h rd ra pos width1) rd (fun s => bfxs (s.dreg h ra) pos.toNat (width1.toNat + 1)) s)

/-- `BFII`: position and width from the instruction (06 R170). -/
def execBfii (h : Hart) (rd ra : Reg) (pos width1 : BitVec 6) (s : State) : Out :=
  .next (issueD h (.bfii h rd ra pos width1) rd (fun s => bfi (s.dreg h rd) (s.dreg h ra) pos.toNat (width1.toNat + 1)) s)

/-- `MAC`: signed 32-bit products (06 R171). -/
def execMac (h : Hart) (ac : Fin 4) (ra rb : Reg) (z : Bool) (s : State) : Out :=
  .next (issueAc h (.mac h ac ra rb z) ac z (fun s acc => acc + ((s.dreg h ra).truncate 32).signExtend 96 * ((s.dreg h rb).truncate 32).signExtend 96) s)

/-- `MACU`: unsigned 32-bit products (06 R171). -/
def execMacu (h : Hart) (ac : Fin 4) (ra rb : Reg) (z : Bool) (s : State) : Out :=
  .next (issueAc h (.macu h ac ra rb z) ac z (fun s acc => acc + ((s.dreg h ra).truncate 32).zeroExtend 96 * ((s.dreg h rb).truncate 32).zeroExtend 96) s)

/-- `SUM` (06 R171). -/
def execSum (h : Hart) (ac : Fin 4) (ra : Reg) (z : Bool) (s : State) : Out :=
  .next (issueAc h (.sum h ac ra z) ac z (fun s acc => acc + (s.dreg h ra).zeroExtend 96) s)

/-- `SUMS` (06 R171). -/
def execSums (h : Hart) (ac : Fin 4) (ra : Reg) (z : Bool) (s : State) : Out :=
  .next (issueAc h (.sums h ac ra z) ac z (fun s acc => acc + (s.dreg h ra).signExtend 96) s)

/-- `CSA`: the bytes of a as 16-bit words in network order (06 R171). -/
def execCsa (h : Hart) (ac : Fin 4) (ra : Reg) (len1 : BitVec 3) (z : Bool) (s : State) : Out :=
  .next (issueAc h (.csa h ac ra len1 z) ac z (fun s acc => acc + csaSum (s.dreg h ra) (len1.toNat + 1)) s)

/-- `MVAC`: LO, HI, SAT or FOLD of an accumulator (06 R171). -/
def execMvac (h : Hart) (rd : Reg) (ac : Fin 4) (part : BitVec 2) (s : State) : Out :=
  .next (issueD h (.mvac h rd ac part) rd (fun s => accPart (s.acc h ac) part.toNat) s)

end Sys2Proof.Machine
end

