-- ==== Sys2Proof/Machine/DramCmds.lean ====
section
/-!
DEFINITION. Machine/DramCmds.lean: the DRAM groups' own commands: queued reads and their data, writes, promotions, the
scrubber, refresh, temperature, calibration, page closing and power-down (15 R400 to R417).
-/
namespace Sys2Proof.Machine

/-- The place of a DRAM position in the unit IDs (01 R39). -/
def dramUnit (pos : Nat) : Nat := 4 * 2 ^ 28 + pos

/-- Whether a group serves requests: it is initialised, its port is not isolated and its clock runs (15 R416, 18 R480, 01
R29). -/
def groupServes (s : State) (g : Nat) : Bool :=
  !s.noDram && !s.isoPorts.contains (4 + g) && !s.frozen.contains (7 + g)

/-- Whether a read queue of 128 entries admits a request of master `m`: two entries are kept for each credit class that the queue
accepts, the requests of management and debug and those of memory (15 R403; 05 R153, R154). -/
def queueAdmits (l : List DramReq) (m : Nat) : Bool :=
  let held := fun (c : Nat) => (l.filter (fun r => creditClass r.mid == c)).length
  let kept := (([2, 3].filter (· ≠ creditClass m)).map (fun c => 2 - held c)).sum
  l.length + kept < 128

/-- A read enters its group's queue, or waits in the group's frozen crossing of 8 entries (15 R403; 01 R29). A full queue or
crossing holds it back upstream. -/
def dramAccept (g : Nat) (r : DramReq) (s : State) : State :=
  if s.frozen.contains (7 + g) then
    (if (s.dram g).held.length < 8 then s.updDram g (fun d => { d with held := d.held ++ [⟨r, none⟩] }) else s)
  else if groupServes s g && queueAdmits (s.dram g).reads r.mid then s.updDram g (fun d => { d with reads := d.reads ++ [r] })
  else s

/-- A write is accepted into its group's write buffer, and so performed, or waits in the group's frozen crossing (15 R403; 01 R29). -/
def dramAcceptWrite (g : Nat) (r : DramReq) (l : List Byte) (s : State) : State :=
  if s.frozen.contains (7 + g) then
    (if (s.dram g).held.length < 8 then s.updDram g (fun d => { d with held := d.held ++ [⟨r, some l⟩] }) else s)
  else if groupServes s g then dramStore r.addr l r.keepOpen s else s

/-- DRAM_READ: a read enters its group's queue (15 R403, R404). -/
def execDramRead (m : BitVec 16) (addr : BitVec 48) (sc : Fin 4) (keepOpen : Bool) (s : State) : Out :=
  let a := addr.toNat
  if !inDram a then .next s
  else match checkAccess m.toNat a false s with
    | .ok _ =>
      .next (dramAccept (dramGroupOf s a) ⟨m.toNat, a, sc.val, keepOpen, false, s.time⟩ s)
    | r => .next (busAnswer m.toNat a false (busRefused m.toNat a false 0 (accessEvent m.toNat a r s)))

/-- DRAM_READ_DATA: the next request's 64-byte line is read and checked (15 R400, R405); a block that is poisoned already
answers poison without another event (R402). -/
def execDramReadData (g : Fin 4) (ecc : EccOutcome) (s : State) : Out :=
  if !groupServes s g.val then .next s
  else match nextRead (s.dram g.val).reads with
    | none => .next s
    | some r =>
      let ln := r.addr / 64 * 64
      let s := s.updDram g.val (fun d => { d with reads := d.reads.erase r })
      let s := dramTouchRead r.addr r.keepOpen s
      let old := poisoned s ln 64
      let pos := (dramMap s r.addr).1
      let s := if old then s else eccReport r.addr r.sc ecc s
      let s := if old then s else match ecc with
        | .clean => s
        | .corrected => ceError (dramUnit pos) s
        | .uncorrectable => ueError pos (dramRow s r.addr) s
      let s := match threadOf r.mid with
        | some t => histAdd t.p 6 (some r.sc) r.since s
        | none => s
      let l := s.memRead ln 64
      .next (s.emit (if old || ecc == .uncorrectable then .poisonData r.mid ln l else .readData r.mid ln l))

/-- DRAM_WRITE: a write accepted into its group's write buffer, and so performed (15 R403). -/
def execDramWrite (m : BitVec 16) (addr : BitVec 48) (data : List Byte) (sc : Fin 4) (keepOpen : Bool) (s : State) : Out :=
  let a := addr.toNat
  if !inDram a then .next s
  else match checkAccess m.toNat a true s with
    | .ok _ => .next (dramAcceptWrite (dramGroupOf s a) ⟨m.toNat, a, sc.val, keepOpen, false, s.time⟩ data s)
    | r =>
      let pc := match threadOf m.toNat with
        | some t => (s.thr (.thr t)).pc
        | none => 0
      .next (busAnswer m.toNat a true (busRefused m.toNat a true pc (accessEvent m.toNat a r s)))

/-- CLOCK_RETURN: the crossing resumes from its held contents: the words that wait in its FIFO, and the requests that wait for
the domain's DRAM group or at its stem output port, go on in their order (01 R29, R31). -/
def execClockReturn (d : Fin 18) (s : State) : Out :=
  let n := d.val + 1
  let s := { s with frozen := s.frozen.filter (· ≠ n) }
  let s := (crossHeld s n).foldl (fun s e => crossWord n false e.1 e.2 s) { s with cross := Tab.erase s.cross n }
  let s := if 7 ≤ n ∧ n ≤ 10 then
      (s.dram (n - 7)).held.foldl (fun s e => match e.wr with
        | none => dramAccept (n - 7) e.req s
        | some l => dramAcceptWrite (n - 7) e.req l s) (s.updDram (n - 7) (fun x => { x with held := [] }))
    else s
  .next ((stemDomainPorts n).foldl (fun s p => stemServeAll p s) s)

/-- The time at which a request's age exceeds its class's limit (15 R404). -/
def ageEnd (s : State) (r : DramReq) : Nat := r.since + s.dget 0x4800 (0x10 + r.sc)

/-- The request of a queue whose age exceeds its class's limit first, of those not yet promoted (15 R404). -/
def firstAged (s : State) (l : List DramReq) : Option DramReq :=
  (l.filter (fun r => !r.promoted)).foldl (fun (b : Option DramReq) r => match b with
    | none => some r
    | some x => if ageEnd s r < ageEnd s x then some r else b) none

/-- AGE_LIMIT_PROMOTION: the next request to exceed its class's age limit stands behind those promoted before it (15 R404). -/
def execAgeLimitPromotion (g : Fin 4) (s : State) : Out :=
  match firstAged s (s.dram g.val).reads with
  | none => .next s
  | some r =>
    let l := (s.dram g.val).reads.erase r
    let first := l.filter (fun x => x.promoted)
    let rest := l.filter (fun x => !x.promoted)
    .next ((s.updDram g.val (fun d => { d with reads := first ++ [{ r with promoted := true }] ++ rest })).bump (grpIdx g.val) 3)

/-- SCRUB_READ: a block read in class SC3; a corrected one is written back, an uncorrectable one rewritten poisoned (15 R402). -/
def execScrubRead (addr : BitVec 48) (ecc : EccOutcome) (s : State) : Out :=
  let a := addr.toNat / 32 * 32
  if !inDram a || !groupServes s (dramGroupOf s a) then .next s
  else
    let s := dramTouchRead a false s
    let pos := (dramMap s a).1
    if poisoned s a 32 then .next s
    else match ecc with
      | .clean => .next s
      | .corrected => .next (ceError (dramUnit pos) (eccReport a 3 ecc s))
      | .uncorrectable => .next (setPoison a 32 (ueError pos (dramRow s a) (eccReport a 3 ecc s)))

/-- The row of a bank of a position closes. -/
def closeRow (pos bank : Nat) (s : State) : State :=
  s.updDram (pos / 8) (fun d => { d with openRows := Tab.erase d.openRows (pos * 8 + bank) })

/-- BANK_REFRESH: the bank's row closes (15 R407, R410). -/
def execBankRefresh (pos : Fin 32) (bank : Fin 8) (s : State) : Out := .next (closeRow pos.val bank.val s)

/-- PAGE_IDLE_CLOSE: a row open for the open-page idle time closes (15 R407). -/
def execPageIdleClose (pos : Fin 32) (bank : Fin 8) (s : State) : Out := .next (closeRow pos.val bank.val s)

/-- DRAM_TEMPERATURE_READ: the statuses of a group's channels, the multiplier that they ask for, and event 0x128 + g once per
entry of a channel into a temperature above its refresh range, which `hot` gives by channel (15 R410). -/
def execDramTemperatureRead (g : Fin 4) (status : List (BitVec 8)) (hot : BitVec 8) (s : State) : Out :=
  let s := (List.range 8).foldl (fun s i => s.dset (0x4900 + 8 * g.val + i) 7 (status.getD i 0).toNat) s
  let s := s.dset (grpIdx g.val) 0x0A (2 ^ (Config.refreshAsk status % 3))
  let was := (s.dram g.val).hot
  let s := s.updDram g.val (fun d => { d with hot := hot.toNat })
  .next ((List.range 8).foldl (fun s i => if bitOf hot.toNat i && !bitOf was i then raiseAny (0x128 + g.val) none s else s) s)

/-- ZQ_CALIBRATION: the package's channels pause for 30 ns, and no state changes (15 R411). -/
def execZqCalibration (_pkg : Fin 9) (s : State) : Out := .next s

/-- DQS_OSCILLATOR_CHECK: a channel that has drifted is retrained; a retrain without a passing window is counted and reported
(15 R411, R412). -/
def execDqsOscillatorCheck (pos : Fin 32) (drifted passes : Bool) (s : State) : Out :=
  if !drifted then .next s
  else
    let s := s.bump (0x4900 + pos.val) 5
    if passes then .next s
    else .next (raise (0x120 + pos.val / 8) pos.val none (s.bump (0x4900 + pos.val) 6))

/-- DRAM_POWER_DOWN: under ECO a channel with no request enters power-down (15 R417). -/
def execDramPowerDown (pos : Fin 32) (s : State) : Out :=
  if bitOf (ownModes s .device) 2 && !((s.dram (pos.val / 8)).reads.any (fun r => (dramMap s r.addr).1 == pos.val)) then
    .next (s.updDram (pos.val / 8) (fun d => { d with sleeping := d.sleeping.filter (· != pos.val) ++ [pos.val] }))
  else .next s

end Sys2Proof.Machine
end

