-- ==== Sys2Proof/Machine/CacheCmds.lean ====
section
/-!
DEFINITION. Machine/CacheCmds.lean: cache maintenance, page classes, L2 lock words and the buffers' expiries as commands
(08 R222, R230, R233, R235 to R238), and the commands of Cowslip's slots, SAs and jobs (13 R342, R343, R351, R353, R359).
-/
namespace Sys2Proof.Machine

/-- PAGE_CLASS_WRITE (08 R222, R223). -/
def execPageClassWrite (w : Writer) (off : Nat) (data : List Byte) (s : State) : Out :=
  .next (writeCmd w 0x2030 0 off data s)

/-- L2_LOCK_WORD_WRITE (08 R238). -/
def execL2LockWordWrite (w : Writer) (p : Petal) (c : Cluster) (bank : Fin 4) (v : BitVec 32) (s : State) : Out :=
  .next (writeCmd w (cacheIdx p c) (1 + bank.val) 0 (leBytes 4 v.toNat) s)

/-- SIDE_BUFFER_AGE_EXPIRY: a prefetched line unused for 4,096 core steps is dropped (08 R230). -/
def execSideBufferAgeExpiry (k : CoreId) (line : Nat) (s : State) : Out := .next (sideAged k (lineOf line) s)

/-- EVICTION_ACCEPT: the next level accepts the oldest victim (08 R232, R233); nothing of a halted petal is written back (R244). -/
def execEvictionAccept (k : CoreId) (declined : Bool) (s : State) : Out :=
  if petalHalted s k.p || (s.core k).evict.head?.any (fun x => x.dirty && dramFrozen s (coreKey k x.addr s)) then .next s
  else .next (evictAccept k declined s)

/-! ## Cowslip (13) -/

/-- SLOT_FRAME_BOUNDARY (13 R342; 17 R456). Nothing runs while Cowslip's port is isolated or under MINIMAL (13 R362). -/
def execSlotFrameBoundary (s : State) : Out :=
  if minimalOn s then .next s else .next (actCowslip (frameBoundary s))

/-- SLOT_START (13 R343). -/
def execSlotStart (s : State) : Out := if minimalOn s then .next s else .next (slotStart s)

/-- SEGMENT_COMPLETE (13 R343, R361); a lane error counts for the lane's rate (18 R484). -/
def execSegmentComplete (lane : Fin 16) (laneOk : Bool) (s : State) : Out :=
  let busy := s.cow.ops.any (fun o => o.lane == some lane.val)
  let s := segDone lane.val laneOk s
  .next (if busy && !laneOk then ceError (5 * 2 ^ 28 + lane.val) s else s)

/-- The bytes of an SA command (13 R351). -/
def saBytes (op : Nat) (idx : BitVec 32) (body : List Byte) : List Byte := leBytes 4 op ++ leBytes 4 idx.toNat ++ body

/-- SA_IMPORT (13 R351). -/
def execSaImport (w : Writer) (idx : BitVec 32) (body : List Byte) (s : State) : Out :=
  .next (writeCmd w 0x4C10 0 0 (saBytes 1 idx body) s)

/-- SA_LOAD (13 R351). -/
def execSaLoad (w : Writer) (idx : BitVec 32) (body : List Byte) (s : State) : Out :=
  .next (writeCmd w 0x4C10 0 0 (saBytes 2 idx body) s)

/-- SA_UNLOAD (13 R351, R353). -/
def execSaUnload (w : Writer) (idx : BitVec 32) (body : List Byte) (s : State) : Out :=
  .next (writeCmd w 0x4C10 0 0 (saBytes 3 idx body) s)

/-- SA_ERASE (13 R351). -/
def execSaErase (w : Writer) (idx : BitVec 32) (body : List Byte) (s : State) : Out :=
  .next (writeCmd w 0x4C10 0 0 (saBytes 4 idx body) s)

/-- SA_DRAIN_COMPLETE (13 R353). -/
def execSaDrainComplete (idx : Fin 65536) (s : State) : Out := .next (saDrained idx.val s)

/-- JOB_SUBMIT: a master's write of a descriptor address to 0x4C20.01 (13 R359); one that is no principal of the dictionary is
refused at the window (01 R38). -/
def execJobSubmit (m : BitVec 16) (addr : BitVec 64) (s : State) : Out :=
  match writerOf m.toNat with
  | some w => .next (writeCmd w 0x4C20 1 0 (leBytes 8 addr.toNat) s)
  | none => .next ((accessEvent m.toNat (0x003000000000 + 0x4C20 * 0x1000 + 0x10) .refused s).emit
      (.accessFault m.toNat (0x003000000000 + 0x4C20 * 0x1000 + 0x10)))

/-- JOB_COMPLETE (13 R359). -/
def execJobComplete (q : JobQueue) (s : State) : Out :=
  match q with
  | .petal p => .next (jobComplete p.val s)
  | .golne => .next (jobComplete 4 s)

end Sys2Proof.Machine
end

