-- ==== Sys2Proof/Machine/MemOps.lean ====
section
/-!
DEFINITION. Machine/MemOps.lean: the load, store, atomic, lock and fence instructions (06 R172 to R175, R178 to R181, R194).
-/
namespace Sys2Proof.Machine

/-- Whether an address lies in a cluster's own memories, whose accesses take fixed counts (07 R216). -/
def ownMem (a : Nat) : Bool := region a == .ownImem || region a == .ownScratch

/-- The fixed count of a load (07 R216): 2 from the cluster's own memories; 0, variable, for any other, and for one that waits on
an entry of the store buffer that drains elsewhere (R217). -/
def loadSlots (h : Hart) (a n : Nat) (s : State) : Nat :=
  let away := (s.thr h).sb.any (fun e => !ownMem ((e.bytes.head?.map Prod.fst).getD 0))
  let waits := match h with
    | .thr t => (pieces a n).any (fun p => sbHit s t p.1 p.2 == .wait)
    | .golne => false
  if ownMem a && !(waits && away) then 2 else 0

/-- The fixed count of a store (07 R216): 5 for a code store, 1 with entries of the store buffer free; else it is variable where a
waiting entry drains outside the cluster's own memories (R217). -/
def storeSlots (h : Hart) (a n : Nat) (s : State) : Nat :=
  let sb := (s.thr h).sb
  if region a == .ownImem then 5
  else if sb.length + (pieces a n).length ≤ 4 || sb.all (fun e => ownMem ((e.bytes.head?.map Prod.fst).getD 0)) then 1
  else 0

/-- The count of an atomic, a lock instruction or a fence (07 R216, R217): fixed on L2 scratch with the store buffer empty. -/
def atomSlots (h : Hart) (a : Option Nat) (s : State) : Nat :=
  if (s.thr h).sb.isEmpty && a.all (fun a => region a == .ownScratch) then 3 else 0

/-- A load into a data register: the access, the post-increment, the register (06 R172 to R175). -/
def issueLoad (h : Hart) (i : Instr) (rt ra : Reg) (am : AddrMode) (n : Nat) (be signed : Bool) (s : State) : State :=
  issue h i (fun s => some ((effAddr s h ra am).toNat, n, false)) (fun s =>
    let a := (effAddr s h ra am).toNat
    let f := loadSlots h a n s
    match loadBytes h a n s with
    | (s, .bytes l) => ((postInc h ra am s).setD h rt (loadValue be signed l), .next f)
    | (s, .fault c x) => (s, .fault c x)
    | (s, .stopped) => (s, .set)) s

/-- A store of bytes: the access, then the post-increment (06 R172 to R175; 07 R211, R212). -/
def issueStore (h : Hart) (i : Instr) (ra : Reg) (am : AddrMode) (v : State → List Byte) (n : Nat) (s : State) : State :=
  issue h i (fun s => some ((effAddr s h ra am).toNat, n, true)) (fun s =>
    let a := (effAddr s h ra am).toNat
    let f := storeSlots h a n s
    match storeBytes h a (v s) s with
    | (s, .bytes _) => (postInc h ra am s, .next f)
    | (s, .fault c x) => (s, .fault c x)
    | (s, .stopped) => (s, .set)) s

/-- `LDB`: loads 1 byte, zero-extended (06 R172 to R175). -/
def execLdb (h : Hart) (rt ra : Reg) (am : AddrMode) (s : State) : Out :=
  .next (issueLoad h (.ldb h rt ra am) rt ra am 1 false false s)

/-- `LDBS`: loads 1 byte, sign-extended (06 R172 to R175). -/
def execLdbs (h : Hart) (rt ra : Reg) (am : AddrMode) (s : State) : Out :=
  .next (issueLoad h (.ldbs h rt ra am) rt ra am 1 false true s)

/-- `LDH`: loads 2 bytes, zero-extended (06 R172 to R175). -/
def execLdh (h : Hart) (rt ra : Reg) (am : AddrMode) (be : Bool) (s : State) : Out :=
  .next (issueLoad h (.ldh h rt ra am be) rt ra am 2 be false s)

/-- `LDHS`: loads 2 bytes, sign-extended (06 R172 to R175). -/
def execLdhs (h : Hart) (rt ra : Reg) (am : AddrMode) (be : Bool) (s : State) : Out :=
  .next (issueLoad h (.ldhs h rt ra am be) rt ra am 2 be true s)

/-- `LDW`: loads 4 bytes, zero-extended (06 R172 to R175). -/
def execLdw (h : Hart) (rt ra : Reg) (am : AddrMode) (be : Bool) (s : State) : Out :=
  .next (issueLoad h (.ldw h rt ra am be) rt ra am 4 be false s)

/-- `LDWS`: loads 4 bytes, sign-extended (06 R172 to R175). -/
def execLdws (h : Hart) (rt ra : Reg) (am : AddrMode) (be : Bool) (s : State) : Out :=
  .next (issueLoad h (.ldws h rt ra am be) rt ra am 4 be true s)

/-- `LDD` (06 R172 to R175). -/
def execLdd (h : Hart) (rt ra : Reg) (am : AddrMode) (be : Bool) (s : State) : Out :=
  .next (issueLoad h (.ldd h rt ra am be) rt ra am 8 be false s)

/-- `LDA`: an address register loaded; a value with bits [63:48] set raises ADDR (06 R164, R173). -/
def execLda (h : Hart) (rt ra : Reg) (am : AddrMode) (s : State) : Out :=
  .next (issue h (.lda h rt ra am) (fun s => some ((effAddr s h ra am).toNat, 8, false)) (fun s =>
    let a := (effAddr s h ra am).toNat
    let f := loadSlots h a 8 s
    match loadBytes h a 8 s with
    | (s, .bytes l) =>
      if 2 ^ 48 ≤ leNat l then (s, .fault 6 0)
      else ((postInc h ra am s).setA h rt (BitVec.ofNat 48 (leNat l)), .next f)
    | (s, .fault c x) => (s, .fault c x)
    | (s, .stopped) => (s, .set)) s)

/-- `STB`: stores 1 byte (06 R172 to R175). -/
def execStb (h : Hart) (rt ra : Reg) (am : AddrMode) (s : State) : Out :=
  .next (issueStore h (.stb h rt ra am) ra am (fun s => storeValue false 1 (s.dreg h rt)) 1 s)

/-- `STH`: stores 2 bytes (06 R172 to R175). -/
def execSth (h : Hart) (rt ra : Reg) (am : AddrMode) (be : Bool) (s : State) : Out :=
  .next (issueStore h (.sth h rt ra am be) ra am (fun s => storeValue be 2 (s.dreg h rt)) 2 s)

/-- `STW`: stores 4 bytes (06 R172 to R175). -/
def execStw (h : Hart) (rt ra : Reg) (am : AddrMode) (be : Bool) (s : State) : Out :=
  .next (issueStore h (.stw h rt ra am be) ra am (fun s => storeValue be 4 (s.dreg h rt)) 4 s)

/-- `STD`: stores 8 bytes (06 R172 to R175). -/
def execStd (h : Hart) (rt ra : Reg) (am : AddrMode) (be : Bool) (s : State) : Out :=
  .next (issueStore h (.std h rt ra am be) ra am (fun s => storeValue be 8 (s.dreg h rt)) 8 s)

/-- `STA`: stores zext(Aa) (06 R173). -/
def execSta (h : Hart) (rt ra : Reg) (am : AddrMode) (s : State) : Out :=
  .next (issueStore h (.sta h rt ra am) ra am (fun s => leBytes 8 (s.areg h rt).toNat) 8 s)

/-! ## Atomics (06 R178, R179, R194) -/

/-- `LDR`: an 8-byte load at the home point that takes the reservation on its granule (06 R178). -/
def execLdr (h : Hart) (rd ra : Reg) (s : State) : Out :=
  .next (issue h (.ldr h rd ra) (fun s => some ((s.areg h ra).toNat, 8, false)) (fun s =>
    match h with
    | .golne => (s, .trap 1)
    | .thr t =>
      let a := (s.areg h ra).toNat
      match homeCause t a false s with
      | some c => (homeEvent t.mid a false s, .fault c a)
      | none =>
        let f := atomSlots h (some a) s
        let s := homeLine t a (drainAll t s)
        if !stillRuns s h then (s, .set)
        else match homeRead t a s with
        | (s, none) => (s, .fault 4 a)
        | (s, some v) =>
          (s.updThr h (fun x => { x.setD rd v with resv := some (memKey t.mid a s / 64) }), .next f)) s)

/-- `STC`: an 8-byte store at the home point while the reservation on its granule stands (06 R178, R179). -/
def execStc (h : Hart) (rd ra rb : Reg) (s : State) : Out :=
  .next (issue h (.stc h rd ra rb) (fun s => some ((s.areg h ra).toNat, 8, true)) (fun s =>
    match h with
    | .golne => (s, .trap 1)
    | .thr t =>
      let a := (s.areg h ra).toNat
      let b := s.dreg h rb
      match homeCause t a true s with
      | some c => (homeEvent t.mid a true s, .fault c a)
      | none =>
        let f := atomSlots h (some a) s
        let s := homeLine t a (drainHome t s)
        if !stillRuns s h then (s, .set)
        else
          let won := (s.thr h).resv == some (memKey t.mid a s / 64)
          let s := s.updThr h (fun x => { x.setD rd (if won then 0 else 1) with resv := none })
          let s := if won then (homeStore t a b s).bump (pix 0x3300 t.p) 6 else s.bump (pix 0x3300 t.p) 7
          (s, .next f)) s)

/-- `TAS` of the small configuration: old = mem64(a); mem64(a) = old or 1; d = old (06 R194); only in DRAM, general (R195). -/
def execTas (h : Hart) (rd ra : Reg) (s : State) : Out :=
  .next (issue h (.tas h rd ra) (fun s => some ((s.areg h ra).toNat, 8, true)) (fun s =>
    let a := (s.areg h ra).toNat
    if a % 8 ≠ 0 then (s, .fault 3 a)
    else if region a != .dram then (homeEvent 0x2000 a true s, .fault 4 a)
    else match checkAccess 0x2000 a true s with
    | .ok _ =>
      (match busAccess 0x2000 a 8 none 0 s with
       | (s, .data l false) =>
         (match busAccess 0x2000 a 8 (some (leBytes 8 (leNat l ||| 1))) 0 s with
          | (s, .fault) => (s, .fault 4 a)
          | (s, _) => (s.setD h rd (leWord l), .next 1))
       | (s, _) => (s, .fault 4 a))
    | r => (accessEvent 0x2000 a r s, .fault 4 a)) s)

/-! ## Locks (06 R180) -/

/-- Whether a lock instruction may be made at an address: 8-byte aligned, in DRAM, general, or in the thread's own L2 scratch,
with its checks; none, or the cause (06 R180). -/
def lockCause (h : Hart) (a : Nat) (s : State) : Option Nat :=
  if a % 8 ≠ 0 then some 3
  else
    let ok := match region a, h with
      | .dram, _ => true
      | .ownScratch, .thr _ => true
      | _, _ => false
    if !ok then some 4
    else match checkAccess (hartKey h) a true s with
      | .ok _ => none
      | _ => some 4

/-- A lock instruction first cleans and invalidates its core's copy of the word's line (11 R292). -/
def lockWordLine (h : Hart) (a : Nat) (s : State) : State :=
  match h with
  | .thr t => homeLine t a s
  | .golne => s

/-- `LKACQ`: acquires a lock, or waits for it, at the larger of the priority asked for and a core thread's EPRIO (06 R180; 11
R293, R294). -/
def execLkacq (h : Hart) (rd ra rb : Reg) (s : State) : Out :=
  .next (issuePlain h (.lkacq h rd ra rb) (fun s =>
    let a := (s.areg h ra).toNat
    let b := (s.dreg h rb).toNat
    match lockCause h a s with
    | some c => (homeEvent (hartKey h) a true s, .fault c a)
    | none =>
      let f := atomSlots h (some a) s
      let s := lockWordLine h a s
      let key := memKey (hartKey h) a s
      let prio := match h with
        | .thr _ => max (b % 32) (eprio s h)
        | .golne => b % 32
      match lockAcquire key (hartKey h) prio (bitOf b 8) (some rd) s with
      | (s, .status n) => (s.setD h rd (BitVec.ofNat 64 (n + lockUser s key * 2 ^ 32)), .next f)
      | (s, .waits) => (s, .wait .lockWait (.lock rd a prio))) s)

/-- `LKREL`: every earlier store is performed, then the lock is released (06 R180; 08 R226, R241; 11 R295). -/
def execLkrel (h : Hart) (rd ra rb : Reg) (s : State) : Out :=
  .next (issuePlain h (.lkrel h rd ra rb) (fun s =>
    let a := (s.areg h ra).toNat
    let b := (s.dreg h rb).toNat
    match lockCause h a s with
    | some c => (homeEvent (hartKey h) a true s, .fault c a)
    | none =>
      let f := atomSlots h (some a) s
      let s := match h with
        | .thr t => drainHome t s
        | .golne => s
      if !stillRuns s h then (s, .set)
      else
        let s := lockWordLine h a s
        let r := lockRelease (memKey (hartKey h) a s) (hartKey h) (bitOf b 32) (b % 2 ^ 32) (bitOf b 33) s
        (r.1.setD h rd (BitVec.ofNat 64 (r.2.1 + r.2.2 * 2 ^ 32)), .next f)) s)

/-! ## Fences (06 R181) -/

/-- Every earlier store of a hart is accepted at its home point, and the hart goes on (06 R181). Loads return as they issue,
and the small configuration's stores are performed as they retire. -/
def storesAccepted (h : Hart) (s : State) : State × Done :=
  let f := atomSlots h none s
  match h with
  | .golne => (s, .next f)
  | .thr t =>
    let s := drainHome t s
    if stillRuns s h then (s, .next f) else (s, .set)

/-- `FENCE` (06 R181; 08 R226, R228). -/
def execFence (h : Hart) (s : State) : Out := .next (issuePlain h (.fence h) (storesAccepted h) s)

/-- `FENCE.S` (06 R181; 08 R226, R228). -/
def execFenceS (h : Hart) (s : State) : Out := .next (issuePlain h (.fenceS h) (storesAccepted h) s)

/-- `FENCE.L`: every earlier load has returned (06 R181). -/
def execFenceL (h : Hart) (s : State) : Out := .next (issuePlain h (.fenceL h) (fun s => (s, .next (atomSlots h none s))) s)

/-- `ISYNC`: the stores are accepted, then the fetch buffer is discarded (06 R181). -/
def execIsync (h : Hart) (s : State) : Out :=
  .next (issuePlain h (.isync h) (fun s =>
    let r := storesAccepted h s
    (r.1.updThr h (fun x => { x with fetch := [] }), r.2)) s)

end Sys2Proof.Machine
end

