-- ==== Sys2Proof/Machine/ControlOps.lean ====
section
/-!
DEFINITION. Machine/ControlOps.lean: branches and jumps (06 R176, R177; 07 R204).
-/
namespace Sys2Proof.Machine

/-- The predictor of a core is on for a cluster (07 R210, R215). -/
def predOn (s : State) (t : ThreadId) : Bool := bitOf (s.dget (pipeIdx t.p t.c) 1) 1 && !detOn s t.p t.c

/-- The predictor sees a conditional branch of a thread to a target (07 R204): its counter moves; a misprediction is counted, and
what has issued on the predicted path is discarded (10 R271). Unlisted counters are weakly not-taken, 1. -/
def predict (t : ThreadId) (taken : Bool) (to_ : Addr) (s : State) : State :=
  let on := predOn s t
  let j := ((s.thr (.thr t)).pc.toNat / 4 % 1024) ^^^ (t.t.val * 128)
  let c := Tab.get 1 (s.core t.core).pred j
  let c' := if taken then min 3 (c + 1) else c - 1
  let s := if on then s.updCore t.core (fun x => { x with pred := Tab.set 1 x.pred j c' }) else s
  if taken ≠ (on && 2 ≤ c) then
    squash t (if taken then (s.thr (.thr t)).pc + 4 else to_) (s.bump (pipeIdx t.p t.c) 4)
  else s

/-- A conditional branch (06 R176; 07 R204). -/
def branch (h : Hart) (i : Instr) (off : BitVec 15) (cond : State → Bool) (s : State) : State :=
  issuePlain h i (fun s =>
    let taken := cond s
    let s' := match h with
      | .thr t => predict t taken (target s h off) s
      | .golne => s
    (s', if taken then .goto 2 (target s h off) else .next 2)) s

/-- A call pushes its return address on the return stack; a full stack drops its oldest entry (07 R204). -/
def pushReturn (h : Hart) (s : State) : State :=
  match h with
  | .golne => s
  | .thr t => if predOn s t then s.updThr h (fun x => { x with rstack := ((x.pc + 4) :: x.rstack).take 4 }) else s

/-- `JR A14` pops the return stack; another address than the one predicted is a misprediction (07 R204; 10 R271). -/
def popReturn (h : Hart) (ra : Reg) (s : State) : State :=
  match h with
  | .golne => s
  | .thr t =>
    if !predOn s t || ra.val ≠ 14 then s
    else match (s.thr h).rstack with
    | [] => s
    | x :: q =>
      let s' := s.updThr h (fun y => { y with rstack := q })
      if x = s.areg h ra then s' else squash t x (s'.bump (pipeIdx t.p t.c) 4)

/-- `BEQ` (06 R176). -/
def execBeq (h : Hart) (ra rb : Reg) (off : BitVec 15) (s : State) : Out :=
  .next (branch h (.beq h ra rb off) off (fun s => Cond.eq.holds (s.dreg h ra) (s.dreg h rb)) s)

/-- `BNE` (06 R176). -/
def execBne (h : Hart) (ra rb : Reg) (off : BitVec 15) (s : State) : Out :=
  .next (branch h (.bne h ra rb off) off (fun s => Cond.ne.holds (s.dreg h ra) (s.dreg h rb)) s)

/-- `BLT` (06 R176). -/
def execBlt (h : Hart) (ra rb : Reg) (off : BitVec 15) (s : State) : Out :=
  .next (branch h (.blt h ra rb off) off (fun s => Cond.lt.holds (s.dreg h ra) (s.dreg h rb)) s)

/-- `BGE` (06 R176). -/
def execBge (h : Hart) (ra rb : Reg) (off : BitVec 15) (s : State) : Out :=
  .next (branch h (.bge h ra rb off) off (fun s => Cond.ge.holds (s.dreg h ra) (s.dreg h rb)) s)

/-- `BLTU` (06 R176). -/
def execBltu (h : Hart) (ra rb : Reg) (off : BitVec 15) (s : State) : Out :=
  .next (branch h (.bltu h ra rb off) off (fun s => Cond.ltu.holds (s.dreg h ra) (s.dreg h rb)) s)

/-- `BGEU` (06 R176). -/
def execBgeu (h : Hart) (ra rb : Reg) (off : BitVec 15) (s : State) : Out :=
  .next (branch h (.bgeu h ra rb off) off (fun s => Cond.geu.holds (s.dreg h ra) (s.dreg h rb)) s)

/-- `BZ` (06 R176). -/
def execBz (h : Hart) (ra : Reg) (off : BitVec 15) (s : State) : Out :=
  .next (branch h (.bz h ra off) off (fun s => s.dreg h ra == 0) s)

/-- `BNZ` (06 R176). -/
def execBnz (h : Hart) (ra : Reg) (off : BitVec 15) (s : State) : Out :=
  .next (branch h (.bnz h ra off) off (fun s => s.dreg h ra != 0) s)

/-- `J` (06 R176). -/
def execJ (h : Hart) (off : BitVec 26) (s : State) : Out :=
  .next (issuePlain h (.j h off) (fun s => (s, .goto 2 (target s h off))) s)

/-- `JAL`: A14 takes the return address (06 R165, R176). -/
def execJal (h : Hart) (off : BitVec 26) (s : State) : Out :=
  .next (issuePlain h (.jal h off) (fun s =>
    ((pushReturn h s).setA h 14 ((s.thr h).pc + 4), .goto 2 (target s h off))) s)

/-- `JR` (06 R176). -/
def execJr (h : Hart) (ra : Reg) (s : State) : Out :=
  .next (issuePlain h (.jr h ra) (fun s => (popReturn h ra s, .goto 2 (s.areg h ra))) s)

/-- `JALR`: the target is read before A14 is written (06 R165, R176). -/
def execJalr (h : Hart) (ra : Reg) (s : State) : Out :=
  .next (issuePlain h (.jalr h ra) (fun s =>
    ((pushReturn h s).setA h 14 ((s.thr h).pc + 4), .goto 2 (s.areg h ra))) s)

end Sys2Proof.Machine
end

