-- ==== Sys2Proof/Machine/TaskOps.lean ====
section
/-!
DEFINITION. Machine/TaskOps.lean: the task-slot, task control and thread-channel instructions (06 R182 to R184; 05 R141, R144;
09 R255 to R257).
-/
namespace Sys2Proof.Machine

/-- An instruction that only a core thread has, run for that thread. -/
def forThread (h : Hart) (f : ThreadId → State → State × Done) (s : State) : State × Done :=
  match h with
  | .thr t => f t s
  | .golne => (s, .trap 1)

/-- A slot access of a thread: ALIGN, then TASK with no current task (06 R182). -/
def slotAccess (t : ThreadId) (o n : Nat) (f : State → State × Done) (s : State) : State × Done :=
  if o % n ≠ 0 then (s, .fault 3 o)
  else if (s.slot t).cur.isNone then (s, .fault 7 0)
  else f s

/-- A load from the current slot (06 R182). -/
def slotLoad (h : Hart) (i : Instr) (rt : Reg) (x : Option Reg) (off : BitVec 10) (n : Nat) (signed : Bool) (s : State) :
    State :=
  issuePlain h i (forThread h (fun t s =>
    let o := slotOff s h x off
    slotAccess t o n (fun s => (s.setD h rt (loadValue false signed (Tab.bytes (s.slot t).bytes o n)), .next 1)) s)) s

/-- A store to the current slot (06 R182). -/
def slotStore (h : Hart) (i : Instr) (rt : Reg) (x : Option Reg) (off : BitVec 10) (n : Nat) (s : State) : State :=
  issuePlain h i (forThread h (fun t s =>
    let o := slotOff s h x off
    slotAccess t o n (fun s =>
      (s.updSlot t (fun sl => { sl with bytes := Tab.setBytes sl.bytes o (leBytes n (s.dreg h rt).toNat) }), .next 1)) s)) s

/-- `TSLDB` (06 R182). -/
def execTsldb (h : Hart) (rt : Reg) (x : Option Reg) (off : BitVec 10) (s : State) : Out :=
  .next (slotLoad h (.tsldb h rt x off) rt x off 1 false s)

/-- `TSLDBS` (06 R182). -/
def execTsldbs (h : Hart) (rt : Reg) (x : Option Reg) (off : BitVec 10) (s : State) : Out :=
  .next (slotLoad h (.tsldbs h rt x off) rt x off 1 true s)

/-- `TSLDH` (06 R182). -/
def execTsldh (h : Hart) (rt : Reg) (x : Option Reg) (off : BitVec 10) (s : State) : Out :=
  .next (slotLoad h (.tsldh h rt x off) rt x off 2 false s)

/-- `TSLDHS` (06 R182). -/
def execTsldhs (h : Hart) (rt : Reg) (x : Option Reg) (off : BitVec 10) (s : State) : Out :=
  .next (slotLoad h (.tsldhs h rt x off) rt x off 2 true s)

/-- `TSLDW` (06 R182). -/
def execTsldw (h : Hart) (rt : Reg) (x : Option Reg) (off : BitVec 10) (s : State) : Out :=
  .next (slotLoad h (.tsldw h rt x off) rt x off 4 false s)

/-- `TSLDWS` (06 R182). -/
def execTsldws (h : Hart) (rt : Reg) (x : Option Reg) (off : BitVec 10) (s : State) : Out :=
  .next (slotLoad h (.tsldws h rt x off) rt x off 4 true s)

/-- `TSLDD` (06 R182). -/
def execTsldd (h : Hart) (rt : Reg) (x : Option Reg) (off : BitVec 10) (s : State) : Out :=
  .next (slotLoad h (.tsldd h rt x off) rt x off 8 false s)

/-- `TSSTB` (06 R182). -/
def execTsstb (h : Hart) (rt : Reg) (x : Option Reg) (off : BitVec 10) (s : State) : Out :=
  .next (slotStore h (.tsstb h rt x off) rt x off 1 s)

/-- `TSSTH` (06 R182). -/
def execTssth (h : Hart) (rt : Reg) (x : Option Reg) (off : BitVec 10) (s : State) : Out :=
  .next (slotStore h (.tssth h rt x off) rt x off 2 s)

/-- `TSSTW` (06 R182). -/
def execTsstw (h : Hart) (rt : Reg) (x : Option Reg) (off : BitVec 10) (s : State) : Out :=
  .next (slotStore h (.tsstw h rt x off) rt x off 4 s)

/-- `TSSTD` (06 R182). -/
def execTsstd (h : Hart) (rt : Reg) (x : Option Reg) (off : BitVec 10) (s : State) : Out :=
  .next (slotStore h (.tsstd h rt x off) rt x off 8 s)

/-! ## Task control (06 R183; 05 R141, R144) -/

/-- `TKWAIT`: returns at once with a current task, else waits for one. -/
def execTkwait (h : Hart) (s : State) : Out :=
  .next (issuePlain h (.tkwait h) (forThread h (fun t s =>
    if (s.slot t).cur.isSome then (s, .next 0) else (s, .wait .taskWait .task))) s)

/-- `TKEND`: ends the task; the task of the prefetch slot becomes current. -/
def execTkend (h : Hart) (s : State) : Out :=
  .next (issuePlain h (.tkend h) (forThread h (fun t s =>
    if (s.slot t).cur.isNone then (s, .fault 7 0)
    else
      let s := drainHome t s
      if stillRuns s h then (endTask t s, .next 0) else (s, .set))) s)

/-- `TKREL`: releases the task early; a second one for the same task raises TASK. -/
def execTkrel (h : Hart) (s : State) : Out :=
  .next (issuePlain h (.tkrel h) (forThread h (fun t s =>
    match (s.slot t).cur with
    | none => (s, .fault 7 0)
    | some id =>
      if (s.slot t).rel then (s, .fault 7 0)
      else
        let s := updTask t.p id (fun y => { y with ended := true, early := true }) (s.updSlot t (fun sl => { sl with rel := true }))
        (s.updThr h (fun x => { x with resv := none }), .next 0))) s)

/-! ## Channels (06 R184; 09 R255 to R257, R260) -/

/-- The channel number of a channel instruction (06 R184). -/
def chanOf (v : Word) : Nat := v.toNat % 4096

/-- A discard mark makes the first `CHWR` or `CHEND` for its channel raise CHAN, and is cleared (09 R260). -/
def unlessDiscarded (t : ThreadId) (ch : Nat) (f : State → State × Done) (s : State) : State × Done :=
  if (s.thr (.thr t)).discard.contains ch then
    (s.updThr (.thr t) (fun x => { x with discard := x.discard.filter (· != ch) }), .fault 9 ch)
  else f s

/-- `CHWR`: stages a word for a channel; the first word takes its hold, or the thread waits for it (09 R255). -/
def execChwr (h : Hart) (ra rb : Reg) (s : State) : Out :=
  .next (issuePlain h (.chwr h ra rb) (forThread h (fun t s =>
    let ch := chanOf (s.dreg h ra)
    let w := s.dreg h rb
    unlessDiscarded t ch (fun s =>
      match senderSlot s t.p ch t.mid with
      | none => (s, .fault 9 ch)
      | some sl =>
        if 8 ≤ (s.thr h).staged.length then (s, .fault 9 ch)
        else match (s.chan t.p ch).holder with
        | none =>
          (stageWord h ch w (s.updChan t.p ch (fun c => { c with holder := some t.mid, lastSlot := sl, raised := false })), .next 0)
        | some m =>
          if m = t.mid then (stageWord h ch w s, .next 0)
          else (s.updChan t.p ch (fun c => { c with waiting := c.waiting ++ [t.mid] }), .wait .sendWait (.sendWord ch w))) s)) s)

/-- `CHEND`: appends the staged message, or waits with its END staged on a full FIFO (09 R256). -/
def execChend (h : Hart) (ra : Reg) (s : State) : Out :=
  .next (issuePlain h (.chend h ra) (forThread h (fun t s =>
    let ch := chanOf (s.dreg h ra)
    unlessDiscarded t ch (fun s =>
      if (stagedFor (s.thr h) ch).isEmpty then (s, .fault 9 ch)
      else if (s.chan t.p ch).fifo.length < 4 then (appendStaged t.p ch h s, .next 0)
      else (s.updThr h (fun x => { x with stagedEnd := x.stagedEnd ++ [ch] }), .wait .sendWait (.sendEnd ch))) s)) s)

/-- `CHRCV`: takes the oldest message of a channel, or waits for one (09 R257). -/
def execChrcv (h : Hart) (rd ra : Reg) (s : State) : Out :=
  .next (issuePlain h (.chrcv h rd ra) (forThread h (fun t s =>
    let ch := chanOf (s.dreg h ra)
    if chanRecv s t.p ch ≠ some t.mid then (s, .fault 9 ch)
    else if (s.chan t.p ch).fifo.isEmpty then (s, .wait .recvWait (.recv rd ch))
    else (slotFreed t.p ch (takeMsg t.p ch h rd s), .next 0))) s)

/-- `CHRD`: a word of the last received message (06 R184); a poisoned word faults with the channel number (09 R269). -/
def execChrd (h : Hart) (rd : Reg) (i : Fin 8) (s : State) : Out :=
  .next (issuePlain h (.chrd h rd i) (forThread h (fun _ s =>
    match (s.thr h).recvBuf[i.val]? with
    | none => (s, .fault 9 (s.thr h).recvCh)
    | some w => if w.poison then (s, .fault 4 (s.thr h).recvCh) else (s.setD h rd w.w, .next 0))) s)

end Sys2Proof.Machine
end

