-- ==== Sys2Proof/Machine/SystemOps.lean ====
section
/-!
DEFINITION. Machine/SystemOps.lean: the system instructions and the system registers (06 R166, R185, R186, R194).
-/
namespace Sys2Proof.Machine

/-! ## System registers (06, before R167) -/

/-- STATUS of a hart. -/
def statusWordOf (s : State) (h : Hart) : Word :=
  BitVec.ofNat 64 (b2n (s.thr h).it + (match h with
    | .golne => 12
    | .thr t => 2 * b2n (detOn s t.p t.c) + 4 * b2n (t.t == 0)))

/-- A system register of one thread that thread 0 of its core reads: TCAUSE, TPC or TFPC. -/
def recordReg (s : State) (t : ThreadId) (n : Nat) : Word :=
  let x := s.thr (.thr { t with t := ⟨n % 8, Nat.mod_lt _ (by decide)⟩ })
  if n < 0x28 then x.tcause else if n < 0x30 then x.tpc.zeroExtend 64 else x.tfpc.zeroExtend 64

/-- `MFS`: a system register's value, or the cause that reading it raises: PRIV for the fault records in threads 1 to 7, UNDEF
for a number that is not listed. -/
def readSys (s : State) (h : Hart) (n : Nat) : Except Nat Word :=
  let x := s.thr h
  match n with
  | 0x00 => .ok (BitVec.ofNat 64 (hartKey h))
  | 0x01 => .ok (statusWordOf s h)
  | 0x02 => .ok x.tvec
  | 0x03 => .ok x.epc
  | 0x04 => .ok x.ecause
  | 0x05 => .ok x.einst
  | 0x08 => .ok x.steps
  | 0x09 => .ok (BitVec.ofNat 64 s.time)
  | 0x0A => .ok x.prio
  | 0x0B => .ok (BitVec.ofNat 64 (eprio s h))
  | 0x10 => .ok x.evsyn
  | n =>
    match h with
    | .golne => .error 1
    | .thr t =>
      if 0x20 ≤ n && n ≤ 0x37 then (if t.t = 0 then .ok (recordReg s t n) else .error 5)
      else .error 1

/-- `MTS`: a system register written, or the cause that writing it raises: PRIV for an RO register, UNDEF for a number that
is not listed. Reserved bits read 0. -/
def writeSys (h : Hart) (n : Nat) (v : Word) (s : State) : Except Nat State :=
  match n with
  | 0x01 => .ok (s.updThr h (fun x => { x with it := bitOf v.toNat 0 }))
  | 0x02 => .ok (s.updThr h (fun x => { x with tvec := v &&& 0x0000FFFFFFFFFFFD }))
  | 0x03 => .ok (s.updThr h (fun x => { x with epc := v }))
  | 0x0A => .ok (s.updThr h (fun x => { x with prio := v &&& 31 }))
  | n => match readSys s h n with
    | .ok _ => .error 5
    | .error c => .error c

/-- The end of an instruction that raises a cause of R187: UNDEF traps, any other faults. -/
def causeDone (c : Nat) : Done := if c = 1 then .trap 1 else .fault c 0

/-- `MFS` (06 R185). -/
def execMfs (h : Hart) (rd : Reg) (n : BitVec 8) (s : State) : Out :=
  .next (issuePlain h (.mfs h rd n) (fun s => match readSys s h n.toNat with
    | .ok v => (s.setD h rd v, .next 1)
    | .error c => (s, causeDone c)) s)

/-- `MTS` (06 R185). -/
def execMts (h : Hart) (ra : Reg) (n : BitVec 8) (s : State) : Out :=
  .next (issuePlain h (.mts h ra n) (fun s => match writeSys h n.toNat (s.dreg h ra) s with
    | .ok s => (s, .next 1)
    | .error c => (s, causeDone c)) s)

/-! ## System instructions (06 R185, R186) -/

/-- `NOP`. -/
def execNop (h : Hart) (s : State) : Out := .next (issuePlain h (.nop h) (fun s => (s, .next 1)) s)

/-- `EVWAIT`: returns the oldest pending record, or waits for one (06 R185, R186). -/
def execEvwait (h : Hart) (rd : Reg) (s : State) : Out :=
  .next (issuePlain h (.evwait h rd) (fun s =>
    match (s.thr h).evq with
    | [] => (s, .wait .eventWait (.event rd))
    | e :: q =>
      (s.updThr h (fun x => { x.setD rd e.word with evq := q, evsyn := BitVec.ofNat 64 (e.syn % 2 ^ 19) }), .next 0)) s)

/-- `BRK`: halts the thread under DEBUG, whose entry arms halts and breakpoints (02 R49); otherwise it is counted and acts as
`NOP` (06 R185; 02 R56). -/
def execBrk (h : Hart) (s : State) : Out :=
  .next (issuePlain h (.brk h) (fun s => match h with
    | .golne => (s, .next 0)
    | .thr t =>
      if debugOn s t.p t.c && !draining s t.p then (haltOne t 4 (retire h 0 s), .set)
      else (s.bump (pix 0x3300 t.p) 5, .next 0)) s)

/-- `ERET`: pc = EPC and IT = 0; undefined when IT is 0 (06 R185). -/
def execEret (h : Hart) (s : State) : Out :=
  .next (issuePlain h (.eret h) (fun s =>
    if (s.thr h).it then (s.updThr h (fun x => { x with it := false }), .goto 0 ((s.thr h).epc.truncate 48)) else (s, .trap 1)) s)

/-- A thread instruction of the supervisor (06 R185): PRIV in threads 1 to 7. -/
def supervise (h : Hart) (i : Instr) (n : BitVec 4) (f : ThreadId → State → State) (s : State) : State :=
  issuePlain h i (forThread h (fun t s =>
    if t.t ≠ 0 then (s, .fault 5 0) else (f { t with t := ⟨n.toNat % 8, Nat.mod_lt _ (by decide)⟩ } s, .next 0))) s

/-- `THRES`: resumes a parked thread at its TPC (06 R185). -/
def execThres (h : Hart) (t : BitVec 4) (s : State) : Out := .next (supervise h (.thres h t) t (fun u s => resumeThread u none s) s)

/-- `THRESA`: resumes a parked thread at an address (06 R185). -/
def execThresa (h : Hart) (t : BitVec 4) (ra : Reg) (s : State) : Out :=
  .next (supervise h (.thresa h t ra) t (fun u s => resumeThread u (some (s.areg h ra)) s) s)

/-- `THPARK`: parks a thread with SPARK (06 R185, 09 R249). -/
def execThpark (h : Hart) (t : BitVec 4) (s : State) : Out := .next (supervise h (.thpark h t) t parkThread s)

/-- `THRST`: resets a thread (06 R185, R189). -/
def execThrst (h : Hart) (t : BitVec 4) (s : State) : Out := .next (supervise h (.thrst h t) t resetThread s)

end Sys2Proof.Machine
end

