-- ==== Sys2Proof/Machine/Helpers.lean ====
section
/-!
DEFINITION. Machine/Helpers.lean: the bit helper, the table helper and the customer helper (10 R271 to R290; 06 R193).
-/
namespace Sys2Proof.Machine

/-! ## The bit helper (10 R276, R277) -/

/-- The CRC step of the bit helper over the first `k` bytes of a (10 R276). -/
def crcStep (poly : Nat) (d a : Word) (k : Nat) : Word :=
  BitVec.ofNat 64 (crcRun poly (d.toNat % 2 ^ 32) (leBytes k a.toNat))

/-- `CRCC`: CRC-32C (10 R276). -/
def execCrcc (h : Hart) (rd ra : Reg) (k1 : BitVec 3) (s : State) : Out :=
  .next (issueD h (.crcc h rd ra k1) rd (fun s => crcStep polyC (s.dreg h rd) (s.dreg h ra) (k1.toNat + 1)) s)

/-- `CRCE`: the CRC-32 of IEEE 802.3 (10 R276). -/
def execCrce (h : Hart) (rd ra : Reg) (k1 : BitVec 3) (s : State) : Out :=
  .next (issueD h (.crce h rd ra k1) rd (fun s => crcStep polyE (s.dreg h rd) (s.dreg h ra) (k1.toNat + 1)) s)

/-- A Toeplitz key of a petal (10 R277). -/
def tpzKey (s : State) (p : Petal) (n : Nat) : List Byte := s.domRead (pix 0x3380 p) (2 + n) 0 52

/-- The Toeplitz step (10 R276). -/
def tpzStep (key : List Byte) (d a b : Word) : Word :=
  let p := b.toNat % 64
  let k := bitsOf b.toNat 10 8 + 1
  let one := fun (r : Nat) (i : Nat) =>
    if p + i < 48 then
      (List.range 8).foldl (fun r j => if bitOf (byteOf a i).toNat (7 - j) then r ^^^ keyBits key (8 * (p + i) + j) else r) r
    else r
  BitVec.ofNat 64 ((List.range k).foldl one (d.toNat % 2 ^ 32))

/-- `TPZ` (10 R276, R277). -/
def execTpz (h : Hart) (rd ra rb : Reg) (s : State) : Out :=
  .next (issuePlain h (.tpz h rd ra rb) (forThread h (fun t s =>
    (s.setD h rd (tpzStep (tpzKey s t.p (bitsOf (s.dreg h rb).toNat 13 12)) (s.dreg h rd) (s.dreg h ra) (s.dreg h rb)), .next 1))) s)

/-- The 8 by 8 bit matrix product of a and b, its sums by `f` (10 R276). -/
def bitMatrix (f : Bool → Bool → Bool) (a b : Word) : Word :=
  BitVec.ofNat 64 ((List.range 64).map (fun n =>
    let i := n / 8
    let j := n % 8
    b2n ((List.range 8).foldl (fun r m => f r (bitOf a.toNat (8 * i + m) && bitOf b.toNat (8 * m + j))) false) * 2 ^ n)).sum

/-- `BMM`: with XOR (10 R276). -/
def execBmm (h : Hart) (rd ra rb : Reg) (s : State) : Out :=
  .next (issueD h (.bmm h rd ra rb) rd (fun s => bitMatrix Bool.xor (s.dreg h ra) (s.dreg h rb)) s)

/-- `BMMO`: with OR (10 R276). -/
def execBmmo (h : Hart) (rd ra rb : Reg) (s : State) : Out :=
  .next (issueD h (.bmmo h rd ra rb) rd (fun s => bitMatrix Bool.or (s.dreg h ra) (s.dreg h rb)) s)

/-- `BREV`: d bit i = a bit 63 − i (10 R276). -/
def execBrev (h : Hart) (rd ra : Reg) (s : State) : Out :=
  .next (issueD h (.brev h rd ra) rd (fun s => (s.dreg h ra).reverse) s)

/-- `MIX` (10 R276). -/
def execMix (h : Hart) (rd ra : Reg) (n : BitVec 6) (s : State) : Out :=
  .next (issueD h (.mix h rd ra n) rd
    (fun s => ((s.dreg h rd ^^^ s.dreg h ra) * 0x9E3779B97F4A7C15).rotateRight n.toNat) s)

/-! ## The table helper (10 R278 to R283) -/

/-- The index of a cluster's table helper entry (10). -/
def helperIdx (p : Petal) (c : Cluster) : Nat := 0x3388 + 0x400 * p.val + c.val

/-- Whether the table helpers of a petal refuse a func (10 R283). -/
def helperRefuses (s : State) (p : Petal) (f : Nat) : Bool :=
  bitOf (s.dget (pix 0x3380 p) 1) f || (minimalOn s && (f == 2 || f == 5 || f == 6))

/-- The table operations outstanding in a cluster (10 R282). -/
def clusterOps (s : State) (p : Petal) (c : Cluster) : Nat :=
  ((clusterThreads p c).map (fun t => (s.thr (.thr t)).tops.length)).sum

/-- A table helper instruction with its own effect: it waits while a C register that it names is pending, and is refused where
the petal's mask says so (10 R278, R283). -/
def tableInstr (h : Hart) (i : Instr) (f : Nat) (names : List Nat) (eff : ThreadId → State → State × Done) (s : State) : State :=
  issuePlain h i (forThread h (fun t s =>
    if helperRefuses s t.p f then (s.bump (helperIdx t.p t.c) 3, .trap 2)
    else if names.any (fun n => (s.thr h).cBusy.contains n) then (s, .held)
    else eff t s)) s

/-- An operation with a pending C destination: it waits beyond the limits, is done at its confirm, and its result comes later
(10 R275, R282). `g` is the generation that it holds. -/
def tableOp (h : Hart) (i : Instr) (f : Nat) (c1 : CReg) (names : List Nat) (g : ThreadId → State → Option Nat)
    (op : ThreadId → State → State × Word ⊕ State × Done) (s : State) : State :=
  tableInstr h i f (c1.val :: names) (fun t s =>
    if 8 ≤ (s.thr h).tops.length || 128 ≤ clusterOps s t.p t.c then (s, .held)
    else match op t s with
    | .inr r => r
    | .inl (s, v) =>
      let g := g t s
      let s := match g with
        | some x => s.updPet t.p (fun r => { r with lookGens := x :: r.lookGens })
        | none => s
      let s := s.updThr h (fun x => { x with tops := x.tops ++ [⟨i, x.pc, v, g⟩], cBusy := c1.val :: x.cBusy })
      (s.bump (helperIdx t.p t.c) 1, .next 0)) s

/-- The generation of a lookup (04 R94, 10 R280): that of the thread's current task, or the one in use. -/
def lookGen (s : State) (t : ThreadId) : Nat :=
  match curTask s t with
  | some k => k.pkt.gen
  | none => genInUse s t.p

/-- The generation that a lookup holds: one made without a task (04 R94). -/
def heldGen (t : ThreadId) (s : State) : Option Nat := if (curTask s t).isSome then none else some (genInUse s t.p)

/-- No generation is held. -/
def noGen (_ : ThreadId) (_ : State) : Option Nat := none

/-- `MVDC`: a data register to a C register (10 R279). -/
def execMvdc (h : Hart) (c1 : CReg) (r : Reg) (s : State) : Out :=
  .next (tableInstr h (.mvdc h c1 r) 0 [c1.val] (fun _ s => (s.updThr h (fun x => x.setC c1.val (s.dreg h r)), .next 0)) s)

/-- `MVCD`: a C register to a data register, once it is not pending (10 R278, R279). -/
def execMvcd (h : Hart) (r : Reg) (c1 : CReg) (s : State) : Out :=
  .next (tableInstr h (.mvcd h r c1) 1 [c1.val] (fun _ s => (s.setD h r (s.creg h c1), .next 0)) s)

/-- A C register by number. -/
def cval (s : State) (h : Hart) (n : Nat) : Nat := (Tab.get (0 : Word) (s.thr h).c n).toNat

/-- `TLPM`: a route lookup (10 R279; 04 R104). -/
def execTlpm (h : Hart) (c1 c2 : CReg) (v6 : Bool) (s : State) : Out :=
  let names := if v6 then [c2.val, c2.val + 1] else [c2.val]
  .next (tableOp h (.tlpm h c1 c2 v6) 2 c1 names heldGen (fun t s =>
    let k := if v6 then cval s h c2.val * 2 ^ 64 + cval s h (c2.val + 1) else cval s h c2.val % 2 ^ 32
    .inl (s, BitVec.ofNat 64 (routeWord (genSnap s (lookGen s t)) v6 k))) s)

/-- The L2 key of a C register: MAC in [47:0], FID in [59:48]; none with bits [63:60] set (10 R279, R280). -/
def l2KeyOf (v : Nat) : Option Nat := if bitsOf v 63 60 ≠ 0 then none else some (v % 2 ^ 48 * 4096 + bitsOf v 59 48)

/-- `TL2`: a destination lookup, SA code 6 (10 R279, R280). -/
def execTl2 (h : Hart) (c1 c2 : CReg) (s : State) : Out :=
  .next (tableOp h (.tl2 h c1 c2) 3 c1 [c2.val] heldGen (fun t s =>
    .inl (s, BitVec.ofNat 64 (l2Word (genSnap s (lookGen s t)) (l2KeyOf (cval s h c2.val)) + 6 * 2 ^ 53))) s)

/-- `TL2L`: a destination lookup with the source check of the same key on a logical port (10 R279, R280; 04 R112). -/
def execTl2l (h : Hart) (c1 c2 : CReg) (r : Reg) (s : State) : Out :=
  .next (tableOp h (.tl2l h c1 c2 r) 4 c1 [c2.val] heldGen (fun t s =>
    let snap := genSnap s (lookGen s t)
    let key := l2KeyOf (cval s h c2.val)
    let sa := match key with
      | some k => sourceCheck t.p snap k ((s.dreg h r).toNat % 32) s
      | none => (s, 6)
    .inl (sa.1, BitVec.ofNat 64 (l2Word snap key + sa.2 * 2 ^ 53))) s)

/-- `TCTX`: a context lookup in the thread's own petal, with creation where CREATE is 1 (10 R279, R280). -/
def execTctx (h : Hart) (c1 c2 : CReg) (create : Bool) (s : State) : Out :=
  .next (tableOp h (.tctx h c1 c2 create) 5 c1 ((List.range 5).map (c2.val + ·)) heldGen (fun t s =>
    let key := (List.range 5).flatMap (fun j => leBytes 8 (cval s h (c2.val + j)))
    let r := ctxLookup t.p key create s
    .inl (r.1, BitVec.ofNat 64 r.2)) s)

/-- `TCDEL`: deletes a context (10 R279; 04 R123). -/
def execTcdel (h : Hart) (c1 : CReg) (r : Reg) (s : State) : Out :=
  .next (tableOp h (.tcdel h c1 r) 6 c1 [] noGen (fun t s =>
    let i := (s.dreg h r).toNat % 2 ^ 25
    if 16777216 + 65536 ≤ i || !bitOf (s.memByte (ctxAddr i + 40)).toNat 0 then .inl (s, 1)
    else if ctxOwner i ≠ t.p then .inl (s, 2)
    else .inl (ctxMark i s, 0)) s)

/-- Why a `TBAT` or `TADD` may not access an address: ALIGN, or ACCESS outside DRAM, general, or where a check refuses it (10
R281). -/
def tableCause (t : ThreadId) (a : Nat) (wr : Bool) (s : State) : Option Nat :=
  if a % 8 = 0 && region a ≠ .dram then some 4 else homeCause t a wr s

/-- A table operation on memory: its cause decided before confirm; then every earlier store is accepted (10 R281). -/
def tableMem (t : ThreadId) (a : Nat) (wr : Bool) (f : State → State × Word) (s : State) : State × Word ⊕ State × Done :=
  match tableCause t a wr s with
  | some c => .inr (homeEvent t.mid a wr s, .fault c a)
  | none =>
    let s := drainHome t s
    if !stillRuns s (.thr t) then .inr (s, .set) else .inl (f s)

/-- `TBAT`: submits the batch held at an address (10 R279, R281; 04 R97 to R99). A batch that cannot be read whole has cause
0xFF. -/
def execTbat (h : Hart) (c1 : CReg) (r : Reg) (s : State) : Out :=
  .next (tableOp h (.tbat h c1 r) 7 c1 [] noGen (fun t s =>
    let a := (s.dreg h r).toNat
    if 2 ^ 48 ≤ a then .inr (s, .fault 4 (a % 2 ^ 48))
    else tableMem t a false (fun s =>
      let n := 8 + 32 * (s.memNat a 2)
      let cause := fun (c : Nat) => BitVec.ofNat 64 (2 ^ 62 + c * 2 ^ 48)
      let bad := 0x000DC0000000 < a + n || poisoned s a n || (match checkAccess t.mid (a + n - 8) false s with | .ok _ => false | _ => true)
      if bad then (s, cause 0xFF)
      else
        let q := submitBatch t.mid 0 (s.memRead a n) s
        (q.1, if q.2.1 = 0 then BitVec.ofNat 64 (q.2.2 % 2 ^ 32) else cause q.2.1)) s) s)

/-- `TADD`: an addition at the home point (10 R279, R281). -/
def execTadd (h : Hart) (c1 c2 : CReg) (r : Reg) (s : State) : Out :=
  .next (tableOp h (.tadd h c1 c2 r) 8 c1 [c2.val] noGen (fun t s =>
    let a := (s.dreg h r).toNat
    if 2 ^ 48 ≤ a then .inr (s, .fault 4 (a % 2 ^ 48))
    else tableMem t a true (fun s =>
      let s := homeLine t a s
      let old := s.memNat (memKey t.mid a s) 8
      (homeStore t a (BitVec.ofNat 64 (old + cval s h c2.val)) s, BitVec.ofNat 64 old)) s) s)

/-- The result of an operation that met an error after its confirm: status 3 for route and L2 words, 5 for context words (10
R283). -/
def failedWord : Instr → Word → Word
  | .tlpm _ _ _ _, _ => BitVec.ofNat 64 (3 * 2 ^ 62)
  | .tl2 _ _ _, _ => BitVec.ofNat 64 (3 * 2 ^ 62 + 6 * 2 ^ 53)
  | .tl2l _ _ _ _, v => BitVec.ofNat 64 (3 * 2 ^ 62 + bitsOf v.toNat 55 53 * 2 ^ 53)
  | .tctx _ _ _ _, _ => BitVec.ofNat 64 (5 * 2 ^ 61)
  | _, v => v

/-- The C register that a table instruction writes. -/
def destC : Instr → Nat
  | .tlpm _ c1 _ _ => c1.val
  | .tl2 _ c1 _ => c1.val
  | .tl2l _ c1 _ _ => c1.val
  | .tctx _ c1 _ _ => c1.val
  | .tcdel _ c1 _ => c1.val
  | .tbat _ c1 _ => c1.val
  | .tadd _ c1 _ _ => c1.val
  | _ => 0

/-- Whether a table instruction is a lookup, whose failure is an uncorrectable error of table memory (04 R124). -/
def isLookup : Instr → Bool
  | .tlpm _ _ _ _ => true
  | .tl2 _ _ _ => true
  | .tl2l _ _ _ _ => true
  | .tctx _ _ _ _ => true
  | _ => false

/-- TABLE_HELPER_RESULT: the oldest confirmed operation of a thread has its result: its C register is written and its
scoreboard bit cleared (10 R278, R282); a lookup that failed carries the error status (R283) and raises 0x043 (04 R124). A halted
petal's results are discarded (10 R289). -/
def execTableHelperResult (t : ThreadId) (ok : Bool) (s : State) : Out :=
  let h := Hart.thr t
  match (s.thr h).tops with
  | [] => .next s
  | o :: q =>
    if petalHalted s t.p then .next s
    else
      let d := destC o.instr
      let s := s.updThr h (fun x => { x.setC d (if ok then o.val else failedWord o.instr o.val) with
        tops := q, cBusy := x.cBusy.erase d })
      let s := match o.gen with
        | some g => s.updPet t.p (fun r => { r with lookGens := r.lookGens.erase g })
        | none => s
      .next (if !ok && isLookup o.instr then raiseAny 0x043 (some t.p) s else s)

/-! ## The customer helper (10 R284 to R287) -/

/-- A microprogram's state: micro-registers, and what its instruction's operands and thread are. -/
structure Micro where
  u : Tab Word
  mem : Bool
deriving DecidableEq, Repr

/-- How a microprogram ends: with U0, refused, aborted by a cause with an address, or with the thread stopped. -/
inductive MicroEnd where
  | result (v : Word)
  | refused
  | abort (cause addr at_ : Nat)
  | stopped
deriving DecidableEq, Repr

/-- A micro-register. -/
def Micro.get (m : Micro) (i : Nat) : Word := Tab.get 0 m.u i

/-- A microprogram's state with a micro-register written. -/
def Micro.set (m : Micro) (i : Nat) (v : Word) : Micro := { m with u := Tab.set 0 m.u i v }

/-- A memory micro-operation at an address: its checks, then the access at the home point with the thread's master ID (10
R286). An error is the cause; none tells that a refusal has parked the thread. -/
def microMem (t : ThreadId) (a : Word) (wr : Option Word) (s : State) : State × Except (Option Nat) Word :=
  let n := a.toNat
  if n % 8 ≠ 0 then (s, .error (some 3))
  else if 2 ^ 48 ≤ n then (s, .error (some 4))
  else match checkAccess t.mid n wr.isSome s with
  | .ok r =>
    (match r, wr with
     | .dict, none => load s n
     | .lockWin, none => load s n
     | .mailbox, none => load s n
     | _, none =>
       (match loadHome (memKey t.mid n s) 8 false s with
        | (s, l, false) => (s, .ok (leWord l))
        | (s, _, true) => (s, .error (some 4)))
     | .dict, some v => store s n v
     | .lockWin, some v => store s n v
     | .mailbox, some v => store s n v
     | .ownImem, some v => (codeStore t n (leBytes 8 v.toNat) s, .ok 0)
     | _, some v =>
       if inHeader n 8 || guarded s t n 8 then (s, .error (some 4))
       else (homeStore t n v (homeLine t n s), .ok 0))
  | r => (accessEvent t.mid n r s, .error (some 4))
where
  /-- A load from a window. -/
  load (s : State) (n : Nat) : State × Except (Option Nat) Word :=
    match busAccess t.mid n 8 none 0 s with
    | (s, .data l false) => (s, .ok (leWord l))
    | (s, _) => (s, .error (some 4))
  /-- A store to a window: its refusal parks the thread, with a precise record. -/
  store (s : State) (n : Nat) (v : Word) : State × Except (Option Nat) Word :=
    let x := s.thr (.thr t)
    match busAccess t.mid n 8 (some (leBytes 8 v.toNat)) x.pc s with
    | (s, .fault) =>
      (s.updThr (.thr t) (fun y => { y with tcause := faultWord false false 4 n, tpc := x.pc, tfpc := x.pc }), .error none)
    | (s, _) => (s, .ok 0)

/-- A microprogram from an address on, over at most `n` micro-operations (10 R285 to R287). `ops` are the operands that UOPD
reads, `bank` the bank that the thread runs. An uncorrectable microword refuses the instruction, or aborts it after its first memory
micro-operation (R290). -/
def microRun (t : ThreadId) (bank : Nat) (ops : Nat → Word) : Nat → Nat → Micro → State → State × MicroEnd
  | 0, at_, m, s => (s, if m.mem then .abort 4 0 at_ else .refused)
  | n + 1, at_, m, s =>
    if (s.pet t.p).microBad.contains (4096 * bank + at_) then (s, if m.mem then .abort 4 0 at_ else .refused)
    else
    let w := microword s t.p bank at_
    let ud := bitsOf w 57 55
    let a := m.get (bitsOf w 54 52)
    let b := m.get (bitsOf w 51 49)
    let imm := w % 2 ^ 32
    let alu := fun (v : Word) => microRun t bank ops n ((at_ + 1) % 4096) (m.set ud v) s
    let mem := fun (wr : Option Word) =>
      let s := if m.mem then s else drainHome t s
      if !stillRuns s (.thr t) then (s, MicroEnd.stopped)
      else match microMem t a wr s with
      | (s, .ok v) => microRun t bank ops n ((at_ + 1) % 4096) { (if wr.isNone then m.set ud v else m) with mem := true } s
      | (s, .error (some c)) => (s, .abort c (a.toNat % 2 ^ 48) at_)
      | (s, .error none) => (s, .abort 0 (a.toNat % 2 ^ 48) at_)
    match bitsOf w 63 58 with
    | 0x00 => (s, .result (m.get 0))
    | 0x01 => alu (a + b)
    | 0x02 => alu (a - b)
    | 0x03 => alu (a &&& b)
    | 0x04 => alu (a ||| b)
    | 0x05 => alu (a ^^^ b)
    | 0x06 => alu (a <<< (b.toNat % 64))
    | 0x07 => alu (a >>> (b.toNat % 64))
    | 0x08 => alu (a * b)
    | 0x09 => alu ((BitVec.ofNat 32 imm).signExtend 64)
    | 0x0A => alu (ops (imm % 4))
    | 0x0B => microRun t bank ops n (if a ≠ 0 then imm % 4096 else (at_ + 1) % 4096) m s
    | 0x0C => microRun t bank ops n (imm % 4096) m s
    | 0x0D => mem none
    | 0x0E => mem (some b)
    | 0x0F => (s, if m.mem then .abort 4 0 at_ else .refused)
    | _ => (s, .refused)

/-- The value of an operand register by its class: 0 D, 1 A, 2 unused (10 R284, R285). -/
def classVal (s : State) (h : Hart) (cls : Nat) (r : Reg) : Word :=
  match cls with
  | 0 => s.dreg h r
  | 1 => (s.areg h r).zeroExtend 64
  | _ => 0

/-- The result of a customer instruction written to rd by its class (10 R284, R286); an A register's value with bits [63:48]
set raises ADDR. -/
def writeResult (h : Hart) (e : Nat) (rd : Reg) (v : Word) (s : State) : State × Done :=
  if !bitOf e 55 then (s, .next 0)
  else match bitsOf e 61 60 with
  | 0 => (s.setD h rd v, .next 0)
  | _ => if 2 ^ 48 ≤ v.toNat then (s, .fault 6 0) else (s.setA h rd (v.truncate 48), .next 0)

/-- CUSTOMER_INSTRUCTION: an opcode's map entry and its microprogram, in the bank that the thread runs (10 R284 to R288; 06
R193). The syndrome of an abort holds the opcode's low 7 bits above the micro-address (DESIGN CHOICE, assumption 49). -/
def execCustomerInstruction (h : Hart) (opc : BitVec 8) (rd ra rb : Reg) (imm : BitVec 7) (s : State) : Out :=
  .next (issuePlain h (.customerInstruction h opc rd ra rb imm) (forThread h (fun t s =>
    let bank := (s.thr h).bank
    let e := mapEntry s t.p bank opc.toNat
    let unusedSet := (bitsOf e 61 60 == 2 && rd.val ≠ 0) || (bitsOf e 59 58 == 2 && ra.val ≠ 0) || (bitsOf e 57 56 == 2 && rb.val ≠ 0)
    match bitsOf e 63 62 with
    | 1 =>
      if unusedSet then (s, .trap 1)
      else
        let ops := fun n => match n with
          | 0 => classVal s h (bitsOf e 61 60) rd
          | 1 => classVal s h (bitsOf e 59 58) ra
          | 2 => classVal s h (bitsOf e 57 56) rb
          | _ => imm.zeroExtend 64
        let abort := fun (u : Nat) (s : State) =>
          raise (0x084 + t.p.val) (opc.toNat % 128 * 4096 + u) (some t.p) (s.bump (pix 0x3380 t.p) 9)
        (match microRun t bank ops (s.dget (pix 0x3380 t.p) 6) (e % 4096) ⟨[], false⟩ s with
         | (s, .result v) =>
           let r := writeResult h e rd v s
           ((match r.2 with | .next _ => r.1.bump (pix 0x3380 t.p) 7 | _ => r.1), r.2)
         | (_, .refused) => (s, .trap 2)
         | (s, .abort 0 _ u) => (abort u s, .set)
         | (s, .abort c a u) => (abort u s, .fault c a)
         | (s, .stopped) => (s, .set))
    | 2 => (s, .trap 2)
    | _ => (s, .trap 1))) s)

end Sys2Proof.Machine
end

