-- ==== Sys2Proof/Machine/Dispatch.lean ====
section
/-!
DEFINITION. Machine/Dispatch.lean: one arm per command of spec/opcode_table.json: a direct call of its meaning.
-/
namespace Sys2Proof.Machine

def exec (i : Instr) (s : State) : Host.Outcome State Fault Refusal :=
  match i with
  | .deviceReset => Sys2Proof.Machine.execDeviceReset s
  | .startStepComplete res => Sys2Proof.Machine.execStartStepComplete res s
  | .startWatchdogExpiry => Sys2Proof.Machine.execStartWatchdogExpiry s
  | .minimalRetryExpiry => Sys2Proof.Machine.execMinimalRetryExpiry s
  | .goldenRetryExpiry verifies => Sys2Proof.Machine.execGoldenRetryExpiry verifies s
  | .failedStartClearExpiry => Sys2Proof.Machine.execFailedStartClearExpiry s
  | .clearFailedStarts w v => Sys2Proof.Machine.execClearFailedStarts w v s
  | .restart w v => Sys2Proof.Machine.execRestart w v s
  | .paceReading u v => Sys2Proof.Machine.execPaceReading u v s
  | .countWindowBoundary => Sys2Proof.Machine.execCountWindowBoundary s
  | .crossingWordIn d inward x parityOk => Sys2Proof.Machine.execCrossingWordIn d inward x parityOk s
  | .clockLoss d => Sys2Proof.Machine.execClockLoss d s
  | .clockReturn d => Sys2Proof.Machine.execClockReturn d s
  | .stemTransfer x => Sys2Proof.Machine.execStemTransfer x s
  | .modeAutonomousWrite w u gen on => Sys2Proof.Machine.execModeAutonomousWrite w u gen on s
  | .modeDeterministicWrite w u gen on => Sys2Proof.Machine.execModeDeterministicWrite w u gen on s
  | .modeEcoWrite w u gen on => Sys2Proof.Machine.execModeEcoWrite w u gen on s
  | .modeWitnessWrite w u gen on => Sys2Proof.Machine.execModeWitnessWrite w u gen on s
  | .modeWitnessStrictWrite w u gen on => Sys2Proof.Machine.execModeWitnessStrictWrite w u gen on s
  | .modeMinimalWrite w u gen on => Sys2Proof.Machine.execModeMinimalWrite w u gen on s
  | .modeDebugWrite w u gen on => Sys2Proof.Machine.execModeDebugWrite w u gen on s
  | .modeDrainWrite w u gen on => Sys2Proof.Machine.execModeDrainWrite w u gen on s
  | .deterministicEntryComplete p c => Sys2Proof.Machine.execDeterministicEntryComplete p c s
  | .clusterParked p c => Sys2Proof.Machine.execClusterParked p c s
  | .drainComplete u => Sys2Proof.Machine.execDrainComplete u s
  | .drainTimeout u => Sys2Proof.Machine.execDrainTimeout u s
  | .hostLinksDownExpiry => Sys2Proof.Machine.execHostLinksDownExpiry s
  | .hostLinkUpExpiry => Sys2Proof.Machine.execHostLinkUpExpiry s
  | .swapHaltWaitExpiry t => Sys2Proof.Machine.execSwapHaltWaitExpiry t s
  | .stateMismatchExpiry idx => Sys2Proof.Machine.execStateMismatchExpiry idx s
  | .frameReceive port frame fcsOk => Sys2Proof.Machine.execFrameReceive port frame fcsOk s
  | .parseWalk p ecc => Sys2Proof.Machine.execParseWalk p ecc s
  | .taskForm p => Sys2Proof.Machine.execTaskForm p s
  | .pfcRepeat port cls => Sys2Proof.Machine.execPfcRepeat port cls s
  | .pauseHeldExpiry port cls => Sys2Proof.Machine.execPauseHeldExpiry port cls s
  | .operandArrive p task operand => Sys2Proof.Machine.execOperandArrive p task operand s
  | .operandTimeout p task bit => Sys2Proof.Machine.execOperandTimeout p task bit s
  | .taskDispatch p => Sys2Proof.Machine.execTaskDispatch p s
  | .taskRelease p task ecc => Sys2Proof.Machine.execTaskRelease p task ecc s
  | .taskAgeExpiry p task => Sys2Proof.Machine.execTaskAgeExpiry p task s
  | .egressStallExpiry port => Sys2Proof.Machine.execEgressStallExpiry port s
  | .parseBankActivate w p gen bank => Sys2Proof.Machine.execParseBankActivate w p gen bank s
  | .ruleStoreWrite w p off data => Sys2Proof.Machine.execRuleStoreWrite w p off data s
  | .templateWrite w p off data => Sys2Proof.Machine.execTemplateWrite w p off data s
  | .tableBatchSubmit w off data => Sys2Proof.Machine.execTableBatchSubmit w off data s
  | .tableCommitApply => Sys2Proof.Machine.execTableCommitApply s
  | .petalCopyComplete p => Sys2Proof.Machine.execPetalCopyComplete p s
  | .generationHoldExpiry p => Sys2Proof.Machine.execGenerationHoldExpiry p s
  | .memoryReclaim => Sys2Proof.Machine.execMemoryReclaim s
  | .learnCommit => Sys2Proof.Machine.execLearnCommit s
  | .learnFilterExpiry p key => Sys2Proof.Machine.execLearnFilterExpiry p key s
  | .tableTick => Sys2Proof.Machine.execTableTick s
  | .agingScan => Sys2Proof.Machine.execAgingScan s
  | .contextExpiryScan => Sys2Proof.Machine.execContextExpiryScan s
  | .trieBankFillComplete p stage => Sys2Proof.Machine.execTrieBankFillComplete p stage s
  | .undefinedInstruction h word => Sys2Proof.Machine.execUndefinedInstruction h word s
  | .add h rd ra rb => Sys2Proof.Machine.execAdd h rd ra rb s
  | .sub h rd ra rb => Sys2Proof.Machine.execSub h rd ra rb s
  | .and h rd ra rb => Sys2Proof.Machine.execAnd h rd ra rb s
  | .or h rd ra rb => Sys2Proof.Machine.execOr h rd ra rb s
  | .xor h rd ra rb => Sys2Proof.Machine.execXor h rd ra rb s
  | .andn h rd ra rb => Sys2Proof.Machine.execAndn h rd ra rb s
  | .sll h rd ra rb => Sys2Proof.Machine.execSll h rd ra rb s
  | .srl h rd ra rb => Sys2Proof.Machine.execSrl h rd ra rb s
  | .sra h rd ra rb => Sys2Proof.Machine.execSra h rd ra rb s
  | .ror h rd ra rb => Sys2Proof.Machine.execRor h rd ra rb s
  | .mul h rd ra rb => Sys2Proof.Machine.execMul h rd ra rb s
  | .mulhu h rd ra rb => Sys2Proof.Machine.execMulhu h rd ra rb s
  | .mulhs h rd ra rb => Sys2Proof.Machine.execMulhs h rd ra rb s
  | .min h rd ra rb => Sys2Proof.Machine.execMin h rd ra rb s
  | .max h rd ra rb => Sys2Proof.Machine.execMax h rd ra rb s
  | .minu h rd ra rb => Sys2Proof.Machine.execMinu h rd ra rb s
  | .maxu h rd ra rb => Sys2Proof.Machine.execMaxu h rd ra rb s
  | .sel h rd ra rb rc => Sys2Proof.Machine.execSel h rd ra rb rc s
  | .addi h rd ra imm => Sys2Proof.Machine.execAddi h rd ra imm s
  | .andi h rd ra imm => Sys2Proof.Machine.execAndi h rd ra imm s
  | .ori h rd ra imm => Sys2Proof.Machine.execOri h rd ra imm s
  | .xori h rd ra imm => Sys2Proof.Machine.execXori h rd ra imm s
  | .slli h rd ra sh => Sys2Proof.Machine.execSlli h rd ra sh s
  | .srli h rd ra sh => Sys2Proof.Machine.execSrli h rd ra sh s
  | .srai h rd ra sh => Sys2Proof.Machine.execSrai h rd ra sh s
  | .rori h rd ra sh => Sys2Proof.Machine.execRori h rd ra sh s
  | .imms h rd imm => Sys2Proof.Machine.execImms h rd imm s
  | .immz h rd imm => Sys2Proof.Machine.execImmz h rd imm s
  | .immh h rd imm => Sys2Proof.Machine.execImmh h rd imm s
  | .immsh h rd imm => Sys2Proof.Machine.execImmsh h rd imm s
  | .ceq h rd ra rb => Sys2Proof.Machine.execCeq h rd ra rb s
  | .cne h rd ra rb => Sys2Proof.Machine.execCne h rd ra rb s
  | .clt h rd ra rb => Sys2Proof.Machine.execClt h rd ra rb s
  | .cge h rd ra rb => Sys2Proof.Machine.execCge h rd ra rb s
  | .cltu h rd ra rb => Sys2Proof.Machine.execCltu h rd ra rb s
  | .cgeu h rd ra rb => Sys2Proof.Machine.execCgeu h rd ra rb s
  | .ceqi h rd ra imm => Sys2Proof.Machine.execCeqi h rd ra imm s
  | .cnei h rd ra imm => Sys2Proof.Machine.execCnei h rd ra imm s
  | .clti h rd ra imm => Sys2Proof.Machine.execClti h rd ra imm s
  | .cltui h rd ra imm => Sys2Proof.Machine.execCltui h rd ra imm s
  | .adda h rd ra rb => Sys2Proof.Machine.execAdda h rd ra rb s
  | .suba h rd ra rb => Sys2Proof.Machine.execSuba h rd ra rb s
  | .difa h rd ra rb => Sys2Proof.Machine.execDifa h rd ra rb s
  | .mva h rd ra => Sys2Proof.Machine.execMva h rd ra s
  | .mvda h rd ra => Sys2Proof.Machine.execMvda h rd ra s
  | .mvad h rd ra => Sys2Proof.Machine.execMvad h rd ra s
  | .caeq h rd ra rb => Sys2Proof.Machine.execCaeq h rd ra rb s
  | .cane h rd ra rb => Sys2Proof.Machine.execCane h rd ra rb s
  | .caltu h rd ra rb => Sys2Proof.Machine.execCaltu h rd ra rb s
  | .cageu h rd ra rb => Sys2Proof.Machine.execCageu h rd ra rb s
  | .addai h rd ra imm => Sys2Proof.Machine.execAddai h rd ra imm s
  | .bfx h rd ra rb => Sys2Proof.Machine.execBfx h rd ra rb s
  | .bfxs h rd ra rb => Sys2Proof.Machine.execBfxs h rd ra rb s
  | .bfi h rd ra rb => Sys2Proof.Machine.execBfi h rd ra rb s
  | .clz h rd ra => Sys2Proof.Machine.execClz h rd ra s
  | .ctz h rd ra => Sys2Proof.Machine.execCtz h rd ra s
  | .popc h rd ra => Sys2Proof.Machine.execPopc h rd ra s
  | .perm h rd ra rb rc => Sys2Proof.Machine.execPerm h rd ra rb rc s
  | .bswap h rd ra => Sys2Proof.Machine.execBswap h rd ra s
  | .bswapw h rd ra => Sys2Proof.Machine.execBswapw h rd ra s
  | .bswaph h rd ra => Sys2Proof.Machine.execBswaph h rd ra s
  | .bfxi h rd ra pos width1 => Sys2Proof.Machine.execBfxi h rd ra pos width1 s
  | .bfxsi h rd ra pos width1 => Sys2Proof.Machine.execBfxsi h rd ra pos width1 s
  | .bfii h rd ra pos width1 => Sys2Proof.Machine.execBfii h rd ra pos width1 s
  | .mac h ac ra rb z => Sys2Proof.Machine.execMac h ac ra rb z s
  | .macu h ac ra rb z => Sys2Proof.Machine.execMacu h ac ra rb z s
  | .sum h ac ra z => Sys2Proof.Machine.execSum h ac ra z s
  | .sums h ac ra z => Sys2Proof.Machine.execSums h ac ra z s
  | .csa h ac ra len1 z => Sys2Proof.Machine.execCsa h ac ra len1 z s
  | .mvac h rd ac part => Sys2Proof.Machine.execMvac h rd ac part s
  | .ldb h rt ra am => Sys2Proof.Machine.execLdb h rt ra am s
  | .ldbs h rt ra am => Sys2Proof.Machine.execLdbs h rt ra am s
  | .ldh h rt ra am be => Sys2Proof.Machine.execLdh h rt ra am be s
  | .ldhs h rt ra am be => Sys2Proof.Machine.execLdhs h rt ra am be s
  | .ldw h rt ra am be => Sys2Proof.Machine.execLdw h rt ra am be s
  | .ldws h rt ra am be => Sys2Proof.Machine.execLdws h rt ra am be s
  | .ldd h rt ra am be => Sys2Proof.Machine.execLdd h rt ra am be s
  | .lda h rt ra am => Sys2Proof.Machine.execLda h rt ra am s
  | .stb h rt ra am => Sys2Proof.Machine.execStb h rt ra am s
  | .sth h rt ra am be => Sys2Proof.Machine.execSth h rt ra am be s
  | .stw h rt ra am be => Sys2Proof.Machine.execStw h rt ra am be s
  | .std h rt ra am be => Sys2Proof.Machine.execStd h rt ra am be s
  | .sta h rt ra am => Sys2Proof.Machine.execSta h rt ra am s
  | .storeDrain h => Sys2Proof.Machine.execStoreDrain h s
  | .mergingBufferDrain k => Sys2Proof.Machine.execMergingBufferDrain k s
  | .instructionFetch k ecc => Sys2Proof.Machine.execInstructionFetch k ecc s
  | .beq h ra rb off => Sys2Proof.Machine.execBeq h ra rb off s
  | .bne h ra rb off => Sys2Proof.Machine.execBne h ra rb off s
  | .blt h ra rb off => Sys2Proof.Machine.execBlt h ra rb off s
  | .bge h ra rb off => Sys2Proof.Machine.execBge h ra rb off s
  | .bltu h ra rb off => Sys2Proof.Machine.execBltu h ra rb off s
  | .bgeu h ra rb off => Sys2Proof.Machine.execBgeu h ra rb off s
  | .bz h ra off => Sys2Proof.Machine.execBz h ra off s
  | .bnz h ra off => Sys2Proof.Machine.execBnz h ra off s
  | .j h off => Sys2Proof.Machine.execJ h off s
  | .jal h off => Sys2Proof.Machine.execJal h off s
  | .jr h ra => Sys2Proof.Machine.execJr h ra s
  | .jalr h ra => Sys2Proof.Machine.execJalr h ra s
  | .ldr h rd ra => Sys2Proof.Machine.execLdr h rd ra s
  | .stc h rd ra rb => Sys2Proof.Machine.execStc h rd ra rb s
  | .lkacq h rd ra rb => Sys2Proof.Machine.execLkacq h rd ra rb s
  | .lkrel h rd ra rb => Sys2Proof.Machine.execLkrel h rd ra rb s
  | .tas h rd ra => Sys2Proof.Machine.execTas h rd ra s
  | .fence h => Sys2Proof.Machine.execFence h s
  | .fenceS h => Sys2Proof.Machine.execFenceS h s
  | .fenceL h => Sys2Proof.Machine.execFenceL h s
  | .isync h => Sys2Proof.Machine.execIsync h s
  | .tsldb h rt x off => Sys2Proof.Machine.execTsldb h rt x off s
  | .tsldbs h rt x off => Sys2Proof.Machine.execTsldbs h rt x off s
  | .tsldh h rt x off => Sys2Proof.Machine.execTsldh h rt x off s
  | .tsldhs h rt x off => Sys2Proof.Machine.execTsldhs h rt x off s
  | .tsldw h rt x off => Sys2Proof.Machine.execTsldw h rt x off s
  | .tsldws h rt x off => Sys2Proof.Machine.execTsldws h rt x off s
  | .tsldd h rt x off => Sys2Proof.Machine.execTsldd h rt x off s
  | .tsstb h rt x off => Sys2Proof.Machine.execTsstb h rt x off s
  | .tssth h rt x off => Sys2Proof.Machine.execTssth h rt x off s
  | .tsstw h rt x off => Sys2Proof.Machine.execTsstw h rt x off s
  | .tsstd h rt x off => Sys2Proof.Machine.execTsstd h rt x off s
  | .tkwait h => Sys2Proof.Machine.execTkwait h s
  | .tkend h => Sys2Proof.Machine.execTkend h s
  | .tkrel h => Sys2Proof.Machine.execTkrel h s
  | .chwr h ra rb => Sys2Proof.Machine.execChwr h ra rb s
  | .chend h ra => Sys2Proof.Machine.execChend h ra s
  | .chrcv h rd ra => Sys2Proof.Machine.execChrcv h rd ra s
  | .chrd h rd n => Sys2Proof.Machine.execChrd h rd n s
  | .nop h => Sys2Proof.Machine.execNop h s
  | .evwait h rd => Sys2Proof.Machine.execEvwait h rd s
  | .brk h => Sys2Proof.Machine.execBrk h s
  | .eret h => Sys2Proof.Machine.execEret h s
  | .mfs h rd n => Sys2Proof.Machine.execMfs h rd n s
  | .mts h ra n => Sys2Proof.Machine.execMts h ra n s
  | .thres h t => Sys2Proof.Machine.execThres h t s
  | .thresa h t ra => Sys2Proof.Machine.execThresa h t ra s
  | .thpark h t => Sys2Proof.Machine.execThpark h t s
  | .thrst h t => Sys2Proof.Machine.execThrst h t s
  | .crcc h rd ra k1 => Sys2Proof.Machine.execCrcc h rd ra k1 s
  | .crce h rd ra k1 => Sys2Proof.Machine.execCrce h rd ra k1 s
  | .tpz h rd ra rb => Sys2Proof.Machine.execTpz h rd ra rb s
  | .bmm h rd ra rb => Sys2Proof.Machine.execBmm h rd ra rb s
  | .bmmo h rd ra rb => Sys2Proof.Machine.execBmmo h rd ra rb s
  | .brev h rd ra => Sys2Proof.Machine.execBrev h rd ra s
  | .mix h rd ra n => Sys2Proof.Machine.execMix h rd ra n s
  | .mvdc h c1 r => Sys2Proof.Machine.execMvdc h c1 r s
  | .mvcd h r c1 => Sys2Proof.Machine.execMvcd h r c1 s
  | .tlpm h c1 c2 v6 => Sys2Proof.Machine.execTlpm h c1 c2 v6 s
  | .tl2 h c1 c2 => Sys2Proof.Machine.execTl2 h c1 c2 s
  | .tl2l h c1 c2 r => Sys2Proof.Machine.execTl2l h c1 c2 r s
  | .tctx h c1 c2 create => Sys2Proof.Machine.execTctx h c1 c2 create s
  | .tcdel h c1 r => Sys2Proof.Machine.execTcdel h c1 r s
  | .tbat h c1 r => Sys2Proof.Machine.execTbat h c1 r s
  | .tadd h c1 c2 r => Sys2Proof.Machine.execTadd h c1 c2 r s
  | .tableHelperResult t ok => Sys2Proof.Machine.execTableHelperResult t ok s
  | .customerInstruction h opc rd ra rb imm => Sys2Proof.Machine.execCustomerInstruction h opc rd ra rb imm s
  | .customerBankActivate w p gen bank => Sys2Proof.Machine.execCustomerBankActivate w p gen bank s
  | .pageClassWrite w off data => Sys2Proof.Machine.execPageClassWrite w off data s
  | .cacheClean t sel level count addr => Sys2Proof.Machine.execCacheClean t sel level count addr s
  | .cacheInvalidate t sel level count addr => Sys2Proof.Machine.execCacheInvalidate t sel level count addr s
  | .cacheCleanInvalidate t sel level count addr => Sys2Proof.Machine.execCacheCleanInvalidate t sel level count addr s
  | .cachePrefetchHint t sel level count addr => Sys2Proof.Machine.execCachePrefetchHint t sel level count addr s
  | .cacheLockLine t sel level count addr => Sys2Proof.Machine.execCacheLockLine t sel level count addr s
  | .cacheUnlockLine t sel level count addr => Sys2Proof.Machine.execCacheUnlockLine t sel level count addr s
  | .l2LockWordWrite w p c bank v => Sys2Proof.Machine.execL2LockWordWrite w p c bank v s
  | .sideBufferAgeExpiry k line => Sys2Proof.Machine.execSideBufferAgeExpiry k line s
  | .evictionAccept k declined => Sys2Proof.Machine.execEvictionAccept k declined s
  | .threadCommandResume w t => Sys2Proof.Machine.execThreadCommandResume w t s
  | .threadCommandResumeAt w t addr => Sys2Proof.Machine.execThreadCommandResumeAt w t addr s
  | .threadCommandPark w t => Sys2Proof.Machine.execThreadCommandPark w t s
  | .threadCommandReset w t => Sys2Proof.Machine.execThreadCommandReset w t s
  | .shareWordWrite w k sub v => Sys2Proof.Machine.execShareWordWrite w k sub v s
  | .channelBindingWrite w p off data => Sys2Proof.Machine.execChannelBindingWrite w p off data s
  | .channelHoldExpiry p ch => Sys2Proof.Machine.execChannelHoldExpiry p ch s
  | .channelDiscardStaging w p m ch => Sys2Proof.Machine.execChannelDiscardStaging w p m ch s
  | .channelFlushFifo w p ch => Sys2Proof.Machine.execChannelFlushFifo w p ch s
  | .channelPost w p hdr words => Sys2Proof.Machine.execChannelPost w p hdr words s
  | .waitCensusEvaluation p c => Sys2Proof.Machine.execWaitCensusEvaluation p c s
  | .participationMaskWrite w x => Sys2Proof.Machine.execParticipationMaskWrite w x s
  | .lockWindowAcquire m off size => Sys2Proof.Machine.execLockWindowAcquire m off size s
  | .lockWindowTry m off size => Sys2Proof.Machine.execLockWindowTry m off size s
  | .lockWindowPoll m off size => Sys2Proof.Machine.execLockWindowPoll m off size s
  | .lockWindowCancel m off size => Sys2Proof.Machine.execLockWindowCancel m off size s
  | .lockWindowPeek m off size => Sys2Proof.Machine.execLockWindowPeek m off size s
  | .lockWindowRelease m off size data => Sys2Proof.Machine.execLockWindowRelease m off size data s
  | .pinListWrite w off data => Sys2Proof.Machine.execPinListWrite w off data s
  | .forcedRelease w v => Sys2Proof.Machine.execForcedRelease w v s
  | .mailboxBindingWrite w off data => Sys2Proof.Machine.execMailboxBindingWrite w off data s
  | .mailboxMsgWrite m mb reg v => Sys2Proof.Machine.execMailboxMsgWrite m mb reg v s
  | .mailboxGo m mb ctrl => Sys2Proof.Machine.execMailboxGo m mb ctrl s
  | .mailboxTake m mb ctrl => Sys2Proof.Machine.execMailboxTake m mb ctrl s
  | .mailboxStatusClear m mb v => Sys2Proof.Machine.execMailboxStatusClear m mb v s
  | .mailboxTimeout mb => Sys2Proof.Machine.execMailboxTimeout mb s
  | .bufferAllocateRead m p pool => Sys2Proof.Machine.execBufferAllocateRead m p pool s
  | .bufferFreeWrite m p buf => Sys2Proof.Machine.execBufferFreeWrite m p buf s
  | .freeListRebuildComplete p pool => Sys2Proof.Machine.execFreeListRebuildComplete p pool s
  | .spillVictim p => Sys2Proof.Machine.execSpillVictim p s
  | .spillRecordAccepted p => Sys2Proof.Machine.execSpillRecordAccepted p s
  | .refillComplete p blocksOk => Sys2Proof.Machine.execRefillComplete p blocksOk s
  | .sketchClear w p v => Sys2Proof.Machine.execSketchClear w p v s
  | .flowCounterWriteback p => Sys2Proof.Machine.execFlowCounterWriteback p s
  | .slotFrameBoundary => Sys2Proof.Machine.execSlotFrameBoundary s
  | .slotStart => Sys2Proof.Machine.execSlotStart s
  | .segmentComplete lane laneOk => Sys2Proof.Machine.execSegmentComplete lane laneOk s
  | .cowslipCommit op eccOk => Sys2Proof.Machine.execCowslipCommit op eccOk s
  | .saImport w idx body => Sys2Proof.Machine.execSaImport w idx body s
  | .saLoad w idx body => Sys2Proof.Machine.execSaLoad w idx body s
  | .saUnload w idx body => Sys2Proof.Machine.execSaUnload w idx body s
  | .saErase w idx body => Sys2Proof.Machine.execSaErase w idx body s
  | .saDrainComplete idx => Sys2Proof.Machine.execSaDrainComplete idx s
  | .jobSubmit m addr => Sys2Proof.Machine.execJobSubmit m addr s
  | .jobComplete q => Sys2Proof.Machine.execJobComplete q s
  | .queueObjectWrite w p q off data => Sys2Proof.Machine.execQueueObjectWrite w p q off data s
  | .packetTransmit e => Sys2Proof.Machine.execPacketTransmit e s
  | .pfcFrameReceive port classes quanta => Sys2Proof.Machine.execPfcFrameReceive port classes quanta s
  | .linkPauseReceive port quanta => Sys2Proof.Machine.execLinkPauseReceive port quanta s
  | .pauseExpiry port cls => Sys2Proof.Machine.execPauseExpiry port cls s
  | .laneHealthChange p lanes => Sys2Proof.Machine.execLaneHealthChange p lanes s
  | .timeOffsetWrite w v => Sys2Proof.Machine.execTimeOffsetWrite w v s
  | .ppsInEdge => Sys2Proof.Machine.execPpsInEdge s
  | .ppsOutSecond => Sys2Proof.Machine.execPpsOutSecond s
  | .doorbell fn g size v => Sys2Proof.Machine.execDoorbell fn g size v s
  | .hostTxFetch g descs data => Sys2Proof.Machine.execHostTxFetch g descs data s
  | .hostReceiveWrite g descs => Sys2Proof.Machine.execHostReceiveWrite g descs s
  | .msixRaise g => Sys2Proof.Machine.execMsixRaise g s
  | .hostReadError g => Sys2Proof.Machine.execHostReadError g s
  | .functionLevelReset fn => Sys2Proof.Machine.execFunctionLevelReset fn s
  | .busMasterDisable fn => Sys2Proof.Machine.execBusMasterDisable fn s
  | .perstAssert h => Sys2Proof.Machine.execPerstAssert h s
  | .perstDeassert h => Sys2Proof.Machine.execPerstDeassert h s
  | .hostLinkDown h link => Sys2Proof.Machine.execHostLinkDown h link s
  | .hostLinkUp h link width rate => Sys2Proof.Machine.execHostLinkUp h link width rate s
  | .cxlMemRequest addr wr => Sys2Proof.Machine.execCxlMemRequest addr wr s
  | .cxlIdentifyMemoryDevice => Sys2Proof.Machine.execCxlIdentifyMemoryDevice s
  | .cxlGetHealthInfo => Sys2Proof.Machine.execCxlGetHealthInfo s
  | .cxlUnsupportedCommand opcode => Sys2Proof.Machine.execCxlUnsupportedCommand opcode s
  | .dramRead m addr sc keepOpen => Sys2Proof.Machine.execDramRead m addr sc keepOpen s
  | .dramReadData g ecc => Sys2Proof.Machine.execDramReadData g ecc s
  | .dramWrite m addr data sc keepOpen => Sys2Proof.Machine.execDramWrite m addr data sc keepOpen s
  | .ageLimitPromotion g => Sys2Proof.Machine.execAgeLimitPromotion g s
  | .scrubRead addr ecc => Sys2Proof.Machine.execScrubRead addr ecc s
  | .bankRefresh pos bank => Sys2Proof.Machine.execBankRefresh pos bank s
  | .dramTemperatureRead g status hot => Sys2Proof.Machine.execDramTemperatureRead g status hot s
  | .zqCalibration pkg => Sys2Proof.Machine.execZqCalibration pkg s
  | .dqsOscillatorCheck pos drifted passes => Sys2Proof.Machine.execDqsOscillatorCheck pos drifted passes s
  | .pageIdleClose pos bank => Sys2Proof.Machine.execPageIdleClose pos bank s
  | .dramPowerDown pos => Sys2Proof.Machine.execDramPowerDown pos s
  | .dramCopyComplete g => Sys2Proof.Machine.execDramCopyComplete g s
  | .dictionaryWrite w idx sub gen off data => Sys2Proof.Machine.execDictionaryWrite w idx sub gen off data s
  | .generationStageWrite w idx sub gen => Sys2Proof.Machine.execGenerationStageWrite w idx sub gen s
  | .time80SnapshotRead w idx sub rest => Sys2Proof.Machine.execTime80SnapshotRead w idx sub rest s
  | .bulkRead w desc => Sys2Proof.Machine.execBulkRead w desc s
  | .bulkWrite w desc hostData => Sys2Proof.Machine.execBulkWrite w desc hostData s
  | .sdoInitiateDownload frame => Sys2Proof.Machine.execSdoInitiateDownload frame s
  | .sdoDownloadSegment frame => Sys2Proof.Machine.execSdoDownloadSegment frame s
  | .sdoInitiateUpload frame => Sys2Proof.Machine.execSdoInitiateUpload frame s
  | .sdoUploadSegment frame => Sys2Proof.Machine.execSdoUploadSegment frame s
  | .sdoAbort frame => Sys2Proof.Machine.execSdoAbort frame s
  | .sdoSegmentTimeout => Sys2Proof.Machine.execSdoSegmentTimeout s
  | .nmtCommand cob frame => Sys2Proof.Machine.execNmtCommand cob frame s
  | .canHeartbeat => Sys2Proof.Machine.execCanHeartbeat s
  | .canGrantTick => Sys2Proof.Machine.execCanGrantTick s
  | .mctpSetEndpointId ep eid => Sys2Proof.Machine.execMctpSetEndpointId ep eid s
  | .mctpGetEndpointId ep => Sys2Proof.Machine.execMctpGetEndpointId ep s
  | .mctpGetEndpointUuid ep => Sys2Proof.Machine.execMctpGetEndpointUuid ep s
  | .mctpGetVersionSupport ep => Sys2Proof.Machine.execMctpGetVersionSupport ep s
  | .mctpGetMessageTypeSupport ep => Sys2Proof.Machine.execMctpGetMessageTypeSupport ep s
  | .mctpGetVdmSupport ep => Sys2Proof.Machine.execMctpGetVdmSupport ep s
  | .mctpDictRead w msg => Sys2Proof.Machine.execMctpDictRead w msg s
  | .mctpDictWrite w msg => Sys2Proof.Machine.execMctpDictWrite w msg s
  | .spdmGetVersion ep => Sys2Proof.Machine.execSpdmGetVersion ep s
  | .spdmGetCapabilities ep => Sys2Proof.Machine.execSpdmGetCapabilities ep s
  | .spdmNegotiateAlgorithms ep => Sys2Proof.Machine.execSpdmNegotiateAlgorithms ep s
  | .spdmGetDigests ep => Sys2Proof.Machine.execSpdmGetDigests ep s
  | .spdmGetCertificate ep off len => Sys2Proof.Machine.execSpdmGetCertificate ep off len s
  | .spdmChallenge ep nonce => Sys2Proof.Machine.execSpdmChallenge ep nonce s
  | .spdmGetMeasurements ep block => Sys2Proof.Machine.execSpdmGetMeasurements ep block s
  | .spdmKeyExchange ep root => Sys2Proof.Machine.execSpdmKeyExchange ep root s
  | .spdmFinish ep sid => Sys2Proof.Machine.execSpdmFinish ep sid s
  | .spdmKeyUpdate ep sid => Sys2Proof.Machine.execSpdmKeyUpdate ep sid s
  | .spdmHeartbeat ep sid => Sys2Proof.Machine.execSpdmHeartbeat ep sid s
  | .spdmEndSession ep sid => Sys2Proof.Machine.execSpdmEndSession ep sid s
  | .spdmHeartbeatTimeout sid => Sys2Proof.Machine.execSpdmHeartbeatTimeout sid s
  | .acknowledgedSequenceWrite w v => Sys2Proof.Machine.execAcknowledgedSequenceWrite w v s
  | .flashPartitionWrite w part off data => Sys2Proof.Machine.execFlashPartitionWrite w part off data s
  | .activateGolneFirmware w target => Sys2Proof.Machine.execActivateGolneFirmware w target s
  | .activateClusterFirmware w target => Sys2Proof.Machine.execActivateClusterFirmware w target s
  | .activateParseGraph w target => Sys2Proof.Machine.execActivateParseGraph w target s
  | .activateCustomerBank w target => Sys2Proof.Machine.execActivateCustomerBank w target s
  | .activateCowslipFirmware w target => Sys2Proof.Machine.execActivateCowslipFirmware w target s
  | .clusterActivationDrained => Sys2Proof.Machine.execClusterActivationDrained s
  | .activationDrainLimitExpiry => Sys2Proof.Machine.execActivationDrainLimitExpiry s
  | .golneActivationTimeout => Sys2Proof.Machine.execGolneActivationTimeout s
  | .errorRaise report syn unit => Sys2Proof.Machine.execErrorRaise report syn unit s
  | .statusWordClear w col cls v => Sys2Proof.Machine.execStatusWordClear w col cls v s
  | .escalationExpiry col cls units => Sys2Proof.Machine.execEscalationExpiry col cls units s
  | .hangDetected x => Sys2Proof.Machine.execHangDetected x s
  | .petalHalt p => Sys2Proof.Machine.execPetalHalt p s
  | .petalHaltCommand w v => Sys2Proof.Machine.execPetalHaltCommand w v s
  | .dumpComplete p unreadable truncated => Sys2Proof.Machine.execDumpComplete p unreadable truncated s
  | .petalRestart p => Sys2Proof.Machine.execPetalRestart p s
  | .petalRestartCommand w v => Sys2Proof.Machine.execPetalRestartCommand w v s
  | .petalRestartComplete p res => Sys2Proof.Machine.execPetalRestartComplete p res s
  | .portResetCommand w v => Sys2Proof.Machine.execPortResetCommand w v s
  | .dumpAcknowledge w v => Sys2Proof.Machine.execDumpAcknowledge w v s
  | .golneFirmwareFault => Sys2Proof.Machine.execGolneFirmwareFault s
  | .golneFirmwareBack => Sys2Proof.Machine.execGolneFirmwareBack s
  | .rootUnitFault syn => Sys2Proof.Machine.execRootUnitFault syn s
  | .wearReading unit loss => Sys2Proof.Machine.execWearReading unit loss s
  | .sorrelSwapCommand w v => Sys2Proof.Machine.execSorrelSwapCommand w v s
  | .sorrelRetireSpare w v => Sys2Proof.Machine.execSorrelRetireSpare w v s
  | .sorrelCancelTrigger w v => Sys2Proof.Machine.execSorrelCancelTrigger w v s
  | .swapStart => Sys2Proof.Machine.execSwapStart s
  | .swapComplete unit => Sys2Proof.Machine.execSwapComplete unit s
  | .migrationFinishLimitExpiry k => Sys2Proof.Machine.execMigrationFinishLimitExpiry k s
  | .counterChainWrite w blk off data => Sys2Proof.Machine.execCounterChainWrite w blk off data s
  | .counterSnapshot w blk v => Sys2Proof.Machine.execCounterSnapshot w blk v s
  | .histogramClear w p u v => Sys2Proof.Machine.execHistogramClear w p u v s
  | .permitPresent w permit => Sys2Proof.Machine.execPermitPresent w permit s
  | .unlockExpiry => Sys2Proof.Machine.execUnlockExpiry s
  | .relock w v => Sys2Proof.Machine.execRelock w v s
  | .debugHalt w t => Sys2Proof.Machine.execDebugHalt w t s
  | .debugResume w t => Sys2Proof.Machine.execDebugResume w t s
  | .debugStep w t => Sys2Proof.Machine.execDebugStep w t s
  | .debugClusterHalt w k => Sys2Proof.Machine.execDebugClusterHalt w k s
  | .debugThreadStateWrite w t off data => Sys2Proof.Machine.execDebugThreadStateWrite w t off data s
  | .debugMemoryAccess w wr => Sys2Proof.Machine.execDebugMemoryAccess w wr s
  | .tapReset => Sys2Proof.Machine.execTapReset s
  | .jtagExtest pins => Sys2Proof.Machine.execJtagExtest pins s
  | .jtagIdcode => Sys2Proof.Machine.execJtagIdcode s
  | .jtagSamplePreload pins => Sys2Proof.Machine.execJtagSamplePreload pins s
  | .jtagPermit permit => Sys2Proof.Machine.execJtagPermit permit s
  | .jtagDict dr => Sys2Proof.Machine.execJtagDict dr s
  | .jtagMem dr => Sys2Proof.Machine.execJtagMem dr s
  | .jtagBypass code => Sys2Proof.Machine.execJtagBypass code s
  | .tansyLaneWrite w lane v => Sys2Proof.Machine.execTansyLaneWrite w lane v s
  | .vinApply => Sys2Proof.Machine.execVinApply s
  | .standbyGood => Sys2Proof.Machine.execStandbyGood s
  | .undervoltageLockout => Sys2Proof.Machine.execUndervoltageLockout s
  | .overvoltageCutoff => Sys2Proof.Machine.execOvervoltageCutoff s
  | .vinMeasurement avgMv => Sys2Proof.Machine.execVinMeasurement avgMv s
  | .vinRestoreExpiry => Sys2Proof.Machine.execVinRestoreExpiry s
  | .inputPowerMeasurement watts ma => Sys2Proof.Machine.execInputPowerMeasurement watts ma s
  | .powerCapRestoreExpiry => Sys2Proof.Machine.execPowerCapRestoreExpiry s
  | .inputLimitTrip => Sys2Proof.Machine.execInputLimitTrip s
  | .railFault => Sys2Proof.Machine.execRailFault s
  | .phaseFault phase => Sys2Proof.Machine.execPhaseFault phase s
  | .junctionSensorRead highest => Sys2Proof.Machine.execJunctionSensorRead highest s
  | .thermalShutdown => Sys2Proof.Machine.execThermalShutdown s
  | .hpEnAssert => Sys2Proof.Machine.execHpEnAssert s
  | .railsGood => Sys2Proof.Machine.execRailsGood s
  | .hpEnDeassert => Sys2Proof.Machine.execHpEnDeassert s
  | .attnAssert => Sys2Proof.Machine.execAttnAssert s
  | .attnDeassert => Sys2Proof.Machine.execAttnDeassert s
  | .surpriseRemoval => Sys2Proof.Machine.execSurpriseRemoval s
  | .opticsInsert cage maxPower => Sys2Proof.Machine.execOpticsInsert cage maxPower s
  | .opticsRemove cage => Sys2Proof.Machine.execOpticsRemove cage s
  | .cageOvercurrent cage => Sys2Proof.Machine.execCageOvercurrent cage s
  | .cagePowerRestore w cage v => Sys2Proof.Machine.execCagePowerRestore w cage v s
  | .numvfsWrite pf n => Sys2Proof.Machine.execNumvfsWrite pf n s
  | .msixVectorUnmask fn vec => Sys2Proof.Machine.execMsixVectorUnmask fn vec s
  | .journalRecordCommitted flashOk => Sys2Proof.Machine.execJournalRecordCommitted flashOk s
  | .canErrorPassiveOrBusOff on => Sys2Proof.Machine.execCanErrorPassiveOrBusOff on s

end Sys2Proof.Machine
end

