-- ==== Sys2Proof/Machine/Step.lean ====
section
/-!
DEFINITION. Machine/Step.lean: one step of the block: the command at the front of the queue is taken and has its effect; with
an empty queue the block idles (DESIGN CHOICE, assumption 1).
-/
namespace Sys2Proof.Machine

/-- One step: the front command runs on the state with the rest of the queue (DESIGN CHOICE, assumption 1). -/
def step (s : State) : Host.Outcome State Fault Refusal :=
  match s.pending with
  | [] => .next s
  | c :: q => exec c { s with pending := q }

/-- The state with the command that a word spells put at the front of its queue; no row of the table gives bits, so no word
spells a command (DEDUCED, assumption 2). -/
def State.withFetchWord (s : State) (nbits w : Nat) : State :=
  match decodeTableWord nbits w with
  | some c => { s with pending := c :: s.pending }
  | none => s

end Sys2Proof.Machine
end

