-- ==== Sys2Proof/Safety.lean ====
section
/-!
DEFINITION. Safety.lean: what counts as a safe run of the block, and the terms in which statements about its commands are
made: a hart that is ready to issue, what an instruction that retires leaves behind, and which fields of the state an
operation may change.
-/
namespace Sys2Proof.Machine

/-- A command completes at a state: its outcome is a next state. -/
def Completes (c : Instr) (s : State) : Prop := ∃ t, exec c s = .next t

/-- A step of the block is safe at a state: it neither faults nor refuses. -/
def StepSafe (s : State) : Prop := ∃ t, step s = .next t

/-- A hart can issue its next instruction undisturbed: it runs, and nothing holds its core still; its PC may be fetched (06 R177)
and no fetch found the block uncorrectable (07 R200); no armed breakpoint stops it (19 R510), its core is not sampled (19 R500),
no DRAM crossing is frozen (01 R29), and no halt and no park is asked for. -/
def Ready (h : Hart) (s : State) : Prop :=
  canIssue h s = true ∧
    match h with
    | .golne => True
    | .thr t => fetchOk (s.thr h).pc = true ∧ blockBad s t (s.thr h).pc = false ∧
        (breakHit s t = true → (s.thr h).passBp = true) ∧ tagOn s t.core = false ∧
        s.frozen.any (fun n => 7 ≤ n && n ≤ 10) = false ∧ (s.thr h).haltAsked = 0 ∧ (s.thr h).parkAsked = false

/-- The issue arbiter of a core thread lets an instruction issue now (07 R205, R206); Golne firmware has no arbiter. -/
def Granted (h : Hart) (c : Instr) (s : State) : Prop := ∀ t, h = .thr t → granted s t (encodeNat c) = true

/-- An instruction issues as the second of its core's step (07 R206). -/
def Second (h : Hart) (c : Instr) (s : State) : Bool :=
  match h with
  | .golne => false
  | .thr t => pairs s t (encodeNat c)

/-- A hart may go on at an address: a petal thread within its instruction memory (06 R177), Golne firmware anywhere (R194). -/
def Fetchable (h : Hart) (a : Addr) : Prop := ∀ t, h = .thr t → fetchOk a = true

/-- A hart is ready and the instruction after its next one may be fetched. -/
def Flows (h : Hart) (s : State) : Prop := Ready h s ∧ Fetchable h ((s.thr h).pc + 4)

/-- What the retirement of one instruction leaves of a state `u` that already holds the instruction's own effect (06 R169, R176;
07 R209, R215): the hart goes on at `npc` with its step count at `n`; its cluster's count of retired instructions advances, that
of pairs for the second of a pair (`two`); its deterministic slot and its core's pipeline may move; nothing else changes. -/
structure Retired (h : Hart) (npc : Addr) (n : Word) (two : Bool) (u t : State) : Prop where
  /-- Only threads, dictionary scalars, pipelines and the counter of the free values change. -/
  rest : ∃ th di pi fr, t = { u with threads := th, dict := di, pipes := pi, fresh := fr }
  /-- Every other hart keeps its whole record. -/
  others : ∀ h', h' ≠ h → t.thr h' = u.thr h'
  /-- The hart keeps every register, its state, its fault record, its buffers, its queues and its staging. -/
  own : t.thr h = { u.thr h with pc := npc, steps := n, passBp := (t.thr h).passBp, due := (t.thr h).due }
  /-- Of the dictionary, only the cluster's counts of retired instructions and of pairs and its deterministic step counter
  change. -/
  dict : match h with
    | .golne => t.dict = u.dict
    | .thr x => t.dget (pipeIdx x.p x.c) 2 = (u.dget (pipeIdx x.p x.c) 2 + 1) % 2 ^ 64 ∧
        t.dget (pipeIdx x.p x.c) 3 = (if two then (u.dget (pipeIdx x.p x.c) 3 + 1) % 2 ^ 64 else u.dget (pipeIdx x.p x.c) 3) ∧
        ∀ i j, dk i j ≠ dk (pipeIdx x.p x.c) 2 → dk i j ≠ dk (pipeIdx x.p x.c) 3 → dk i j ≠ dk (pipeIdx x.p x.c) 0x0A →
          t.dget i j = u.dget i j

/-- The step count of a hart after an instruction whose effect left `u`: one step more, but for the second of a pair. -/
def countAfter (h : Hart) (c : Instr) (s u : State) : Word := if Second h c s then (s.thr h).steps else (u.thr h).steps + 1

/-- The command, where the arbiter lets it issue, runs to its end and its hart goes on at `npc`, with the effect that `u` holds. -/
def JumpsTo (c : Instr) (h : Hart) (npc : Addr) (s u : State) : Prop :=
  Granted h c s → ∃ t, exec c s = .next t ∧ Retired h npc (countAfter h c s u) (Second h c s) u t

/-- The command, where the arbiter lets it issue, runs to its end in sequence, with the effect that `u` holds. -/
def RunsTo (c : Instr) (h : Hart) (s u : State) : Prop := JumpsTo c h ((s.thr h).pc + 4) s u

/-- The state after an instruction of a hart whose effect left `u` and which ends in a trap, a fault or a wait (06 R188, R189; 09
R247): that end, and the instruction's place in its core's pipeline (07 R207, R209). -/
def ended (h : Hart) (c : Instr) (s u : State) (dn : Done) : State :=
  match h with
  | .golne => finish h c (u, dn)
  | .thr t => recordIssue t (encodeNat c) (dn.cause ≠ 0) s (finish h c (u, dn))

/-- The command, where the arbiter lets it issue, ends as `dn` says after an effect that left `u`. -/
def EndsIn (c : Instr) (h : Hart) (s u : State) (dn : Done) : Prop := Granted h c s → exec c s = .next (ended h c s u dn)

/-- An operation that a hart's instruction makes on the way leaves the hart at its PC, with nothing asked of it. -/
def Kept (h : Hart) (s u : State) : Prop :=
  (u.thr h).pc = (s.thr h).pc ∧ (u.thr h).haltAsked = 0 ∧ (u.thr h).parkAsked = false

/-- An operation that a hart's instruction makes on the way leaves the hart running at its PC, with nothing asked of it. -/
def StillAt (h : Hart) (s u : State) : Prop := (u.thr h).st = .running ∧ Kept h s u

/-- No watchpoint of a thread's core is armed (19 R510). -/
def Unwatched (h : Hart) (s : State) : Prop :=
  ∀ t, h = .thr t → bitOf (s.dget (dbgIdx t.core) 7) 63 = false ∧ bitOf (s.dget (dbgIdx t.core) 8) 63 = false

/-- A principal's write of an entry passes the checks of 16 R424, steps 1 to 11, and the dictionary window is open to it (18 R480). -/
def Admitted (w : Writer) (idx sub off : Nat) (data : List Byte) (gen : Option Nat) (s : State) : Prop :=
  windowShut s w = false ∧ checkWrite w idx sub off data gen s = none

/-- A command's write of an entry is refused with an abort code, and what R424 and R434 leave behind is all that it does. -/
def Refused (c : Instr) (w : Writer) (idx sub : Nat) (code : Abort) (unauth : Bool) (s : State) : Prop :=
  exec c s = .next (refuseWrite w idx sub code unauth (writerPc w s) s)

/-- A command that writes an entry is refused as the first check of 16 R424 that fails says; where that is step 11, a reserved value of
the entry, which is step 10, may be what refuses it. -/
def Checked (c : Instr) (w : Writer) (idx sub off : Nat) (data : List Byte) (gen : Option Nat) (s : State) : Prop :=
  ∀ a n, windowShut s w = false → checkWrite w idx sub off data gen s = some (a, n) →
    Refused c w idx sub a n s ∨ (a = 0x08000022 ∧ Refused c w idx sub 0x06090030 false s)

/-- The state in which a principal's write of an entry is done: the generation that it has staged for the entry is taken from
the window (16 R434). -/
def Unstaged (w : Writer) (idx sub : Nat) (s : State) : State := (takeStaged w idx sub none s).1

/-- A principal's write of an entry, with the generation that it has staged, passes the checks of 16 R424, steps 1 to 11, and
the dictionary window is open to it (18 R480; 16 R434). -/
def Passes (w : Writer) (idx sub off : Nat) (data : List Byte) (s : State) : Prop :=
  windowShut s w = false ∧ checkWrite w idx sub off data (takeStaged w idx sub none s).2 (Unstaged w idx sub s) = none

/-- A command's write of an entry is refused with an abort code after its principal's staged generation is taken, and what R424
and R434 leave behind is all that it does besides. -/
def Turned (c : Instr) (w : Writer) (idx sub : Nat) (code : Abort) (unauth : Bool) (s : State) : Prop :=
  exec c s = .next (refuseWrite w idx sub code unauth (writerPc w (Unstaged w idx sub s)) (Unstaged w idx sub s))

/-- A command that writes an entry with its principal's staged generation is refused as the first check of 16 R424 that fails
says, steps 10 and 11 as for `Checked`. -/
def Screened (c : Instr) (w : Writer) (idx sub off : Nat) (data : List Byte) (s : State) : Prop :=
  ∀ a n, windowShut s w = false →
    checkWrite w idx sub off data (takeStaged w idx sub none s).2 (Unstaged w idx sub s) = some (a, n) →
    Turned c w idx sub a n s ∨ (a = 0x08000022 ∧ Turned c w idx sub 0x06090030 false s)

end Sys2Proof.Machine
end

