-- ==== Sys2Proof/WellFormed.lean ====
section
/-!
DEFINITION. WellFormed.lean: which command terms the spec's encodings and protocols can spell. The types of Syntax.lean hold
what is a plain range; what is left is here: an instruction that the hart's configuration defines, with no undefined operand
combination (06 R162, R170, R194; 10 R278), frames, descriptors and lists of the length that their protocol fixes, function
numbers of the master identity map (01 R33).
-/
namespace Sys2Proof

/-- The master identity of a PCIe function: PF 0 to 7 at 0x1000, VF 0 to 2,047 at 0x1800 (01 R33). -/
def isFunction (fn : BitVec 16) : Bool := (0x1000 ≤ fn.toNat && fn.toNat < 0x1008) || (0x1800 ≤ fn.toNat && fn.toNat < 0x2000)

/-- The lengths of a CAN FD frame's data field; another than 8 or 64 is served as R429 says (16 R428, R429). -/
def canLength (f : List Byte) : Bool := f.length ≤ 8 || [12, 16, 20, 24, 32, 48, 64].contains f.length

/-- A CXL.mem read, or a write of one 64-byte line (14 R392). -/
def lineOrRead (wr : Option (List Byte)) : Bool :=
  match wr with
  | none => true
  | some d => d.length == 64

/-- Whether a command term is well formed. -/
def Instr.wf (i : Instr) : Bool :=
  match i with
  | .stemTransfer x => decide (x.src ≠ x.dst) && decide (0 < x.size)
  | .ruleStoreWrite _ _ _ data => decide (0 < data.length)
  | .templateWrite _ _ _ data => decide (0 < data.length)
  | .tableBatchSubmit _ _ data => decide (0 < data.length)
  | .undefinedInstruction h word => (decodeWord h word).isNone
  | .add h rd ra rb => !undefinedFor h (.add h rd ra rb)
  | .sub h rd ra rb => !undefinedFor h (.sub h rd ra rb)
  | .and h rd ra rb => !undefinedFor h (.and h rd ra rb)
  | .or h rd ra rb => !undefinedFor h (.or h rd ra rb)
  | .xor h rd ra rb => !undefinedFor h (.xor h rd ra rb)
  | .andn h rd ra rb => !undefinedFor h (.andn h rd ra rb)
  | .sll h rd ra rb => !undefinedFor h (.sll h rd ra rb)
  | .srl h rd ra rb => !undefinedFor h (.srl h rd ra rb)
  | .sra h rd ra rb => !undefinedFor h (.sra h rd ra rb)
  | .ror h rd ra rb => !undefinedFor h (.ror h rd ra rb)
  | .mul h rd ra rb => !undefinedFor h (.mul h rd ra rb)
  | .mulhu h rd ra rb => !undefinedFor h (.mulhu h rd ra rb)
  | .mulhs h rd ra rb => !undefinedFor h (.mulhs h rd ra rb)
  | .min h rd ra rb => !undefinedFor h (.min h rd ra rb)
  | .max h rd ra rb => !undefinedFor h (.max h rd ra rb)
  | .minu h rd ra rb => !undefinedFor h (.minu h rd ra rb)
  | .maxu h rd ra rb => !undefinedFor h (.maxu h rd ra rb)
  | .sel h rd ra rb rc => !undefinedFor h (.sel h rd ra rb rc)
  | .addi h rd ra imm => !undefinedFor h (.addi h rd ra imm)
  | .andi h rd ra imm => !undefinedFor h (.andi h rd ra imm)
  | .ori h rd ra imm => !undefinedFor h (.ori h rd ra imm)
  | .xori h rd ra imm => !undefinedFor h (.xori h rd ra imm)
  | .slli h rd ra sh => !undefinedFor h (.slli h rd ra sh)
  | .srli h rd ra sh => !undefinedFor h (.srli h rd ra sh)
  | .srai h rd ra sh => !undefinedFor h (.srai h rd ra sh)
  | .rori h rd ra sh => !undefinedFor h (.rori h rd ra sh)
  | .imms h rd imm => !undefinedFor h (.imms h rd imm)
  | .immz h rd imm => !undefinedFor h (.immz h rd imm)
  | .immh h rd imm => !undefinedFor h (.immh h rd imm)
  | .immsh h rd imm => !undefinedFor h (.immsh h rd imm)
  | .ceq h rd ra rb => !undefinedFor h (.ceq h rd ra rb)
  | .cne h rd ra rb => !undefinedFor h (.cne h rd ra rb)
  | .clt h rd ra rb => !undefinedFor h (.clt h rd ra rb)
  | .cge h rd ra rb => !undefinedFor h (.cge h rd ra rb)
  | .cltu h rd ra rb => !undefinedFor h (.cltu h rd ra rb)
  | .cgeu h rd ra rb => !undefinedFor h (.cgeu h rd ra rb)
  | .ceqi h rd ra imm => !undefinedFor h (.ceqi h rd ra imm)
  | .cnei h rd ra imm => !undefinedFor h (.cnei h rd ra imm)
  | .clti h rd ra imm => !undefinedFor h (.clti h rd ra imm)
  | .cltui h rd ra imm => !undefinedFor h (.cltui h rd ra imm)
  | .adda h rd ra rb => !undefinedFor h (.adda h rd ra rb)
  | .suba h rd ra rb => !undefinedFor h (.suba h rd ra rb)
  | .difa h rd ra rb => !undefinedFor h (.difa h rd ra rb)
  | .mva h rd ra => !undefinedFor h (.mva h rd ra)
  | .mvda h rd ra => !undefinedFor h (.mvda h rd ra)
  | .mvad h rd ra => !undefinedFor h (.mvad h rd ra)
  | .caeq h rd ra rb => !undefinedFor h (.caeq h rd ra rb)
  | .cane h rd ra rb => !undefinedFor h (.cane h rd ra rb)
  | .caltu h rd ra rb => !undefinedFor h (.caltu h rd ra rb)
  | .cageu h rd ra rb => !undefinedFor h (.cageu h rd ra rb)
  | .addai h rd ra imm => !undefinedFor h (.addai h rd ra imm)
  | .bfx h rd ra rb => !undefinedFor h (.bfx h rd ra rb)
  | .bfxs h rd ra rb => !undefinedFor h (.bfxs h rd ra rb)
  | .bfi h rd ra rb => !undefinedFor h (.bfi h rd ra rb)
  | .clz h rd ra => !undefinedFor h (.clz h rd ra)
  | .ctz h rd ra => !undefinedFor h (.ctz h rd ra)
  | .popc h rd ra => !undefinedFor h (.popc h rd ra)
  | .perm h rd ra rb rc => !undefinedFor h (.perm h rd ra rb rc)
  | .bswap h rd ra => !undefinedFor h (.bswap h rd ra)
  | .bswapw h rd ra => !undefinedFor h (.bswapw h rd ra)
  | .bswaph h rd ra => !undefinedFor h (.bswaph h rd ra)
  | .bfxi h rd ra pos width1 => !undefinedFor h (.bfxi h rd ra pos width1)
  | .bfxsi h rd ra pos width1 => !undefinedFor h (.bfxsi h rd ra pos width1)
  | .bfii h rd ra pos width1 => !undefinedFor h (.bfii h rd ra pos width1)
  | .mac h ac ra rb z => !undefinedFor h (.mac h ac ra rb z)
  | .macu h ac ra rb z => !undefinedFor h (.macu h ac ra rb z)
  | .sum h ac ra z => !undefinedFor h (.sum h ac ra z)
  | .sums h ac ra z => !undefinedFor h (.sums h ac ra z)
  | .csa h ac ra len1 z => !undefinedFor h (.csa h ac ra len1 z)
  | .mvac h rd ac part => !undefinedFor h (.mvac h rd ac part)
  | .ldb h rt ra am => !undefinedFor h (.ldb h rt ra am)
  | .ldbs h rt ra am => !undefinedFor h (.ldbs h rt ra am)
  | .ldh h rt ra am be => !undefinedFor h (.ldh h rt ra am be)
  | .ldhs h rt ra am be => !undefinedFor h (.ldhs h rt ra am be)
  | .ldw h rt ra am be => !undefinedFor h (.ldw h rt ra am be)
  | .ldws h rt ra am be => !undefinedFor h (.ldws h rt ra am be)
  | .ldd h rt ra am be => !undefinedFor h (.ldd h rt ra am be)
  | .lda h rt ra am => !undefinedFor h (.lda h rt ra am)
  | .stb h rt ra am => !undefinedFor h (.stb h rt ra am)
  | .sth h rt ra am be => !undefinedFor h (.sth h rt ra am be)
  | .stw h rt ra am be => !undefinedFor h (.stw h rt ra am be)
  | .std h rt ra am be => !undefinedFor h (.std h rt ra am be)
  | .sta h rt ra am => !undefinedFor h (.sta h rt ra am)
  | .storeDrain h => !undefinedFor h (.storeDrain h)
  | .beq h ra rb off => !undefinedFor h (.beq h ra rb off)
  | .bne h ra rb off => !undefinedFor h (.bne h ra rb off)
  | .blt h ra rb off => !undefinedFor h (.blt h ra rb off)
  | .bge h ra rb off => !undefinedFor h (.bge h ra rb off)
  | .bltu h ra rb off => !undefinedFor h (.bltu h ra rb off)
  | .bgeu h ra rb off => !undefinedFor h (.bgeu h ra rb off)
  | .bz h ra off => !undefinedFor h (.bz h ra off)
  | .bnz h ra off => !undefinedFor h (.bnz h ra off)
  | .j h off => !undefinedFor h (.j h off)
  | .jal h off => !undefinedFor h (.jal h off)
  | .jr h ra => !undefinedFor h (.jr h ra)
  | .jalr h ra => !undefinedFor h (.jalr h ra)
  | .ldr h rd ra => !undefinedFor h (.ldr h rd ra)
  | .stc h rd ra rb => !undefinedFor h (.stc h rd ra rb)
  | .lkacq h rd ra rb => !undefinedFor h (.lkacq h rd ra rb)
  | .lkrel h rd ra rb => !undefinedFor h (.lkrel h rd ra rb)
  | .tas h rd ra => !undefinedFor h (.tas h rd ra)
  | .fence h => !undefinedFor h (.fence h)
  | .fenceS h => !undefinedFor h (.fenceS h)
  | .fenceL h => !undefinedFor h (.fenceL h)
  | .isync h => !undefinedFor h (.isync h)
  | .tsldb h rt x off => !undefinedFor h (.tsldb h rt x off)
  | .tsldbs h rt x off => !undefinedFor h (.tsldbs h rt x off)
  | .tsldh h rt x off => !undefinedFor h (.tsldh h rt x off)
  | .tsldhs h rt x off => !undefinedFor h (.tsldhs h rt x off)
  | .tsldw h rt x off => !undefinedFor h (.tsldw h rt x off)
  | .tsldws h rt x off => !undefinedFor h (.tsldws h rt x off)
  | .tsldd h rt x off => !undefinedFor h (.tsldd h rt x off)
  | .tsstb h rt x off => !undefinedFor h (.tsstb h rt x off)
  | .tssth h rt x off => !undefinedFor h (.tssth h rt x off)
  | .tsstw h rt x off => !undefinedFor h (.tsstw h rt x off)
  | .tsstd h rt x off => !undefinedFor h (.tsstd h rt x off)
  | .tkwait h => !undefinedFor h (.tkwait h)
  | .tkend h => !undefinedFor h (.tkend h)
  | .tkrel h => !undefinedFor h (.tkrel h)
  | .chwr h ra rb => !undefinedFor h (.chwr h ra rb)
  | .chend h ra => !undefinedFor h (.chend h ra)
  | .chrcv h rd ra => !undefinedFor h (.chrcv h rd ra)
  | .chrd h rd n => !undefinedFor h (.chrd h rd n)
  | .nop h => !undefinedFor h (.nop h)
  | .evwait h rd => !undefinedFor h (.evwait h rd)
  | .brk h => !undefinedFor h (.brk h)
  | .eret h => !undefinedFor h (.eret h)
  | .mfs h rd n => !undefinedFor h (.mfs h rd n)
  | .mts h ra n => !undefinedFor h (.mts h ra n)
  | .thres h t => !undefinedFor h (.thres h t)
  | .thresa h t ra => !undefinedFor h (.thresa h t ra)
  | .thpark h t => !undefinedFor h (.thpark h t)
  | .thrst h t => !undefinedFor h (.thrst h t)
  | .crcc h rd ra k1 => !undefinedFor h (.crcc h rd ra k1)
  | .crce h rd ra k1 => !undefinedFor h (.crce h rd ra k1)
  | .tpz h rd ra rb => !undefinedFor h (.tpz h rd ra rb)
  | .bmm h rd ra rb => !undefinedFor h (.bmm h rd ra rb)
  | .bmmo h rd ra rb => !undefinedFor h (.bmmo h rd ra rb)
  | .brev h rd ra => !undefinedFor h (.brev h rd ra)
  | .mix h rd ra n => !undefinedFor h (.mix h rd ra n)
  | .mvdc h c1 r => !undefinedFor h (.mvdc h c1 r)
  | .mvcd h r c1 => !undefinedFor h (.mvcd h r c1)
  | .tlpm h c1 c2 v6 => !undefinedFor h (.tlpm h c1 c2 v6)
  | .tl2 h c1 c2 => !undefinedFor h (.tl2 h c1 c2)
  | .tl2l h c1 c2 r => !undefinedFor h (.tl2l h c1 c2 r)
  | .tctx h c1 c2 create => !undefinedFor h (.tctx h c1 c2 create)
  | .tcdel h c1 r => !undefinedFor h (.tcdel h c1 r)
  | .tbat h c1 r => !undefinedFor h (.tbat h c1 r)
  | .tadd h c1 c2 r => !undefinedFor h (.tadd h c1 c2 r)
  | .customerInstruction h opc rd ra rb imm => !undefinedFor h (.customerInstruction h opc rd ra rb imm)
  | .pageClassWrite _ _ data => decide (0 < data.length)
  | .channelBindingWrite _ _ _ data => decide (0 < data.length)
  | .lockWindowAcquire _ _ size => decide (0 < size)
  | .lockWindowTry _ _ size => decide (0 < size)
  | .lockWindowPoll _ _ size => decide (0 < size)
  | .lockWindowCancel _ _ size => decide (0 < size)
  | .lockWindowPeek _ _ size => decide (0 < size)
  | .lockWindowRelease _ _ size _ => decide (0 < size)
  | .pinListWrite _ _ data => decide (0 < data.length)
  | .mailboxBindingWrite _ _ data => decide (0 < data.length)
  | .queueObjectWrite _ _ _ _ data => decide (0 < data.length)
  | .pfcFrameReceive _ _ quanta => quanta.length == 8
  | .doorbell fn _ size _ => isFunction fn && decide (0 < size)
  | .hostTxFetch _ descs _ => decide (0 < descs.length) && descs.all (fun d => d.length == 32)
  | .hostReceiveWrite _ descs => descs.all (fun d => d.length == 32)
  | .functionLevelReset fn => isFunction fn
  | .busMasterDisable fn => isFunction fn
  | .cxlMemRequest _ wr => lineOrRead wr
  | .dramWrite _ _ data _ _ => decide (0 < data.length) && decide (data.length ≤ 64)
  | .dramTemperatureRead _ status _ => status.length == 8
  | .dictionaryWrite _ _ _ _ _ data => decide (0 < data.length)
  | .bulkRead _ desc => desc.length == 32
  | .bulkWrite _ desc _ => desc.length == 32
  | .sdoInitiateDownload frame => canLength frame
  | .sdoDownloadSegment frame => canLength frame
  | .sdoInitiateUpload frame => canLength frame
  | .sdoUploadSegment frame => canLength frame
  | .sdoAbort frame => canLength frame
  | .spdmChallenge _ nonce => nonce.length == 32
  | .flashPartitionWrite _ _ _ data => decide (0 < data.length)
  | .counterChainWrite _ _ _ data => decide (0 < data.length)
  | .debugThreadStateWrite _ _ _ data => decide (0 < data.length)
  | .jtagExtest pins => decide (0 < pins.length)
  | .jtagSamplePreload pins => decide (0 < pins.length)
  | .jtagPermit permit => permit.length == 256
  | .msixVectorUnmask fn _ => isFunction fn
  | .deviceReset | .startStepComplete _ | .startWatchdogExpiry | .minimalRetryExpiry | .goldenRetryExpiry _
  | .failedStartClearExpiry | .clearFailedStarts _ _ | .restart _ _ | .paceReading _ _ | .countWindowBoundary
  | .crossingWordIn _ _ _ _ | .clockLoss _ | .clockReturn _ | .modeAutonomousWrite _ _ _ _ | .modeDeterministicWrite _ _ _ _
  | .modeEcoWrite _ _ _ _ | .modeWitnessWrite _ _ _ _ | .modeWitnessStrictWrite _ _ _ _ | .modeMinimalWrite _ _ _ _
  | .modeDebugWrite _ _ _ _ | .modeDrainWrite _ _ _ _ | .deterministicEntryComplete _ _ | .clusterParked _ _
  | .drainComplete _ | .drainTimeout _ | .hostLinksDownExpiry | .hostLinkUpExpiry | .swapHaltWaitExpiry _
  | .stateMismatchExpiry _ | .frameReceive _ _ _ | .parseWalk _ _ | .taskForm _ | .pfcRepeat _ _ | .pauseHeldExpiry _ _
  | .operandArrive _ _ _ | .operandTimeout _ _ _ | .taskDispatch _ | .taskRelease _ _ _ | .taskAgeExpiry _ _
  | .egressStallExpiry _ | .parseBankActivate _ _ _ _ | .tableCommitApply | .petalCopyComplete _ | .generationHoldExpiry _
  | .memoryReclaim | .learnCommit | .learnFilterExpiry _ _ | .tableTick | .agingScan | .contextExpiryScan
  | .trieBankFillComplete _ _ | .mergingBufferDrain _ | .instructionFetch _ _ | .tableHelperResult _ _
  | .customerBankActivate _ _ _ _ | .cacheClean _ _ _ _ _ | .cacheInvalidate _ _ _ _ _ | .cacheCleanInvalidate _ _ _ _ _
  | .cachePrefetchHint _ _ _ _ _ | .cacheLockLine _ _ _ _ _ | .cacheUnlockLine _ _ _ _ _ | .l2LockWordWrite _ _ _ _ _
  | .sideBufferAgeExpiry _ _ | .evictionAccept _ _ | .threadCommandResume _ _ | .threadCommandResumeAt _ _ _
  | .threadCommandPark _ _ | .threadCommandReset _ _ | .shareWordWrite _ _ _ _ | .channelHoldExpiry _ _
  | .channelDiscardStaging _ _ _ _ | .channelFlushFifo _ _ _ | .channelPost _ _ _ _ | .waitCensusEvaluation _ _
  | .participationMaskWrite _ _ | .forcedRelease _ _ | .mailboxMsgWrite _ _ _ _ | .mailboxGo _ _ _ | .mailboxTake _ _ _
  | .mailboxStatusClear _ _ _ | .mailboxTimeout _ | .bufferAllocateRead _ _ _ | .bufferFreeWrite _ _ _
  | .freeListRebuildComplete _ _ | .spillVictim _ | .spillRecordAccepted _ | .refillComplete _ _ | .sketchClear _ _ _
  | .flowCounterWriteback _ | .slotFrameBoundary | .slotStart | .segmentComplete _ _ | .cowslipCommit _ _ | .saImport _ _ _
  | .saLoad _ _ _ | .saUnload _ _ _ | .saErase _ _ _ | .saDrainComplete _ | .jobSubmit _ _ | .jobComplete _
  | .packetTransmit _ | .linkPauseReceive _ _ | .pauseExpiry _ _ | .laneHealthChange _ _ | .timeOffsetWrite _ _ | .ppsInEdge
  | .ppsOutSecond | .msixRaise _ | .hostReadError _ | .perstAssert _ | .perstDeassert _ | .hostLinkDown _ _
  | .hostLinkUp _ _ _ _ | .cxlIdentifyMemoryDevice | .cxlGetHealthInfo | .cxlUnsupportedCommand _ | .dramRead _ _ _ _
  | .dramReadData _ _ | .ageLimitPromotion _ | .scrubRead _ _ | .bankRefresh _ _ | .zqCalibration _
  | .dqsOscillatorCheck _ _ _ | .pageIdleClose _ _ | .dramPowerDown _ | .dramCopyComplete _ | .generationStageWrite _ _ _ _
  | .time80SnapshotRead _ _ _ _ | .sdoSegmentTimeout | .nmtCommand _ _ | .canHeartbeat | .canGrantTick
  | .mctpSetEndpointId _ _ | .mctpGetEndpointId _ | .mctpGetEndpointUuid _ | .mctpGetVersionSupport _
  | .mctpGetMessageTypeSupport _ | .mctpGetVdmSupport _ | .mctpDictRead _ _ | .mctpDictWrite _ _ | .spdmGetVersion _
  | .spdmGetCapabilities _ | .spdmNegotiateAlgorithms _ | .spdmGetDigests _ | .spdmGetCertificate _ _ _
  | .spdmGetMeasurements _ _ | .spdmKeyExchange _ _ | .spdmFinish _ _ | .spdmKeyUpdate _ _ | .spdmHeartbeat _ _
  | .spdmEndSession _ _ | .spdmHeartbeatTimeout _ | .acknowledgedSequenceWrite _ _ | .activateGolneFirmware _ _
  | .activateClusterFirmware _ _ | .activateParseGraph _ _ | .activateCustomerBank _ _ | .activateCowslipFirmware _ _
  | .clusterActivationDrained | .activationDrainLimitExpiry | .golneActivationTimeout | .errorRaise _ _ _
  | .statusWordClear _ _ _ _ | .escalationExpiry _ _ _ | .hangDetected _ | .petalHalt _ | .petalHaltCommand _ _
  | .dumpComplete _ _ _ | .petalRestart _ | .petalRestartCommand _ _ | .petalRestartComplete _ _ | .portResetCommand _ _
  | .dumpAcknowledge _ _ | .golneFirmwareFault | .golneFirmwareBack | .rootUnitFault _ | .wearReading _ _
  | .sorrelSwapCommand _ _ | .sorrelRetireSpare _ _ | .sorrelCancelTrigger _ _ | .swapStart | .swapComplete _
  | .migrationFinishLimitExpiry _ | .counterSnapshot _ _ _ | .histogramClear _ _ _ _ | .permitPresent _ _ | .unlockExpiry
  | .relock _ _ | .debugHalt _ _ | .debugResume _ _ | .debugStep _ _ | .debugClusterHalt _ _ | .debugMemoryAccess _ _
  | .tapReset | .jtagIdcode | .jtagDict _ | .jtagMem _ | .jtagBypass _ | .tansyLaneWrite _ _ _ | .vinApply | .standbyGood
  | .undervoltageLockout | .overvoltageCutoff | .vinMeasurement _ | .vinRestoreExpiry | .inputPowerMeasurement _ _
  | .powerCapRestoreExpiry | .inputLimitTrip | .railFault | .phaseFault _ | .junctionSensorRead _ | .thermalShutdown
  | .hpEnAssert | .railsGood | .hpEnDeassert | .attnAssert | .attnDeassert | .surpriseRemoval | .opticsInsert _ _
  | .opticsRemove _ | .cageOvercurrent _ | .cagePowerRestore _ _ _ | .numvfsWrite _ _ | .journalRecordCommitted _
  | .canErrorPassiveOrBusOff _ => true

/-- Well-formedness as a proposition. -/
abbrev Instr.WellFormed (i : Instr) : Prop := i.wf = true

end Sys2Proof
end

