-- ==== Sys2Proof/Certificates/Slice0/Obligations.lean ====
section
/-!
DEFINITION. Certificates/Slice0/Obligations.lean: the statements for the provers, each with the rule of spec/ that it
formalises.
-/
open Sys2Proof Sys2Proof.Machine

/-- 06 R169, with R163 and R164: every integer, immediate, shift, constant, compare and address instruction gives the result of
its row, in its destination register alone, and the hart goes on at the next word. -/
def Obligations.IntegerResults : Prop :=
  ∀ (h : Hart) (s : State) (rd ra rb rc : Reg) (imm : BitVec 16) (sh : BitVec 6), Flows h s →
    let a := s.dreg h ra
    let b := s.dreg h rb
    let p := s.areg h ra
    let q := s.areg h rb
    let n := b.toNat % 64
    let bit := fun (x : Prop) [Decidable x] => if x then (1 : Word) else 0
    let d := fun (c : Instr) (v : Word) => RunsTo c h s (s.setD h rd v)
    let e := fun (c : Instr) (v : Addr) => RunsTo c h s (s.setA h rd v)
    d (.add h rd ra rb) (a + b) ∧ d (.sub h rd ra rb) (a - b) ∧
    d (.and h rd ra rb) (a &&& b) ∧ d (.or h rd ra rb) (a ||| b) ∧ d (.xor h rd ra rb) (a ^^^ b) ∧
    d (.andn h rd ra rb) (a &&& ~~~b) ∧
    d (.sll h rd ra rb) (a <<< n) ∧ d (.srl h rd ra rb) (a >>> n) ∧ d (.sra h rd ra rb) (a.sshiftRight n) ∧
    d (.ror h rd ra rb) (a.rotateRight n) ∧
    d (.mul h rd ra rb) (a * b) ∧
    d (.mulhu h rd ra rb) ((a.zeroExtend 128 * b.zeroExtend 128).extractLsb' 64 64) ∧
    d (.mulhs h rd ra rb) ((a.signExtend 128 * b.signExtend 128).extractLsb' 64 64) ∧
    d (.min h rd ra rb) (if a.toInt < b.toInt then a else b) ∧ d (.max h rd ra rb) (if a.toInt < b.toInt then b else a) ∧
    d (.minu h rd ra rb) (if a.toNat < b.toNat then a else b) ∧ d (.maxu h rd ra rb) (if a.toNat < b.toNat then b else a) ∧
    d (.sel h rd ra rb rc) (if s.dreg h rc ≠ 0 then a else b) ∧
    d (.addi h rd ra imm) (a + imm.signExtend 64) ∧ d (.andi h rd ra imm) (a &&& imm.zeroExtend 64) ∧
    d (.ori h rd ra imm) (a ||| imm.zeroExtend 64) ∧ d (.xori h rd ra imm) (a ^^^ imm.zeroExtend 64) ∧
    d (.slli h rd ra sh) (a <<< sh.toNat) ∧ d (.srli h rd ra sh) (a >>> sh.toNat) ∧
    d (.srai h rd ra sh) (a.sshiftRight sh.toNat) ∧ d (.rori h rd ra sh) (a.rotateRight sh.toNat) ∧
    d (.imms h rd imm) (imm.signExtend 64) ∧ d (.immz h rd imm) (imm.zeroExtend 64) ∧
    d (.immh h rd imm) (imm.signExtend 64 <<< 16) ∧ d (.immsh h rd imm) ((s.dreg h rd <<< 16) ||| imm.zeroExtend 64) ∧
    d (.ceq h rd ra rb) (bit (a = b)) ∧ d (.cne h rd ra rb) (bit (a ≠ b)) ∧
    d (.clt h rd ra rb) (bit (a.toInt < b.toInt)) ∧ d (.cge h rd ra rb) (bit (b.toInt ≤ a.toInt)) ∧
    d (.cltu h rd ra rb) (bit (a.toNat < b.toNat)) ∧ d (.cgeu h rd ra rb) (bit (b.toNat ≤ a.toNat)) ∧
    d (.ceqi h rd ra imm) (bit (a = imm.signExtend 64)) ∧ d (.cnei h rd ra imm) (bit (a ≠ imm.signExtend 64)) ∧
    d (.clti h rd ra imm) (bit (a.toInt < (imm.signExtend 64).toInt)) ∧
    d (.cltui h rd ra imm) (bit (a.toNat < (imm.signExtend 64).toNat)) ∧
    e (.adda h rd ra rb) (p + b.truncate 48) ∧ e (.suba h rd ra rb) (p - b.truncate 48) ∧
    d (.difa h rd ra rb) ((p - q).signExtend 64) ∧ e (.mva h rd ra) p ∧
    (a.toNat < 2 ^ 48 → e (.mvda h rd ra) (a.truncate 48)) ∧
    (2 ^ 48 ≤ a.toNat → EndsIn (.mvda h rd ra) h s s (.fault 6 0)) ∧
    d (.mvad h rd ra) (p.zeroExtend 64) ∧
    d (.caeq h rd ra rb) (bit (p = q)) ∧ d (.cane h rd ra rb) (bit (p ≠ q)) ∧
    d (.caltu h rd ra rb) (bit (p.toNat < q.toNat)) ∧ d (.cageu h rd ra rb) (bit (q.toNat ≤ p.toNat)) ∧
    e (.addai h rd ra imm) (p + imm.signExtend 48)

/-- 06 R170: the bit, permute and byte-swap instructions: fields that run past bit 63 included, zero counts told by the bits they
count, permutes and swaps told byte by byte (byte i of x is x[8i+7:8i]). -/
def Obligations.BitResults : Prop :=
  ∀ (h : Hart) (s : State) (rd ra rb rc : Reg) (pos width1 : BitVec 6), Flows h s →
    let a := s.dreg h ra
    let b := s.dreg h rb
    let d := fun (c : Instr) (v : Word) => RunsTo c h s (s.setD h rd v)
    let byte := fun (x : Word) (i : Nat) => x.extractLsb' (8 * i) 8
    let field := fun (p w : Nat) => (a >>> p) &&& BitVec.ofNat 64 (2 ^ w - 1)
    let signed := fun (p w : Nat) =>
      let n := min w (64 - p)
      let v := field p w
      if v.getLsbD (n - 1) then v ||| (BitVec.allOnes 64 <<< n) else v
    let inserted := fun (p w : Nat) =>
      let m := BitVec.ofNat 64 (2 ^ w - 1) <<< p
      (s.dreg h rd &&& ~~~m) ||| ((a <<< p) &&& m)
    let p := b.toNat % 64
    let w := (b.toNat / 256) % 64 + 1
    d (.bfx h rd ra rb) (field p w) ∧ d (.bfxs h rd ra rb) (signed p w) ∧ d (.bfi h rd ra rb) (inserted p w) ∧
    d (.bfxi h rd ra pos width1) (field pos.toNat (width1.toNat + 1)) ∧
    d (.bfxsi h rd ra pos width1) (signed pos.toNat (width1.toNat + 1)) ∧
    d (.bfii h rd ra pos width1) (inserted pos.toNat (width1.toNat + 1)) ∧
    (∃ v : Nat, d (.clz h rd ra) (BitVec.ofNat 64 v) ∧ v ≤ 64 ∧ (∀ i, 64 - v ≤ i → i < 64 → a.getLsbD i = false) ∧
      (v < 64 → a.getLsbD (63 - v) = true)) ∧
    (∃ v : Nat, d (.ctz h rd ra) (BitVec.ofNat 64 v) ∧ v ≤ 64 ∧ (∀ i, i < v → a.getLsbD i = false) ∧
      (v < 64 → a.getLsbD v = true)) ∧
    d (.popc h rd ra) (BitVec.ofNat 64 ((List.range 64).filter (fun i => a.getLsbD i)).length) ∧
    (∃ v : Word, d (.bswap h rd ra) v ∧ ∀ i, i < 8 → byte v i = byte a (7 - i)) ∧
    (∃ v : Word, d (.bswapw h rd ra) v ∧ ∀ i, i < 8 → byte v i = if i < 4 then byte a (3 - i) else 0) ∧
    (∃ v : Word, d (.bswaph h rd ra) v ∧ ∀ i, i < 8 → byte v i = if i < 2 then byte a (1 - i) else 0) ∧
    (∃ v : Word, d (.perm h rd ra rb rc) v ∧ ∀ i, i < 8 →
      let sel := ((s.dreg h rc).extractLsb' (4 * i) 4).toNat
      byte v i = if sel < 8 then byte a sel else byte b (sel - 8))

/-- 06 R171: the accumulator instructions on a core thread: `MAC`, `MACU`, `SUM`, `SUMS` and `CSA` change the named accumulator
alone, modulo 2^96, from 0 in their Z forms; `MVAC` gives LO, HI, SAT or FOLD in a data register. -/
def Obligations.AccumulatorResults : Prop :=
  ∀ (t : ThreadId) (s : State) (ac : Fin 4) (rd ra rb : Reg) (z : Bool) (len1 : BitVec 3), Flows (.thr t) s →
    let h := Hart.thr t
    let a := s.dreg h ra
    let b := s.dreg h rb
    let acc : Acc := if z then 0 else s.acc h ac
    let d := fun (c : Instr) (v : Acc) => RunsTo c h s (s.setAc h ac v)
    let word := fun (j : Nat) => (a.extractLsb' (16 * j) 8).toNat * 256 +
      if 2 * j + 1 < len1.toNat + 1 then (a.extractLsb' (16 * j + 8) 8).toNat else 0
    d (.mac h ac ra rb z) (acc + (a.truncate 32).signExtend 96 * (b.truncate 32).signExtend 96) ∧
    d (.macu h ac ra rb z) (acc + (a.truncate 32).zeroExtend 96 * (b.truncate 32).zeroExtend 96) ∧
    d (.sum h ac ra z) (acc + a.zeroExtend 96) ∧ d (.sums h ac ra z) (acc + a.signExtend 96) ∧
    d (.csa h ac ra len1 z) (acc + BitVec.ofNat 96 ((List.range ((len1.toNat + 2) / 2)).map word).sum) ∧
    (let x := s.acc h ac
     let mv := fun (part : BitVec 2) (v : Word) => RunsTo (.mvac h rd ac part) h s (s.setD h rd v)
     mv 0 (x.extractLsb' 0 64) ∧ mv 1 ((x.extractLsb' 64 32).zeroExtend 64) ∧
     mv 2 (if x.toNat < 2 ^ 64 then x.truncate 64 else 0xFFFFFFFFFFFFFFFF) ∧
     ∃ v : Nat, mv 3 (BitVec.ofNat 64 v) ∧ v ≤ 0xFFFF ∧ v % 0xFFFF = x.toNat % 0xFFFF ∧ (v = 0 ↔ x = 0))

/-- 06 R172 (the address of each mode), R173 (bytes, order and extension of each size) and R164 (`LDA`'s check): a load whose access
gives the bytes `l`, leaving the state `u`, puts their value into its destination after the post-increment; an access that faults
makes the instruction fault with that cause and no other effect. -/
def Obligations.LoadResults : Prop :=
  ∀ (h : Hart) (s u : State) (rt ra rb : Reg) (am : AddrMode) (be : Bool) (l : List Byte) (c x : Nat) (disp : BitVec 12)
    (scale : BitVec 2), Flows h s →
    (effAddr s h ra (.disp disp) = s.areg h ra + disp.signExtend 48 ∧ effAddr s h ra (.postInc disp) = s.areg h ra ∧
      effAddr s h ra (.index rb scale) = s.areg h ra + (s.dreg h rb <<< scale.toNat).truncate 48) ∧
    let acc := fun (n : Nat) => loadBytes h (effAddr s h ra am).toNat n s
    let gives := fun (n : Nat) => acc n = (u, .bytes l) ∧ l.length = n ∧ Kept h s u ∧ Unwatched h u
    let v := match am with
      | .postInc d => u.setA h ra (u.areg h ra + d.signExtend 48)
      | _ => u
    let n := leNat (if be then l.reverse else l)
    let z := fun (i : Instr) (k : Nat) => gives k → RunsTo i h s (v.setD h rt (BitVec.ofNat 64 n))
    let sx := fun (i : Instr) (k : Nat) => gives k → RunsTo i h s (v.setD h rt ((BitVec.ofNat (8 * k) n).signExtend 64))
    let bad := fun (i : Instr) (k : Nat) => undefinedFor h i = false → acc k = (u, .fault c x) →
      EndsIn i h s u (.fault c x)
    (be = false → z (.ldb h rt ra am) 1 ∧ sx (.ldbs h rt ra am) 1) ∧
    z (.ldh h rt ra am be) 2 ∧ sx (.ldhs h rt ra am be) 2 ∧ z (.ldw h rt ra am be) 4 ∧ sx (.ldws h rt ra am be) 4 ∧
    z (.ldd h rt ra am be) 8 ∧
    (gives 8 → undefinedFor h (.lda h rt ra am) = false → leNat l < 2 ^ 48 →
      RunsTo (.lda h rt ra am) h s (v.setA h rt (BitVec.ofNat 48 (leNat l)))) ∧
    (gives 8 → undefinedFor h (.lda h rt ra am) = false → 2 ^ 48 ≤ leNat l →
      EndsIn (.lda h rt ra am) h s u (.fault 6 0)) ∧
    bad (.ldb h rt ra am) 1 ∧ bad (.ldbs h rt ra am) 1 ∧ bad (.ldh h rt ra am be) 2 ∧ bad (.ldhs h rt ra am be) 2 ∧
    bad (.ldw h rt ra am be) 4 ∧ bad (.ldws h rt ra am be) 4 ∧ bad (.ldd h rt ra am be) 8 ∧ bad (.lda h rt ra am) 8

/-- 06 R172 to R175, 07 R211: a core thread's store that is aligned as its regions ask enters the store buffer, one entry for each
aligned piece with the store's PC, and retires after the post-increment: memory is unchanged (every byte), and so is every
register but the one post-incremented. The bytes are the register's low bytes in the order that BE selects. A misaligned store
faults with ALIGN. The Golne controller's stores are performed as they retire. -/
def Obligations.StoreResults : Prop :=
  ∀ (h : Hart) (s : State) (rt ra : Reg) (am : AddrMode) (be : Bool), Flows h s → Unwatched h s →
    let a := (effAddr s h ra am).toNat
    let stored := fun (n : Nat) => let l := leBytes n (s.dreg h rt).toNat; if be then l.reverse else l
    let inc := fun (u : State) => match am with
      | .postInc d => u.setA h ra (u.areg h ra + d.signExtend 48)
      | _ => u
    let held := fun (i : Instr) (l : List Byte) => ∀ t : ThreadId, h = .thr t →
      misaligned a l.length = false → a % 8 + l.length ≤ 8 → (s.thr h).sb.length < 4 → region a ≠ .ownImem → opWindow a = false →
      let u := s.updThr h (fun y => { y with sb := y.sb ++ [⟨l.zipIdx.map (fun e => (a + e.2, e.1)), y.pc⟩] })
      RunsTo i h s (inc u) ∧ ∀ t, exec i s = .next t → ∀ x, t.memByte x = s.memByte x
    let done := fun (i : Instr) (l : List Byte) => ∀ u m, storeBytes h a l s = (u, .bytes m) → Kept h s u →
      Unwatched h u → RunsTo i h s (inc u)
    let bad := fun (i : Instr) (l : List Byte) => misaligned a l.length = true → EndsIn i h s s (.fault 3 a)
    let ok := fun (i : Instr) (l : List Byte) => held i l ∧ done i l ∧ bad i l
    (be = false → ok (.stb h rt ra am) (stored 1)) ∧ ok (.sth h rt ra am be) (stored 2) ∧ ok (.stw h rt ra am be) (stored 4) ∧
    ok (.std h rt ra am be) (stored 8) ∧ ok (.sta h rt ra am) (leBytes 8 (s.areg h rt).toNat)

/-- 07 R211, 08 R221: in the thread's own L2 scratch, which is never cached, a drain performs the oldest store-buffer entry: the bytes
it carries and no others change in memory, at the address computed as the access computes it, and reservations on their granules
end; the loads of a piece that no buffered store overlaps read those bytes of memory, and leave all of memory as it was. -/
def Obligations.ScratchStoresAndLoads : Prop :=
  ∀ (t : ThreadId) (s : State) (a : Nat) (l : List Byte) (pc : Addr) (q : List SbEntry), petalHalted s t.p = false →
    region a = .ownScratch → checkAccess t.mid a true s = .ok .ownScratch → l ≠ [] → (s.slot t).gone = false → (s.core t.core).evict = [] →
    (s.thr (.thr t)).sb = ⟨l.zipIdx.map (fun e => (a + e.2, e.1)), pc⟩ :: q →
    ∃ u, exec (.storeDrain (.thr t)) s = .next u ∧ (u.thr (.thr t)).sb = q ∧
      (∀ k, k < l.length → u.memByte (memKey t.mid a s + k) = l.getD k 0) ∧
      (∀ x, (x < memKey t.mid a s ∨ memKey t.mid a s + l.length ≤ x) → u.memByte x = s.memByte x) ∧
      (∀ h, (u.thr h).resv ≠ some (memKey t.mid a s / 64)) ∧
      ∀ n, n ≤ l.length → a % 8 + n ≤ 8 → 0 < n → q = [] → poisoned u (memKey t.mid a s) n = false →
        checkAccess t.mid a false u = .ok .ownScratch →
        ∃ v, loadBytes (.thr t) a n u = (v, .bytes (l.take n)) ∧ ∀ x, v.memByte x = u.memByte x

/-- 06 R178, R179 and R194: `LDR` reads the 8 bytes at its home point and takes the reservation on their 64-byte granule; `STC` stores
and gives 0 where the thread's reservation names that granule, else stores nothing and gives 1, and ends the reservation either
way, counted at 0x3300.06 or .07; the Golne controller's `TAS` gives the old value and leaves it with bit 0 set, in DRAM, general,
and faults elsewhere. -/
def Obligations.AtomicResults : Prop :=
  (∀ (t : ThreadId) (s : State) (rd ra rb : Reg), Flows (.thr t) s → Unwatched (.thr t) s →
    let h := Hart.thr t
    let a := (s.areg h ra).toNat
    (∀ u, homeCause t a false s = none → u = homeLine t a (drainAll t s) → StillAt h s u →
      Unwatched h (homeRead t a u).1 → Kept h s (homeRead t a u).1 →
      poisoned u (memKey t.mid a u) 8 = false →
      ∃ v : State, v.mem = u.mem ∧ (v.thr h).d = (u.thr h).d ∧
        RunsTo (.ldr h rd ra) h s (v.updThr h (fun x =>
          { x.setD rd (BitVec.ofNat 64 (u.memNat (memKey t.mid a u) 8)) with resv := some (memKey t.mid a v / 64) }))) ∧
    (∀ u, homeCause t a true s = none → u = homeLine t a (drainHome t s) → StillAt h s u → Unwatched h u →
      (u.thr h).resv ≠ some (memKey t.mid a u / 64) →
      RunsTo (.stc h rd ra rb) h s
        ((u.updThr h (fun x => { x.setD rd 1 with resv := none })).bump (pix 0x3300 t.p) 7)) ∧
    (∀ u, homeCause t a true s = none → u = homeLine t a (drainHome t s) → StillAt h s u →
      region a = .ownScratch → Unwatched h u → (u.thr h).resv = some (memKey t.mid a u / 64) →
      ∃ v : State, RunsTo (.stc h rd ra rb) h s v ∧ v.dreg h rd = 0 ∧ (v.thr h).resv = none ∧
        v.dget (pix 0x3300 t.p) 6 = (u.dget (pix 0x3300 t.p) 6 + 1) % 2 ^ 64 ∧
        v.memRead (memKey t.mid a u) 8 = leBytes 8 (s.dreg h rb).toNat ∧
        (∀ x, (x < memKey t.mid a u ∨ memKey t.mid a u + 8 ≤ x) → v.memByte x = u.memByte x) ∧
        ∀ g, (v.thr g).resv ≠ some (memKey t.mid a u / 64)) ∧
    (homeCause t a false s = some 3 ↔ a % 8 ≠ 0)) ∧
  (∀ (s : State) (rd ra : Reg), Ready .golne s → ∀ u v l m,
    let a := (s.areg .golne ra).toNat
    a % 8 = 0 → region a = .dram → checkAccess 0x2000 a true s = .ok .dram → busAccess 0x2000 a 8 none 0 s = (u, .data l false) →
    busAccess 0x2000 a 8 (some (leBytes 8 (leNat l ||| 1))) 0 u = (v, m) → m ≠ .fault →
    (v.thr .golne).pc = (s.thr .golne).pc →
    RunsTo (.tas .golne rd ra) .golne s (v.setD .golne rd (leWord l))) ∧
  (∀ (s : State) (rd ra : Reg), Ready .golne s →
    let a := (s.areg .golne ra).toNat
    (a % 8 ≠ 0 → EndsIn (.tas .golne rd ra) .golne s s (.fault 3 a)) ∧
    (a % 8 = 0 → region a ≠ .dram → EndsIn (.tas .golne rd ra) .golne s (homeEvent 0x2000 a true s) (.fault 4 a)))

/-- 06 R180, 11 R293 to R295: the lock instructions. `LKACQ` asks at the larger of its priority and a core thread's EPRIO,
once the core's copy of the line has gone home; it gives the status of the lock unit with the word's user field above
it, or waits; `LKREL` gives the status and the user field as it stood before the release. An unaligned lock word raises ALIGN, a word
outside DRAM, general, and the thread's own L2 scratch raises ACCESS. -/
def Obligations.LockInstructionResults : Prop :=
  ∀ (h : Hart) (s : State) (rd ra rb : Reg), Flows h s →
    let a := (s.areg h ra).toNat
    let b := (s.dreg h rb).toNat
    let line := fun (u : State) => match h with | .thr t => homeLine t a u | .golne => u
    let key := memKey (hartKey h) a (line s)
    let prio := match h with | .thr _ => max (b % 32) (eprio (line s) h) | .golne => b % 32
    let acq := lockAcquire key (hartKey h) prio (b / 256 % 2 == 1) (some rd) (line s)
    (a % 8 ≠ 0 → EndsIn (.lkacq h rd ra rb) h s s (.fault 3 a) ∧ EndsIn (.lkrel h rd ra rb) h s s (.fault 3 a)) ∧
    (a % 8 = 0 → region a ≠ .dram → region a ≠ .ownScratch →
      EndsIn (.lkacq h rd ra rb) h s (homeEvent (hartKey h) a true s) (.fault 4 a) ∧
      EndsIn (.lkrel h rd ra rb) h s (homeEvent (hartKey h) a true s) (.fault 4 a)) ∧
    (lockCause h a s = none →
      (∀ u n, acq = (u, .status n) → Kept h s u →
        RunsTo (.lkacq h rd ra rb) h s (u.setD h rd (BitVec.ofNat 64 (n + lockUser u key * 2 ^ 32)))) ∧
      (∀ u, acq = (u, .waits) → EndsIn (.lkacq h rd ra rb) h s u (.wait .lockWait (.lock rd a prio))) ∧
      (∀ u v st old, u = (match h with | .thr t => drainHome t s | .golne => s) → StillAt h s u →
        lockRelease (memKey (hartKey h) a (line u)) (hartKey h) (b / 2 ^ 32 % 2 == 1) (b % 2 ^ 32) (b / 2 ^ 33 % 2 == 1) (line u) =
          (v, st, old) → Kept h s v →
        old = (line u).memNat (memKey (hartKey h) a (line u)) 4 ∧
        RunsTo (.lkrel h rd ra rb) h s (v.setD h rd (BitVec.ofNat 64 (st + old * 2 ^ 32)))))

/-- 06 R181: `FENCE` and `FENCE.S` complete once every earlier store of the thread has been accepted at its home point: the store
buffer drains, the task's lines and the thread's merging-buffer entries are cleaned; `FENCE.L` finds every earlier load returned;
`ISYNC` also discards what the thread has fetched. The Golne controller's stores are performed as they retire. -/
def Obligations.FenceResults : Prop :=
  ∀ (h : Hart) (s u : State), Flows h s →
    (u = match h with | .thr t => cleanTask t (drainAll t s) | .golne => s) → StillAt h s u →
    RunsTo (.fence h) h s u ∧ RunsTo (.fenceS h) h s u ∧ RunsTo (.fenceL h) h s s ∧
    RunsTo (.isync h) h s (u.updThr h (fun x => { x with fetch := [] })) ∧
    ((s.thr h).sb = [] → (s.thr h).lines = [] →
      (∀ t, h = .thr t → (s.core t.core).merge.all (fun m => !m.threads.contains t.t.val) = true) → u = s)

/-- 06 R165 and R176: a conditional branch goes to pc + 4·sext(off15) where its condition holds and to the next word where it does
not; `J` and `JAL` go to pc + 4·sext(off26), `JR` and `JALR` to the address register, read before `JAL` and `JALR` write pc + 4
into A14. Each has the encoding of its row. Beside that, a conditional branch moves its predictor's
counters (07 R204) and the counts of mispredictions and of squashed helper instructions (10 R273), and nothing else. -/
def Obligations.BranchResults : Prop :=
  ∀ (h : Hart) (s : State) (ra rb : Reg) (off : BitVec 15) (joff : BitVec 26), Ready h s →
    let pc := (s.thr h).pc
    let a := s.dreg h ra
    let b := s.dreg h rb
    let counts := fun (u : State) => ∀ i j, (∀ t, h = .thr t → dk i j ≠ dk (pipeIdx t.p t.c) 4 ∧
      dk i j ≠ dk (0x3388 + 0x400 * t.p.val + t.c.val) 2 ∧ dk i j ≠ dk (pix 0x3380 t.p) 8) → u.dget i j = s.dget i j
    let goes := fun (i : Instr) (taken : Prop) =>
      ∃ di co fr, let u := { s with dict := di, cores := co, fresh := fr }
        counts u ∧
        (taken → Fetchable h (pc + 4 * off.signExtend 48) → JumpsTo i h (pc + 4 * off.signExtend 48) s u) ∧
        (¬ taken → Fetchable h (pc + 4) → JumpsTo i h (pc + 4) s u)
    goes (.beq h ra rb off) (a = b) ∧ goes (.bne h ra rb off) (a ≠ b) ∧
    goes (.blt h ra rb off) (a.toInt < b.toInt) ∧ goes (.bge h ra rb off) (b.toInt ≤ a.toInt) ∧
    goes (.bltu h ra rb off) (a.toNat < b.toNat) ∧ goes (.bgeu h ra rb off) (b.toNat ≤ a.toNat) ∧
    goes (.bz h ra off) (a = 0) ∧ goes (.bnz h ra off) (a ≠ 0) ∧
    (let word := fun (c b : Nat) => 0x18 * 2 ^ 26 + ra.val * 2 ^ 22 + b * 2 ^ 18 + c * 2 ^ 15 + off.toNat
     encodeNat (.beq h ra rb off) = word 0 rb.val ∧ encodeNat (.bne h ra rb off) = word 1 rb.val ∧
     encodeNat (.blt h ra rb off) = word 2 rb.val ∧ encodeNat (.bge h ra rb off) = word 3 rb.val ∧
     encodeNat (.bltu h ra rb off) = word 4 rb.val ∧ encodeNat (.bgeu h ra rb off) = word 5 rb.val ∧
     encodeNat (.bz h ra off) = word 6 0 ∧ encodeNat (.bnz h ra off) = word 7 0 ∧
     encodeNat (.j h joff) = 0x19 * 2 ^ 26 + joff.toNat ∧ encodeNat (.jal h joff) = 0x1A * 2 ^ 26 + joff.toNat ∧
     encodeNat (.jr h ra) = 0x1B * 2 ^ 26 + ra.val * 2 ^ 18 ∧ encodeNat (.jalr h ra) = 0x1B * 2 ^ 26 + ra.val * 2 ^ 18 + 1) ∧
    (let far := pc + 4 * joff.signExtend 48
     (Fetchable h far → JumpsTo (.j h joff) h far s s) ∧
     (Fetchable h far → ∃ rs, JumpsTo (.jal h joff) h far s ((s.updThr h (fun x => { x with rstack := rs })).setA h 14 (pc + 4)))) ∧
    (let dest := s.areg h ra
     (Fetchable h dest → ∃ di fr rs, let u := { s with dict := di, fresh := fr }
       counts u ∧ JumpsTo (.jr h ra) h dest s (u.updThr h (fun x => { x with rstack := rs }))) ∧
     (Fetchable h dest → ∃ rs, JumpsTo (.jalr h ra) h dest s ((s.updThr h (fun x => { x with rstack := rs })).setA h 14 (pc + 4))))

/-- 06 R177: where a jump's or a branch's target, or the word after the last of the instruction memory, may not be fetched, the transfer completes,
its link write too, and the thread parks with cause FETCH: TPC, TFPC and ADDR hold the target. -/
def Obligations.FetchFaultParks : Prop :=
  ∀ (t : ThreadId) (s : State) (ra rb : Reg) (off : BitVec 26) (b : BitVec 15), Ready (.thr t) s →
    let h := Hart.thr t
    let far := (s.thr h).pc + 4 * off.signExtend 48
    let link := (s.thr h).pc + 4
    let parks := fun (i : Instr) (npc : Addr) (a14 : Addr) => fetchOk npc = false → Granted h i s → ∃ u, exec i s = .next u ∧
      (u.thr h).st = .parkedFault ∧ (u.thr h).tpc = npc ∧ (u.thr h).tfpc = npc ∧
      (u.thr h).tcause = BitVec.ofNat 64 (2 ^ 63 + 8 * 2 ^ 48 + npc.toNat) ∧ u.areg h 14 = a14 ∧
      (∀ r, u.dreg h r = s.dreg h r) ∧ u.mem = s.mem
    parks (.j h off) far (s.areg h 14) ∧ parks (.jal h off) far link ∧
    parks (.jr h ra) (s.areg h ra) (s.areg h 14) ∧ parks (.jalr h ra) (s.areg h ra) link ∧
    parks (.nop h) link (s.areg h 14) ∧
    (let dest := (s.thr h).pc + 4 * b.signExtend 48
     let next := fun (taken : Prop) [Decidable taken] => if taken then dest else link
     let x := s.dreg h ra
     let y := s.dreg h rb
     parks (.beq h ra rb b) (next (x = y)) (s.areg h 14) ∧ parks (.bne h ra rb b) (next (x ≠ y)) (s.areg h 14) ∧
     parks (.blt h ra rb b) (next (x.toInt < y.toInt)) (s.areg h 14) ∧ parks (.bge h ra rb b) (next (y.toInt ≤ x.toInt)) (s.areg h 14) ∧
     parks (.bltu h ra rb b) (next (x.toNat < y.toNat)) (s.areg h 14) ∧ parks (.bgeu h ra rb b) (next (y.toNat ≤ x.toNat)) (s.areg h 14) ∧
     parks (.bz h ra b) (next (x = 0)) (s.areg h 14) ∧ parks (.bnz h ra b) (next (x ≠ 0)) (s.areg h 14)) ∧
    (∀ a, fetchOk a = true ↔ (0x001000000000 ≤ a.toNat ∧ a.toNat ≤ 0x00100003FFFF ∧ a.toNat % 4 = 0))

/-- 06 R182: the task-slot accesses of a core thread. The offset is off10, or (Da + off10) mod 1,024; an unaligned one raises ALIGN, and an
access without a current task raises TASK; a load gives the bytes of the current slot, extended as its size says, and a store
changes those bytes of the slot and no others, and no other thing. -/
def Obligations.TaskSlotResults : Prop :=
  ∀ (t : ThreadId) (s : State) (rt : Reg) (x : Option Reg) (off : BitVec 10), Flows (.thr t) s →
    let h := Hart.thr t
    let o := match x with
      | some r => ((s.dreg h r).toNat + off.toNat) % 1024
      | none => off.toNat
    let cell := fun (k : Nat) => Tab.get (0 : Byte) (s.slot t).bytes k
    let raw := fun (n : Nat) => leNat ((List.range n).map (fun k => cell (o + k)))
    let stops := fun (i : Instr) (n : Nat) =>
      (o % n ≠ 0 → EndsIn i h s s (.fault 3 o)) ∧
      (o % n = 0 → (s.slot t).cur = none → EndsIn i h s s (.fault 7 0))
    let z := fun (i : Instr) (n : Nat) => stops i n ∧
      (o % n = 0 → (s.slot t).cur ≠ none → RunsTo i h s (s.setD h rt (BitVec.ofNat 64 (raw n))))
    let sx := fun (i : Instr) (n : Nat) => stops i n ∧
      (o % n = 0 → (s.slot t).cur ≠ none → RunsTo i h s (s.setD h rt ((BitVec.ofNat (8 * n) (raw n)).signExtend 64)))
    let st := fun (i : Instr) (n : Nat) => stops i n ∧
      (o % n = 0 → (s.slot t).cur ≠ none → ∃ b, RunsTo i h s (s.updSlot t (fun sl => { sl with bytes := b })) ∧
        ∀ k, Tab.get (0 : Byte) b k =
          if o ≤ k ∧ k < o + n then (s.dreg h rt).extractLsb' (8 * (k - o)) 8 else cell k)
    z (.tsldb h rt x off) 1 ∧ sx (.tsldbs h rt x off) 1 ∧ z (.tsldh h rt x off) 2 ∧ sx (.tsldhs h rt x off) 2 ∧
    z (.tsldw h rt x off) 4 ∧ sx (.tsldws h rt x off) 4 ∧ z (.tsldd h rt x off) 8 ∧
    st (.tsstb h rt x off) 1 ∧ st (.tssth h rt x off) 2 ∧ st (.tsstw h rt x off) 4 ∧ st (.tsstd h rt x off) 8

/-- 06 R183; 05 R141, R144: `TKWAIT` returns at once with a current task and else waits; `TKREL` marks the task ended for its release
and ends the thread's reservation; a second `TKREL`, and `TKREL` or `TKEND` without a task, raise TASK; `TKEND` waits for
earlier stores, ends the task and makes the task of the prefetch slot current. -/
def Obligations.TaskControlResults : Prop :=
  ∀ (t : ThreadId) (s : State), Flows (.thr t) s →
    let h := Hart.thr t
    ((s.slot t).cur ≠ none → RunsTo (.tkwait h) h s s) ∧
    ((s.slot t).cur = none → EndsIn (.tkwait h) h s s (.wait .taskWait .task)) ∧
    ((s.slot t).cur = none → EndsIn (.tkrel h) h s s (.fault 7 0) ∧
      EndsIn (.tkend h) h s s (.fault 7 0)) ∧
    ((s.slot t).cur ≠ none → (s.slot t).rel = true → EndsIn (.tkrel h) h s s (.fault 7 0)) ∧
    (∀ id, (s.slot t).cur = some id → (s.slot t).rel = false → ∃ u, RunsTo (.tkrel h) h s u ∧
      u.slot t = { s.slot t with rel := true } ∧ u.thr h = { s.thr h with resv := none } ∧
      (∀ g, g ≠ h → u.thr g = s.thr g) ∧ (∀ v, v ≠ t → u.slot v = s.slot v) ∧
      (∀ n, taskOf u t.p n = (taskOf s t.p n).map (fun y => if n = id then { y with ended := true, early := true } else y)) ∧
      u.mem = s.mem) ∧
    (∀ id u, (s.slot t).cur = some id → u = drainHome t s → StillAt h s u → (u.slot t).cur = some id →
      (u.slot t).next ≠ some id → (u.slot t).next = (s.slot t).next →
      ∃ v : State, RunsTo (.tkend h) h s v ∧ (v.slot t).cur = (s.slot t).next ∧ (v.slot t).next = none ∧
        (v.slot t).rel = false ∧ (v.thr h).resv = none ∧ (v.thr h).d = (u.thr h).d ∧ v.mem = u.mem ∧
        ((u.slot t).gone = false → (taskOf v t.p id).map Task.ended = (taskOf u t.p id).map (fun _ => true)) ∧
        (∀ n, (s.slot t).next = some n → (taskOf v t.p n).map Task.pref = (taskOf u t.p n).map (fun _ => false)))

/-- 06 R184; 09 R255 to R257, R260: the thread-channel instructions. `CHWR` stages a word: the first takes a free channel's hold, and on a
channel held by another the thread waits; `CHEND` moves the staged message into the FIFO, or waits on a full one with its END
staged; `CHRCV` takes the oldest message and gives its word count, or waits; `CHRD` gives a word of it. A thread that is not
bound, a ninth word, nothing staged, a word at or beyond the count, and a discard mark raise CHAN; a poisoned word raises ACCESS
(09 R269). -/
def Obligations.ChannelResults : Prop :=
  ∀ (t : ThreadId) (s : State) (rd ra rb : Reg) (n : Fin 8), Flows (.thr t) s →
    let h := Hart.thr t
    let ch := (s.dreg h ra).toNat % 4096
    let c := s.chan t.p ch
    let x := s.thr h
    let chan := fun (i : Instr) => EndsIn i h s s (.fault 9 ch)
    (x.discard.contains ch = false →
      (senderSlot s t.p ch t.mid = none → chan (.chwr h ra rb)) ∧
      (∀ sl, senderSlot s t.p ch t.mid = some sl →
        (8 ≤ x.staged.length → chan (.chwr h ra rb)) ∧
        (x.staged.length < 8 →
          let st := fun (u : State) => u.updThr h (fun y => { y with staged := y.staged ++ [(ch, ⟨s.dreg h rb, false⟩)] })
          (c.holder = none → RunsTo (.chwr h ra rb) h s
            (st (s.updChan t.p ch (fun r => { r with holder := some t.mid, lastSlot := sl, raised := false })))) ∧
          (c.holder = some t.mid → RunsTo (.chwr h ra rb) h s (st s)) ∧
          (∀ m, c.holder = some m → m ≠ t.mid → EndsIn (.chwr h ra rb) h s
            (s.updChan t.p ch (fun r => { r with waiting := r.waiting ++ [t.mid] })) (.wait .sendWait (.sendWord ch (s.dreg h rb)))))) ∧
      (stagedFor x ch = [] → chan (.chend h ra)) ∧
      (stagedFor x ch ≠ [] →
        (c.fifo.length < 4 → (∀ y, chanRecv s t.p ch = some y → (s.thr (midHart y)).st ≠ .recvWait) →
          nextSender s t.p ch = none →
          RunsTo (.chend h ra) h s ((s.updThr h (fun y => { y with
            staged := y.staged.filter (fun e => e.1 != ch), stagedEnd := y.stagedEnd.filter (· != ch) })).updChan t.p ch
            (fun r => { r with fifo := r.fifo ++ [stagedFor x ch], times := r.times ++ [s.time], holder := none, raised := false }))) ∧
        (4 ≤ c.fifo.length → EndsIn (.chend h ra) h s
          (s.updThr h (fun y => { y with stagedEnd := y.stagedEnd ++ [ch] })) (.wait .sendWait (.sendEnd ch))))) ∧
    (x.discard.contains ch = true →
      let u := s.updThr h (fun y => { y with discard := y.discard.filter (· != ch) })
      EndsIn (.chwr h ra rb) h s u (.fault 9 ch) ∧
      EndsIn (.chend h ra) h s u (.fault 9 ch)) ∧
    (chanRecv s t.p ch ≠ some t.mid → chan (.chrcv h rd ra)) ∧
    (chanRecv s t.p ch = some t.mid →
      (c.fifo = [] → EndsIn (.chrcv h rd ra) h s s (.wait .recvWait (.recv rd ch))) ∧
      (∀ m q, c.fifo = m :: q → x.wait = .none → ∃ u, RunsTo (.chrcv h rd ra) h s u ∧ u.dreg h rd = BitVec.ofNat 64 m.length ∧
        (u.thr h).recvBuf = m ∧ (u.thr h).recvCh = ch ∧ u.mem = s.mem ∧ (∀ r, r ≠ rd → u.dreg h r = s.dreg h r) ∧
        ((c.holder = none ∨ ∃ y, c.holder = some y ∧ (s.thr (midHart y)).stagedEnd.contains ch = false) →
          u.chan t.p ch = { c with fifo := q, times := c.times.drop 1 }))) ∧
    (∀ w, x.recvBuf[n.val]? = some w → (w.poison = false → RunsTo (.chrd h rd n) h s (s.setD h rd w.w)) ∧
      (w.poison = true → EndsIn (.chrd h rd n) h s s (.fault 4 x.recvCh))) ∧
    (x.recvBuf[n.val]? = none → EndsIn (.chrd h rd n) h s s (.fault 9 x.recvCh))

/-- 06 R185, R186: `NOP`; `EVWAIT`, which returns the oldest pending record with its full syndrome in EVSYN or waits for one; `BRK`,
which halts under DEBUG, in a migrating core once the swap is done, and else is counted at 0x3300.05; `ERET`, which goes to EPC and clears IT, and is undefined with IT
clear. -/
def Obligations.SystemResults : Prop :=
  ∀ (h : Hart) (s : State) (rd : Reg), Ready h s →
    (Fetchable h ((s.thr h).pc + 4) →
      RunsTo (.nop h) h s s ∧
      (∀ e q, (s.thr h).evq = e :: q →
        RunsTo (.evwait h rd) h s (s.updThr h (fun x => { x.setD rd e.word with evq := q, evsyn := BitVec.ofNat 64 (e.syn % 2 ^ 19) }))) ∧
      ((s.thr h).evq = [] → EndsIn (.evwait h rd) h s s (.wait .eventWait (.event rd))) ∧
      (h = .golne → RunsTo (.brk h) h s s) ∧
      (∀ t, h = .thr t → (debugOn s t.p t.c = false ∨ draining s t.p = true) →
        RunsTo (.brk h) h s (s.bump (pix 0x3300 t.p) 5)) ∧
      (∀ t, h = .thr t → debugOn s t.p t.c = true → draining s t.p = false → Granted h (.brk h) s →
        ∃ u, exec (.brk h) s = .next u ∧ (u.thr h).pc = (s.thr h).pc + 4 ∧ (∀ r, u.dreg h r = s.dreg h r) ∧
          (migrating s t = false → (u.thr h).st = .halted ∧ (u.thr h).haltCause = 4) ∧
          (migrating s t = true → (u.thr h).st = .running ∧ (u.thr h).haltAsked = 4) ∧
          (detOn s t.p t.c = false → u.mem = s.mem))) ∧
    ((s.thr h).it = true → Fetchable h ((s.thr h).epc.truncate 48) →
      JumpsTo (.eret h) h ((s.thr h).epc.truncate 48) s (s.updThr h (fun x => { x with it := false }))) ∧
    ((s.thr h).it = false → EndsIn (.eret h) h s s (.trap 1))

/-- 06, the system register table, R185, R194: `MFS` gives each system register (the fault records of its core's threads in thread 0
alone, which raise PRIV in threads 1 to 7), `MTS` writes STATUS.IT, TVEC, EPC and PRIO, whose reserved bits stay 0, and raises
PRIV for the RO ones; a number that is not listed is undefined. -/
def Obligations.SystemRegisterResults : Prop :=
  ∀ (h : Hart) (s : State) (rd ra : Reg), Flows h s →
    let x := s.thr h
    let v := s.dreg h ra
    let reads := fun (n : BitVec 8) (w : Word) => RunsTo (.mfs h rd n) h s (s.setD h rd w)
    reads 0x00 (BitVec.ofNat 64 (hartKey h)) ∧
    reads 0x01 (BitVec.ofNat 64 (b2n x.it + (match h with
      | .golne => 12
      | .thr t => 2 * b2n (detOn s t.p t.c) + 4 * b2n (t.t == 0)))) ∧
    reads 0x02 x.tvec ∧ reads 0x03 x.epc ∧ reads 0x04 x.ecause ∧ reads 0x05 x.einst ∧ reads 0x08 x.steps ∧
    reads 0x09 (BitVec.ofNat 64 s.time) ∧ reads 0x0A x.prio ∧ reads 0x0B (BitVec.ofNat 64 (eprio s h)) ∧ reads 0x10 x.evsyn ∧
    (∀ (t : ThreadId) (u : Thr), h = .thr t →
      let y := s.thr (.thr { t with t := u })
      let n := fun (b : Nat) => BitVec.ofNat 8 (b + u.val)
      (t.t = 0 → reads (n 0x20) y.tcause ∧ reads (n 0x28) (y.tpc.zeroExtend 64) ∧ reads (n 0x30) (y.tfpc.zeroExtend 64)) ∧
      (t.t ≠ 0 → ∀ b, b = 0x20 ∨ b = 0x28 ∨ b = 0x30 → EndsIn (.mfs h rd (n b)) h s s (.fault 5 0))) ∧
    (∀ n : BitVec 8, (n.toNat ∈ [6, 7, 0x0C, 0x0D, 0x0E, 0x0F] ∨ (0x11 ≤ n.toNat ∧ n.toNat < 0x20) ∨ 0x38 ≤ n.toNat) →
      EndsIn (.mfs h rd n) h s s (.trap 1) ∧ EndsIn (.mts h ra n) h s s (.trap 1)) ∧
    (h = .golne → ∀ n : BitVec 8, 0x20 ≤ n.toNat → n.toNat < 0x38 →
      EndsIn (.mfs h rd n) h s s (.trap 1)) ∧
    RunsTo (.mts h ra 0x01) h s (s.updThr h (fun y => { y with it := v.getLsbD 0 })) ∧
    RunsTo (.mts h ra 0x02) h s (s.updThr h (fun y => { y with tvec := v &&& 0x0000FFFFFFFFFFFD })) ∧
    RunsTo (.mts h ra 0x03) h s (s.updThr h (fun y => { y with epc := v })) ∧
    RunsTo (.mts h ra 0x0A) h s (s.updThr h (fun y => { y with prio := v &&& 31 })) ∧
    (h ≠ .golne → ∀ n : BitVec 8, 0x20 ≤ n.toNat → n.toNat < 0x38 → EndsIn (.mts h ra n) h s s (.fault 5 0)) ∧
    (∀ n : BitVec 8, n.toNat ∈ [0, 4, 5, 8, 9, 0x0B, 0x10] → EndsIn (.mts h ra n) h s s (.fault 5 0))

/-- 06 R185, R189: the supervisor's instructions, which only thread 0 of a core runs; threads 1 to 7 raise PRIV. `THRES` resumes a parked
thread at its TPC and `THRESA` at an address, both clearing VALID of its TCAUSE and without effect on a thread that is not
parked; `THPARK` parks a running thread with SPARK, its issued helper instructions squashed, and a halted or sparing thread later; `THRST` clears the thread's registers, which read 0, with its PC at the entry
address and VALID of its TCAUSE clear. -/
def Obligations.SupervisorResults : Prop :=
  ∀ (t : ThreadId) (s : State) (n : BitVec 4) (ra : Reg), Flows (.thr t) s → 1 ≤ n.toNat → n.toNat ≤ 7 →
    let h := Hart.thr t
    let v : ThreadId := { t with t := ⟨n.toNat % 8, Nat.mod_lt _ (by decide)⟩ }
    let g := Hart.thr v
    let y := s.thr g
    let parked := fun (y : Thread) => { y with
      st := .parkedSup, wait := .none, parkAsked := false, resv := none, tcause := BitVec.ofNat 64 (2 ^ 63 + 2 ^ 60), tpc := y.pc,
      tfpc := 0 }
    let back := fun (dest : Addr) => s.updThr g (fun y =>
      { y with st := if (s.clus v.p v.c).started then .running else .notStarted, pc := dest, tcause := y.tcause &&& 0x7FFFFFFFFFFFFFFF })
    (t.t ≠ 0 → ∀ i, i ∈ [Instr.thres h n, .thresa h n ra, .thpark h n, .thrst h n] →
      EndsIn i h s s (.fault 5 0)) ∧
    (t.t = 0 →
      (y.st.parked = true → RunsTo (.thres h n) h s (back y.tpc) ∧ RunsTo (.thresa h n ra) h s (back (s.areg h ra))) ∧
      (y.st.parked = false → RunsTo (.thres h n) h s s ∧ RunsTo (.thresa h n ra) h s s) ∧
      (y.st = .running ∨ y.st = .notStarted → ∃ u, RunsTo (.thpark h n) h s (u.updThr g parked) ∧
        (∃ di fr, u = { s with dict := di, fresh := fr }) ∧
        ∀ i j, dk i j ≠ dk (pix 0x3380 t.p) 8 → dk i j ≠ dk (0x3388 + 0x400 * t.p.val + t.c.val) 2 → u.dget i j = s.dget i j) ∧
      (y.st ∈ [.sendWait, .recvWait, .lockWait, .eventWait, .fetchWait, .taskWait] → Kept h s (endWait v s) →
        RunsTo (.thpark h n) h s ((endWait v s).updThr g parked)) ∧
      (y.st = .halted ∨ y.st = .sparing → RunsTo (.thpark h n) h s (s.updThr g (fun y => { y with parkAsked := true }))) ∧
      (y.st = .parkedFault ∨ y.st = .parkedSup → RunsTo (.thpark h n) h s s) ∧
      (Kept h s (resetThread v s) → RunsTo (.thrst h n) h s (resetThread v s)) ∧
      (let u := (resetThread v s).thr g
       (∀ r, (resetThread v s).dreg g r = 0 ∧ (resetThread v s).areg g r = 0) ∧ (∀ a, (resetThread v s).acc g a = 0) ∧
       (∀ c, (resetThread v s).creg g c = 0) ∧ u.pc = (s.clus v.p v.c).entry ∧ u.it = false ∧ u.tvec = 0 ∧ u.epc = 0 ∧
       u.prio = 0 ∧ u.resv = none ∧ u.staged = [] ∧ u.sb = [] ∧ u.tcause = y.tcause &&& 0x7FFFFFFFFFFFFFFF))

/-- 10 R276, R277: the bit helper's instructions: a reflected CRC step over k bytes, the Toeplitz step under one of the petal's keys, the
bit-matrix products with XOR and with OR, bit reversal and the mixing step; each writes its destination alone. -/
def Obligations.BitHelperResults : Prop :=
  ∀ (t : ThreadId) (s : State) (rd ra rb : Reg) (k1 : BitVec 3) (n : BitVec 6), Flows (.thr t) s →
    let h := Hart.thr t
    let d := s.dreg h rd
    let a := s.dreg h ra
    let b := s.dreg h rb
    let gives := fun (i : Instr) (v : Word) => RunsTo i h s (s.setD h rd v)
    let byte := fun (i : Nat) => a.extractLsb' (8 * i) 8
    let crc := fun (poly : BitVec 32) => (List.range (k1.toNat + 1)).foldl (fun (r : BitVec 32) i =>
      (List.range 8).foldl (fun (r : BitVec 32) _ => if r.getLsbD 0 then (r >>> 1) ^^^ poly else r >>> 1)
        (r ^^^ (byte i).zeroExtend 32)) (d.truncate 32)
    let keyBit := fun (m : Nat) => (s.domByte (pix 0x3380 t.p) (2 + b.toNat / 2 ^ 12 % 4) (m / 8)).getLsbD (7 - m % 8)
    let keybits := fun (m : Nat) =>
      BitVec.ofNat 32 ((List.range 32).map (fun j => if keyBit (m + j) then 2 ^ (31 - j) else 0)).sum
    let p := b.toNat % 64
    let toep := (List.range (b.toNat / 256 % 8 + 1)).foldl (fun (r : BitVec 32) i =>
      if p + i < 48 then (List.range 8).foldl (fun (r : BitVec 32) j =>
        if (byte i).getLsbD (7 - j) then r ^^^ keybits (8 * (p + i) + j) else r) r
      else r) (d.truncate 32)
    let hits := fun (i j : Nat) => ((List.range 8).filter (fun m => a.getLsbD (8 * i + m) && b.getLsbD (8 * m + j))).length
    gives (.crcc h rd ra k1) ((crc 0x82F63B78).zeroExtend 64) ∧ gives (.crce h rd ra k1) ((crc 0xEDB88320).zeroExtend 64) ∧
    gives (.tpz h rd ra rb) (toep.zeroExtend 64) ∧
    (∃ v : Word, gives (.bmm h rd ra rb) v ∧ ∀ i j, i < 8 → j < 8 → v.getLsbD (8 * i + j) = decide (hits i j % 2 = 1)) ∧
    (∃ v : Word, gives (.bmmo h rd ra rb) v ∧ ∀ i j, i < 8 → j < 8 → v.getLsbD (8 * i + j) = decide (hits i j ≠ 0)) ∧
    (∃ v : Word, gives (.brev h rd ra) v ∧ ∀ i, i < 64 → v.getLsbD i = a.getLsbD (63 - i)) ∧
    gives (.mix h rd ra n) (((d ^^^ a) * 0x9E3779B97F4A7C15).rotateRight n.toNat)

/-- 10 R278, R279, R282, R283: `MVDC` and `MVCD` move a C register that is not pending; a table instruction that names a pending C register
waits, with nothing changed; one whose func the petal's mask refuses is counted and raises REFUSED; TABLE_HELPER_RESULT writes the
oldest confirmed operation's C register, with the error status for one that failed, clears its scoreboard bit and ends the generation that the operation held. -/
def Obligations.CRegisterResults : Prop :=
  ∀ (t : ThreadId) (s : State) (c1 : CReg) (r : Reg), Flows (.thr t) s →
    let h := Hart.thr t
    let x := s.thr h
    let free := helperRefuses s t.p 0 = false ∧ helperRefuses s t.p 1 = false
    let refused := fun (i : Instr) => EndsIn i h s (s.bump (helperIdx t.p t.c) 3) (.trap 2)
    (free → x.cBusy.contains c1.val = false →
      RunsTo (.mvdc h c1 r) h s (s.updThr h (fun y => { y with c := Tab.set 0 y.c c1.val (s.dreg h r) })) ∧
      RunsTo (.mvcd h r c1) h s (s.setD h r (s.creg h c1))) ∧
    (free → x.cBusy.contains c1.val = true → exec (.mvdc h c1 r) s = .next s ∧ exec (.mvcd h r c1) s = .next s) ∧
    (∀ c2 : CReg,
      (helperRefuses s t.p 3 = true → refused (.tl2 h c1 c2)) ∧ (helperRefuses s t.p 4 = true → refused (.tl2l h c1 c2 r)) ∧
      (helperRefuses s t.p 6 = true → refused (.tcdel h c1 r)) ∧ (helperRefuses s t.p 7 = true → refused (.tbat h c1 r)) ∧
      (helperRefuses s t.p 8 = true → refused (.tadd h c1 c2 r)) ∧
      ((helperRefuses s t.p 3 = false ∧ (x.cBusy.contains c1.val = true ∨ x.cBusy.contains c2.val = true ∨ 8 ≤ x.tops.length ∨
        128 ≤ clusterOps s t.p t.c)) → exec (.tl2 h c1 c2) s = .next s)) ∧
    (∀ o q, x.tops = o :: q → ∃ u, exec (.tableHelperResult t true) s = .next u ∧
      u.thr h = { x with c := Tab.set 0 x.c (destC o.instr) o.val, tops := q, cBusy := x.cBusy.erase (destC o.instr) } ∧
      (∀ g, g ≠ h → u.thr g = s.thr g) ∧ u.mem = s.mem ∧ u.dict = s.dict ∧
      (∀ g, o.gen = some g → (u.pet t.p).lookGens = (s.pet t.p).lookGens.erase g) ∧ (o.gen = none → u.petals = s.petals)) ∧
    (∀ o q, x.tops = o :: q → ∃ u, exec (.tableHelperResult t false) s = .next u ∧
      (u.thr h).c = Tab.set 0 x.c (destC o.instr) (failedWord o.instr o.val) ∧ (u.thr h).tops = q ∧
      (u.thr h).cBusy = x.cBusy.erase (destC o.instr) ∧ u.mem = s.mem)

/-- 10 R275, R279 to R282: the table operations confirm: each counts at 0x3388.01, sets its destination's scoreboard bit, holds the result
for TABLE_HELPER_RESULT and retires. The keys come from the C registers as R279 lays them out, lookups use the generation of
the thread's task or the one in use, `TCDEL` answers 1 for a context that is not valid and 2 for another petal's, `TBAT`
submits the batch in memory and `TADD` adds at the home point and answers the old value. -/
def Obligations.TableOperationResults : Prop :=
  ∀ (t : ThreadId) (s : State) (c1 c2 : CReg) (r : Reg) (v6 create : Bool), Flows (.thr t) s →
    (s.thr (.thr t)).tops.length < 8 → clusterOps s t.p t.c < 128 →
    (∀ f, f < 9 → helperRefuses s t.p f = false) → (s.thr (.thr t)).cBusy = [] →
    let h := Hart.thr t
    let a := (s.dreg h r).toNat
    let cv := fun (k : Nat) => (Tab.get (0 : Word) (s.thr h).c k).toNat
    let gen := (match curTask s t with
      | some k => k.pkt.gen
      | none => genInUse s t.p)
    let snap := genSnap s gen
    let l2key := if cv c2.val / 2 ^ 60 = 0 then some (cv c2.val % 2 ^ 48 * 4096 + cv c2.val / 2 ^ 48 % 4096) else none
    let held := fun (u : State) => if (curTask u t).isSome then none else some (genInUse u t.p)
    let out := fun (i : Instr) (u : State) (v : Nat) (g : Option Nat) => Kept h s u →
      let w := match g with
        | some n => u.updPet t.p (fun y => { y with lookGens := n :: y.lookGens })
        | none => u
      RunsTo i h s ((w.updThr h (fun y =>
        { y with tops := y.tops ++ [⟨i, y.pc, BitVec.ofNat 64 v, g⟩], cBusy := c1.val :: y.cBusy })).bump (helperIdx t.p t.c) 1)
    (undefinedFor h (.tlpm h c1 c2 v6) = false → out (.tlpm h c1 c2 v6) s
      (routeWord snap v6 (if v6 then cv c2.val * 2 ^ 64 + cv (c2.val + 1) else cv c2.val % 2 ^ 32)) (held s)) ∧
    out (.tl2 h c1 c2) s (l2Word snap l2key + 6 * 2 ^ 53) (held s) ∧
    (∀ u sa, (u, sa) = (match l2key with
        | some k => sourceCheck t.p snap k ((s.dreg h r).toNat % 32) s
        | none => (s, 6)) →
      out (.tl2l h c1 c2 r) u (l2Word snap l2key + sa * 2 ^ 53) (held u)) ∧
    (undefinedFor h (.tctx h c1 c2 create) = false → ∀ u w,
      ctxLookup t.p ((List.range 5).flatMap (fun j => leBytes 8 (cv (c2.val + j)))) create s = (u, w) →
      out (.tctx h c1 c2 create) u w (held u)) ∧
    (let i := a % 2 ^ 25
     let valid := i < 16777216 + 65536 ∧ (s.memByte (ctxAddr i + 40)).getLsbD 0 = true
     (¬ valid → out (.tcdel h c1 r) s 1 none) ∧ (valid → ctxOwner i ≠ t.p → out (.tcdel h c1 r) s 2 none) ∧
     (valid → ctxOwner i = t.p → out (.tcdel h c1 r) (ctxMark i s) 0 none)) ∧
    (2 ^ 48 ≤ a → EndsIn (.tbat h c1 r) h s s (.fault 4 (a % 2 ^ 48)) ∧
      EndsIn (.tadd h c1 c2 r) h s s (.fault 4 (a % 2 ^ 48))) ∧
    (a < 2 ^ 48 →
      (a % 8 ≠ 0 → EndsIn (.tbat h c1 r) h s (homeEvent t.mid a false s) (.fault 3 a) ∧
        EndsIn (.tadd h c1 c2 r) h s (homeEvent t.mid a true s) (.fault 3 a)) ∧
      (a % 8 = 0 → region a ≠ .dram →
        EndsIn (.tbat h c1 r) h s (homeEvent t.mid a false s) (.fault 4 a) ∧
        EndsIn (.tadd h c1 c2 r) h s (homeEvent t.mid a true s) (.fault 4 a)) ∧
      (∀ u, u = drainHome t s → StillAt h s u →
        (tableCause t a false s = none →
          let n := 8 + 32 * u.memNat a 2
          (a + n ≤ 0x000DC0000000 → poisoned u a n = false → (∃ g, checkAccess t.mid (a + n - 8) false u = .ok g) →
            ∀ v c g, submitBatch t.mid 0 (u.memRead a n) u = (v, c, g) →
              out (.tbat h c1 r) v (if c = 0 then g % 2 ^ 32 else 2 ^ 62 + c * 2 ^ 48) none) ∧
          (0x000DC0000000 < a + n ∨ poisoned u a n = true → out (.tbat h c1 r) u (2 ^ 62 + 0xFF * 2 ^ 48) none)) ∧
        (tableCause t a true s = none → ∀ w, w = homeLine t a u → (w.thr h).c = (s.thr h).c →
          let old := w.memNat (memKey t.mid a w) 8
          out (.tadd h c1 c2 r) (homeStore t a (BitVec.ofNat 64 (old + cv c2.val)) w) old none)))

/-- 10 R284 to R287, 06 R193: a customer instruction. An unmapped opcode, or a field of class unused that is not 0, raises UNDEF; a refused
one raises REFUSED, with no effect; a microprogram that ends gives U0 to rd as WRITES and RD_CLASS say and counts at 0x3380.07; an
address result with bits [63:48] set raises ADDR; an abort counts at 0x3380.09, raises its event and parks the thread. -/
def Obligations.CustomerInstructionResults : Prop :=
  ∀ (t : ThreadId) (s : State) (opc : BitVec 8) (rd ra rb : Reg) (imm : BitVec 7), Flows (.thr t) s →
    let h := Hart.thr t
    let i := Instr.customerInstruction h opc rd ra rb imm
    let bank := (s.thr h).bank
    let e := mapEntry s t.p bank opc.toNat
    let cls := fun (lo : Nat) => e / 2 ^ lo % 4
    let opd := fun (c : Nat) (r : Reg) => if c = 0 then s.dreg h r else if c = 1 then (s.areg h r).zeroExtend 64 else 0
    let ops := fun (n : Nat) => match n with
      | 0 => opd (cls 60) rd
      | 1 => opd (cls 58) ra
      | 2 => opd (cls 56) rb
      | _ => imm.zeroExtend 64
    let run := microRun t bank ops (s.dget (pix 0x3380 t.p) 6) (e % 4096) ⟨[], false⟩ s
    let clean := (cls 60 = 2 → rd.val = 0) ∧ (cls 58 = 2 → ra.val = 0) ∧ (cls 56 = 2 → rb.val = 0)
    ((cls 62 = 0 ∨ cls 62 = 3) → EndsIn i h s s (.trap 1)) ∧
    (cls 62 = 2 → EndsIn i h s s (.trap 2)) ∧
    (cls 62 = 1 → ¬ clean → EndsIn i h s s (.trap 1)) ∧
    (cls 62 = 1 → clean →
      (∀ u v, run = (u, .result v) → Kept h s u →
        let done := fun (w : State) => RunsTo i h s (w.bump (pix 0x3380 t.p) 7)
        (e.testBit 55 = false → done u) ∧
        (e.testBit 55 = true → cls 60 = 0 → done (u.setD h rd v)) ∧
        (e.testBit 55 = true → cls 60 = 1 → v.toNat < 2 ^ 48 → done (u.setA h rd (v.truncate 48))) ∧
        (e.testBit 55 = true → cls 60 = 1 → 2 ^ 48 ≤ v.toNat → EndsIn i h s u (.fault 6 0))) ∧
      (∀ u, run = (u, .refused) → EndsIn i h s s (.trap 2)) ∧
      (∀ u c a m, run = (u, .abort c a m) → c ≠ 0 → ∃ syn,
        EndsIn i h s (raise (0x084 + t.p.val) syn (some t.p) (u.bump (pix 0x3380 t.p) 9)) (.fault c a)))

/-- 06 R162, R188, R194: an undefined instruction word. With TVEC.EN 1 and IT 0 the thread takes the emulation trap: EPC takes the PC, EINST
the word, ECAUSE the code 1; IT becomes 1, the reservation ends and it goes on at VEC, with no other effect but the count at
0x3300.01. With EN 0 it parks with its own code, with IT 1 with DOUBLE. Any other trap does the same with its cause. The Golne controller's firmware vectors with IT 0. -/
def Obligations.EmulationTrap : Prop :=
  ∀ (h : Hart) (s : State) (w : BitVec 32), Ready h s → decodeWord h w = none →
    let i := Instr.undefinedInstruction h w
    let x := s.thr h
    let vec := BitVec.ofNat 48 ((x.tvec.toNat % 2 ^ 48) / 4 * 4)
    (∀ t, h = .thr t → Granted h i s →
      (x.tvec.getLsbD 0 = true → x.it = false → ∃ u due, exec i s = .next u ∧
        u.thr h = { x with epc := x.pc.zeroExtend 64, einst := w.zeroExtend 64, ecause := 1, it := true, resv := none, pc := vec,
                           passBp := false, due := due } ∧
        (∀ g, g ≠ h → u.thr g = s.thr g) ∧ u.dget (pix 0x3300 t.p) 1 = (s.dget (pix 0x3300 t.p) 1 + 1) % 2 ^ 64 ∧
        (∃ th di pi fr, u = { s with threads := th, dict := di, pipes := pi, fresh := fr })) ∧
      (x.tvec.getLsbD 0 = false ∨ x.it = true → ∃ u, exec i s = .next u ∧ (u.thr h).st = .parkedFault ∧
        (u.thr h).tcause = (if x.tvec.getLsbD 0 then 0x800A000000000000 else 0x8001000000000000) ∧
        (u.thr h).tpc = x.pc ∧ (u.thr h).tfpc = x.pc ∧ (u.thr h).epc = x.epc ∧ u.mem = s.mem)) ∧
    EndsIn i h s s (.trap 1) ∧
    (∀ t c j, h = .thr t → x.haltAsked = 0 → x.parkAsked = false →
      (x.tvec.getLsbD 0 = true → x.it = false → (takeTrap h c j s).thr h = { x with
        epc := x.pc.zeroExtend 64, einst := (encodeWord j).zeroExtend 64, ecause := BitVec.ofNat 64 c, it := true, resv := none,
        pc := vec, passBp := false }) ∧
      (x.tvec.getLsbD 0 = false → takeTrap h c j s = faultThread t c 0 x.pc x.pc s) ∧
      (x.tvec.getLsbD 0 = true → x.it = true → takeTrap h c j s = faultThread t 0x0A 0 x.pc x.pc s)) ∧
    (h = .golne →
      (x.it = false → exec i s = .next (s.setThr .golne { x with
        epc := x.pc.zeroExtend 64, einst := w.zeroExtend 64, ecause := 1, it := true, resv := none, pc := vec })) ∧
      (x.it = true → exec i s = .next (golneRestart s)))

/-- 06 R189, R190: a fault of a core thread parks it with its record: VALID, the cause and the address in TCAUSE, the PC in TPC and TFPC;
its registers, its store buffer, its staging and its queues but for the event queue stand, its reservation ends; memory stands.
Threads 1 to 7 are counted at 0x3300.03 and their thread 0 gets a fault notification; thread 0 is counted at 0x3300.04. -/
def Obligations.FaultParks : Prop :=
  ∀ (t : ThreadId) (s : State) (cause addr : Nat) (i : Instr),
    let h := Hart.thr t
    let x := s.thr h
    let u := takeFault h cause addr i s
    (∃ q, u.thr h = { x with
      st := .parkedFault, wait := .none, resv := none, parkAsked := false, haltAsked := 0, tpc := x.pc, tfpc := x.pc, evq := q,
      tcause := BitVec.ofNat 64 (2 ^ 63 + cause % 256 * 2 ^ 48 + addr % 2 ^ 48) }) ∧
    (∀ g, g ≠ h → (s.thr g).st ≠ .eventWait → ∃ q, u.thr g = { s.thr g with evq := q }) ∧ u.mem = s.mem ∧
    (t.t ≠ 0 → u.dget (pix 0x3300 t.p) 3 = (s.dget (pix 0x3300 t.p) 3 + 1) % 2 ^ 64) ∧
    (t.t ≠ 0 → (s.thr (.thr t.sup)).st = .running →
      let q := (s.thr (.thr t.sup)).evq
      let own := fun (e : EvRec) => e.kind1 && e.src == t.t.val
      (∃ n ∈ (u.thr (.thr t.sup)).evq, n.word = BitVec.ofNat 64 (cause % 256 * 2 ^ 32 + t.t.val * 2 ^ 11 + 2 ^ 9)) ∧
      (q.any own = false → (u.thr (.thr t.sup)).evq.take q.length = q ∧ (u.thr (.thr t.sup)).evq.length = q.length + 1) ∧
      (q.any own = true → (u.thr (.thr t.sup)).evq.length = q.length)) ∧
    (t.t = 0 → u.dget (pix 0x3300 t.p) 4 = (s.dget (pix 0x3300 t.p) 4 + 1) % 2 ^ 64)

/-- 06 R162, R167, R168: encoding then decoding gives back every well-formed Pullasor instruction of a hart, with every operand at every
value that its encoding admits: no bit of an encoding is dropped. -/
def Obligations.DecodeOfEncode : Prop :=
  ∀ (i : Instr) (h : Hart), hartOfInstr i = some h → i.wf = true → decodeWord h (encodeWord i) = some i

/-- 06 R162, R167, R168: what a word decodes to is an instruction of that hart, well formed, and its encoding is the word itself; of `MFS`
alone, whose ra field R185 does not mark, the word with that field clear. So two words never decode alike, `MFS` apart. -/
def Obligations.EncodeOfDecode : Prop :=
  ∀ (h : Hart) (w : BitVec 32) (i : Instr), decodeWord h w = some i →
    hartOfInstr i = some h ∧ i.wf = true ∧
    (encodeWord i = w ∨ ∃ rd n, i = .mfs h rd n ∧ encodeWord i = w &&& 0xFFC3FFFF)

/-- 06 R167, R168 and the worked examples of 06, 10: words written out from the encoding tables decode to the instructions they stand for,
on a core thread. -/
def Obligations.DecodedWords : Prop :=
  let t : ThreadId := ⟨0, 2, 5, 4⟩
  let h := Hart.thr t
  decodeWord h 0xF4807000 = some (.mvdc h 4 7) ∧ decodeWord h 0xF4A40080 = some (.tlpm h 5 4 false) ∧
  decodeWord h 0xF4A08040 = some (.mvcd h 8 5) ∧
  decodeWord h 0x00000000 = some (.nop h) ∧ decodeWord h 0x04448000 = some (.add h 1 1 2) ∧
  decodeWord h 0x04448011 = some (.sel h 1 1 2 0) ∧ decodeWord h 0x00000400 = none ∧ decodeWord h 0x00000004 = some (.tkend h) ∧
  decodeWord .golne 0x00000004 = none

/-- The block's queue: a step takes the command at the front and is that command's effect on the state with the rest of the queue; an empty
queue idles (DESIGN CHOICE, assumption 1). -/
def Obligations.StepTakesFront : Prop :=
  (∀ (c : Instr) (q : List Instr) (s : State), step { s with pending := c :: q } = exec c { s with pending := q }) ∧
  (∀ s : State, s.pending = [] → step s = .next s)

/-- 02 R43 to R45, R54; 16 R424, R426: a write of one flag of a mode word. Of an allowed flag it is taken over into the requested word, whose
generation advances by 1; a reserved flag and WITNESS_STRICT without WITNESS are refused with 0x0609_0030; DEBUG of a cluster
while debug unlock is not granted is refused with 0x0800_0020 and raises 0x029. -/
def Obligations.ModeWrites : Prop :=
  ∀ (w : Writer) (u : ModeUnit) (gen : BitVec 16) (on : Bool) (s : State),
    let i := modeIdx u
    let one := fun (c : Instr) (bit : Nat) =>
      let word := withBit (s.dget i 1) bit on
      let v := word % 512
      let reserved := v &&& ownBits u ≠ v ∨ (v.testBit 8 = true ∧ v.testBit 3 = false)
      let locked := v.testBit 5 = true ∧ unlocked s = false ∧ ∃ p k, u = .cluster p k
      (windowShut s w = false → ∀ a n, checkWrite w i 1 0 (leBytes 4 word) (some gen.toNat) s = some (a, n) → a ≠ 0x08000020 →
        Refused c w i 1 a n s) ∧
      (Admitted w i 1 0 (leBytes 4 word) (some gen.toNat) s →
        (¬ reserved → ¬ locked → exec c s = .next (syncModes (· == u) ((s.dset i 1 v).dset i 3 ((gen.toNat + 1) % 2 ^ 16)))) ∧
        (reserved → Refused c w i 1 0x06090030 false s) ∧
        (¬ reserved → locked → exec c s = .next (refuseWrite w i 1 0x08000020 false (writerPc w (modeRefused w i s)) (modeRefused w i s))))
    one (.modeAutonomousWrite w u gen on) 0 ∧ one (.modeDeterministicWrite w u gen on) 1 ∧ one (.modeEcoWrite w u gen on) 2 ∧
    one (.modeWitnessWrite w u gen on) 3 ∧ one (.modeMinimalWrite w u gen on) 4 ∧ one (.modeDebugWrite w u gen on) 5 ∧
    one (.modeDrainWrite w u gen on) 7 ∧ one (.modeWitnessStrictWrite w u gen on) 8

/-- 02 R42, R43, R49: the flags that need no step of other units follow their request at once: after every synchronisation of the modes a
running petal has AUTONOMOUS, WITNESS, WITNESS_STRICT and DEBUG of its own scope in effect exactly where they are wanted, and the
requested words and the units' generations stand. -/
def Obligations.PromptModes : Prop :=
  ∀ (u : ModeUnit) (s : State) (bit : Nat), bit ∈ [0, 3, 5, 8] →
    (ownModes (promptSync u s) u).testBit bit = (wantOf s u).testBit bit ∧
    (promptSync u s).dget (modeIdx u) 1 = s.dget (modeIdx u) 1 ∧ (promptSync u s).dget (modeIdx u) 3 = s.dget (modeIdx u) 3 ∧
    (∀ v, v ≠ u → ownModes (promptSync u s) v = ownModes s v) ∧ (s.waiters = [] → (promptSync u s).mem = s.mem)

/-- 02 R48, R49, R53, R57; 16 R427, 02 R538: what ends the transitions of the modes. DETERMINISTIC completes once its cluster holds no task: on
entry the step counter starts at 0; a cluster held for parking parks once it is quiet and nothing blocks it; a drain completes
when its parts are done, and a late one reads 3 and raises 0x028; the host links force AUTONOMOUS by cause [1] and release it;
a halted thread of a DETERMINISTIC cluster that holds a swap raises 0x02A; a state mismatch is recorded once per requested value and raises 0x130. -/
def Obligations.ModeTransitions : Prop :=
  ∀ (p : Petal) (c : Cluster) (t : ThreadId) (d : DrainUnit) (idx : BitVec 16) (s : State),
    let du := ModeUnit.cluster p c
    (transOf s du 1 = none → exec (.deterministicEntryComplete p c) s = .next s) ∧
    (∀ e, transOf s du 1 = some e → clusterQuiet s p c = false → exec (.deterministicEntryComplete p c) s = .next s) ∧
    (transOf s du 1 = some false → clusterQuiet s p c = true → exec (.deterministicEntryComplete p c) s =
      .next (showModes (· == du) (setOwnBit du 1 false (holdOn p c 1 false (setTrans du 1 none s))))) ∧
    (transOf s du 1 = some true → clusterQuiet s p c = true → ∃ v, exec (.deterministicEntryComplete p c) s =
      .next (showModes (· == du) (setOwnBit du 1 true (holdOn p c 1 false (setTrans du 1 none v)))) ∧
      v.dget (pipeIdx p c) 0x0A = 0 ∧ ∀ x : ThreadId, x.p = p → x.c = c → (v.thr (.thr x)).due = 0 ∧ (v.thr (.thr x)).rstack = []) ∧
    (let rs := (s.clus p c).hold.filter (fun r => (r == 2 || r == 3) && !(s.clus p c).parked.contains r)
     ((rs = [] ∨ petalHalted s p = true ∨ clusterReleased s p c = false ∨ parkBlocked s p c = true) →
       exec (.clusterParked p c) s = .next s) ∧
     (rs ≠ [] → petalHalted s p = false → clusterReleased s p c = true → parkBlocked s p c = false →
       exec (.clusterParked p c) s = .next (showModes (asked s 2) (ecoSync (doPark p c rs s))) ∧
       ∀ r, r ∈ rs → r ∈ ((doPark p c rs s).clus p c).parked)) ∧
    (let st := s.dget (drainIdx d) 7
     let done := match d with
       | .petal q => petalDrained s q = true
       | .device => (∀ q, s.dget (pix 0x3000 q) 7 = 2) ∧ s.swaps = []
     ((st = 1 ∨ st = 3) → done → s.dget 0x2100 1 = 7 →
       exec (.drainComplete d) s = .next (syncModes (asked s 7) (s.dset (drainIdx d) 7 2))) ∧
     (¬ ((st = 1 ∨ st = 3) ∧ done ∧ s.dget 0x2100 1 = 7) → exec (.drainComplete d) s = .next s) ∧
     (st ≠ 1 → exec (.drainTimeout d) s = .next s) ∧
     (∀ q, d = .petal q → st = 1 → ∃ u, exec (.drainTimeout d) s = .next u ∧ u.dget (pix 0x3000 q) 7 = 3 ∧ u.mem = s.mem) ∧
     (d = .device → st = 1 → ∃ u, exec (.drainTimeout d) s = .next u ∧ u.dget 0x2000 7 = 3 ∧
       ∀ q, s.dget (pix 0x3000 q) 7 = 1 → u.dget (pix 0x3000 q) 7 = 3)) ∧
    (s.dget 0x2000 0x0B ≠ 0 → hostUp s 0 = false → hostUp s 1 = false → exec .hostLinksDownExpiry s = .next (setCause 1 true s)) ∧
    ((hostUp s 0 = true ∨ hostUp s 1 = true) →
      exec .hostLinkUpExpiry s = .next (setCause 1 false s) ∧ exec .hostLinksDownExpiry s = .next s) ∧
    (let core := fun (n : Nat) => bitsOf n 31 28 = 1 ∧ bitsOf n 27 26 = t.p.val ∧ bitsOf n 25 23 = t.c.val ∧ bitsOf n 15 0 = t.k.val
     ((s.thr (.thr t)).st = .halted → detOn s t.p t.c = true →
       ((∃ w ∈ s.swaps, core w.unit) ∨ ∃ e ∈ s.sorrel, core e.1) →
       exec (.swapHaltWaitExpiry t) s = .next (raise 0x02A t.mid none s)) ∧
     (((s.thr (.thr t)).st ≠ .halted ∨ detOn s t.p t.c = false) → exec (.swapHaltWaitExpiry t) s = .next s)) ∧
    (let i := idx.toNat
     let differs := (∃ u, unitOfIdx i = some u ∧ modeDiff s u ≠ 0) ∨
       (unitOfIdx i = none ∧ (genEntry i 1).isSome ∧ i ≠ 0x4800 ∧ s.dget i 1 ≠ s.dget i 2)
     (¬ differs → exec (.stateMismatchExpiry idx) s = .next s) ∧
     (differs → Tab.get 0 s.mism i ≠ s.dget i 1 + 1 → ∃ v,
       exec (.stateMismatchExpiry idx) s = .next (raise 0x130 i none v) ∧ v.dget 0x1E50 2 = (s.dget 0x1E50 2 + 1) % 2 ^ 64 ∧
       v.domRead 0x1E50 1 0 2 = leBytes 2 i ∧ Tab.get 0 v.mism i = s.dget i 1 + 1) ∧
     (Tab.get 0 s.mism i = s.dget i 1 + 1 → exec (.stateMismatchExpiry idx) s = .next s))

/-- 06 R166, 07 R219, 08 R234, 09 R270, 16 R418, 17 R443, 18 (its dictionary's closing text): the state after reset. Every register of every
thread is 0 and no thread has started, caches, channels, collectors, locks and queues are empty, every dictionary entry and
DOMAIN byte reads its default, no command waits. That memory reads 0 where nothing was written is the model's choice
(DESIGN CHOICE, assumption 5). -/
def Obligations.ResetState : Prop :=
  let s := State.reset
  (∀ h r, s.dreg h r = 0 ∧ s.areg h r = 0) ∧ (∀ h n, s.acc h n = 0) ∧ (∀ h n, s.creg h n = 0) ∧
  (∀ h, (s.thr h).st = .notStarted ∧ (s.thr h).it = false ∧ (s.thr h).tvec = 0 ∧ (s.thr h).prio = 0 ∧ (s.thr h).tcause = 0 ∧
    (s.thr h).resv = none ∧ (s.thr h).sb = [] ∧ (s.thr h).evq = [] ∧ (s.thr h).staged = []) ∧
  (∀ k, (s.core k).l1 = [] ∧ (s.core k).side = [] ∧ (s.core k).merge = [] ∧ (s.core k).pred = [] ∧ (s.core k).evict = [] ∧
    (s.pipe k).flights = [] ∧ (s.pipe k).first = none) ∧
  (∀ p c, (s.clus p c).l2 = [] ∧ (s.clus p c).parked = [] ∧ (s.clus p c).started = false) ∧
  (∀ p n, (s.chan p n).fifo = [] ∧ (s.chan p n).holder = none) ∧
  (∀ c, (s.coll c).ucc = [] ∧ (s.coll c).fatal = []) ∧ s.holders = [] ∧ s.waiters = [] ∧ s.pending = [] ∧
  (∀ p, (s.pet p).tasks = [] ∧ (s.pet p).queues = [] ∧ (s.pet p).rx = []) ∧
  (∀ i j, s.dget i j = entryDefault i j) ∧ (∀ i j o, s.domByte i j o = domDefault i j o) ∧ (∀ a, s.memByte a = 0)

/-- 17 R443, R444, R447 to R450: a device reset shows its cause, counts a start, clears every thread and keeps what MRAM and flash hold; the
start's steps run in order, each by its own condition; a watchdog or a failed verification fails the start; the failed starts
are cleared by the entry, or by the expiry in an operational start; the restart word restarts only a drained or MINIMAL
device. -/
def Obligations.StartSequence : Prop :=
  ∀ (w : Writer) (v : BitVec 32) (b : BitVec 8) (res : StepResult) (s : State),
    let st := s.dget 0x2100 1
    let held := s.power ≠ 2 ∨ s.minRetry = true ∨ s.romStuck = true
    let wd4 := leBytes 4 v.toNat
    (∃ u, exec .deviceReset s = .next u ∧ u.dget 0x2100 2 = 1 ∧ u.dget 0x2100 3 = (s.dget 0x2100 3 + 1) % 2 ^ 32 ∧
      u.dget 0x2100 1 = entryDefault 0x2100 1 ∧ u.dget 0x2102 1 = s.dget 0x2102 1 ∧ u.dget 0x2110 1 = s.dget 0x2110 1 ∧
      u.mem = [] ∧ u.pending = s.pending ∧ (∀ h r, u.dreg h r = 0 ∧ u.areg h r = 0) ∧ ∀ h, (u.thr h).st = .notStarted) ∧
    (held → exec (.startStepComplete res) s = .next s ∧ exec .startWatchdogExpiry s = .next s) ∧
    (¬ held →
      (∀ k, res.verifyFail = some k →
        (st = 0 → exec (.startStepComplete res) s = .next (startFail (0x0100 + k.toNat) 1 s)) ∧
        (st = 1 → exec (.startStepComplete res) s = .next (startFail (0x0100 + k.toNat) 2 s)) ∧
        (st = 4 → exec (.startStepComplete res) s = .next (startFail (0x0100 + k.toNat) 5 s))) ∧
      (res.verifyFail = none → ∀ n, (st = 0 ∧ n = 1) ∨ (st = 1 ∧ n = 2) ∨ (st = 4 ∧ n = 5) →
        ∃ u, exec (.startStepComplete res) s = .next u ∧ u.dget 0x2100 1 = n) ∧
      (st = 2 → exec (.startStepComplete res) s =
        .next (if (s.dget 0x2065 1).testBit 0 = true ∧ (s.dget 0x2065 1).testBit 4 = true then syncModes byHardware (s.dset 0x2100 1 3) else s)) ∧
      (st = 3 → res.trainFail = [] → ∃ u, exec (.startStepComplete res) s = .next u ∧ u.dget 0x2100 1 = 4 ∧
        u.dget 0x4800 2 = s.dget 0x4800 1 ∧ u.dget 0x4800 5 = s.dget 0x4800 4) ∧
      (st = 5 → s.journal ≠ [] → exec (.startStepComplete res) s = .next s) ∧
      (st = 5 → s.journal = [] → ∃ u, exec (.startStepComplete res) s = .next u ∧ u.dget 0x2100 1 = 7) ∧
      (st = 0 ∨ st = 1 ∨ st = 3 ∨ st = 4 ∨ st = 5 ∨ (st = 2 ∧ (s.dget 0x2065 1).testBit 0 = true) →
        exec .startWatchdogExpiry s = .next (startFail (0x0300 + st + 1) (st + 1) s))) ∧
    (s.minRetry = true → exec .minimalRetryExpiry s =
      .next ({ s with minRetry := false }.dset 0x2100 3 ((s.dget 0x2100 3 + 1) % 2 ^ 32))) ∧
    (s.romStuck = true → exec (.goldenRetryExpiry true) s = .next { s with romStuck := false }) ∧
    (exec (.goldenRetryExpiry false) s = .next s) ∧
    (st = 7 → (s.dget 0x2000 6).testBit 2 = false → ∃ u, exec .failedStartClearExpiry s = .next u ∧ u.dget 0x2102 1 = 0 ∧
      u.domRead 0x2102 4 0 112 = List.replicate 112 0) ∧
    (st ≠ 7 → exec .failedStartClearExpiry s = .next s) ∧
    Checked (.clearFailedStarts w b) w 0x2102 5 0 (leBytes 1 b.toNat) none s ∧
    (Admitted w 0x2102 5 0 (leBytes 1 b.toNat) none s → b = 1 → ∃ u, exec (.clearFailedStarts w b) s = .next u ∧
      u.dget 0x2102 1 = 0 ∧ u.domRead 0x2102 4 0 112 = List.replicate 112 0) ∧
    Checked (.restart w v) w 0x2100 7 0 wd4 none s ∧
    (Admitted w 0x2100 7 0 wd4 none s →
      (v ≠ 0xA55A → Refused (.restart w v) w 0x2100 7 0x06090030 false s) ∧
      (v = 0xA55A → s.dget 0x2000 7 ≠ 2 → minimalOn s = false → Refused (.restart w v) w 0x2100 7 0x08000022 false s) ∧
      (v = 0xA55A → (s.dget 0x2000 7 = 2 ∨ minimalOn s = true) → exec (.restart w v) s = .next (deviceReset 2 s)))

/-- 17 R456 to R459, R463: an activation word. A reserved kind or target is refused with 0x0609_0030, one while another activation runs, or of
another kind than Golne firmware under MINIMAL, with 0x0800_0022; an image that verifies is held with its targets, its status
is 2 and its record is asked for; one that does not has status 5 and raises 0x13B. A drain limit leaves this target and the
later ones as they are; Golne firmware that does not come back within its time is rolled back. -/
def Obligations.Activations : Prop :=
  ∀ (w : Writer) (target : BitVec 24) (s : State),
    let t := target.toNat
    let act := fun (c : Instr) (k : Nat) (legal : Prop) =>
      let data := leBytes 8 (k * 2 ^ 56 + t)
      let head := s.domRead 0x2130 0 0 256
      let len := sliceNat head 12 4
      let img := head ++ (if len ≤ 0xFFFF00 then s.domRead 0x2130 0 256 len else [])
      let good := verifyImage s k img = true ∧ (k = 1 → s.domRead 0x2131 (if s.golneB then 1 else 2) 0 img.length = img)
      Checked c w 0x2130 1 0 data none s ∧
      (Admitted w 0x2130 1 0 data none s →
        (¬ legal → Refused c w 0x2130 1 0x06090030 false s) ∧
        (legal → (s.act ≠ none ∨ (minimalOn s = true ∧ k ≠ 1)) → Refused c w 0x2130 1 0x08000022 false s) ∧
        (legal → s.act = none → (minimalOn s = true → k = 1) →
          (good → ∃ u r, exec c s = .next u ∧ u.dget 0x2130 2 = 2 * 2 ^ 24 + t ∧ u.journal = s.journal ++ [r] ∧
            u.act = some ⟨k, w.mid, img, (List.range 24).filter (fun i => target.getLsbD i), false⟩ ∧
            r.type = 3 ∧ r.eff = .activate ∧ u.mem = s.mem ∧ u.threads = s.threads) ∧
          (¬ good → exec c s = .next (raiseAny 0x13B none (s.dset 0x2130 2 (5 * 2 ^ 24 + 0x0100 + k))))))
    act (.activateGolneFirmware w target) 1 (t = 0) ∧ act (.activateClusterFirmware w target) 2 (t ≠ 0) ∧
    act (.activateParseGraph w target) 3 (t ≠ 0 ∧ t < 16) ∧ act (.activateCustomerBank w target) 4 (t ≠ 0 ∧ t < 16) ∧
    act (.activateCowslipFirmware w target) 5 (t = 0) ∧
    (s.act = none → exec .clusterActivationDrained s = .next s ∧ exec .activationDrainLimitExpiry s = .next s ∧
      exec .golneActivationTimeout s = .next s) ∧
    (∀ a i rest, s.act = some a → a.kind = 2 → a.draining = true → a.left = i :: rest → actQuiet s (targetCluster i).1 (targetCluster i).2 = true →
      let p := (targetCluster i).1
      let c := (targetCluster i).2
      ∃ u v, exec .clusterActivationDrained s = .next (actBegin { u with act := some { a with left := rest, draining := false } }) ∧
        u = setActStatus 3 (maskOf rest) 0 (holdOn p c 4 false v) ∧ v.dget (pipeIdx p c) 0x0A = 0 ∧
        (v.clus p c).entry = BitVec.ofNat 48 (0x001000000000 + sliceNat a.img 16 4)) ∧
    (∀ a i rest, s.act = some a → a.kind = 2 → a.draining = true → a.left = i :: rest →
      ∃ u, exec .activationDrainLimitExpiry s = .next u ∧ u.act = none ∧ u.dget 0x2130 2 = 4 * 2 ^ 24 + maskOf a.left % 2 ^ 24 ∧
        u.mem = s.mem) ∧
    (∀ a, s.act = some a → a.kind = 1 → s.golneDown = true → ∃ u, exec .golneActivationTimeout s = .next u ∧ u.act = none ∧
      u.golneB = !s.golneB ∧ u.golneDown = false ∧ u.dget 0x2130 2 = 5 * 2 ^ 24 + 0x0601)

/-- 17 R451, R453 to R455, R459, R463; 03 R63, R64; 10 R288: the journal and what waits for it. A committed record takes the next sequence
number and its 512 bytes go to its flash slot, or to the hold store; the acknowledged sequence moves forward only, to a
committed record, and held records then follow to flash; a flash partition in use is refused; a bank's activation takes the
requested bank and asks for its record, and a bank that fails its check is refused with its cause. -/
def Obligations.JournalAndBanks : Prop :=
  ∀ (w : Writer) (v : BitVec 64) (part : Fin 4) (off : Nat) (data : List Byte) (p : Petal) (gen : BitVec 16) (bank : BitVec 8)
    (flashOk : Bool) (s : State),
    (s.journal = [] → exec (.journalRecordCommitted flashOk) s = .next s) ∧
    (∀ r l, s.journal = r :: l → r.eff = .none →
      let q := s.dget 0x2110 1
      let bytes := recordBytes r { s with journal := l }
      ∃ u, exec (.journalRecordCommitted flashOk) s = .next u ∧ u.journal = l ∧ u.dget 0x2110 1 = q + 1 ∧ bytes.length = 512 ∧
        u.lastHash = hash48 bytes ∧
        (flashOk = true → q ≤ s.dget 0x2110 2 + 65536 → s.heldSeqs = [] →
          u.domRead 0x2110 8 (512 * (q % 65536)) 512 = bytes ∧ u.dget 0x2110 3 = q ∧ u.heldSeqs = []) ∧
        ((flashOk = false ∨ s.dget 0x2110 2 + 65536 < q ∨ s.heldSeqs ≠ []) → holdFree s q = true →
          u.heldSeqs = s.heldSeqs ++ [q] ∧ u.dget 0x2110 4 = s.heldSeqs.length + 1 ∧ u.dget 0x2110 3 = s.dget 0x2110 3) ∧
        ((flashOk = false ∨ s.dget 0x2110 2 + 65536 < q ∨ s.heldSeqs ≠ []) → holdFree s q = false →
          u.heldSeqs = s.heldSeqs ∧ u.dget 0x2110 6 = (s.dget 0x2110 6 + 1) % 2 ^ 64)) ∧
    (∀ r l, s.journal = r :: l → exec (.journalRecordCommitted flashOk) s =
      .next (recordEffect r (commitRecord r flashOk { s with journal := l }))) ∧
    (let d := leBytes 8 v.toNat
     let c := Instr.acknowledgedSequenceWrite w v
     Checked c w 0x2110 2 0 d none s ∧
     (Admitted w 0x2110 2 0 d none s →
       ((v.toNat < s.dget 0x2110 2 ∨ s.dget 0x2110 3 < v.toNat) → Refused c w 0x2110 2 0x06090030 false s) ∧
       (s.dget 0x2110 2 ≤ v.toNat → v.toNat ≤ s.dget 0x2110 3 → ∃ u, exec c s = .next u ∧ u.dget 0x2110 2 = v.toNat ∧
         u.mem = s.mem ∧ (s.heldSeqs = [] → u.dget 0x2110 3 = s.dget 0x2110 3) ∧
         ((∀ q, q ∈ s.heldSeqs → q ≤ v.toNat + 65536) → u.heldSeqs = [])))) ∧
    (let sub := part.val + 1
     let c := Instr.flashPartitionWrite w part off data
     let inUse := match part.val with
       | 0 => s.golneB = false
       | 1 => s.golneB = true
       | 2 => s.dget 0x2100 5 = 0
       | _ => s.dget 0x2100 5 = 1
     Checked c w 0x2131 sub off data none s ∧
     (Admitted w 0x2131 sub off data none s →
       (inUse → Refused c w 0x2131 sub 0x08000022 false s) ∧ (¬ inUse → exec c s = .next (s.domWrite 0x2131 sub off data)))) ∧
    (let one := fun (c : Instr) (i : Nat) (check : Nat × Nat) (ev : State) (e : JEff) =>
       let b := bank.toNat % 2
       Admitted w i 1 0 (leBytes 1 bank.toNat) (some gen.toNat) s →
         (check.1 = 0 → ∃ u r, exec c s = .next u ∧ u.dget i 1 = b ∧ u.dget i 3 = (gen.toNat + 1) % 2 ^ 16 ∧
           u.dget i 2 = s.dget i 2 ∧ u.journal = s.journal ++ [r] ∧ r.eff = e) ∧
         (check.1 ≠ 0 → exec c s = .next (refuseWrite w i 1 0x08000022 false (writerPc w s) ev))
     one (.parseBankActivate w p gen bank) (pix 0x3100 p) (bankCheck s p (bank.toNat % 2))
       (raise (0x030 + p.val) ((bankCheck s p (bank.toNat % 2)).1 * 256 + (bankCheck s p (bank.toNat % 2)).2) (some p)
         (s.dset (pix 0x3100 p) 9 ((bankCheck s p (bank.toNat % 2)).1 * 2 ^ 24 + (bankCheck s p (bank.toNat % 2)).2)))
       (.parseBank p (bank.toNat % 2)) ∧
     one (.customerBankActivate w p gen bank) (pix 0x3381 p) (custCheck s p (bank.toNat % 2))
       (raiseAny (0x088 + p.val) (some p)
         (s.dset (pix 0x3381 p) 4 ((custCheck s p (bank.toNat % 2)).1 * 2 ^ 24 + (custCheck s p (bank.toNat % 2)).2)))
       (.custBank p (bank.toNat % 2)))

/-- 18 R465 to R473, R480, R482: fault collectors. A raised error of class CE or UCC is latched in the device collector's status word, or marks an
already valid one as overflowed; a corrected error without a source counts at its place; a bad SA is stopped, and a thread whose register is bad parks with REGFILE; a status word is cleared by the exact value that was read and by nothing else; an expired
timer counts, raises 0x14B and clears CE and UCC words; a hang raises FATAL in its petal or isolates its port, until the port
reset; a petal whose FATAL raise is due halts, with its tasks gone. -/
def Obligations.FaultCollectors : Prop :=
  ∀ (w : Writer) (src : BitVec 9) (syn : BitVec 19) (unit : Option (BitVec 32)) (col : Collector) (cls : ErrClass) (v : BitVec 64)
    (units : List (Option (BitVec 32))) (x : BitVec 8) (p : Petal) (port : BitVec 16) (n : Fin 13) (c1 : Cluster) (s : State),
    let k := srcKind src.toNat
    (k = 0 → exec (.errorRaise (.source src) syn unit) s = .next s) ∧
    (src = 0x15F → exec (.errorRaise (.source src) syn unit) s = .next (deviceReset 3 { s with rootSyn := some syn.toNat })) ∧
    ((k = 1 ∨ k = 2) → src.toNat ∉ [0x09B, 0x110, 0x111, 0x112, 0x113, 0x14F] → ∃ u, exec (.errorRaise (.source src) syn unit) s = .next u ∧
      u.mem = s.mem ∧
      u.dget 0x2200 k = if (s.dget 0x2200 k).testBit 63 then s.dget 0x2200 k ||| 2 ^ 62 else statusWord k src.toNat syn.toNat s.time) ∧
    (src.toNat ∈ [0x09B, 0x110, 0x111, 0x112, 0x113, 0x14F] → exec (.errorRaise (.source src) syn unit) s =
      .next (errorEffect src.toNat syn.toNat (raise src.toNat syn.toNat (srcPetal src.toNat syn.toNat (unit.map (fun x => x.toNat))) s))) ∧
    (∀ a, src = 0x0B9 → Tab.find s.cow.sas syn.toNat = some a → ∃ u, exec (.errorRaise (.source src) syn unit) s = .next u ∧
      Tab.find u.cow.sas syn.toNat = some { a with stopped := true }) ∧
    (∀ t, src.toNat = 0x06C + p.val → threadOf (syn.toNat % 2 ^ 16) = some t → t.p = p → (s.thr (.thr t)).st = .running →
      ∃ u, exec (.errorRaise (.source src) syn unit) s = .next u ∧ (u.thr (.thr t)).st = .parkedFault ∧
        (u.thr (.thr t)).tcause = faultWord false false 0x0B 0 ∧ (u.thr (.thr t)).tpc = (s.thr (.thr t)).pc ∧
        (u.thr (.thr t)).tfpc = (s.thr (.thr t)).pc) ∧
    (let ce := fun (x : EccPlace) (i sub : Nat) => exec (.errorRaise (.corrected x) syn none) s = .next (s.bump i sub)
     ce (.registers p) (pix 0x3300 p) 8 ∧ ce (.imem p c1) (pipeIdx p c1) 8 ∧ ce (.caches p c1) (cacheIdx p c1) 0x0E ∧
     ce (.channels p) (pix 0x3340 p) 8 ∧ ce (.customerBanks p) (pix 0x3380 p) 0x0A ∧ ce (.locks p) (pix 0x3390 p) 7 ∧
     ce (.buffers p) (pix 0x33A3 p) 0x0B ∧ ce (.queues p) (pix 0x33B0 p) 4 ∧
     ce (.cRegisters p c1) (0x3388 + 0x400 * p.val + c1.val) 4) ∧
    (let i := collIdx col
     let sub := clsSub cls
     let d := leBytes 8 v.toNat
     let c := Instr.statusWordClear w col cls v
     Checked c w i sub 0 d none s ∧
     (Admitted w i sub 0 d none s →
       (v.toNat ≠ s.dget i sub → Refused c w i sub 0x08000021 false s) ∧
       (v.toNat = s.dget i sub → ∃ u, exec c s = .next u ∧ u.dget i sub = 0 ∧ timerRuns u col cls = false ∧ u.mem = s.mem ∧
         (cls = .ucc → (u.coll col).ucc = []) ∧ (cls = .fatal → (u.coll col).fatal = []) ∧
         (∀ j m, m < 256 → (j ≠ i ∨ m ≠ sub) → u.dget j m = s.dget j m))) ∧
     (timerRuns s col cls = false → exec (.escalationExpiry col cls units) s = .next s) ∧
     (timerRuns s col cls = true → ∃ y, exec (.escalationExpiry col cls units) s =
       .next (raise 0x14B (collKey col * 2 ^ 16 + sub) none (y.bump i 9)) ∧ timerRuns y col cls = false ∧
       (cls ≠ .fatal → y.dget i sub = 0) ∧ (cls = .fatal → y.dget i sub = s.dget i sub))) ∧
    exec (.hangDetected (.petal p port)) s = .next (raiseFatal p 0 port.toNat s) ∧
    (n.val ∈ s.isoPorts → exec (.hangDetected (.stem n)) s = .next s) ∧
    (n.val ∉ s.isoPorts → ∃ u, exec (.hangDetected (.stem n)) s = .next u ∧ n.val ∈ u.isoPorts) ∧
    Checked (.portResetCommand w x) w 0x2220 0x0A 0 (leBytes 1 x.toNat) none s ∧
    (Admitted w 0x2220 0x0A 0 (leBytes 1 x.toNat) none s →
      exec (.portResetCommand w x) s = .next { s with isoPorts := s.isoPorts.filter (· ≠ x.toNat) }) ∧
    ((s.haltDue.contains p.val = false ∨ petalHalted s p = true) → exec (.petalHalt p) s = .next s) ∧
    (s.haltDue.contains p.val = true → petalHalted s p = false → ∃ u, exec (.petalHalt p) s = .next u ∧ petalHalted u p = true ∧
      u.haltDue.contains p.val = false ∧ (u.pet p).tasks = [] ∧ (u.pet p).rx = [] ∧ u.dget 0x5001 (1 + p.val) = s.dget 0x5000 1 ∧
      ∀ c, petalHalted u c = (petalHalted s c || c == p)) ∧
    (Admitted w 0x2220 7 0 (leBytes 1 x.toNat) none s → exec (.petalHaltCommand w x) s =
      .next (raiseFatal ⟨x.toNat % 4, Nat.mod_lt _ (by decide)⟩ 4 w.mid s))

/-- 18 R477, R479, R481, R482, R490 to R495: dumps and restarts. A halted petal's dump takes the next number and its slot, once Golne firmware is in service, or only its summary
while the slot still holds one, which is counted at 0x2220.04 and leaves memory alone; a number acknowledged releases its slot;
a halted petal restarts by itself, when allowed, or by the command, and runs again once its images verify, with its FATAL word
clear; a fault of Golne firmware restarts it, one of the root unit resets the device. -/
def Obligations.DumpsAndRestarts : Prop :=
  ∀ (w : Writer) (p : Petal) (bad trunc : Bool) (v : BitVec 64) (x : BitVec 8) (syn : BitVec 19) (res : StepResult) (s : State),
    let st := fun (u : State) => Tab.get 0 u.halts p.val
    ((st s ≠ 3 ∨ s.golneDown = true) → exec (.dumpComplete p bad trunc) s = .next s) ∧
    (st s = 3 → s.golneDown = false → s.restartAsked.contains p.val = false → ∃ u, exec (.dumpComplete p bad trunc) s = .next u ∧ st u = 4 ∧
      u.dget 0x2220 2 = s.dget 0x2220 2 + 1 ∧
      ((Tab.find s.dumps p.val).isSome = true → u.mem = s.mem ∧ u.dumps = s.dumps ∧
        u.dget 0x2220 4 = (s.dget 0x2220 4 + 1) % 2 ^ 64) ∧
      (Tab.find s.dumps p.val = none → s.noDram = true → u.mem = s.mem ∧ u.dumps = s.dumps) ∧
      (Tab.find s.dumps p.val = none → s.noDram = false → Tab.find u.dumps p.val = some (s.dget 0x2220 2 + 1) ∧
        (∀ a, a < 0x000DC0000000 + 0x0FE00000 * p.val → u.memByte a = s.memByte a) ∧
        u.dget 0x2220 4 = s.dget 0x2220 4)) ∧
    (let d := leBytes 8 v.toNat
     let c := Instr.dumpAcknowledge w v
     Checked c w 0x2220 3 0 d none s ∧
     (Admitted w 0x2220 3 0 d none s →
       ((∃ e, e ∈ s.dumps ∧ e.2 = v.toNat) → exec c s = .next { s with dumps := s.dumps.filter (fun e => e.2 ≠ v.toNat) }) ∧
       ((∀ e, e ∈ s.dumps → e.2 ≠ v.toNat) → Refused c w 0x2220 3 0x06090030 false s))) ∧
    (let may := st s = 4 ∧ s.dget 0x2220 5 = 1 ∧ recentHalts s p < 4 ∧
       ¬ ((s.dget (collIdx (.petal p)) 3).testBit 63 = true ∧ (s.coll (.petal p)).fatalTimer = true) ∧
       ∀ n, n = p.val ∨ (4 ≤ n ∧ n ≤ 7) → n ∉ s.isoPorts
     (may → exec (.petalRestart p) s = .next (petalReset p s)) ∧ (¬ may → exec (.petalRestart p) s = .next s)) ∧
    (let q : Petal := ⟨x.toNat % 4, Nat.mod_lt _ (by decide)⟩
     let c := Instr.petalRestartCommand w x
     let hs := Tab.get 0 s.halts q.val
     Admitted w 0x2220 6 0 (leBytes 1 x.toNat) none s →
       (hs = 0 → Refused c w 0x2220 6 0x08000022 false s) ∧
       (hs = 3 → exec c s = .next { s with restartAsked := s.restartAsked.filter (· ≠ q.val) ++ [q.val] }) ∧
       (hs = 4 → exec c s = .next (petalReset q s)) ∧ (hs = 5 → exec c s = .next s)) ∧
    (st (petalReset p s) = 5 ∧ (∀ t : ThreadId, t.p = p → (petalReset p s).thr (.thr t) = Thread.reset) ∧
      (∀ t : ThreadId, t.p ≠ p → (petalReset p s).thr (.thr t) = s.thr (.thr t)) ∧
      (∀ n, (petalReset p s).chan p n = Chan.reset) ∧ ((petalReset p s).pet p).tasks = []) ∧
    (st s ≠ 5 → exec (.petalRestartComplete p res) s = .next s) ∧
    (st s = 5 → ∀ k, res.verifyFail = some k → exec (.petalRestartComplete p res) s =
      .next (raise 0x151 k.toNat none { s with halts := Tab.put s.halts p.val 4 })) ∧
    (st s = 5 → res.verifyFail = none → ∃ u, exec (.petalRestartComplete p res) s = .next u ∧ petalHalted u p = false ∧
      u.dget (collIdx (.petal p)) 3 = 0) ∧
    exec .golneFirmwareFault s = .next (golneRestart s) ∧
    ((golneRestart s).golneDown = true ∧ (golneRestart s).thr .golne = Thread.reset ∧ (golneRestart s).sdo = none ∧
      (golneRestart s).accums = []) ∧
    (s.golneDown = false → s.bulk = [] → exec .golneFirmwareBack s = .next s) ∧
    (s.golneDown = true → s.bulk = [] → s.act = none → ∃ u, exec .golneFirmwareBack s = .next u ∧ u.golneDown = false ∧
      (u.thr .golne).st = .running ∧ u.mem = s.mem) ∧
    exec (.rootUnitFault syn) s = .next (deviceReset 3 { s with rootSyn := some syn.toNat })

/-- 18 R484 to R489; 04 R125, 15 R413, R414: Sorrel. A worn unit's reading is recorded and, at the threshold, makes a trigger; a command with a
reserved value is refused, one for a retired unit or without a spare too; a swap takes a free spare of the unit's pool, both
units swapping; on completion the spare takes the unit ID and the old unit is retired; a migration's finish limit checkpoints
the threads that still hold a task, but under DETERMINISTIC only after an escalation. -/
def Obligations.Sparing : Prop :=
  ∀ (w : Writer) (unit : BitVec 32) (loss : Nat) (v : BitVec 64) (k : CoreId) (p : Petal) (stage : Fin 12) (g : Fin 4) (s : State),
    let n := unit.toNat
    let legal := validUnit n = true ∧ unitKind n ∈ [1, 3, 5, 7]
    (servedBy s n = none → exec (.wearReading unit loss) s = .next s) ∧ (¬ legal → exec (.wearReading unit loss) s = .next s) ∧
    (∀ r, servedBy s n = some r → legal → ∃ u, exec (.wearReading unit loss) s = .next u ∧
      u.domNat 0x2304 0 (16 * wearSlot r) 4 = n ∧ u.domNat 0x2304 0 (16 * wearSlot r + 8) 2 = loss % 65536 ∧
      (3 * s.dget 0x2300 5 ≤ 4 * loss → r ∈ u.wearWarned) ∧ (4 * loss < 3 * s.dget 0x2300 5 → u.wearWarned = s.wearWarned) ∧
      (loss < s.dget 0x2300 5 → u.sorrel = s.sorrel) ∧
      (s.dget 0x2300 5 ≤ loss → (s.dget 0x2300 1).testBit 1 = true → (∀ e, e ∈ s.sorrel → e.1 ≠ n) → (∀ e, e ∈ s.swaps → e.unit ≠ n) →
        u.sorrel = s.sorrel ++ [(n, 3)])) ∧
    (let body := v.toNat % 2 ^ 60
     let un := body % 2 ^ 32
     let cmd := fun (c : Instr) (op : Nat) (ok : Prop) =>
       let d := leBytes 8 (op * 2 ^ 60 + body)
       Checked c w 0x2300 2 0 d none s ∧
       (Admitted w 0x2300 2 0 d none s →
         ((body / 2 ^ 32 ≠ 0 ∨ validUnit un = false) → Refused c w 0x2300 2 0x06090030 false s) ∧
         (body / 2 ^ 32 = 0 → validUnit un = true → unitRetired s un = true → Refused c w 0x2300 2 0x08000022 false s) ∧
         (body / 2 ^ 32 = 0 → validUnit un = true → unitRetired s un = false → ok))
     cmd (.sorrelSwapCommand w v) 1
       (((unitKind un = 8 ∧ 8 ≤ Tab.get 0 s.repairs un) ∨ (unitKind un ≠ 8 ∧ freeSpare s un = none) →
           Refused (.sorrelSwapCommand w v) w 0x2300 2 0x08000024 false s) ∧
         (((unitKind un = 8 ∧ Tab.get 0 s.repairs un < 8) ∨ (unitKind un ≠ 8 ∧ freeSpare s un ≠ none)) →
           exec (.sorrelSwapCommand w v) s = .next (trigger un 1 s))) ∧
     cmd (.sorrelRetireSpare w v) 2
       ((freeSpare s un = none → Refused (.sorrelRetireSpare w v) w 0x2300 2 0x08000024 false s) ∧
         ∀ f, freeSpare s un = some f → ∃ u, exec (.sorrelRetireSpare w v) s = .next u ∧ mapState u f = (0, 3) ∧
           ∀ r, r ≠ f → mapState u r = mapState s r) ∧
     cmd (.sorrelCancelTrigger w v) 3
       (exec (.sorrelCancelTrigger w v) s = .next { s with sorrel := s.sorrel.filter (fun e => e.1 != un) })) ∧
    (nextTrigger s = none → exec .swapStart s = .next s) ∧
    (∀ u t r f, nextTrigger s = some (u, t) → unitKind u ≠ 8 → servedBy s u = some r → freeSpare s u = some f →
      ∃ y, exec .swapStart s = .next y ∧ y.swaps = s.swaps ++ [⟨u, t, physOf r, physOf f, s.time⟩] ∧
        mapState y r = (u, 2) ∧ mapState y f = (0, 2) ∧ y.sorrel = s.sorrel.filter (fun e => e.1 != u)) ∧
    (∀ u t r, nextTrigger s = some (u, t) → unitKind u ≠ 8 → servedBy s u = some r → freeSpare s u = none →
      exec .swapStart s = .next (noSpare u t { s with sorrel := s.sorrel.filter (fun e => e.1 != u) })) ∧
    (s.swaps.find? (fun w => w.unit == n) = none → exec (.swapComplete unit) s = .next s) ∧
    (∀ x, s.swaps.find? (fun w => w.unit == n) = some x →
      (maySettle s n = false → exec (.swapComplete unit) s = .next s) ∧
      (maySettle s n = true → unitKind n ≠ 8 → x.new ≠ x.old → ∃ y, exec (.swapComplete unit) s = .next y ∧
        y.swaps = s.swaps.filter (fun z => z.unit != n) ∧ mapState y ((sparePool n).1 + x.new) = (n, 0) ∧
        mapState y ((sparePool n).1 + x.old) = (0, 3))) ∧
    ((∀ x ∈ s.swaps, x.unit = coreUnit k → detOn s k.p k.c = true ∧ x.trig ≠ 0) →
      exec (.migrationFinishLimitExpiry k) s = .next s) ∧
    ((∃ x ∈ s.swaps, x.unit = coreUnit k ∧ (detOn s k.p k.c = false ∨ x.trig = 0)) → ∃ y,
      exec (.migrationFinishLimitExpiry k) s = .next y ∧
      ∀ t, (s.thr (.thr (k.thread t))).wait = .none → (s.thr (.thr (k.thread t))).st = .running →
        ((s.slot (k.thread t)).cur = none → (y.thr (.thr (k.thread t))).st = .running) ∧
        ((s.slot (k.thread t)).cur ≠ none → (y.thr (.thr (k.thread t))).st = .sparing ∧
          (y.thr (.thr (k.thread t))).tpc = (s.thr (.thr (k.thread t))).pc)) ∧
    (s.swaps.find? (fun w => unitKind w.unit == 3 && unitPet w.unit == p && bitsOf w.unit 22 16 == stage.val) = none →
      exec (.trieBankFillComplete p stage) s = .next s) ∧
    (∀ x, s.swaps.find? (fun w => unitKind w.unit == 3 && unitPet w.unit == p && bitsOf w.unit 22 16 == stage.val) = some x →
      exec (.trieBankFillComplete p stage) s = .next (finishSwap x (s.updTab (fun t => { t with
        fills := t.fills.filter (· != p.val * 96 + stage.val * 8 + bitsOf x.unit 15 0) })))) ∧
    ((s.dram g.val).copy = none → exec (.dramCopyComplete g) s = .next s) ∧
    (∀ pos row, (s.dram g.val).copy = some (pos, row) → pos < 32 → ∃ y, exec (.dramCopyComplete g) s = .next y ∧
      (y.dram g.val).copy = none ∧ y.dget (0x4900 + pos) 3 = 0 ∧ y.mem = s.mem)

/-- 19 R498, R499, R504, R506, R507, R513: counters and the debug lock. A snapshot copies a block's counters; a histogram's clear zeroes its
buckets; a permit that passes every check asks for its record, one that fails leaves the reason of the first failed check in
the status and raises 0x164; unlock ends at its expiry or by the relock entry, with DEBUG requests, lanes, breakpoints and
watchpoints off; a Tansy lane is written only for a petal in the permit's mask. -/
def Obligations.CountersAndUnlock : Prop :=
  ∀ (w : Writer) (blk : Fin 5) (off : Nat) (data : List Byte) (v : BitVec 8) (p : Petal) (un : Fin 16) (permit : List Byte)
    (lane : Fin 16) (lv : BitVec 16) (s : State),
    let ci := ctrIdx blk.val
    let one := leBytes 1 v.toNat
    Checked (.counterChainWrite w blk off data) w ci 2 off data none s ∧
    (Admitted w ci 2 off data none s → ∃ u, exec (.counterChainWrite w blk off data) s = .next u ∧ u.mem = s.mem ∧ u.dict = s.dict ∧
      ∀ i, i + 1 < ctrCount blk.val → off ≤ i / 8 → i / 8 < off + data.length →
        ctrChained u blk.val i = (data.getD (i / 8 - off) 0).getLsbD (i % 8)) ∧
    Checked (.counterSnapshot w blk v) w ci 3 0 one none s ∧
    (Admitted w ci 3 0 one none s →
      (v = 1 → exec (.counterSnapshot w blk v) s = .next (s.domWrite ci 4 0 (ctrImage s blk.val))) ∧
      (v ≠ 1 → exec (.counterSnapshot w blk v) s = .next s)) ∧
    (let i := 0x7600 + 0x10 * p.val + un.val
     Checked (.histogramClear w p un v) w i 5 0 one none s ∧
     (Admitted w i 5 0 one none s →
       (v = 1 → ∃ u, exec (.histogramClear w p un v) s = .next u ∧ u.dget i 6 = 0 ∧ u.domRead i 4 0 512 = List.replicate 512 0 ∧
         u.mem = s.mem) ∧
       (v ≠ 1 → exec (.histogramClear w p un v) s = .next s))) ∧
    Checked (.permitPresent w permit) w 0x8000 1 0 permit none s ∧
    (Admitted w 0x8000 1 0 permit none s →
      (permitCheck s permit = 0 → ∃ r, exec (.permitPresent w permit) s = .next { s with journal := s.journal ++ [r] } ∧
        r.type = 4 ∧ r.eff = .unlock permit) ∧
      (permitCheck s permit ≠ 0 → exec (.permitPresent w permit) s =
        .next (raiseAny 0x164 none (s.dset 0x8000 2 (b2n ((s.dget 0x8000 2).testBit 31) * 2 ^ 31 + permitCheck s permit * 2 ^ 28))))) ∧
    (unlocked s = false → exec .unlockExpiry s = .next s) ∧
    (unlocked s = true → ∃ u, exec .unlockExpiry s = .next u ∧ unlocked u = false ∧ u.unlockPetals = 0 ∧ (s.waiters = [] → u.mem = s.mem) ∧
      (∀ l : Fin 16, (u.dget 0x8200 (l.val + 1)).testBit 15 = false) ∧
      (∀ (k : CoreId) b, b < 6 → (u.dget (dbgIdx k) (3 + b)).testBit 63 = false) ∧
      (∀ q c, (u.dget (modeIdx (.cluster q c)) 1).testBit 5 = false)) ∧
    Checked (.relock w v) w 0x8000 3 0 one none s ∧
    (Admitted w 0x8000 3 0 one none s →
      (v = 1 → exec (.relock w v) s = exec .unlockExpiry s) ∧ (v ≠ 1 → exec (.relock w v) s = .next s)) ∧
    (let d := leBytes 2 lv.toNat
     Checked (.tansyLaneWrite w lane lv) w 0x8200 (lane.val + 1) 0 d none s ∧
     (Admitted w 0x8200 (lane.val + 1) 0 d none s →
       (s.unlockPetals.testBit (lv.toNat / 4096 % 4) = true →
         exec (.tansyLaneWrite w lane lv) s = .next (s.dset 0x8200 (lane.val + 1) (lv &&& 0xBFFF).toNat)) ∧
       (s.unlockPetals.testBit (lv.toNat / 4096 % 4) = false →
         Refused (.tansyLaneWrite w lane lv) w 0x8200 (lane.val + 1) 0x06090030 false s)))

/-- 19 R508, R509, R511; 07 R218: the debugger's commands. Halt stops a running thread at its boundary with cause 1, one of a migrating core
later, and in a DETERMINISTIC
cluster every thread with it; resume lets a halted thread run on past its breakpoint; step lets it issue one instruction,
after which it halts with cause 5; a
cluster halt stops every thread with cause 6; bytes 0 to 311 of a halted thread's record write its registers and its PC, and a
thread that is not halted refuses them. -/
def Obligations.DebugCommands : Prop :=
  ∀ (w : Writer) (t : ThreadId) (k : CoreId) (off : Nat) (data : List Byte) (s : State),
    let i := dbgIdx t.core
    let x := s.thr (.thr t)
    let d := fun (op : Nat) => leBytes 8 (op * 2 ^ 60 + t.t.val * 2 ^ 56)
    let adm := fun (op : Nat) => Admitted w i 1 0 (d op) none s
    Checked (.debugHalt w t) w i 1 0 (d 1) none s ∧ Checked (.debugResume w t) w i 1 0 (d 2) none s ∧
    Checked (.debugStep w t) w i 1 0 (d 3) none s ∧ Checked (.debugClusterHalt w k) w (dbgIdx k) 1 0 (leBytes 8 (4 * 2 ^ 60)) none s ∧
    (adm 1 → detOn s t.p t.c = false → x.st = .running → migrating s t = false →
      ∃ di fr, exec (.debugHalt w t) s = .next ({ s with dict := di, fresh := fr }.updThr (.thr t) (fun y =>
        { y with st := .halted, haltCause := 1, haltAsked := 0, haltFrom := .running, resv := none }))) ∧
    (adm 1 → detOn s t.p t.c = false → (x.st = .sparing ∨ (x.st = .running ∧ migrating s t = true)) → x.haltAsked = 0 →
      exec (.debugHalt w t) s = .next (s.updThr (.thr t) (fun y => { y with haltAsked := 1 }))) ∧
    (adm 1 → detOn s t.p t.c = false → (x.st.parked = true ∨ x.st = .halted ∨ x.st = .notStarted) →
      exec (.debugHalt w t) s = .next s) ∧
    (adm 1 → detOn s t.p t.c = true → ∃ u, exec (.debugHalt w t) s = .next u ∧
      ∀ v : ThreadId, v.p = t.p → v.c = t.c → (s.thr (.thr v)).st = .running → migrating s v = false →
        (u.thr (.thr v)).st = .halted ∧ (u.thr (.thr v)).haltCause = if v = t then 1 else 6) ∧
    (adm 2 → x.st = .halted → x.haltFrom = .running → x.parkAsked = false →
      exec (.debugResume w t) s = .next (s.updThr (.thr t) (fun y => { y with st := .running, haltCause := 0, passBp := true }))) ∧
    (adm 2 → x.st ≠ .halted → exec (.debugResume w t) s = .next s) ∧
    (adm 3 → x.st = .halted → x.haltFrom = .running → x.parkAsked = false →
      exec (.debugStep w t) s = .next (s.updThr (.thr t) (fun y =>
        { y with st := .running, haltCause := 0, passBp := true, haltAsked := 5 }))) ∧
    (adm 3 → x.st = .halted → x.haltFrom = .running → x.parkAsked = false → ∀ u, exec (.debugStep w t) s = .next u →
      canIssue (.thr t) u = true → fetchOk x.pc = true → fetchOk (x.pc + 4) = true → blockBad u t x.pc = false →
      tagOn u t.core = false → migrating u t = false → u.frozen = [] → Granted (.thr t) (.nop (.thr t)) u →
      ∃ y, exec (.nop (.thr t)) u = .next y ∧ (y.thr (.thr t)).st = .halted ∧ (y.thr (.thr t)).haltCause = 5 ∧
        (y.thr (.thr t)).pc = x.pc + 4 ∧ ∀ r, y.dreg (.thr t) r = s.dreg (.thr t) r) ∧
    (adm 3 → x.st ≠ .halted → exec (.debugStep w t) s = .next s) ∧
    (Admitted w (dbgIdx k) 1 0 (leBytes 8 (4 * 2 ^ 60)) none s → ∃ u, exec (.debugClusterHalt w k) s = .next u ∧
      ∀ v : ThreadId, v.p = k.p → v.c = k.c → (s.thr (.thr v)).st = .running → migrating s v = false →
        (u.thr (.thr v)).st = .halted ∧ (u.thr (.thr v)).haltCause = 6) ∧
    (let sub := 0x10 + t.t.val
     let c := Instr.debugThreadStateWrite w t off data
     Checked c w i sub off data none s ∧
     (Admitted w i sub off data none s →
       (x.st ≠ .halted → Refused c w i sub 0x08000022 false s) ∧
       (x.st = .halted → ∃ u, exec c s = .next u ∧ (∀ h, h ≠ .thr t → u.thr h = s.thr h) ∧ (u.thr (.thr t)).st = .halted ∧
         (∀ r : Reg, off ≤ 8 * r.val → 8 * r.val + 8 ≤ off + data.length →
           (u.dreg (.thr t) r).toNat = leNat ((data.drop (8 * r.val - off)).take 8)) ∧
         (∀ r : Reg, (off + data.length ≤ 8 * r.val ∨ 8 * r.val + 8 ≤ off) → u.dreg (.thr t) r = s.dreg (.thr t) r) ∧
         (off ≤ 304 → 312 ≤ off + data.length →
           (u.thr (.thr t)).pc = BitVec.ofNat 48 (leNat ((data.drop (304 - off)).take 8))) ∧ u.mem = s.mem)))

/-- 00 R540; 01 R25 to R32; 18 R480: clocks, paces and the stem. A window boundary sets device time to the next millisecond and restarts the
counts; a pace reading is kept, and the third below the floor in a row raises 0x024 and boosts; a lost clock freezes its
crossing with 0x025 until it returns, when the words, DRAM requests and
transfers that waited for it go on; a word that fails its parity raises 0x026; a transfer through an isolated port or without a
place in its output port's queue passes nothing, one whose output port has lost its clock waits, one that fails its CRC is counted, retried,
and delivered exactly once; the syndrome of 0x022 and 0x023 is the model's layout (DESIGN CHOICE, assumption 41). -/
def Obligations.ClocksAndStem : Prop :=
  ∀ (u : PaceUnit) (v : BitVec 16) (d : Fin 18) (inward : Bool) (x : CrossXfer) (y : StemXfer) (s : State),
    (13 ∈ s.frozen → exec .countWindowBoundary s = .next s) ∧
    (13 ∉ s.frozen → exec .countWindowBoundary s = .next { s with time := (s.time / 1000000 + 1) * 1000000, win := [] }) ∧
    (let e := paceEntry u
     let floor := s.dget 0x2010 0x20
     let key := dk e.1 e.2
     let n := if floor ≠ 0 ∧ v ≠ 0 ∧ v.toNat < floor then Tab.get 0 s.paceLow key + 1 else 0
     ∃ t, exec (.paceReading u v) s = .next t ∧ t.mem = s.mem ∧ Tab.get 0 t.paceLow key = min n 3 ∧
       ((∀ p c, (s.clus p c).parked.contains 2 = true → (ecoChosen s p).contains c = true) →
         t.dget e.1 e.2 = v.toNat ∧ (n < 3 → t.threads = s.threads ∧ t.doms = s.doms)) ∧ (3 ≤ n → Tab.find t.boost key = some 0)) ∧
    (d.val + 1 ∈ s.frozen → exec (.clockLoss d) s = .next s) ∧
    (d.val + 1 ∉ s.frozen → exec (.clockLoss d) s = .next (raise 0x025 (d.val + 1) none { s with frozen := s.frozen ++ [d.val + 1] })) ∧
    (let k := d.val + 1
     ∃ t, exec (.clockReturn d) s = .next t ∧ t.frozen = s.frozen.filter (· ≠ k) ∧ crossHeld t k = [] ∧
       (7 ≤ k → k ≤ 10 → (t.dram (k - 7)).held = []) ∧
       (crossHeld s k = [] → (7 ≤ k → k ≤ 10 → (s.dram (k - 7)).held = []) →
         (∀ w ∈ s.stem, portDomain w.x.dst.val ≠ some k) → t.mem = s.mem ∧ t.out = s.out ∧ t.dict = s.dict)) ∧
    (d.val + 1 ∈ s.frozen →
      let l := crossHeld s (d.val + 1)
      let wd := fun (o : Bool) => exec (.crossingWordIn d inward x o) s
      ((inward = true ∨ 8 ≤ l.length) → ∀ o, wd o = .next s) ∧
      (inward = false → l.length < 8 → ∀ o, wd o = .next { s with cross := Tab.put s.cross (d.val + 1) (l ++ [(x, o)]) })) ∧
    (d.val + 1 ∉ s.frozen → exec (.crossingWordIn d inward x true) s = .next s ∧
      exec (.crossingWordIn d inward .other false) s = .next (raise 0x026 (d.val + 1) none s) ∧
      (∀ q, exec (.crossingWordIn d true (.rxFrame q) false) s =
        .next ((raise 0x026 (d.val + 1) none s).bump (portIdx q.val) 0x16)) ∧
      ∀ m, exec (.crossingWordIn d inward (.hostRead m) false) s =
        .next ((raise 0x026 (d.val + 1) none s).emit (.hostCompletion m.toNat true []))) ∧
    (let dst := y.dst.val
     let m := y.mid.toNat
     let free := y.src.val ∉ s.isoPorts ∧ dst ∉ s.isoPorts ∧ (validMid m = true → portIssues y.src.val m = true) ∧
       stemRoom s dst (creditClass m) = true
     (¬ free → exec (.stemTransfer y) s = .next s) ∧
     (free → outReady s dst = false → exec (.stemTransfer y) s = .next { s with stem := s.stem ++ [⟨y, s.time⟩] }) ∧
     (free → outReady s dst = true → (∀ w ∈ s.stem, w.x.dst ≠ y.dst) → y.bar = none →
       let n := y.crcFailures.val
       let syn := dst * 2 ^ 5 + y.slice.val
       let a := y.addr.toNat
       let r0 := { s with stemRr := Tab.put s.stemRr (dst * 16 + creditClass m) y.src.val }
       let r := if n = 0 then r0 else raise (if n < 4 then 0x022 else 0x023) syn none r0
       let pc := match threadOf m with
         | some t => (r.thr (.thr t)).pc
         | none => 0
       exec (.stemTransfer y) s = .next (busAnswer m a y.wr.isSome (busAccess m a y.size y.wr pc r))))

/-- 03 R62, R74, R75, R82, R88; 05 R149; 14 R372, R375; 18 R477: from the MAC to task formation. A bad, short or long frame is dropped and
counted; pauses are consumed, counted and set; a good frame is counted and waits in order, with its port, stamp and class; the
parser takes the oldest frame into buffers, drops and counts it when it gets none, counts a corrected error of its memory, drops the frame
at an uncorrectable one, takes the action of the highest-ranking failure, and hands a frame with no failure, no rule and an empty default list to formation with rule number 0xFFFF. -/
def Obligations.ReceivePath : Prop :=
  ∀ (port : Port) (f : List Byte) (ok : Bool) (cls : Fin 8) (cs : BitVec 8) (qs : List (BitVec 16)) (q16 : BitVec 16) (p : Petal)
    (ecc : EccOutcome) (x : RxFrame) (rest : List RxFrame) (s : State),
    let q := port.val
    let i := portIdx q
    let pp := portPetal q
    let n := f.length
    let live := portUp s q = true ∧ s.frozen.contains (1 + q / 8) = false
    let fit := portUp s q = true ∧ s.frozen.contains (1 + q / 8) = false ∧ ok = true ∧ 64 ≤ n ∧ n ≤ s.dget i 5
    let u := (s.bump i 0x14).bumpBy i 0x15 n
    let paused := fun (v : State) (named : Nat → Bool) (quanta : Nat → Nat) (r : Host.Outcome State Fault Refusal) =>
      ∃ l, r = .next { v.bump i 0x1B with rxPause := l } ∧ ∀ k c, c < 8 →
        (8 * k + c ∈ l ↔ if k = q ∧ named c = true then quanta c ≠ 0 else 8 * k + c ∈ v.rxPause)
    ((portUp s q = false ∨ s.frozen.contains (1 + q / 8) = true) → exec (.frameReceive port f ok) s = .next s) ∧
    (portUp s q = true → s.frozen.contains (1 + q / 8) = false →
      (ok = false → exec (.frameReceive port f ok) s = .next (s.bump i 0x16)) ∧
      (ok = true → n < 64 → exec (.frameReceive port f ok) s = .next (s.bump i 0x17)) ∧
      (ok = true → 64 ≤ n → s.dget i 5 < n → exec (.frameReceive port f ok) s = .next (s.bump i 0x18))) ∧
    (fit → beNat (slice f 12 2) ≠ 0x8808 → petalHalted u pp = true → exec (.frameReceive port f ok) s = .next (u.bump 0x2220 8)) ∧
    (fit → beNat (slice f 12 2) ≠ 0x8808 → petalHalted u pp = false → exec (.frameReceive port f ok) s =
      .next (u.updPet pp (fun r => { r with rx := r.rx ++ [⟨q, f, u.time, frameClass u q f⟩] }))) ∧
    (fit → beNat (slice f 12 2) = 0x8808 → beNat (slice f 14 2) = 0x0101 →
      paused u (fun c => bitOf (beNat (slice f 16 2)) c && bitOf (u.dget i 0x13) c)
        (fun c => beNat (slice f (18 + 2 * c) 2)) (exec (.frameReceive port f ok) s)) ∧
    (live → paused s (fun c => cs.getLsbD c && bitOf (s.dget i 0x13) c) (fun c => (qs.getD c 0).toNat)
      (exec (.pfcFrameReceive port cs qs) s)) ∧
    (live → s.dget i 0x12 = 1 → paused s (fun _ => true) (fun _ => q16.toNat) (exec (.linkPauseReceive port q16) s)) ∧
    (live → s.dget i 0x12 ≠ 1 → exec (.linkPauseReceive port q16) s = .next (s.bump i 0x1B)) ∧
    (¬ live → exec (.pfcFrameReceive port cs qs) s = .next s ∧ exec (.linkPauseReceive port q16) s = .next s) ∧
    exec (.pauseExpiry port cls) s = .next { s with rxPause := s.rxPause.filter (· ≠ 8 * q + cls.val) } ∧
    (let held := (s.pet pp).paused.contains (8 * (q % 8) + cls.val)
     (held = true → exec (.pfcRepeat port cls) s =
        .next ((s.emit (.pfcTx q (2 ^ cls.val) (s.dget (pix 0x3203 pp) 0x31))).bump (pix 0x3203 pp) (0x51 + cls.val)) ∧
      exec (.pauseHeldExpiry port cls) s =
        .next (raise (0x060 + pp.val) (b2n (s.pet pp).storePause * 256 + q * 8 + cls.val) (some pp) s)) ∧
     (held = false → exec (.pfcRepeat port cls) s = .next s ∧ exec (.pauseHeldExpiry port cls) s = .next s)) ∧
    ((s.pet p).rx = [] → (s.pet p).copies = [] → exec (.parseWalk p ecc) s = .next s) ∧
    ((s.pet p).rx = x :: rest → (s.pet p).copies = [] → (s.pet p).parseOn = true → petalHalted s p = false →
      let s1 := s.updPet p (fun r => { r with rx := rest })
      let a := allocBufs p (refillReserve s1 p) x.bytes.length s1
      (a.2 = none → exec (.parseWalk p ecc) s = .next (a.1.bump (pix 0x33A3 p) 8)) ∧
      ∀ bufs, a.2 = some bufs →
        let w := writePkt p bufs x.bytes a.1
        let g := x.bytes.take (x.bytes.length - 4)
        let o := walkFrame w.1 p (w.1.dget (pix 0x3100 p) 2) g
        let v := if ecc = .corrected then (countWalk p o w.1).bump (pix 0x310A p) 3 else countWalk p o w.1
        let t := genSnap w.1 (genInUse w.1 p)
        let m : Meta := ⟨x.port, o.status, o.deepest, o.vlan0, o.mpls0⟩
        (ecc = .uncorrectable → exec (.parseWalk p ecc) s = .next (raiseAny (0x034 + p.val) (some p) (freePkt p w.2 (v.bump (pix 0x310A p) 4)))) ∧
        (ecc ≠ .uncorrectable → modeOn w.1 (.petal p) 3 = false → ∀ b, topFail o.fails = some b →
          (v.dget (pix 0x3103 p) (failSub b) / 2 ^ 30 % 4 = 0 → exec (.parseWalk p ecc) s = .next (freePkt p w.2 v)) ∧
          (v.dget (pix 0x3103 p) (failSub b) / 2 ^ 30 % 4 = 1 → ∃ k : Pkt, k.pstat = o.status ∧ k.buf = w.2 ∧ k.src = x.port ∧
            exec (.parseWalk p ecc) s = .next (enqueue p (16384 * p.val + v.dget (pix 0x3103 p) (failSub b) % 16384) k v))) ∧
        (ecc ≠ .uncorrectable → o.fails = [] → minimalOn v = false → classify t p (classKey t p o.vec m) = none →
          listWords (t.bytes (pix 0x3108 p) 0 (72 * t.get (pix 0x3106 p) (x.port % 8 + 1)) 72) = (0, []) →
          ∃ (e : State) (k : Pkt), exec (.parseWalk p ecc) s = .next e ∧ (e.pet p).form = (v.pet p).form ++ [(k, false)] ∧ k.rule = 0xFFFF ∧
            k.pstat = o.status ∧ k.src = x.port ∧ k.cls = x.cls ∧ k.buf = w.2 ∧ k.gen = genInUse w.1 p ∧ k.tstamp = x.stamp % 2 ^ 32 ∧
            k.len = x.bytes.length))

/-- 05 R129 to R134, R138 to R142, R146, R150, R151: tasks. Formation takes the head in order, with the lowest free ID, the domain's next
sequence number and the mask of the operands that the task does not need; a frame that finds no entry is dropped and counted; a
full host share makes its packets wait, and them alone. A lookup operand fills with its words; one that times out fills with its error form, is
counted and reported, and its late arrival is discarded and counted. Dispatch serves the least loaded core, the lower number
between equals (the reading of affinity is the model's: DEDUCED, assumption 27). A release waits for its task's end and for every older task
of its domain, and frees the entry; the age limit reports the task to its core's supervisor. -/
def Obligations.Tasks : Prop :=
  ∀ (p : Petal) (pkt : Pkt) (rest : List (Pkt × Bool)) (id : Nat) (task : TaskId) (bit : Fin 4) (t : Task) (h : ThreadId) (ecc : EccOutcome)
    (s : State),
    let s' := s.updPet p (fun r => { r with form := rest })
    let formed := fun (dom mask : Nat) => ∃ (u : State) (x : Task), exec (.taskForm p) s = .next u ∧ (u.pet p).form = rest ∧
      (u.pet p).tasks = (s.pet p).tasks ++ [x] ∧ x.id = id ∧ x.pkt.task = id ∧ x.order = (s.pet p).order ∧ x.pkt.dom = dom ∧
      x.pkt.seq = Tab.get 0 (s.pet p).seqs dom ∧ Tab.get 0 (u.pet p).seqs dom = (x.pkt.seq + 1) % 65536 ∧ x.mask = mask ∧ x.thr = none
    let f := (pktBytes s' p pkt.buf).take ((pktBytes s' p pkt.buf).length - 4)
    let prof := profileOf s' (genSnap s' pkt.gen) pkt.src
    let cow := cowSelect s' pkt.src pkt.vec f != .none
    let form := (s.pet p).form
    let share := s.dget (pix 0x3200 p) 2
    let waits := fun (e : Pkt × Bool) => e.2 = true ∧ share ≤ hostCount s p
    (∀ e j, nextForm s p = some (e, j) → form[j]? = some e ∧ ¬ waits e ∧ ∀ k, k < j → ∃ y, form[k]? = some y ∧ waits y) ∧
    (nextForm s p = none → ∀ e ∈ form, waits e) ∧
    ((s.pet p).copies = [] → (petalHalted s p = true ∨ nextForm s p = none) → exec (.taskForm p) s = .next s) ∧
    (freeId s p = some id → id < 16384 ∧ (∀ x ∈ (s.pet p).tasks, x.id ≠ id) ∧ ∀ x ∈ (s.pet p).copies, x.task ≠ some id) ∧
    (∀ j, nextForm s p = some ((pkt, true), j) → (s.pet p).copies = [] → petalHalted s p = false → rest = form.eraseIdx j →
      (freeId s p = none → exec (.taskForm p) s = .next s) ∧ (freeId s p = some id → formed (0xF0000 + pkt.hq % 16384) 15)) ∧
    (∀ j, nextForm s p = some ((pkt, false), j) → (s.pet p).copies = [] → petalHalted s p = false → rest = form.eraseIdx j →
      (∀ sub, refusedIngress s p pkt = some sub → exec (.taskForm p) s =
        .next (refreshOldest p (refreshPause p (freePkt p pkt.buf (s'.bump (pix 0x3203 p) sub))))) ∧
      (refusedIngress s p pkt = none → freeId s p = none → exec (.taskForm p) s = .next s) ∧
      (refusedIngress s p pkt = none → freeId s p = some id → minimalOn s' = false → bitOf prof 3 = false →
        formed (if bitOf (s.dget (pix 0x3202 p) (pkt.src % 8 + 1)) 31 then 0xFFF00 + pkt.src % 8 else pkt.hash % 2 ^ 20)
          (15 - 4 * b2n (bitOf prof 0 || bitOf prof 1 || bitOf prof 2) - 8 * b2n cow))) ∧
    (let cap := 16384 - s.dget (pix 0x3200 p) 2
     let full := ingressClosed s p = true ∨ cap ≤ ingressCount s p ∨ s.dget (pix 0x3203 p) (0x21 + pkt.cls) ≤ classCount s p pkt.cls
     let pfc := (s.dget (pix 0x3203 p) 0x30).testBit (8 * (pkt.src % 8) + pkt.cls)
     (¬ full → refusedIngress s p pkt = none) ∧ (full → pfc = true → refusedIngress s p pkt = some 0x39) ∧
     (full → pfc = false → refusedIngress s p pkt = some (0x41 + pkt.cls))) ∧
    let late := (s.pet p).lateOps
    (late.contains (task.val, bit.val) = true → exec (.operandArrive p task ⟨bit, ecc⟩) s = .next
      ((s.updPet p (fun r => { r with lateOps := r.lateOps.erase (task.val, bit.val) })).bump (pix 0x3200 p) 0x0A)) ∧
    (taskOf s p task.val = none →
      (late.contains (task.val, bit.val) = false → exec (.operandArrive p task ⟨bit, ecc⟩) s = .next s) ∧
      exec (.operandTimeout p task bit) s = .next s ∧ exec (.taskAgeExpiry p task) s = .next s ∧
      ((s.pet p).copies = [] → exec (.taskRelease p task ecc) s = .next s)) ∧
    (taskOf s p task.val = some t →
      (late.contains (task.val, bit.val) = false → bitOf t.mask bit.val = true → exec (.operandArrive p task ⟨bit, ecc⟩) s = .next s) ∧
      (late.contains (task.val, 2) = false → bitOf t.mask 2 = false →
        ∃ (u : State) (x : Task), exec (.operandArrive p task ⟨2, ecc⟩) s = .next u ∧ taskOf u p task.val = some x ∧
          x.mask = t.mask ||| 4 ∧ x.pkt = t.pkt ∧
          (ecc ≠ .uncorrectable → x.route = (lookWords p t s).2.1 ∧ x.l2 = (lookWords p t s).2.2) ∧
          (ecc = .uncorrectable → x.route = (if t.looks.route.isSome then 3 * 2 ^ 62 else 0) ∧
            ((t.looks.dst.isSome = true ∨ t.looks.src.isSome = true) → x.l2 / 2 ^ 62 = 3))) ∧
      (late.contains (task.val, 1) = false → bitOf t.late 1 = false → bitOf t.mask 1 = false → ecc = .clean →
        exec (.operandArrive p task ⟨1, ecc⟩) s = .next (tokens p (updTask p t.id (fun x => { x with late := x.late ||| 2 }) s))) ∧
      (bitOf t.mask bit.val = true → exec (.operandTimeout p task bit) s = .next s) ∧
      (bitOf t.mask bit.val = false → (bit = 1 ∨ bitOf t.late 1 = false ∨ bitOf t.mask 1 = true) → ∃ (v : State) (x : Task),
        exec (.operandTimeout p task bit) s = .next (raise (0x050 + p.val) (t.id + bit.val * 2 ^ 14) (some p) v) ∧
        taskOf v p task.val = some x ∧ x.mask = t.mask ||| 2 ^ bit.val ∧ x.pkt.flags = t.pkt.flags ||| 8 ∧
        v.dget (pix 0x3200 p) 0x0A = (s.dget (pix 0x3200 p) 0x0A + 1) % 2 ^ 64 ∧
        (v.pet p).lateOps = (if bit = 3 ∨ (bit = 1 ∧ bitOf t.late 1 = true) then late else late ++ [(task.val, bit.val)]) ∧
        (bit = 1 → x.ctx = 5 * 2 ^ 61) ∧ (bit = 2 → t.looks.route.isSome = true → x.route = 3 * 2 ^ 62) ∧
        (bit = 2 → (t.looks.dst.isSome = true ∨ t.looks.src.isSome = true) → x.l2 / 2 ^ 62 = 3) ∧
        (bit = 3 → x.pkt.cow = cowError) ∧
        ((∀ y ∈ (s.pet p).tasks, bitOf y.late 1 = true → bitOf y.mask 1 = true) → v.mem = s.mem))) ∧
    (petalHalted s p = true → exec (.taskDispatch p) s = .next s) ∧
    (let pick := (servedCores s p).findSome? (fun k => (pickTask s p k.lc).map (fun r => (k, r)))
     petalHalted s p = false →
      (pick = none → exec (.taskDispatch p) s = .next s) ∧
      ∀ k x aff, pick = some (k, x, aff) →
        (∀ k', k' ∈ servedCores s p → (pickTask s p k'.lc).isSome = true →
          coreLoad s k < coreLoad s k' ∨ (coreLoad s k = coreLoad s k' ∧ k.lc ≤ k'.lc)) ∧
        ∃ (u : State) (d : ThreadId), exec (.taskDispatch p) s = .next u ∧ d.core = k ∧ k.p = p ∧ threadOpen s d = true ∧
          Tab.find (u.pet p).lasts x.pkt.dom = some k.lc ∧ (∀ y, taskOf u p x.id = some y → y.thr = some d.mid) ∧
          (if (s.slot d).cur = none then (u.slot d).cur = some x.id
           else (u.slot d).next = some x.id ∧ ∀ e : ThreadId, e.core = k → threadOpen s e = true → (s.slot e).cur ≠ none)) ∧
    (taskOf s p task.val = some t → (petalHalted s p = true ∨ t.ended = false ∨
        ∃ x, x ∈ (s.pet p).tasks ∧ x.order < t.order ∧ x.pkt.dom = t.pkt.dom) → (s.pet p).copies = [] → exec (.taskRelease p task ecc) s = .next s) ∧
    (taskOf s p task.val = some t → petalHalted s p = false → mayRelease s p t = true →
      (s.pet p).copies = [] → (t.thr.bind threadOf).any (pendFrozen s) = false →
      ∃ u, exec (.taskRelease p task ecc) s = .next u ∧ taskOf u p task.val = none) ∧
    (taskOf s p task.val = some t → t.thr.bind threadOf = some h →
      (s.dget (pix 0x3200 p) 4 = 0 → exec (.taskAgeExpiry p task) s = .next s) ∧
      (s.dget (pix 0x3200 p) 4 ≠ 0 →
        let halted := b2n ((s.thr (.thr h)).st == .halted)
        let syn := t.id + h.t.val * 2 ^ 14 + halted * 2 ^ 17
        exec (.taskAgeExpiry p task) s = .next (deliver (.thr h.sup) (0x054 + p.val) syn (raiseD (0x054 + p.val) syn (some p)
          (leBytes 2 t.id ++ leBytes 2 h.mid ++ leBytes 1 halted ++ [0, 0, 0] ++ leBytes 4 t.pkt.dom) s))))

/-- 03 R78, R79, R85; 04 R91 to R106, R111, R113 to R117, R123: tables. A rule or template write that passes is one commit, a reserved record or a
resource limit refuses all of it; a batch is one commit with the next generation number or changes no content; commits apply
in order and wait for every running petal and for memory; a halted petal's generation follows each commit; a petal's generation changes only while that leaves at most 4 live; content no petal
can use is reclaimed, and only that; a new L2 entry takes a slot where a bucket of its has one free (the
hashes are free: DESIGN CHOICE, assumption 6); a learn commit takes up to 64 events; aging deletes exactly the dynamic entries over the
limit; expiry marks only contexts over the idle age that are not resident; a route lookup answers the longest prefix. -/
def Obligations.Tables : Prop :=
  ∀ (w : Writer) (p : Petal) (off : Nat) (data : List Byte) (key : BitVec 60) (s : State),
    let next := (s.dget 0x5000 1 + 1) % 2 ^ 32
    let commit := fun (c : Instr) (t : TabSnap) (st ws : List Nat) => ∃ u, exec c s = .next u ∧ u.dget 0x5000 1 = next ∧
      u.tables.accepted = t ∧ u.tables.queue = s.tables.queue ++ [⟨next, t, st, ws⟩] ∧ u.mem = s.mem ∧
      ∀ x : Petal, petalHalted s x = true → genInUse u x = next
    let put := fun (i : Nat) => { s.tables.accepted with recs := Tab.setBytes s.tables.accepted.recs (domKey i 0 off) data }
    let g := s.tables.applied
    let hold := petalBehind s p = false
    let s1 := s.updTab (fun t => { t with learn := t.learn.drop 64 })
    let old := s.tables.accepted.l2.filter (fun e => ageLimit s ≠ 0 && !e.static && ageLimit s < l2Age s e.key &&
      (Tab.find s.tables.stamps (e.key * 4)).isSome)
    (let i := pix 0x3107 p
     let c := Instr.ruleStoreWrite w p off data
     let recs := (List.range (data.length / 96)).map (fun j => slice data (96 * j) 96)
     let masks := ((genSnap s g :: (s.tables.queue.map Commit.snap ++ [put i])).flatMap (fun t => ruleMasks t p)).eraseDups
     let group := fun (m : List Byte) => ((ruleNumbers (put i) p).filter (fun n => slice (ruleRec (put i) p n) 40 40 == m)).length
     Checked c w i 0 off data none s ∧
     (Admitted w i 0 off data none s →
       (recs.any ruleReserved = true → Refused c w i 0 0x06090030 false s) ∧
       (recs.any ruleReserved = false → 256 < masks.length → exec c s =
         .next (refuseWrite w i 0 0x08000024 false (writerPc w s) (s.bump (pix 0x3105 p) 3))) ∧
       (recs.any ruleReserved = false → masks.length ≤ 256 → (∀ r, r ∈ recs → group (slice r 40 40) ≤ 8) →
         commit c (put i) [] []))) ∧
    (let i := pix 0x3109 p
     let c := Instr.templateWrite w p off data
     let recs := (List.range (data.length / 128)).map (fun j => slice data (128 * j) 128)
     Checked c w i 0 off data none s ∧
     (Admitted w i 0 off data none s →
       ((∃ r, r ∈ recs ∧ 96 < (r.getD 0 0).toNat) → Refused c w i 0 0x06090030 false s) ∧
       ((∀ r, r ∈ recs → (r.getD 0 0).toNat ≤ 96) →
         ((∀ n, n ∈ listNumbers (put i) p →
           listPushes (tmplLen (put i) p) (listWords ((put i).bytes (pix 0x3108 p) 0 (72 * n) 72)).2 ≤ 128) → commit c (put i) [] []) ∧
         ((∃ n, n ∈ listNumbers (put i) p ∧
           128 < listPushes (tmplLen (put i) p) (listWords ((put i).bytes (pix 0x3108 p) 0 (72 * n) 72)).2) →
           Refused c w i 0 0x08000024 false s)))) ∧
    (let c := Instr.tableBatchSubmit w off data
     Checked c w 0x5000 0x10 off data none s ∧
     (Admitted w 0x5000 0x10 off data none s →
       (∀ cause n, batchCheck off data s.tables.accepted = .inl (cause, n) → ∃ v : State, v.tables = s.tables ∧ v.mem = s.mem ∧
         exec c s = .next (refuseWrite w 0x5000 0x10 (if cause ≤ 2 then 0x06090030 else 0x08000024) false (writerPc w v) v)) ∧
       (∀ t keys, batchCheck off data s.tables.accepted = .inr (t, keys) → minimalOn s = false → commit c t keys keys))) ∧
    (off ≠ 0 ∨ data.length ≠ 8 + 32 * leNat (data.take 2) → ∃ n, batchCheck off data s.tables.accepted = .inl (1, n)) ∧
    ((s.isoPorts.contains 12 = true ∨ s.tables.queue = [] ∨ ∃ q : Petal, petalBehind s q = true) →
      exec .tableCommitApply s = .next s) ∧
    (∀ k q, s.isoPorts.contains 12 = false → s.tables.queue = k :: q → (∀ x : Petal, petalBehind s x = false) →
      (commitFits s k.snap = false → exec .tableCommitApply s = .next s) ∧
      (commitFits s k.snap = true → ∃ u, exec .tableCommitApply s = .next u ∧ u.tables.queue = q ∧ u.tables.applied = k.gen ∧
        u.tables.gens = (k.gen, k.snap) :: s.tables.gens ∧ u.dget 0x5200 1 = k.snap.l2.length ∧ u.mem = s.mem ∧
        ∀ x : Petal, genInUse u x = genInUse s x)) ∧
    ((hold ∨ 4 < (liveGens s p g).length) → exec (.petalCopyComplete p) s = .next s) ∧
    (¬ hold → (liveGens s p g).length ≤ 4 →
      ∃ u, exec (.petalCopyComplete p) s = .next u ∧ genInUse u p = g ∧ u.mem = s.mem ∧ u.tables = s.tables) ∧
    ((hold ∨ (liveGens s p g).length ≤ 4) → exec (.generationHoldExpiry p) s = .next s) ∧
    (¬ hold → 4 < (liveGens s p g).length →
      let n := ((heldGens s p).filter (fun x => x == oldestGen s p)).length
      exec (.generationHoldExpiry p) s = .next (raiseD 0x041 (p.val * 2 ^ 17 + min n 0x1FFFF) none
        ([BitVec.ofNat 8 p.val, 0, 0, 0] ++ leBytes 4 (oldestGen s p) ++ leBytes 4 n) s)) ∧
    (let live := fun x => x = g ∨ ∃ q : Petal, petalHalted s q = false ∧ x ∈ liveGens s q (genInUse s q)
     let back := fun x => if (g + 2 ^ 32 - x) % 2 ^ 32 < 2 ^ 31 then (g + 2 ^ 32 - x) % 2 ^ 32 else 0
     ∃ l, exec .memoryReclaim s = .next { s with tables := { s.tables with gens := l } } ∧
       ∀ e, e ∈ l ↔ e ∈ s.tables.gens ∧ ∃ x, live x ∧ back e.1 ≤ back x) ∧
    (s.tables.learn = [] → exec .learnCommit s = .next s) ∧
    (s.tables.learn ≠ [] → ∃ u, exec .learnCommit s = .next u ∧ u.dget 0x5000 1 = next ∧ u.tables.learn = s.tables.learn.drop 64 ∧
      u.mem = s.mem ∧ ∀ e, e ∈ s.tables.learn.take 64 → ∀ q : Petal, e.key ∉ (u.pet q).filter) ∧
    (∀ e, s.tables.learn = [e] →
      (∀ l, l2Get s.tables.accepted e.key = none →
        putL2 ⟨e.key, e.port, learnedResult s1 s.tables.accepted e.port, false, 0, false⟩ s.tables.accepted.l2 = some l →
        commit .learnCommit { s.tables.accepted with l2 := l } [e.key] [e.key]) ∧
      (∀ x, l2Get s.tables.accepted e.key = some x → (x.port = e.port ∨ x.static = true) →
        commit .learnCommit s.tables.accepted [] [])) ∧
    (∀ (e : L2Ent) (l : List L2Ent), (∀ x ∈ l, x.key ≠ e.key) →
      (∃ b, (l2In l (l2Bucket { e with second := b })).length < 8) → ∃ b, putL2 e l = some (l ++ [{ e with second := b }])) ∧
    exec (.learnFilterExpiry p key) s = .next (s.updPet p (fun r => { r with filter := r.filter.filter (· ≠ key.toNat) })) ∧
    exec .tableTick s = .next (s.updTab (fun t => { t with ticks := (t.ticks + 1) % 65536 })) ∧
    (old = [] → exec .agingScan s = .next s) ∧
    (old ≠ [] → commit .agingScan { s.tables.accepted with l2 := s.tables.accepted.l2.filter (fun e => !old.contains e) } [] [] ∧
      ∃ u, exec .agingScan s = .next u ∧ u.dget 0x5200 9 = (s.dget 0x5200 9 + old.length) % 2 ^ 64) ∧
    (s.dget 0x5300 4 = 0 → exec .contextExpiryScan s = .next s) ∧
    (s.dget 0x5300 4 ≠ 0 →
      let aged := fun (i stamp : Nat) => i ∉ (s.pet (ctxOwner i)).ctxRes ∧ s.dget 0x5300 4 < (s.tables.ticks + 65536 - stamp) % 65536
      ∃ l : List Nat, exec .contextExpiryScan s = .next (l.foldl (fun v i => ctxMark i v) s) ∧
        (∀ e, e ∈ s.tables.ovf → (16777216 + e.1 ∈ l ↔ ∃ e', e' ∈ s.tables.ovf ∧ e'.1 = e.1 ∧ aged (16777216 + e.1) e'.2)) ∧
        ∀ i, i < 16777216 → i ∈ l → aged i (s.memNat (sigAddr (i / 8) + 16 + 2 * (i % 8)) 2) ∧
          (s.memNat (sigAddr (i / 8) + 32) 1).testBit (i % 8) = true ∧ (s.memNat (sigAddr (i / 8) + 33) 1).testBit (i % 8) = false) ∧
    (∀ (t : TabSnap) (v6 : Bool) (a : Nat),
      let bits := if v6 then 128 else 32
      let covers := fun (r : Route) => r ∈ t.routes ∧ r.v6 = v6 ∧ a / 2 ^ (bits - r.plen) = r.bits
      (∀ r, covers r → (∀ x, covers x → x = r ∨ x.plen < r.plen) → routeWord t v6 a = r.plen * 2 ^ 54 + r.result) ∧
      ((∀ r, ¬ covers r) → routeWord t v6 a = 2 ^ 62 + t.get 0x5100 (if v6 then 4 else 3)))

/-- 12 R316, R318, R320 to R322, R324 to R326, R329, R330, R334, R336: buffers and spill. An allocation takes the head buffer of an intact list,
marks it allocated and writes its link word; an empty, rebuilding or corrupt pool answers its code, and a corrupt list is given
up and reported; a free returns the chain's buffers and is refused, counted and reported at one that is not allocated; a rebuild
links every free buffer; spill takes slots, then the record, then frees the buffers; a refill keeps the order of its queue; a
corrupt record drops its packet; a write of 1 clears the sketch, and counters go to DRAM. -/
def Obligations.BuffersAndSpill : Prop :=
  ∀ (w : Writer) (m : BitVec 16) (p : Petal) (pool : Fin 5) (i : Nat) (b : BitVec 32) (ok : Bool) (v : BitVec 8) (s : State),
    let k := pool.val
    let c := Instr.bufferAllocateRead m p pool
    let x := poolOf s p k
    let a := bufAddr s p k i
    let answers := fun (r : Nat) (u : State) =>
      exec c s = .next (u.emit (.readData m.toNat (0x003000000000 + pix 0x33A4 p * 0x1000 + (k + 1) * 0x10) (leBytes 8 r)))
    let whole := bitsOf (s.memNat a 8) 31 16 = bufTag k i ∧ bufState s p k i ≠ 1 ∧ poisoned s a 8 = false
    let fill := fun (e : Nat × QPkt × List Nat) =>
      let bad := e.2.2.any (fun j => poisoned s (slotAddr s p j) 1088)
      let parts := e.2.2.map (fun j => blockDecode (s.memRead (slotAddr s p j + 32) 1056))
      let t := e.2.2.foldl (fun u j => dramTouchRead (slotAddr s p j) true u) s
      (ok, bad, parts, t)
    let closed := fun (i : Nat) =>
      let d := 0x003000000000 + pix 0x33A4 p * 0x1000 + i * 0x10
      (accessEvent m.toNat d .refused s).emit (.accessFault m.toNat d)
    let shut := ∃ y, writerOf m.toNat = some y ∧ windowShut s y = true
    (writerOf m.toNat = none → exec c s = .next (closed (k + 1)) ∧ exec (.bufferFreeWrite m p b) s = .next (closed 6)) ∧
    (shut → exec c s = .next (closed (k + 1))) ∧
    (∀ y, writerOf m.toNat = some y → windowShut s y = false →
      (mayAllocate m.toNat = false → exec c s = .next (readRefused y (pix 0x33A4 p) (k + 1) 0x06010000 s)) ∧
      Checked (.bufferFreeWrite m p b) y (pix 0x33A4 p) 6 0 (leBytes 4 b.toNat) none s ∧
      (Admitted y (pix 0x33A4 p) 6 0 (leBytes 4 b.toNat) none s → mayAllocate m.toNat = false →
        Refused (.bufferFreeWrite m p b) y (pix 0x33A4 p) 6 0x06010000 false s)) ∧
    (mayAllocate m.toNat = true → ¬ shut → x.rebuild = true → answers (3 * 2 ^ 62) s) ∧
    (mayAllocate m.toNat = true → ¬ shut → threadOf m.toNat = none → x.rebuild = false →
      (x.head = none → answers (2 ^ 62) s) ∧
      (x.head = some i → whole → ∃ u, answers (bufWord k i) u ∧ bufState u p k i = 1 ∧
        u.mem = (s.memWrite a (leBytes 8 (usedLink none 0 8))).mem ∧ u.dget (pix 0x33A3 p) (k + 1) = s.dget (pix 0x33A3 p) (k + 1) - 1 ∧
        (poolOf u p k).head = if bitsOf (s.memNat a 8) 63 32 = 0xFFFFFFFF then none else some (bitsOf (s.memNat a 8) 63 32 % 2 ^ 29)) ∧
      (x.head = some i → ¬ whole → answers (3 * 2 ^ 62) (poolCorrupt p k i s) ∧
        (poolOf (poolCorrupt p k i s) p k).rebuild = true ∧ (poolOf (poolCorrupt p k i s) p k).head = none)) ∧
    (mayAllocate m.toNat = true →
      (∃ y, writerOf m.toNat = some y ∧ Admitted y (pix 0x33A4 p) 6 0 (leBytes 4 b.toNat) none s) →
      (bufName s p b.toNat = none → exec (.bufferFreeWrite m p b) s = .next (freeRefused p 2 m.toNat b.toNat s)) ∧
      ∀ n j, bufName s p b.toNat = some (n, j) →
        (bufState s p n j = 0 → exec (.bufferFreeWrite m p b) s = .next (freeRefused p 1 m.toNat b.toNat s)) ∧
        (bufState s p n j = 2 → exec (.bufferFreeWrite m p b) s = .next (freeRefused p 0 m.toNat b.toNat s)) ∧
        (bufState s p n j = 1 → j ∉ (poolOf s p n).bad →
          (bitOf (s.memNat (bufAddr s p n j) 8) 31 = false → exec (.bufferFreeWrite m p b) s = .next (putBuf p n j s)) ∧
          (bitOf (s.memNat (bufAddr s p n j) 8) 31 = true → exec (.bufferFreeWrite m p b) s =
            .next (freeChain 262143 p m.toNat (bitsOf (s.memNat (bufAddr s p n j) 8) 63 32) (putBuf p n j s))) ∧
          bufState (putBuf p n j s) p n j = 2)) ∧
    (x.rebuild = false → exec (.freeListRebuildComplete p pool) s = .next (spillWatch p s)) ∧
    (let free := (List.range x.cnt).filter (fun j => Tab.get 0 x.states j ≠ 1 && !x.bad.contains j)
     x.rebuild = true → ∃ u, exec (.freeListRebuildComplete p pool) s = .next u ∧ (poolOf u p k).rebuild = false ∧
      (poolOf u p k).head = free.head? ∧ (poolOf u p k).states = x.states ∧ u.dget (pix 0x33A3 p) (k + 1) = free.length) ∧
    (((s.pet p).spillRun = false ∨ (s.pet p).spill.isSome = true ∨ draining s p = true ∨ slotCount s p = 0 ∨ victim s p = none) →
      exec (.spillVictim p) s = .next s) ∧
    (∀ g y, (s.pet p).spillRun = true → (s.pet p).spill = none → draining s p = false → slotCount s p ≠ 0 → victim s p = some (g, y) →
      let bs := blocksOf 32 (pktBytes s (pktHome y.pkt) y.pkt.buf)
      let sl := findSlots ((s.pet p).slots.length + bs.length + 1) (s.pet p).slots (slotCount s p) 0 bs.length
      (sl.length < bs.length → exec (.spillVictim p) s =
        .next (raiseOnceAny (0x0A800000 + p.val) (0x0A8 + p.val) (some p) (s.bump (pix 0x33A5 p) 8))) ∧
      (bs.length ≤ sl.length → ∃ u, exec (.spillVictim p) s = .next u ∧ (u.pet p).spill = some ⟨g, y.seq, sl⟩ ∧
        (u.pet p).slots = (s.pet p).slots ++ sl ∧ u.q g = s.q g ∧ (∀ j, j ∈ sl → j ∉ (s.pet p).slots ∧ j < slotCount s p))) ∧
    ((s.pet p).spill = none → exec (.spillRecordAccepted p) s = .next s) ∧
    (∀ j, (s.pet p).spill = some j →
      let s0 := s.updPet p (fun r => { r with spill := none })
      let here := (withAhead (s.q j.queue).pk).find? (fun e => e.2.seq == j.seq)
      ((here = none ∨ ∃ e, here = some e ∧ e.1 ≤ s.dget (pix 0x33A5 p) 3) →
        exec (.spillRecordAccepted p) s = .next (freeSlots p j.slots s0)) ∧
      (∀ e, here = some e → s.dget (pix 0x33A5 p) 3 < e.1 → ∃ u, exec (.spillRecordAccepted p) s = .next u ∧ (u.pet p).spill = none ∧
        (u.q j.queue).pk.map QPkt.seq = (s.q j.queue).pk.map QPkt.seq ∧
        ∀ y, y ∈ (u.q j.queue).pk → y.seq = j.seq → y.spill = some j.slots)) ∧
    (refillNext s p = none → exec (.refillComplete p ok) s = .next s) ∧
    (∀ e, refillNext s p = some e →
      let f := fill e
      let bad := ok = false ∨ f.2.1 = true ∨ none ∈ f.2.2.1
      let data := (f.2.2.1.filterMap id).flatten
      let al := allocBufs p (fun _ => 0) data.length f.2.2.2
      (bad → ∃ u, exec (.refillComplete p ok) s = .next u ∧ ∀ y, y ∈ (u.q e.1).pk → y.seq ≠ e.2.1.seq) ∧
      (¬ bad → al.2 = none → exec (.refillComplete p ok) s = .next al.1) ∧
      (¬ bad → al.2 ≠ none → ∃ u, exec (.refillComplete p ok) s = .next u ∧
        (u.q e.1).pk.map QPkt.seq = (s.q e.1).pk.map QPkt.seq ∧
        ∀ y, y ∈ (u.q e.1).pk → y.seq = e.2.1.seq → y.spill = none ∧ y.pkt.len = data.length)) ∧
    Checked (.sketchClear w p v) w (pix 0x33A6 p) 3 0 [v] none s ∧
    (Admitted w (pix 0x33A6 p) 3 0 [v] none s →
      (v = 1 → exec (.sketchClear w p v) s = .next (sketchClear p s)) ∧ (v ≠ 1 → exec (.sketchClear w p v) s = .next s)) ∧
    (((sketchClear p s).pet p).sketch = [] ∧ ((sketchClear p s).pet p).marks = []) ∧
    (∃ u, exec (.flowCounterWriteback p) s = .next u ∧ (u.pet p).fcnt = []) ∧
    (∀ j pk by_, (s.pet p).fcnt = [(j, (pk, by_))] → exec (.flowCounterWriteback p) s =
      .next (dramStore (fcntAddr s j) (leBytes 8 pk ++ leBytes 8 by_) false (s.updPet p (fun r => { r with fcnt := [] }))))

/-- 13 R339, R342 to R344, R350 to R354, R356, R359, R361, R362: Cowslip. The slot map gives each petal its weight of slots; a slot starts with new
budgets, and a lane takes only a segment that fits, of the owner alone under isolation; SA commands act on the library and on
resident SAs or are refused with their cause, record and code; operations of one SA commit in order; a commit fills its task's
operand; an unloaded SA stays until its last operation has committed; jobs queue, or are refused and counted, and each queue
completes its oldest job whose blocks have run, one
submitter's jobs in the order submitted. -/
def Obligations.Cowslip : Prop :=
  ∀ (w : Writer) (idx : BitVec 32) (body : List Byte) (l : Fin 16) (sa : Fin 65536) (m : BitVec 16) (addr : BitVec 64) (op : Nat)
    (ok : Bool) (q : JobQueue) (s : State),
    let weights := (List.range 4).map (fun n => s.dget 0x4C01 (1 + n))
    let v := (takeStaged w 0x4C10 0 none s).1
    let gen := (takeStaged w 0x4C10 0 none s).2
    let open_ := fun (n : Nat) => windowShut s w = false ∧ body.length = 128 ∧
      checkWrite w 0x4C10 0 0 (leBytes 4 n ++ leBytes 4 idx.toNat ++ body) gen v = none
    let refused := fun (c : Instr) (i j : Nat) (code : Abort) (x : State) => exec c s = .next (refuseWrite w i j code false (writerPc w x) x)
    let cause := fun (c : Instr) (n : Nat) => refused c 0x4C10 0 (saAbort n) (saRefused n idx.toNat v)
    let i := idx.toNat
    (minimalOn s = true → exec .slotFrameBoundary s = .next s ∧ exec .slotStart s = .next s) ∧
    (minimalOn s = false → s.act = none →
      exec .slotFrameBoundary s = .next ((s.dset 0x4C00 2 (slotMap s)).updCow (fun c => { c with slot := 15, iso := s.dget 0x4C00 1 }))) ∧
    (weights.sum ≤ 16 → ∀ n, n < 4 →
      ((List.range 16).filter (fun k => slotMap s / 16 ^ k % 16 == n)).length = s.dget 0x4C01 (1 + n)) ∧
    (minimalOn s = false → ∃ u, exec .slotStart s = .next u ∧ u.cow.slot = (s.cow.slot + 1) % 16 ∧ u.mem = s.mem) ∧
    (minimalOn s = false → s.cow.ops = [] → exec .slotStart s = .next ((s.bumpBy 0x4C12 9 0).updCow (fun c => { c with
      slot := (c.slot + 1) % 16, lanes := (List.range 16).map (fun n => (n, ⟨laneBudget s, (Tab.get ⟨0, 0⟩ c.lanes n).seg⟩)) }))) ∧
    (∀ n b o, laneWork s n b = some o → min 64 o.left ≤ b ∧ o.left ≠ 0 ∧ o.lane = none ∧ o.status = 0 ∧
      (o.retried = true → o.ran ≠ n) ∧ mayBegin s o = true ∧
      (s.cow.iso = 1 → o.owner = s.dget 0x4C00 2 / 16 ^ s.cow.slot % 16)) ∧
    (s.cow.ops.find? (fun o => o.lane == some l.val) = none → exec (.segmentComplete l ok) s = .next s) ∧
    (∀ o, s.cow.ops.find? (fun o => o.lane == some l.val) = some o →
      let seg := (Tab.get ⟨0, 0⟩ s.cow.lanes l.val).seg
      let upd := fun (f : CowOp → CowOp) (x : State) => fillLanes ((x.updCow (fun c => { c with
        ops := c.ops.map (fun y => if y.id = o.id then f y else y) })).updCow (fun c => { c with
        lanes := Tab.put c.lanes l.val ⟨(Tab.get ⟨0, 0⟩ c.lanes l.val).budget, 0⟩ }))
      let err := raise 0x0B7 l.val none (s.bump 0x4C12 0x0B)
      exec (.segmentComplete l true) s = .next (upd (fun y => { y with lane := none, left := y.left - seg, retried := false }) s) ∧
      (o.retried = false → exec (.segmentComplete l false) s =
        .next (ceError (5 * 2 ^ 28 + l.val) (upd (fun y => { y with lane := none, retried := true }) err))) ∧
      (o.retried = true → exec (.segmentComplete l false) s =
        .next (ceError (5 * 2 ^ 28 + l.val) (upd (fun y => { y with lane := none, left := 0, status := 7 }) err)))) ∧
    (minimalOn v = true →
      (open_ 1 → refused (.saImport w idx body) 0x4C10 0 0x08000022 v) ∧ (open_ 2 → refused (.saLoad w idx body) 0x4C10 0 0x08000022 v) ∧
      (open_ 3 → refused (.saUnload w idx body) 0x4C10 0 0x08000022 v) ∧ (open_ 4 → refused (.saErase w idx body) 0x4C10 0 0x08000022 v)) ∧
    (minimalOn v = false →
      (open_ 1 →
        (libBase v = none → cause (.saImport w idx body) 6) ∧
        (∀ u, saImport i body v = .ok u → exec (.saImport w idx body) s = .next u ∧ (Tab.find u.cow.seals i).isSome = true ∧
          u.cow.sas = v.cow.sas) ∧
        (libBase v ≠ none → i < 1048576 → 1 ≤ (body.getD 0 0).toNat → (body.getD 0 0).toNat ≤ 3 → (body.getD 1 0).toNat ∈ [0, 4, 12] →
          leNat (slice body 2 6) = 0 → leNat (slice body 64 64) = 0 →
          ((Config.icvOk [] (slice body 8 56) = true → ∃ u, saImport i body v = .ok u) ∧
           (Config.icvOk [] (slice body 8 56) = false → cause (.saImport w idx body) 1)))) ∧
      (open_ 2 → i < 65536 → saReserved body = false → leNat (slice body 120 4) < 1048576 →
        let c := Instr.saLoad w idx body
        let ingress := body.getD 1 0 = 0
        let fresh := Tab.find v.cow.sas i = none ∧ (ingress → saFind v (saKey body) = none)
        let placed := ¬ ingress ∨ v.cow.sas = [] ∨ Config.saFails v.cow.sas.length (saKey body) = false
        (Tab.find v.cow.sas i ≠ none → cause c 2) ∧
        (Tab.find v.cow.sas i = none → ingress → saFind v (saKey body) ≠ none → cause c 3) ∧
        (fresh → ¬ placed → cause c 4) ∧
        (fresh → placed → libBase v = none → cause c 6) ∧
        (∀ base ty n key, fresh → placed → libBase v = some base → libRead v base (leNat (slice body 120 4)) = some (ty, n, key) →
          ((body.getD 0 0 ≠ 1 ∧ (body.getD 2 0).getLsbD 6 = true) ↔ ty = 3) →
          ∃ u, exec c s = .next u ∧ Tab.find u.cow.sas i = some ⟨body, key, leNat (slice body 24 8), [], 0, false, false, false⟩)) ∧
      (open_ 3 → body.all (· == 0) = true → i < 65536 →
        (Tab.find v.cow.sas i = none → exec (.saUnload w idx body) s = .next v) ∧
        ∀ a, Tab.find v.cow.sas i = some a → ∃ u, exec (.saUnload w idx body) s = .next u ∧
          Tab.find u.cow.sas i = if saBusy v i then some { a with draining := true } else none) ∧
      (open_ 4 → body.all (· == 0) = true → (libBase v = none → cause (.saErase w idx body) 6) ∧
        (libBase v ≠ none → i < 1048576 → ∃ u, exec (.saErase w idx body) s = .next u ∧ Tab.find u.cow.seals i = none ∧
          u.cow.sas = v.cow.sas)) ∧
      (open_ 3 → body.all (· == 0) = false → cause (.saUnload w idx body) 1) ∧
      (open_ 4 → body.all (· == 0) = false → cause (.saErase w idx body) 1)) ∧
    (∀ a, Tab.find s.cow.sas sa.val = some a → a.draining = true → saBusy s sa.val = false →
      ∃ u, exec (.saDrainComplete sa) s = .next u ∧ Tab.find u.cow.sas sa.val = none) ∧
    ((∀ a, Tab.find s.cow.sas sa.val = some a → a.draining = false ∨ saBusy s sa.val = true) →
      exec (.saDrainComplete sa) s = .next s) ∧
    (s.cow.ops.find? (fun o => o.id == op) = none → exec (.cowslipCommit op ok) s = .next s) ∧
    (∀ o, s.cow.ops.find? (fun o => o.id == op) = some o →
      let wait := (o.left ≠ 0 ∧ o.status = 0) ∨ ∃ x, x ∈ s.cow.ops ∧ x.id < o.id ∧ x.sa = o.sa ∧ o.sa ≠ none
      (wait → exec (.cowslipCommit op ok) s = .next s) ∧
      (¬ wait → ∀ g n, o.srv = .egress g n → ∃ u, exec (.cowslipCommit op ok) s = .next u ∧ ∀ x, x ∈ u.cow.ops → x.id ≠ o.id) ∧
      (¬ wait → ∀ id n (p : Petal), o.srv = .ingress id n → p.val = o.petal % 4 →
        let open_ := fun (t : Task) => taskOf s p id = some t ∧ t.order = n ∧ bitOf t.mask 3 = false
        (∀ t, open_ t → ∃ (u : State) (x : Task), exec (.cowslipCommit op ok) s = .next u ∧ taskOf u p id = some x ∧
          x.mask = t.mask ||| 8 ∧ x.pkt.cow = (cowFinish p o t ok s).2.2 ∧
          x.strictDrop = strictFails o.word ((cowFinish p o t ok s).2.2.getD 0 0).toNat) ∧
        ((∀ t, ¬ open_ t) → ∃ u, exec (.cowslipCommit op ok) s = .next u ∧ taskOf u p id = taskOf s p id ∧
          u.dget (pix 0x3200 p) 0x0A = (s.dget (pix 0x3200 p) 0x0A + 1) % 2 ^ 64))) ∧
    (writerOf m.toNat = none →
      let a := 0x003000000000 + 0x4C20 * 0x1000 + 0x10
      exec (.jobSubmit m addr) s = .next ((accessEvent m.toNat a .refused s).emit (.accessFault m.toNat a))) ∧
    (∀ k, writerOf m.toNat = some k →
      let d := leBytes 8 addr.toNat
      let e := (takeStaged k 0x4C20 1 none s).1
      let no := fun (code : Abort) => exec (.jobSubmit m addr) s =
        .next (refuseWrite k 0x4C20 1 code false (writerPc k (e.bump 0x4C20 3)) (e.bump 0x4C20 3))
      let mine := e.cow.ops.filter (fun o => o.owner == jobOwner k.mid && (match o.srv with | .job _ _ => true | _ => false))
      let may := (∃ t, k = .core t) ∨ k = .golne 0
      let good := addr.toNat % 64 = 0 ∧ inGeneral e addr.toNat 64 = true
      windowShut s k = false → checkWrite k 0x4C20 1 0 d (takeStaged k 0x4C20 1 none s).2 e = none →
        (¬ may → no 0x06010000) ∧ (may → ¬ good → no 0x06090030) ∧
        (may → good → minimalOn e = true → no 0x08000022) ∧
        (may → good → minimalOn e = false →
          ((if jobOwner k.mid = 4 then 64 else 256) ≤ mine.length → no 0x08000024) ∧
          (mine.length < (if jobOwner k.mid = 4 then 64 else 256) → ∃ (u : State) (o : CowOp), exec (.jobSubmit m addr) s = .next u ∧
            u.cow.ops = e.cow.ops ++ [o] ∧ o.srv = .job k.mid addr.toNat ∧ o.owner = jobOwner k.mid ∧ u.mem = s.mem))) ∧
    (let own := match q with | .petal p => p.val | .golne => 4
     let runs := fun (o : CowOp) => o.left ≠ 0 && o.status == 0
     let due := s.cow.ops.find? (fun o => o.owner == own && o.jobOf.isSome && !runs o &&
      !s.cow.ops.any (fun x => x.id < o.id && x.jobOf == o.jobOf && runs x))
     (due = none → exec (.jobComplete q) s = .next s) ∧
     ∀ o, due = some o →
      (∃ u, exec (.jobComplete q) s = .next u ∧ ∀ x, x ∈ u.cow.ops → x.id ≠ o.id) ∧
      (∀ n a, o.srv = .job n a → bitOf (leNat (slice (s.memRead a 64) 1 1)) 0 = false →
        let c := leNat (slice (s.memRead a 64) 56 8)
        let r : State × Nat × Nat := if o.status = 4 then (s, 4, 0) else jobResult o a (o.status == 7) s
        let t := if inGeneral r.1 c 16 then dramStore c (leBytes 8 r.2.1 ++ leBytes 8 r.2.2) false r.1 else jobRefused o c true r.1
        exec (.jobComplete q) s = .next ((t.updCow (fun k => { k with ops := k.ops.filter (fun x => x.id ≠ o.id) })).bump 0x4C20 2)))

/-- 05 R156; 13 R348; 14 R365, R366, R369, R373 to R376: egress. A queue object's write sets its words, unless it holds a reserved value or
changes a class S field of a queue that is not stopped; a port sends the head packet of an eligible queue, of the highest strict
class that has one, unless the packet must be dropped, and the packet leaves its queue either way; a host queue that alone may
is granted its write; a stall discards the head of each of the port's queues; ports follow their lanes; the time offset must not
make the time negative; PPS edges latch and pulse. -/
def Obligations.Egress : Prop :=
  ∀ (w : Writer) (p : Petal) (q : Fin 16384) (off : Nat) (data : List Byte) (port : Port) (h : Fin 2) (lanes : BitVec 8)
    (v : BitVec 64) (s : State),
    (let g := 16384 * p.val + q.val
     let c := Instr.queueObjectWrite w p q off data
     let bytes := s.domRead (qIdx g) (qSub g) 0 48
     let merged := bytes.zipIdx.map (fun (b, i) => if off ≤ i then data.getD (i - off) b else b)
     let new := fun k => leNat (slice merged (8 * k) 8) &&& qMask k
     let fixed := qClassS (fun k => qWord s g k) new = true ∧ (qOn s g = true ∨ (s.q g).pk ≠ [])
     let host := bitsOf (new 0) 62 60 = 2 ∨ bitsOf (new 0) 62 60 = 3
     Checked c w (qIdx g) (qSub g) off data none s ∧
     (Admitted w (qIdx g) (qSub g) off data none s →
      (qReserved s p new = true → Refused c w (qIdx g) (qSub g) 0x06090030 false s) ∧
      (qReserved s p new = false → fixed → Refused c w (qIdx g) (qSub g) 0x08000022 false s) ∧
      (qReserved s p new = false → ¬ fixed → ∃ u, exec c s = .next u ∧ (∀ k, k < 6 → qWord u g k = new k) ∧
        (bitOf (new 0) 63 = true → qOn s g = false → host → qWord u g 6 = 0 ∧ (u.q g).cpls = []) ∧
        (bitOf (new 0) 63 = false → qOn s g = true → bitsOf (new 0) 62 60 = 2 → (u.q g).pk = []) ∧
        ((bitOf (new 0) 63 = true ∨ bitsOf (new 0) 62 60 ≠ 2) → u.mem = s.mem ∧ (u.q g).pk = (s.q g).pk)))) ∧
    (let n := port.val
     let up := s.frozen.contains (1 + n / 8) = false ∧ (s.dget (portIdx n) 2 = 2 ∨ s.dget (portIdx n) 2 = 3)
     let c := Instr.packetTransmit (.port port)
     (¬ up → exec c s = .next s) ∧
     (up → (pickQueue n s).2 = none → exec c s = .next s) ∧
     ∀ g, (pickQueue n s).2 = some g → eligible s n g = true ∧
      (∀ g', g' ∈ qLive s (portPetal n) → eligible s n g' = true → bitOf (s.dget (portIdx n) 7) (qClass s g') = true →
        bitOf (s.dget (portIdx n) 7) (qClass s g) = true ∧ qClass s g' ≤ qClass s g) ∧
      ∀ x, up → (s.q g).pk.head? = some x →
        let d := pktBytes s (pktHome x.pkt) x.pkt.buf
        (∃ u, exec c s = .next u ∧ (u.q g).pk = (s.q g).pk.drop 1) ∧
        (x.doomed = 0 → pktPoison s (pktHome x.pkt) x.pkt.buf = false → d.length ≤ s.dget (portIdx n) 5 →
          ∃ u, exec c s = .next u ∧ Output.frameTx n (macFrame s x.pkt d) false ∈ u.out)) ∧
    (s.frozen.contains (5 + h.val) = true → exec (.packetTransmit (.host h)) s = .next s) ∧
    (let grant := fun g => (∃ r : Petal, g ∈ qLive s r) ∧ qKind s g = 2 ∧ ringReady s g = true ∧ posted s g ≠ 0 ∧
       fnHost s (qFn s g) = h.val ∧ (s.q g).started = false ∧ (modeOn s .device 0 = false ∨ isAudit s g = true) ∧
       shaperEmpty s (qPetal g) (g % 16384) (qWord s g 2) = false ∧ ∃ x, (s.q g).pk.head? = some x ∧ x.spill = none ∧ (x.cow = false ∨ x.doomed ≠ 0)
     s.frozen.contains (5 + h.val) = false →
      ((∀ g, ¬ grant g) → exec (.packetTransmit (.host h)) s = .next s) ∧
      ∀ g x, grant g → (∀ g', grant g' → g' = g) → (s.q g).pk.head? = some x → x.doomed = 0 →
        exec (.packetTransmit (.host h)) s = .next
          ((s.updPet 0 (fun r => { r with rrRx := Tab.put r.rrRx (5000 + h.val) (g + 1) })).updQ g (fun k => { k with started := true }))) ∧
    (let n := port.val
     let mine := (qLive s (portPetal n)).filter (fun g => qKind s g == 1 && qPort s g == n && (s.q g).pk ≠ [])
     (mine = [] → exec (.egressStallExpiry port) s = .next s) ∧
     (mine ≠ [] → mine.Nodup → ∃ u, exec (.egressStallExpiry port) s = .next u ∧ n ∈ u.stalled ∧
      ∀ g, g ∈ mine → (u.q g).pk = (s.q g).pk.drop 1)) ∧
    exec (.laneHealthChange p lanes) s = .next
      ((List.range 8).foldl (fun u k => refreshPort (8 * p.val + k) u) (s.dset (0x4200 + 0x10 * p.val) 2 lanes.toNat)) ∧
    (let n := port.val
     let m := portLanes s (n / 8)
     let cage := s.dget 0x2064 (1 + n / 8)
     let r := if bitOf cage 0 && 16 < bitsOf cage 15 8 then 0 else widest (s.dget (0x4200 + 0x10 * (n / 8)) 2) (n % 8 * (8 / m)) (8 / m)
     let st := if m ≤ n % 8 then 4 else if s.dget (portIdx n) 1 = 0 then 0 else if r = 0 then 1 else if r = 8 / m then 2 else 3
     ∃ y, (refreshPort n s = y ∨ refreshPort n s = raiseAny (0x104 + n / 8) none y ∨ refreshPort n s = raiseAny (0x108 + n / 8) none y) ∧
      y.dget (portIdx n) 2 = st ∧ y.dget (portIdx n) 4 = if st = 2 ∨ st = 3 then rateCode r else 0) ∧
    (let d := leBytes 8 v.toNat
     let c := Instr.timeOffsetWrite w v
     Checked c w 0x4300 2 0 d none s ∧
     (Admitted w 0x4300 2 0 d none s →
      ((s.time : Int) + v.toInt < 0 → Refused c w 0x4300 2 0x06090030 false s) ∧
      (0 ≤ (s.time : Int) + v.toInt → ∃ u, exec c s = .next u ∧ u.dget 0x4300 2 = v.toNat ∧ u.mem = s.mem))) ∧
    (13 ∉ s.frozen → exec .ppsInEdge s = .next (s.domWrite 0x4300 4 0 (time80 s s.time))) ∧
    (13 ∉ s.frozen → s.dget 0x4300 5 = 1 → exec .ppsOutSecond s = .next (s.emit .ppsOut)) ∧
    (13 ∈ s.frozen → exec .ppsInEdge s = .next s) ∧
    (13 ∈ s.frozen ∨ s.dget 0x4300 5 ≠ 1 → exec .ppsOutSecond s = .next s)

/-- 11 R300; 14 R379, R380, R383 to R390: the host. A doorbell is taken whole, ignored and reported, or discarded when another function, kind,
size or state does not let it in; a transmit fetch puts one packet into buffers and hands it to formation; a receive write fills
the posted buffers, gives them back used and takes the packet off its queue; a held-off vector is raised; a read error drops the
packet or stops the queue; a reset stops the queues, the mastering and the vectors of the functions it covers; links and modes
follow PERST and training; an unmasked pending vector is sent. -/
def Obligations.HostInterface : Prop :=
  ∀ (fn g16 : BitVec 16) (size : Nat) (v : BitVec 64) (descs : List (List Byte)) (data : List Byte) (h link : Fin 2)
    (width rate : BitVec 8) (pf : Fin 8) (n16 : BitVec 16) (vec : BitVec 11) (s : State),
    let g := g16.toNat
    let f := fn.toNat
    let p := qPetal g
    let w6 := qWord s g 6
    let d := fun a b => (a + 65536 - b) % 65536
    let n := descs.length
    let stopped := fun (fns : List Nat) (u : State) => (∀ x, x ∈ fns → x ∉ u.busMaster) ∧
      ∀ k, k ∈ queuesListed s → (qKind s k = 2 ∨ qKind s k = 3) → qFn s k ∈ fns → qOn u k = false
    let masked := fun (fns : List Nat) (u : State) => (∀ k, k ∈ u.msixOpen → k / 2048 ∉ fns) ∧ ∀ k, k ∈ u.msixPend → k / 2048 ∉ fns
    (let c := Instr.doorbell fn g16 size v
     let own := size = 8 ∧ (qKind s g = 2 ∨ qKind s g = 3) ∧ qOn s g = true ∧ qFn s g = f
     let nt := v.toNat % 65536
     let nc := bitsOf v.toNat 31 16
     let head := w6 % 65536
     let fits := d nt head ≤ 2 ^ bitsOf (qWord s g 5) 63 59 ∧ d (bitsOf w6 31 16) head ≤ d nt head ∧
       d nc (bitsOf w6 63 48) ≤ d (bitsOf w6 47 32) (bitsOf w6 63 48)
     let t := setQWord g 6 (nc * 2 ^ 48 + bitsOf w6 47 32 * 2 ^ 32 + nt * 2 ^ 16 + head) s
     let cut := (5 + fnHost s f) ∈ s.frozen
     (cut → exec c s = .next s) ∧
     (¬ cut → ¬ own → exec c s = .next (raiseOnceAny (0x10000000 + fnHost s f) 0x100 none (s.bump (hostIdx (fnHost s f)) 8))) ∧
     (¬ cut → own → fits → exec c s = .next (writeCpls 65536 g t) ∧ ((s.q g).cpls = [] → writeCpls 65536 g t = t)) ∧
     (¬ cut → own → ¬ fits → exec c s = .next (raiseAny 0x101 none ((bumpQ g 15 1 s).bump (hostIdx (fnHost s f)) 9)))) ∧
    (let c := Instr.hostTxFetch g16 descs data
     let wait := qKind s g ≠ 3 ∨ ringReady s g = false ∨ n = 0 ∨ posted s g < n ∨ modeOn s .device 0 = true ∨ draining s p = true ∨
       petalHalted s p = true ∨ (5 + fnHost s (qFn s g)) ∈ s.frozen ∨
       s.dget (pix 0x3200 p) 2 ≤ hostCount s p + ((s.pet p).form.filter Prod.snd).length
     let last := descs.getLast?.getD []
     let total := (descs.map (fun e => leNat (slice e 8 2))).sum
     let fl := (last.getD 10 0).toNat
     let bad := (∃ e, e ∈ descs ∧ txDescOk e = false) ∨ 16 < n ∨ txEop last = false ∨ (∃ e, e ∈ descs.dropLast ∧ txEop e = true) ∨
       16383 < total ∨ (bitOf fl 2 = true ∧ total < leNat (slice last 16 2) + 44)
     (wait → exec c s = .next s) ∧
     (¬ wait → bad → ∃ o, exec c s = .next (txError g n (leNat (slice last 12 4)) { s with out := o })) ∧
     (¬ wait → ¬ bad → ∃ o,
       let a := allocBufs p (refillReserve s p) (total + 4) { s with out := o }
       (a.2 = none → exec c s = .next a.1) ∧
       ∀ b l, a.2 = some (b :: l) → ∃ (u : State) (k : Pkt), exec c s = .next u ∧ (u.pet p).form = (s.pet p).form ++ [(k, true)] ∧
         k.buf = b ∧ k.len = total + 4 ∧ k.src = 128 ∧ k.hq = g % 16384 ∧ k.gen = genInUse s p ∧
         qWord u g 6 % 65536 = (w6 + n) % 65536)) ∧
    (let c := Instr.hostReceiveWrite g16 descs
     let cut := (5 + fnHost s (qFn s g)) ∈ s.frozen
     (qKind s g ≠ 2 ∨ cut ∨ (s.q g).pk = [] ∨ (s.q g).started = false ∨ ringReady s g = false ∨ descs.take (posted s g) = [] →
       exec c s = .next s) ∧
     ∀ x d0 rest, qKind s g = 2 → ¬ cut → (s.q g).pk.head? = some x → (s.q g).started = true → ringReady s g = true →
       descs.take (posted s g) = d0 :: rest →
       let b := pktBytes s (pktHome x.pkt) x.pkt.buf
       let body := b.take (b.length - 4)
       let plan := rxFill (d0 :: rest) body.length
       let room := 2 ^ bitsOf (qWord s g 5) 58 54 - d (bitsOf w6 47 32) (bitsOf w6 63 48)
       let short := (plan.map (fun e => e.2.2)).sum < body.length ∨ room < plan.length
       (rxDescOk d0 = false → ∃ u, exec c s = .next u ∧ (u.q g).started = false ∧ (u.q g).pk = (s.q g).pk ∧
         qWord u g 6 % 65536 = (w6 + 1) % 65536) ∧
       (rxDescOk d0 = true → short → exec c s = .next (s.updQ g (fun q => { q with started := false }))) ∧
       (rxDescOk d0 = true → ¬ short → ∃ u, exec c s = .next u ∧ (u.q g).pk = (s.q g).pk.drop 1 ∧ (u.q g).started = false ∧
         qWord u g 6 % 65536 = (w6 + plan.length) % 65536 ∧
         ∀ e l, plan = e :: l → Output.hostWrite (qFn s g) e.1 (slice body 0 e.2.2) ∈ u.out)) ∧
    (let due := (s.q g).irqDue = true ∧ bitOf (qWord s g 5) 30 = true
     (due → exec (.msixRaise g16) s = .next ((msix (qFn s g) (bitsOf (qWord s g 5) 41 31) s).updQ g (fun q =>
       { q with irqDue := false, lastMsg := s.time + 1 }))) ∧
     (¬ due → exec (.msixRaise g16) s = .next s)) ∧
    (let busy := (qKind s g = 2 ∨ qKind s g = 3) ∧ ringReady s g = true ∧ posted s g ≠ 0
     (¬ busy → exec (.hostReadError g16) s = .next s) ∧
     (busy → qKind s g = 2 → ∃ u, exec (.hostReadError g16) s = .next u ∧ qOn u g = false ∧ (u.q g).pk = []) ∧
     (busy → qKind s g = 3 → ∃ (u : State) (k : Nat), exec (.hostReadError g16) s = .next u ∧ 1 ≤ k ∧ k ≤ min 16 (posted s g) ∧
       qWord u g 6 % 65536 = (w6 + k) % 65536)) ∧
    (f / 4096 ≠ 1 → exec (.functionLevelReset fn) s = .next s) ∧
    (f / 4096 = 1 → ∃ u, exec (.functionLevelReset fn) s = .next u ∧ stopped (covered s f) u ∧ masked (covered s f) u) ∧
    (∃ u, exec (.busMasterDisable fn) s = .next u ∧ stopped [f] u) ∧
    (∃ u, exec (.perstAssert h) s = .next u ∧ h.val ∈ u.perst ∧ stopped (fnsOfPfs s (pfsOf h.val)) u ∧ masked (fnsOfPfs s (pfsOf h.val)) u ∧
      u.dget (hostIdx h.val) 4 = 0 ∧ u.dget (hostIdx h.val) 5 = 0 ∧ u.dget (hostIdx h.val) 6 = 0 ∧ u.dget (hostIdx h.val) 7 = 0) ∧
    exec (.perstDeassert h) s = .next (setHostMode (hostIdx h.val) { s with perst := s.perst.filter (· ≠ h.val) }) ∧
    ((setHostMode (hostIdx h.val) s).dget (hostIdx h.val) 2 = s.dget (hostIdx h.val) 1 ∧
      (s.dget (hostIdx h.val) 2 = s.dget (hostIdx h.val) 1 → setHostMode (hostIdx h.val) s = s)) ∧
    (∃ u, exec (.hostLinkDown h link) s = .next u ∧ u.dget (hostIdx h.val) (4 + 2 * link.val) = 0 ∧
      u.dget (hostIdx h.val) (5 + 2 * link.val) = 0 ∧
      (pfsOfLink s h.val link.val ≠ [] → stopped (fnsOfPfs s (pfsOf h.val)) u ∧ masked (fnsOfPfs s (pfsOf h.val)) u)) ∧
    (let m := s.dget (hostIdx h.val) 1
     let shut := h.val ∈ s.perst ∨ m = 0 ∨ (link.val = 1 ∧ m ≠ 2) ∨ (8 + h.val) ∈ s.isoPorts
     (shut → exec (.hostLinkUp h link width rate) s = .next s) ∧
     (¬ shut → ∃ u, exec (.hostLinkUp h link width rate) s = .next u ∧ u.dget (hostIdx h.val) 2 = m ∧
       u.dget (hostIdx h.val) (4 + 2 * link.val) = width.toNat ∧ u.dget (hostIdx h.val) (5 + 2 * link.val) = rate.toNat ∧ u.mem = s.mem)) ∧
    (let all := vfsOf s pf.val
     (n16 = 0 → ∃ u, exec (.numvfsWrite pf n16) s = .next u ∧ stopped ((0x1000 + pf.val) :: all) u ∧ masked ((0x1000 + pf.val) :: all) u) ∧
     (n16 ≠ 0 → ∃ u, exec (.numvfsWrite pf n16) s = .next u ∧ masked (all.drop n16.toNat) u ∧
       ∀ x, x ∈ all.take n16.toNat → x ∈ u.busMaster)) ∧
    (let k := f * 2048 + vec.toNat
     let open_ := if s.msixOpen.contains k then s.msixOpen else s.msixOpen ++ [k]
     let send := k ∈ s.msixPend ∧ f ∈ s.busMaster
     (send → exec (.msixVectorUnmask fn vec) s =
       .next (msix f vec.toNat { s with msixOpen := open_, msixPend := s.msixPend.filter (· ≠ k) })) ∧
     (¬ send → exec (.msixVectorUnmask fn vec) s = .next { s with msixOpen := open_ }))

/-- 14 R392, R394; 15 R400 to R405, R407, R410 to R412, R417: CXL memory and DRAM. A CXL request reaches the exported bytes or is refused, and a
poisoned read is returned, counted and reported; a read enters its group's queue with room kept for every class; promoted
requests go first, then lower classes; a line's read answers its bytes, marked poisoned when they are; a write is performed when
accepted; a scrub rewrites an uncorrectable block poisoned; refresh, idle closing, temperature, drift and power-down change what
their rules name. -/
def Obligations.Dram : Prop :=
  ∀ (adr : Nat) (wr : List Byte) (op m : BitVec 16) (a48 : BitVec 48) (sc : Fin 4) (keep passes : Bool) (hot : BitVec 8) (g : Fin 4)
    (e : EccOutcome) (data : List Byte) (pos : Fin 32) (bank : Fin 8) (pkg : Fin 9) (st : List (BitVec 8)) (s : State),
    let ex := cxlExport s
    let a := a48.toNat
    let serves := groupServes s (dramGroupOf s a) = true
    let reads := (s.dram g.val).reads
    let cut := 6 ∈ s.frozen ∨ 9 ∈ s.isoPorts
    let b := ex.1 + adr / 64 * 64
    (cut → exec (.cxlMemRequest adr none) s = .next s ∧ exec (.cxlMemRequest adr (some wr)) s = .next s) ∧
    (¬ cut → ex.2 ≤ adr → ∀ x, exec (.cxlMemRequest adr x) s = .next ((accessEvent 0x1400 adr .unmapped s).emit (.accessFault 0x1400 adr))) ∧
    (¬ cut → adr < ex.2 → ∀ x, (∀ y, checkAccess 0x1400 b x.isSome s ≠ .ok y) →
      exec (.cxlMemRequest adr x) s =
        .next ((accessEvent 0x1400 b (checkAccess 0x1400 b x.isSome s) s).emit (.accessFault 0x1400 b))) ∧
    (¬ cut → adr < ex.2 → ∀ y, checkAccess 0x1400 b true s = .ok y →
      exec (.cxlMemRequest adr (some wr)) s = .next (dramStore b (slice wr 0 64) true (s.bump 0x4500 5))) ∧
    (¬ cut → adr < ex.2 → ∀ y, checkAccess 0x1400 b false s = .ok y →
      (let r := loadHome b 64 true (s.bump 0x4500 4)
       let t := r.1.emit (.readData 0x1400 adr r.2.1)
       exec (.cxlMemRequest adr none) s = .next (if r.2.2 = true then raiseAny 0x10C none (t.bump 0x4500 6) else t))) ∧
    (∃ l, l.length = 67 ∧ exec .cxlIdentifyMemoryDevice s = .next ((s.emit (.cxl 0 l)).tick)) ∧
    (∃ l, l.length = 18 ∧ exec .cxlGetHealthInfo s = .next ((s.emit (.cxl 0 l)).tick)) ∧
    exec (.cxlUnsupportedCommand op) s = .next (s.emit (.cxl 0x15 [])) ∧
    (let c := Instr.dramRead m a48 sc keep
     let n := dramGroupOf s a
     (inDram a = false → exec c s = .next s) ∧
     (inDram a = true → ∀ x, checkAccess m.toNat a false s = .ok x →
      let r : DramReq := ⟨m.toNat, a, sc.val, keep, false, s.time⟩
      ((7 + n) ∈ s.frozen → exec c s = .next
        (if (s.dram n).held.length < 8 then s.updDram n (fun d => { d with held := d.held ++ [⟨r, none⟩] }) else s)) ∧
      ((7 + n) ∉ s.frozen → (¬ serves ∨ queueAdmits (s.dram n).reads m.toNat = false) → exec c s = .next s) ∧
      (serves → queueAdmits (s.dram n).reads m.toNat = true →
        exec c s = .next (s.updDram n (fun d => { d with reads := d.reads ++ [r] })) ∧ (s.dram n).reads.length < 128)) ∧
     (inDram a = true → (∀ x, checkAccess m.toNat a false s ≠ .ok x) → exec c s =
       .next (busAnswer m.toNat a false (busRefused m.toNat a false 0 (accessEvent m.toNat a (checkAccess m.toNat a false s) s))))) ∧
    (∀ r, nextRead reads = some r → r ∈ reads ∧
      (r.promoted = true ∨ ∀ x, x ∈ reads → x.promoted = false ∧ (x.sc < 4 → r.sc ≤ x.sc))) ∧
    ((groupServes s g.val = false ∨ nextRead reads = none) → exec (.dramReadData g e) s = .next s) ∧
    (∀ r, groupServes s g.val = true → nextRead reads = some r →
      let line := r.addr / 64 * 64
      ∃ v : State, (v.dram g.val).reads = reads.erase r ∧ v.mem = s.mem ∧ exec (.dramReadData g e) s = .next (v.emit
        (if poisoned s line 64 = true ∨ e = .uncorrectable then .poisonData r.mid line (s.memRead line 64)
         else .readData r.mid line (s.memRead line 64)))) ∧
    (let n := dramGroupOf s a
     let c := Instr.dramWrite m a48 data sc keep
     let r : DramReq := ⟨m.toNat, a, sc.val, keep, false, s.time⟩
     (inDram a = false → exec c s = .next s) ∧
     (∀ x, inDram a = true → checkAccess m.toNat a true s = .ok x →
       ((7 + n) ∈ s.frozen → exec c s = .next
         (if (s.dram n).held.length < 8 then s.updDram n (fun d => { d with held := d.held ++ [⟨r, some data⟩] }) else s)) ∧
       ((7 + n) ∉ s.frozen → ¬ serves → exec c s = .next s)) ∧
     (inDram a = true → (∀ x, checkAccess m.toNat a true s ≠ .ok x) → ∃ pc, exec c s =
       .next (busAnswer m.toNat a true (busRefused m.toNat a true pc (accessEvent m.toNat a (checkAccess m.toNat a true s) s))))) ∧
    (∀ x, inDram a = true → serves → checkAccess m.toNat a true s = .ok x →
      exec (.dramWrite m a48 data sc keep) s = .next (dramStore a data keep s)) ∧
    (firstAged s reads = none → exec (.ageLimitPromotion g) s = .next s) ∧
    (∀ r, firstAged s reads = some r → (r ∈ reads ∧ r.promoted = false ∧
        ∀ x, x ∈ reads → x.promoted = false → ageEnd s r ≤ ageEnd s x) ∧ ∃ u, exec (.ageLimitPromotion g) s = .next u ∧ u.mem = s.mem ∧
      (u.dram g.val).reads = (reads.erase r).filter (fun x => x.promoted) ++ [{ r with promoted := true }] ++
        (reads.erase r).filter (fun x => !x.promoted) ∧
      u.dget (grpIdx g.val) 3 = (s.dget (grpIdx g.val) 3 + 1) % 2 ^ 64) ∧
    (let b := a / 32 * 32
     let c := Instr.scrubRead a48
     let v := dramTouchRead b false s
     let p := (dramMap v b).1
     ((inDram b = false ∨ groupServes s (dramGroupOf s b) = false) → exec (c e) s = .next s) ∧
     (inDram b = true → groupServes s (dramGroupOf s b) = true →
      ((poisoned v b 32 = true ∨ e = .clean) → exec (c e) s = .next v) ∧
      (poisoned v b 32 = false → exec (c .corrected) s = .next (ceError (dramUnit p) (eccReport b 3 .corrected v))) ∧
      (poisoned v b 32 = false → exec (c .uncorrectable) s =
        .next (setPoison b 32 (ueError p (dramRow (eccReport b 3 .uncorrectable v) b) (eccReport b 3 .uncorrectable v)))))) ∧
    (∃ u, exec (.bankRefresh pos bank) s = .next u ∧ exec (.pageIdleClose pos bank) s = .next u ∧ u.mem = s.mem ∧
      Tab.find (u.dram (pos.val / 8)).openRows (pos.val * 8 + bank.val) = none) ∧
    (∃ v : State, exec (.dramTemperatureRead g st hot) s = .next ((List.range 8).foldl (fun u i =>
        if hot.getLsbD i = true ∧ bitOf (s.dram g.val).hot i = false then raiseAny (0x128 + g.val) none u else u) v) ∧
      (∀ i, i < 8 → v.dget (0x4900 + 8 * g.val + i) 7 = (st.getD i 0).toNat) ∧
      v.dget (grpIdx g.val) 0x0A ∈ [1, 2, 4] ∧ (v.dram g.val).hot = hot.toNat ∧ v.mem = s.mem) ∧
    exec (.zqCalibration pkg) s = .next s ∧
    exec (.dqsOscillatorCheck pos false passes) s = .next s ∧
    (let v := s.bump (0x4900 + pos.val) 5
     exec (.dqsOscillatorCheck pos true true) s = .next v ∧
     exec (.dqsOscillatorCheck pos true false) s = .next (raise (0x120 + pos.val / 8) pos.val none (v.bump (0x4900 + pos.val) 6))) ∧
    (let may := bitOf (ownModes s .device) 2 = true ∧
       ∀ r, r ∈ (s.dram (pos.val / 8)).reads → (dramMap s r.addr).1 ≠ pos.val
     (may → ∃ u, exec (.dramPowerDown pos) s = .next u ∧ pos.val ∈ (u.dram (pos.val / 8)).sleeping ∧ u.mem = s.mem) ∧
     (¬ may → exec (.dramPowerDown pos) s = .next s))

/-- 07 R200, R203; 08 R222, R228, R230, R232, R235, R236, R238: caches, merging buffer and fetch. A merging buffer drains its
oldest entry, the fetch unit gives a block to the thread with the fewest unissued instructions, an accepted maintenance word acts
on its lines, a clean writes a dirty line home and keeps it, an invalidate removes it, a lock word takes effect and its reserved
values are refused, a prefetched line that ages is dropped and counted, and an eviction is accepted in order. -/
def Obligations.Caches : Prop :=
  ∀ (w : Writer) (t : ThreadId) (k : CoreId) (ecc : EccOutcome) (off : Nat) (data : List Byte) (sel level : BitVec 2) (count : BitVec 8)
    (addr : BitVec 48) (p : Petal) (cl : Cluster) (bank : Fin 4) (v : BitVec 32) (line : Nat) (decl : Bool) (s : State),
    (petalHalted s k.p = true → exec (.mergingBufferDrain k) s = .next s) ∧
    (petalHalted s k.p = false → (s.core k).merge = [] → exec (.mergingBufferDrain k) s = .next s) ∧
    (∀ m q, petalHalted s k.p = false → (s.core k).merge = m :: q → (∀ e ∈ q, e.addr ≠ m.addr) →
      (dramFrozen s m.addr = true → exec (.mergingBufferDrain k) s = .next s) ∧
      (dramFrozen s m.addr = false → ∃ u, exec (.mergingBufferDrain k) s = .next u ∧ (u.core k).merge = q ∧
        (m.poison = false → (u.core k).l1 = (s.core k).l1))) ∧
    (let wait := fun (x : ThreadId) => unissued (s.thr (.thr x))
     let may := fun (x : ThreadId) => x ∈ threadsOf k ∧ fetchServes (s.thr (.thr x)) = true
     let shut := petalHalted s k.p = true ∨ (s.clus k.p k.c).parked ≠ [] ∨ (s.core k).isolated = true
     let b := fun (x : ThreadId) => blockOf (s.thr (.thr x)).pc.toNat + 16 * (fetchHeld (s.thr (.thr x))).length
     (shut ∨ (∀ x, ¬ may x) → exec (.instructionFetch k ecc) s = .next s) ∧
     (∀ x, ¬ shut → may x → (∀ y, may y → wait x < wait y ∨ (wait x = wait y ∧ x.t ≤ y.t)) →
       let take := fun (u : State) => u.updThr (.thr x) (fun r => { r with fetch := fetchHeld (s.thr (.thr x)) ++ [b x] })
       (ecc = .clean → exec (.instructionFetch k ecc) s = .next (take s)) ∧
       (ecc = .corrected → exec (.instructionFetch k ecc) s = .next (take (s.bump (pipeIdx k.p k.c) 8))) ∧
       (ecc = .uncorrectable → ∃ u, exec (.instructionFetch k ecc) s = .next u ∧ u.mem = s.mem ∧
         (∃ j, j < 4 ∧ (b x - 0x001000000000 + 4 * j) ∈ (u.clus k.p k.c).imemBad) ∧
         (fetchHeld (s.thr (.thr x)) = [] → (s.thr (.thr x)).st = .running → (u.thr (.thr x)).st = .fetchWait)))) ∧
    (Screened (.pageClassWrite w off data) w 0x2030 0 off data s ∧
     (Passes w 0x2030 0 off data s → ∀ u, pageWrite off data (Unstaged w 0x2030 0 s) = .ok u → exec (.pageClassWrite w off data) s = .next u) ∧
     (Passes w 0x2030 0 off data s → ∀ c, pageWrite off data (Unstaged w 0x2030 0 s) = .error c →
       c = 0x06090030 ∧ Turned (.pageClassWrite w off data) w 0x2030 0 c false s)) ∧
    (let i := pix 0x3330 t.p
     let word := fun (op : Nat) => leBytes 8 (op * 2 ^ 60 + sel.toNat * 2 ^ 58 + level.toNat * 2 ^ 56 + count.toNat * 2 ^ 48 + addr.toNat)
     let v := drainAll t s
     let acts := fun (op : Nat) (c : Instr) =>
       let no := fun (a : Abort) (n : Bool) => exec c s =
         .next (refuseWrite (.core t) i 1 a n (writerPc (.core t) (Unstaged (.core t) i 1 v)) (Unstaged (.core t) i 1 v))
       (petalHalted s t.p = true → exec c s = .next s) ∧
       (petalHalted s t.p = false → windowShut v (.core t) = false → ∀ a n,
         checkWrite (.core t) i 1 0 (word op) (takeStaged (.core t) i 1 none v).2 (Unstaged (.core t) i 1 v) = some (a, n) →
         no a n ∨ (a = 0x08000022 ∧ no 0x06090030 false)) ∧
       (petalHalted s t.p = false → Passes (.core t) i 1 0 (word op) v →
         (cacheReserved op sel.toNat level.toNat count.toNat addr.toNat = true → no 0x06090030 false) ∧
         (cacheReserved op sel.toNat level.toNat count.toNat addr.toNat = false →
           exec c s = .next (cacheOp t op sel.toNat level.toNat count.toNat addr.toNat (Unstaged (.core t) i 1 v))))
     acts 0 (.cacheClean t sel level count addr) ∧
     acts 1 (.cacheInvalidate t sel level count addr) ∧
     acts 2 (.cacheCleanInvalidate t sel level count addr) ∧
     acts 3 (.cachePrefetchHint t sel level count addr) ∧
     acts 4 (.cacheLockLine t sel level count addr) ∧
     acts 5 (.cacheUnlockLine t sel level count addr)) ∧
    (let ln := lineOf line
     let core := t.core
     ∀ x, detOn s t.p t.c = false → (∀ e ∈ (s.core core).evict, e.addr ≠ ln) → (s.core core).l1.filter (fun y => y.addr == ln) = [x] →
       (l1Find (l1Maint core 1 ln s) core ln = none ∧ (l1Maint core 1 ln s).mem = s.mem) ∧
       (x.dirty = true → x.poison = false → x.data.length = 64 → inDram (coreKey core ln s) = true →
         ∃ y, l1Find (l1Maint core 0 ln s) core ln = some y ∧ y = { x with dirty := false } ∧
           (l1Maint core 0 ln s).memRead (coreKey core ln s) 64 = x.data ∧
           l1Find (l1Maint core 2 ln s) core ln = none ∧ (l1Maint core 2 ln s).memRead (coreKey core ln s) 64 = x.data)) ∧
    (let i := cacheIdx p cl
     let j := 1 + bank.val
     let c := Instr.l2LockWordWrite w p cl bank v
     let d := leBytes 4 v.toNat
     Screened c w i j 0 d s ∧
     (Passes w i j 0 d s → ∃ u, exec c s = .next u ∧ u.dget i j = v.toNat % 2 ^ 16 ∧
       (∀ y, y < 8 → bitsOf v.toNat (2 * y + 1) (2 * y) ≠ bitsOf (s.dget i j) (2 * y + 1) (2 * y) →
         ∀ e ∈ (u.clus p cl).l2, ¬ (e.1 / 16 / 512 = bank.val ∧ e.1 % 16 = y)))) ∧
    (((s.core k).side.any (fun x => x.addr == lineOf line) = false → exec (.sideBufferAgeExpiry k line) s = .next s) ∧
     ((s.core k).side.any (fun x => x.addr == lineOf line) = true → ∃ u, exec (.sideBufferAgeExpiry k line) s = .next u ∧
       (u.core k).side = (s.core k).side.filter (fun x => x.addr != lineOf line) ∧ (u.core k).l1 = (s.core k).l1 ∧
       u.dget (cacheIdx k.p k.c) 0x0D = (s.dget (cacheIdx k.p k.c) 0x0D + 1) % 2 ^ 64 ∧ u.mem = s.mem)) ∧
    ((petalHalted s k.p = true ∨ (s.core k).evict = []) → exec (.evictionAccept k decl) s = .next s) ∧
    (∀ x q, (s.core k).evict = x :: q → x.dirty = true → dramFrozen s (coreKey k x.addr s) = true →
      exec (.evictionAccept k decl) s = .next s) ∧
    (∀ x q, petalHalted s k.p = false → (s.core k).evict = x :: q → (x.dirty = true → dramFrozen s (coreKey k x.addr s) = false) → ∃ u, exec (.evictionAccept k decl) s = .next u ∧ (u.core k).evict = q ∧
      (x.dirty = false → u.mem = s.mem) ∧
      (x.dirty = true → x.poison = false → x.data.length = 64 → inDram (coreKey k x.addr s) = true →
        u.memRead (coreKey k x.addr s) 64 = x.data))

/-- 06 R189; 09 R248, R249, R251, R254, R259 to R261, R263 to R266: thread and channel commands. A resume starts a parked thread at
its TPC or at an address, a park keeps TPC at the instruction and leaves staging, a reset starts the thread anew with every
register 0; share words and bindings are written whole or refused; a hold that lasts is reported once; a discard empties staging
and leaves a mark, a flush empties a FIFO, a post adds a whole message to a channel open to it; the census declares a wait cycle
when every participating thread of a group is stuck, and not twice; a change of the mask ends that. -/
def Obligations.ThreadAndChannelCommands : Prop :=
  ∀ (w : Writer) (t : ThreadId) (addr : BitVec 48) (k : CoreId) (sub : Fin 9) (v hdr : BitVec 64) (p : Petal) (off : Nat) (data : List Byte)
    (ch : BitVec 12) (m : BitVec 16) (words : List (BitVec 64)) (cl : Cluster) (x : CensusWrite) (s : State),
    (let h := Hart.thr t
     let r := s.thr h
     let i := coreIdx t.p t.lc
     let d := fun (op a : Nat) => leBytes 8 (op * 2 ^ 60 + t.t.val * 2 ^ 56 + a)
     let awake := if (s.clus t.p t.c).started then TState.running else .notStarted
     let resumed := fun (a : Addr) => s.updThr h (fun y => { y with st := awake, pc := a, tcause := y.tcause &&& BitVec.ofNat 64 (2 ^ 63 - 1) })
     Checked (.threadCommandResume w t) w i 0x0B 0 (d 1 0) none s ∧
     Checked (.threadCommandResumeAt w t addr) w i 0x0B 0 (d 2 addr.toNat) none s ∧
     Checked (.threadCommandPark w t) w i 0x0B 0 (d 3 0) none s ∧
     Checked (.threadCommandReset w t) w i 0x0B 0 (d 4 0) none s ∧
     (Admitted w i 0x0B 0 (d 1 0) none s →
       (r.st.parked = true → exec (.threadCommandResume w t) s = .next (resumed r.tpc)) ∧
       (r.st.parked = false → exec (.threadCommandResume w t) s = .next s)) ∧
     (Admitted w i 0x0B 0 (d 2 addr.toNat) none s →
       (r.st.parked = true → exec (.threadCommandResumeAt w t addr) s = .next (resumed addr)) ∧
       (r.st.parked = false → exec (.threadCommandResumeAt w t addr) s = .next s)) ∧
     (Admitted w i 0x0B 0 (d 3 0) none s →
       (r.st.parked = true → exec (.threadCommandPark w t) s = .next s) ∧
       ((r.st = .halted ∨ r.st = .sparing) → exec (.threadCommandPark w t) s = .next (s.updThr h (fun y => { y with parkAsked := true }))) ∧
       (r.st.parked = false → r.st ≠ .halted → r.st ≠ .sparing → ∃ u, exec (.threadCommandPark w t) s = .next u ∧
         (u.thr h).st = .parkedSup ∧ (u.thr h).wait = .none ∧ (u.thr h).tpc = r.pc ∧ (u.thr h).tcause = BitVec.ofNat 64 (2 ^ 63 + 2 ^ 60) ∧
         (u.thr h).resv = none ∧ (u.thr h).staged = r.staged ∧ (u.thr h).d = r.d ∧ ((∀ a b e, r.wait ≠ .lock a b e) → u.mem = s.mem))) ∧
     (Admitted w i 0x0B 0 (d 4 0) none s → ∃ u, exec (.threadCommandReset w t) s = .next u ∧
       (u.thr h).st = (if r.st = .sparing then .sparing else if (s.clus t.p t.c).started then .running else .notStarted) ∧
       (u.thr h).pc = (s.clus t.p t.c).entry ∧ (∀ g, u.dreg h g = 0) ∧ (u.thr h).staged = [] ∧ (u.thr h).sb = [] ∧
       (u.thr h).steps = r.steps ∧ (u.thr h).tpc = r.tpc)) ∧
    (let n := sub.val + 1
     let i := coreIdx k.p k.lc
     let d := leBytes (if n = 9 then 2 else 8) v.toNat
     let c := Instr.shareWordWrite w k sub v
     Checked c w i n 0 d none s ∧
     (Admitted w i n 0 d none s →
       (n < 9 → (shareOf v.toNat 0).2 < (shareOf v.toNat 0).1 → Refused c w i n 0x06090030 false s) ∧
       (floorsFit (plainScalar i n d s) k = false → Refused c w i n 0x06090030 false s) ∧
       (exec c s = .next (plainScalar i n d s) ∨ Refused c w i n 0x06090030 false s) ∧
       (n < 9 → (∀ q, q < 3 → (shareOf v.toNat q).1 ≤ (shareOf v.toNat q).2) → (shareOf v.toNat 1).2 ≤ 16 → (shareOf v.toNat 2).2 ≤ 8 →
         floorsFit (plainScalar i n d s) k = true → exec c s = .next (plainScalar i n d s)))) ∧
    (let i := pix 0x3341 p
     let c := Instr.channelBindingWrite w p off data
     let n := data.length / 16
     let rec_ := fun (j : Nat) => (data.drop (16 * j)).take 16
     Checked c w i 0 off data none s ∧
     (Admitted w i 0 off data none s →
       ((∃ j, j < n ∧ bindReserved p (rec_ j) = true) → Refused c w i 0 0x06090030 false s) ∧
       ((∀ j, j < n → bindReserved p (rec_ j) = false) →
        ((∃ j, j < n ∧ s.domRead i 0 (16 * (off / 16 + j)) 16 ≠ rec_ j ∧ chanIdle s p (off / 16 + j) = false) →
          Refused c w i 0 0x08000022 false s) ∧
        ((∀ j, j < n → s.domRead i 0 (16 * (off / 16 + j)) 16 = rec_ j ∨ chanIdle s p (off / 16 + j) = true) →
          exec c s = .next (s.domWrite i 0 off data))))) ∧
    (let c := s.chan p ch.toNat
     let e := Instr.channelHoldExpiry p ch
     (∀ y, c.holder.bind threadOf = some y → c.raised = false → ((s.thr (.thr y)).st.parked = true ∨ (s.thr (.thr y)).st = .halted) →
       ∃ u, exec e s = .next u ∧ (u.chan p ch.toNat).raised = true ∧ (u.chan p ch.toNat).holder = c.holder ∧
         (u.chan p ch.toNat).fifo = c.fifo ∧ u.mem = s.mem) ∧
     ((c.holder.bind threadOf = none ∨ c.raised = true) → exec e s = .next s)) ∧
    (let i := pix 0x3342 p
     let n := ch.toNat
     let d1 := leBytes 8 (2 ^ 60 + m.toNat * 2 ^ 32 + n)
     let d2 := leBytes 8 (2 * 2 ^ 60 + n)
     let c1 := Instr.channelDiscardStaging w p m ch
     let c2 := Instr.channelFlushFifo w p ch
     Checked c1 w i 1 0 d1 none s ∧ Checked c2 w i 1 0 d2 none s ∧
     (Admitted w i 1 0 d1 none s →
       (threadOf m.toNat = none → Refused c1 w i 1 0x08000022 false s) ∧
       ∀ y, threadOf m.toNat = some y →
        let r := s.thr (.thr y)
        let ok := y.p = p ∧ (r.st.parked = true ∨ r.st = .halted) ∧ (n ∈ r.stagedEnd ∨ stagedFor r n ≠ [])
        (¬ ok → Refused c1 w i 1 0x08000022 false s) ∧
        (ok → m.toNat ∉ (s.chan p n).waiting → ∃ u, exec c1 s = .next u ∧ stagedFor (u.thr (.thr y)) n = [] ∧ n ∉ (u.thr (.thr y)).stagedEnd ∧
          n ∈ (u.thr (.thr y)).discard ∧ (u.chan p n).fifo = (s.chan p n).fifo ∧ u.mem = s.mem)) ∧
     (Admitted w i 1 0 d2 none s → ∃ u, exec c2 s = .next u ∧ u.mem = s.mem ∧
       ((s.chan p n).holder = none → u.chan p n = { s.chan p n with fifo := [], times := [] }))) ∧
    (let i := pix 0x3342 p
     let n := bitsOf hdr.toNat 19 16
     let g := bitsOf hdr.toNat 11 0
     let d := leBytes 8 hdr.toNat ++ words.flatMap (fun y => leBytes 8 y.toNat)
     let c := Instr.channelPost w p hdr words
     let ok := bitsOf hdr.toNat 15 12 = 0 ∧ bitsOf hdr.toNat 63 20 = 0 ∧ 1 ≤ n ∧ n ≤ 8 ∧ words.length = n
     Checked c w i 2 0 d none s ∧
     (Admitted w i 2 0 d none s →
       (¬ ok → Refused c w i 2 0x06090030 false s) ∧
       (ok → chanExt s p g = false → Refused c w i 2 0x06010000 false s) ∧
       (ok → chanExt s p g = true → 4 ≤ (s.chan p g).fifo.length → Refused c w i 2 0x08000024 false s) ∧
       (ok → chanExt s p g = true → (s.chan p g).fifo.length < 4 → (∀ y, chanRecv s p g = some y → (s.thr (midHart y)).st ≠ .recvWait) →
         exec c s = .next (s.updChan p g (fun r => { r with fifo := r.fifo ++ [words.map (fun y => ⟨y, false⟩)], times := r.times ++ [s.time] })))) ∧
     (∀ y rd n', (s.thr (.thr y)).st = .recvWait → (s.thr (.thr y)).wait = .recv rd n' → chanExt s p n' = true →
       ∀ l, stuck s p l y = false)) ∧
    (let g := waitGroup s p cl
     let key := 8 * p.val + g.1
     let stamp := 1 + (g.2.map (fun y => (s.thr (.thr y)).waits)).sum
     let e := Instr.waitCensusEvaluation p cl
     ((petalHalted s p = true ∨ g.2 = [] ∨ Tab.get 0 s.census key = stamp ∨ ∃ y ∈ g.2, stuck s p g.2 y = false) → exec e s = .next s) ∧
     (petalHalted s p = false → g.2 ≠ [] → Tab.get 0 s.census key ≠ stamp → (∀ y ∈ g.2, stuck s p g.2 y = true) →
       ∃ u, exec e s = .next u ∧ Tab.get 0 u.census key = stamp ∧ u.mem = s.mem ∧
         (∀ y ∈ g.2, y.t ≠ 0 → (u.thr (.thr y)).st = (s.thr (.thr y)).st))) ∧
    (match x with
     | .mask q lc b =>
       let i := coreIdx q lc.val
       let c := Instr.participationMaskWrite w x
       Checked c w i 0x0A 0 (leBytes 1 b.toNat) none s ∧
       (Admitted w i 0x0A 0 (leBytes 1 b.toNat) none s → ∃ u, exec c s = .next u ∧ u.dget i 0x0A = b.toNat ∧
         (s.dget i 0x0A = b.toNat → u.census = s.census) ∧
         (s.dget i 0x0A ≠ b.toNat → ∀ g, g = 7 ∨ g = lc.val / 8 → Tab.get 0 u.census (8 * q.val + g) = 0) ∧
         (∀ g, g < 7 → g ≠ lc.val / 8 → Tab.get 0 u.census (8 * q.val + g) = Tab.get 0 s.census (8 * q.val + g)) ∧ u.mem = s.mem)
     | .scope b =>
       let c := Instr.participationMaskWrite w x
       Checked c w 0x2040 1 0 (leBytes 1 b.toNat) none s ∧
       (Admitted w 0x2040 1 0 (leBytes 1 b.toNat) none s → ∃ u, exec c s = .next u ∧ u.dget 0x2040 1 = b.toNat ∧
         u.census = (if s.dget 0x2040 1 = b.toNat then s.census else []) ∧ u.mem = s.mem))

/-- 11 R292 to R295, R302 to R305: the lock-register windows, the pin list and the forced release. Every window read answers a result
word with the lock's user field; ACQUIRE takes a free lock or queues, TRY never queues, POLL tells the standing, PEEK reads the word
image, CANCEL withdraws the requester's own request, RELEASE ends the holder's entry and hands the lock to its first waiter; an
access of another kind is refused, counted and without effect; a pin list write is refused for a lock held by a master that may not
take pinned ones; a forced release ends the holder entry with ABANDONED. -/
def Obligations.LockWindows : Prop :=
  ∀ (w : Writer) (m : BitVec 16) (off : BitVec 30) (size : Nat) (data : BitVec 64) (poff : Nat) (pd : List Byte) (v : BitVec 64) (s : State),
    let mid := m.toNat
    let key := s.dget 0x9000 1 * 2 ^ 30 + off.toNat
    let p := trackPetal key
    let addr := fun (op : Nat) => 0x004000000000 + (op * 2 ^ 30 + off.toNat)
    let open_ := fun (op : Nat) (wr : Bool) => checkAccess mid (addr op) wr s = .ok .lockWin
    let good := size = 8 ∧ off.toNat % 8 = 0 ∧ s.dget 0x9000 1 ≠ 0xFF ∧ s.noDram = false
    let acq := Instr.lockWindowAcquire m off size
    let try_ := Instr.lockWindowTry m off size
    let poll := Instr.lockWindowPoll m off size
    let peek := Instr.lockWindowPeek m off size
    let cancel := Instr.lockWindowCancel m off size
    let rel := Instr.lockWindowRelease m off size data
    let said := fun (c : Instr) (op : Nat) (u : State) (v : Nat) => exec c s = .next (u.emit (.readData mid (addr op) (leBytes 8 v)))
    let answers := fun (c : Instr) (op : Nat) (u : State) (st : Nat) => said c op u (st + lockUser u key * 2 ^ 32)
    let mine := fun (x : Waiter) => x.key = key ∧ x.mid = mid ∧ x.rd = none
    (¬ good → ∀ op c, (op, c) ∈ [(0, acq), (1, try_), (2, poll), (3, peek)] → open_ op false →
      exec c s = .next ((s.bump 0x9000 6).emit (.accessFault mid (addr op)))) ∧
    (good → open_ 3 false → said peek 3 s (lockImage s key)) ∧
    (good → mid / 4096 ≠ 3 →
      ((pinned s key = true ∧ mayPin mid = false) → (open_ 0 false → (∀ x ∈ s.waiters, ¬ (x.mid = mid ∧ x.rd = none)) →
          answers acq 0 (reImage key (endResv key s)) 4) ∧
        (open_ 1 false → answers try_ 1 (reImage key (endResv key s)) 4)) ∧
      (¬ (pinned s key = true ∧ mayPin mid = false) → Tab.find s.holders key = none → holdersOf s p < 4096 →
        ∃ u, (open_ 0 false → answers acq 0 u (b2n (lockAban s key))) ∧ (open_ 1 false → answers try_ 1 u (b2n (lockAban s key))) ∧
          Tab.find u.holders key = some ⟨mid, s.dget 0x9000 2, lockAban s key⟩) ∧
      (¬ (pinned s key = true ∧ mayPin mid = false) → ∀ h, Tab.find s.holders key = some h →
        (open_ 1 false → answers try_ 1 (reImage key (endResv key s)) 2) ∧
        (open_ 0 false → (∀ x ∈ s.waiters, ¬ (x.mid = mid ∧ x.rd = none)) → waitersOf s p < 4096 →
          ∃ u, answers acq 0 u 6 ∧ (∃ x ∈ u.waiters, mine x) ∧ Tab.find u.holders key = some h) ∧
        (open_ 0 false → ∀ x ∈ s.waiters, x.mid = mid → x.rd = none → (∀ y ∈ s.waiters, y.mid = mid → y.rd = none → y = x) →
          answers acq 0 (reImage key (endResv key s)) (if x.key = key then 6 else 2))) ∧
      (open_ 2 false →
        (∀ h, Tab.find s.holders key = some h → h.mid = mid → answers poll 2 s (b2n h.aban)) ∧
        (∀ h, Tab.find s.holders key = some h → h.mid ≠ mid →
          ((∃ x ∈ s.waiters, mine x) → answers poll 2 s 6) ∧ ((∀ x ∈ s.waiters, ¬ mine x) → answers poll 2 s 5)) ∧
        (Tab.find s.holders key = none → answers poll 2 s 5)) ∧
      (open_ 2 true → ∃ u, exec cancel s = .next u ∧ u.holders = s.holders ∧ (∀ x ∈ u.waiters, ¬ mine x) ∧
        (∀ x ∈ s.waiters, ¬ mine x → ∃ y ∈ u.waiters, y.key = x.key ∧ y.mid = x.mid)) ∧
      (open_ 3 true →
        (∀ h, Tab.find s.holders key = some h → h.mid = mid →
          (firstWaiter s key = none → ∃ u, exec rel s = .next u ∧ Tab.find u.holders key = none ∧
            (bitOf data.toNat 32 = true → lockUser u key = data.toNat % 2 ^ 32) ∧
            (bitOf data.toNat 32 = false → lockUser u key = lockUser s key)) ∧
          (∀ x, firstWaiter s key = some x → ∃ u, exec rel s = .next u ∧
            Tab.find u.holders key = some ⟨x.mid, x.prio, h.aban && !bitOf data.toNat 33⟩)) ∧
        ((∀ h, Tab.find s.holders key = some h → h.mid ≠ mid) → exec rel s = .next ((reImage key (endResv key s)).bump 0x9000 7)))) ∧
    (let c := Instr.pinListWrite w poff pd
     let ws := words8 pd
     let listed := fun (e : Nat) => ∃ i, i < 64 ∧ s.domNat 0x9000 4 (8 * i) 8 = e
     let bad := ∃ e ∈ ws, bitsOf e 62 48 ≠ 0 ∨ e % 8 ≠ 0
     let taken := ∃ e ∈ ws, bitOf e 63 = true ∧ ¬ listed e ∧ ∃ h ∈ s.holders, lockAddr h.1 = e % 2 ^ 48 ∧ mayPin h.2.mid = false
     Checked c w 0x9000 4 poff pd none s ∧
     (Admitted w 0x9000 4 poff pd none s →
       (bad → Refused c w 0x9000 4 0x06090030 false s) ∧
       (¬ bad → taken → Refused c w 0x9000 4 0x08000022 false s) ∧
       (¬ bad → ¬ taken → exec c s = .next (s.domWrite 0x9000 4 poff pd)))) ∧
    (let c := Instr.forcedRelease w v
     let d := leBytes 8 v.toNat
     Checked c w 0x9000 3 0 d none s ∧
     (Admitted w 0x9000 3 0 d none s →
       (bitsOf v.toNat 63 48 ≠ 0 → Refused c w 0x9000 3 0x06090030 false s) ∧
       (bitsOf v.toNat 63 48 = 0 →
         (heldAt s v.toNat = [] → exec c s = .next s) ∧
         (∀ k h, heldAt s v.toNat = [k] → Tab.find s.holders k = some h →
           (pinned s k = true → exec c s = .next (askRecord ⟨5, 0, 0, h.mid, leBytes 8 v.toNat, .forced k⟩ s)) ∧
           (pinned s k = false → ∃ u, exec c s = .next u ∧ u.dget 0x9000 5 = (s.dget 0x9000 5 + 1) % 2 ^ 64 ∧
             (firstWaiter s k = none → Tab.find u.holders k = none) ∧
             (∀ x, firstWaiter s k = some x → Tab.find u.holders k = some ⟨x.mid, x.prio, true⟩))))))

/-- 11 R307 to R311: mailboxes. The binding table is written while it is not locked; a write of a message register goes to staging and is
refused from the receiver; GO copies staging into the visible copy, sets the length, the full mark and the timer and advances SEQ, and
marks and counts a collision where a message was not taken; TAKE empties the box when its TSEQ is SEQ and else is counted as stale; the
sender clears TIMEOUT and COLLISION with ones; a timeout is marked and counted and leaves the message; a master that is not bound is
refused without effect on the box. -/
def Obligations.Mailboxes : Prop :=
  ∀ (w : Writer) (off : Nat) (data : List Byte) (m : BitVec 16) (mb : Fin 64) (reg : Fin 16) (v : BitVec 32) (s : State),
    (let c := Instr.mailboxBindingWrite w off data
     let bad := ∃ e ∈ words8 data, bitsOf e 63 33 ≠ 0 ∨
       ¬ (mboxParty (bitsOf e 15 0) = true ∧ mboxParty (bitsOf e 31 16) = true)
     Checked c w 0x9010 0 off data none s ∧
     (Admitted w 0x9010 0 off data none s →
       (s.dget 0x9011 1 = 1 → Refused c w 0x9010 0 0x08000022 false s) ∧
       (s.dget 0x9011 1 ≠ 1 → bad → Refused c w 0x9010 0 0x06090030 false s) ∧
       (s.dget 0x9011 1 ≠ 1 → ¬ bad → exec c s = .next (s.domWrite 0x9010 0 off data)))) ∧
    (let mid := m.toNat
     let b := mb.val
     let x := s.mbox b
     let addr := fun (o : Nat) => 0x005000000000 + (256 * b + o)
     let way := fun (o : Nat) => checkAccess mid (addr o) true s = .ok .mailbox
     let sends := mboxSend s b = some mid
     let takes := mboxRecv s b = some mid
     let bound := mid = 0x2000 ∨ sends ∨ takes
     let turned := fun (c : Instr) (o : Nat) (u : State) =>
       (threadOf mid = none → exec c s = .next (u.emit (.accessFault mid (addr o)))) ∧
       (∀ t, threadOf mid = some t → exec c s = .next (refuseStore (.thr t) (addr o) (u.thr (.thr t)).pc u))
     let len := bitsOf v.toNat 8 4
     let go := bitOf v.toNat 0
     let take := bitOf v.toNat 1
     let bad := (go = true ∧ take = true) ∨ (go = true ∧ ¬ sends) ∨ (take = true ∧ ¬ takes) ∨
       (go = true ∧ (len = 0 ∨ 16 < len))
     let idx := 0x9040 + b
     (way 0x40 → mid / 4096 ≠ 3 → ¬ bound → turned (.mailboxGo m mb v) 0x40 (accessEvent mid (addr 0x40) .refused s) ∧
       turned (.mailboxTake m mb v) 0x40 (accessEvent mid (addr 0x40) .refused s)) ∧
     (way (4 * reg.val) → bound →
       (takes → ¬ sends → turned (.mailboxMsgWrite m mb reg v) (4 * reg.val) s) ∧
       ((takes → sends) → exec (.mailboxMsgWrite m mb reg v) s =
         .next (updMbox b (fun y => { y with stage := Tab.set 0 y.stage reg.val v.toNat }) s))) ∧
     (way 0x40 → bound → bad → turned (.mailboxGo m mb v) 0x40 s ∧ turned (.mailboxTake m mb v) 0x40 s) ∧
     (way 0x40 → bound → ¬ bad → go = true → ∃ u, exec (.mailboxGo m mb v) s = .next u ∧
       u.mbox b = { x with vis := x.stage, len := len, seq := (x.seq + 1) % 2 ^ 16, full := true, timer := true,
                           collision := x.collision || x.full } ∧
       (∀ y, y ≠ b → u.mbox y = s.mbox y)) ∧
     (way 0x40 → bound → ¬ bad → take = true →
       (x.full = true → bitsOf v.toNat 31 16 = x.seq → exec (.mailboxTake m mb v) s =
         .next (updMbox b (fun y => { y with full := false, timer := false }) s)) ∧
       (¬ (x.full = true ∧ bitsOf v.toNat 31 16 = x.seq) → exec (.mailboxTake m mb v) s = .next (s.bump idx 5))) ∧
     (way 0x44 → bound →
       (sends → exec (.mailboxStatusClear m mb v) s = .next (updMbox b (fun y => { y with
         timeout := y.timeout && !bitOf v.toNat 2, collision := y.collision && !bitOf v.toNat 1 }) s)) ∧
       (¬ sends → exec (.mailboxStatusClear m mb v) s = .next s)) ∧
     ((x.full = true ∧ x.timer = true) → ∃ u, exec (.mailboxTimeout mb) s = .next u ∧
       u.mbox b = { x with timeout := true, timer := false } ∧ (∀ y, y ≠ b → u.mbox y = s.mbox y) ∧ u.mem = s.mem) ∧
     (¬ (x.full = true ∧ x.timer = true) → exec (.mailboxTimeout mb) s = .next s))

/-- 16 R424, R426, R434, R435: the dictionary window. A write is refused as the first failing check says and its principal's staged
generation is used up; an accepted write of a plain entry gives it its value and changes no other; a staged generation waits for its
master's value write; a TIME80 read takes a snapshot whose rest the next read returns; a bulk request runs at once and writes its
data before its status record, waits while Golne firmware is out of service, and is refused beyond its principal's limit. -/
def Obligations.DictionaryWindow : Prop :=
  ∀ (w : Writer) (idx : BitVec 16) (sub : BitVec 8) (gen : Option (BitVec 16)) (g : BitVec 16) (v : BitVec 8) (off : Nat) (data : List Byte)
    (desc host : List Byte) (s : State),
    let i := idx.toNat
    let j := sub.toNat
    let r := takeStaged w i j (gen.map BitVec.toNat) s
    (windowShut s w = true → exec (.dictionaryWrite w idx sub gen off data) s = .next (windowRefused w i j s)) ∧
    (windowShut s w = false → ∀ a n, checkWrite w i j off data r.2 r.1 = some (a, n) →
      exec (.dictionaryWrite w idx sub gen off data) s = .next (refuseWrite w i j a n (writerPc w r.1) r.1) ∨
      (a = 0x08000022 ∧ exec (.dictionaryWrite w idx sub gen off data) s =
        .next (refuseWrite w i j 0x06090030 false (writerPc w r.1) r.1))) ∧
    (windowShut s w = false → checkWrite w i j off data r.2 r.1 = none → (i ≠ 0x1E30 ∨ j ≠ 1) →
      (∀ u, dictEffect w i j off data r.1 = (u, none) → exec (.dictionaryWrite w idx sub gen off data) s = .next u) ∧
      (∀ u c, dictEffect w i j off data r.1 = (u, some c) → exec (.dictionaryWrite w idx sub gen off data) s =
        .next (refuseWrite w i j c false (writerPc w (refusalNote w i j data c u)) (refusalNote w i j data c u)))) ∧
    (gen = none → onWindow w = true → r = ({ s with staged := Tab.erase s.staged (stageKey w.mid i j) }, Tab.find s.staged (stageKey w.mid i j))) ∧
    (∀ x, gen = some x → r = (s, some x.toNat)) ∧
    (Passes w 0x9000 2 0 [v] s → ∃ u, exec (.dictionaryWrite w 0x9000 2 none 0 [v]) s = .next u ∧ u.dget 0x9000 2 = v.toNat ∧
      (∀ a b, b < 256 → (a ≠ 0x9000 ∨ b ≠ 2) → u.dget a b = s.dget a b) ∧ u.mem = s.mem ∧ u.threads = s.threads) ∧
    (windowShut s w = false →
      let c := Instr.generationStageWrite w idx sub g
      (∀ a n, checkAdmit w i j [] s = some (a, n) → Refused c w i j a n s) ∧
      (checkAdmit w i j [] s = none → (genEntry i j = none ∨ onWindow w = false) → Refused c w i j 0x06070010 false s) ∧
      (checkAdmit w i j [] s = none → genEntry i j ≠ none → onWindow w = true →
        exec c s = .next { s with staged := Tab.put s.staged (stageKey w.mid i j) g.toNat })) ∧
    (windowShut s w = false →
      let key := stageKey w.mid 0x4300 1
      let now := (time80 s s.time).take 10
      (onWindow w = true →
        exec (.time80SnapshotRead w 0x4300 1 false) s =
          .next ({ s with snaps := Tab.put s.snaps key now }.emit (.readData w.mid 0x003004300010 (now.take 8))) ∧
        (∀ l, Tab.find s.snaps key = some l → exec (.time80SnapshotRead w 0x4300 1 true) s =
          .next ({ s with snaps := Tab.erase s.snaps key }.emit (.readData w.mid 0x003004300018 (l.drop 8)))) ∧
        (Tab.find s.snaps key = none → exec (.time80SnapshotRead w 0x4300 1 true) s = .next (readRefused w 0x4300 1 0x06070010 s))) ∧
      (onWindow w = false → ∀ rest, exec (.time80SnapshotRead w 0x4300 1 rest) s = .next (readRefused w 0x4300 1 0x06070010 s))) ∧
    (let n := fun (o k : Nat) => leNat (slice (fit 32 desc) o k)
     let own := (s.bulk.filter (fun y => bulkOwner y.w == bulkOwner w)).length
     let cap := if 8 ≤ bulkOwner w ∧ bulkOwner w < 12 then 64 else 16
     let status := fun (c : Abort) (k : Nat) (u : State) =>
       leBytes 4 c.toNat ++ leBytes 4 k ++ leBytes 2 ((genOf u (n 0 2) (n 2 1)).getD 0) ++ [0, 0, 1, 0, 0, 0]
     let at_ := n 24 8
     let formed := n 6 1 ≤ 1 ∧ n 7 1 = 0 ∧ at_ % 16 = 0
     (windowShut s w = false → onWindow w = false →
       exec (.bulkRead w desc) s = .next (s.emit (.abort w.mid 0x1E30 1 0x06010000)) ∧
       exec (.bulkWrite w desc host) s = .next (s.emit (.abort w.mid 0x1E30 1 0x06010000))) ∧
     (onWindow w = true → Admitted w 0x1E30 1 0 (leBytes 8 0) none s →
       (s.golneDown = true → own < cap →
         exec (.bulkRead w desc) s = .next { s with bulk := s.bulk ++ [⟨w, fit 32 desc, []⟩] } ∧
         exec (.bulkWrite w desc host) s = .next { s with bulk := s.bulk ++ [⟨w, fit 32 desc, host⟩] }) ∧
       (s.golneDown = true → cap ≤ own → ∃ u, u = s.bump 0x1E30 2 ∧
         exec (.bulkRead w desc) s = .next (refuseWrite w 0x1E30 1 0x08000024 false (writerPc w s) u) ∧
         exec (.bulkWrite w desc host) s = .next (refuseWrite w 0x1E30 1 0x08000024 false (writerPc w s) u)) ∧
       (s.golneDown = false → ∀ pf, w = .bar2 pf →
         (¬ (formed ∧ (n 3 1 = 1 ∨ n 3 1 = 2)) → exec (.bulkRead w desc) s =
           .next (s.emit (.hostWrite (0x1000 + pf.val) (at_ / 16 * 16) (status 0x06090030 0 s)))) ∧
         (formed → n 3 1 = 1 →
           (∀ u l, dictRead w (n 0 2) (n 2 1) (n 8 4) (n 12 4) s = (u, .ok l) → exec (.bulkRead w desc) s =
             .next ((u.emit (.hostWrite (0x1000 + pf.val) (n 16 8) l)).emit
               (.hostWrite (0x1000 + pf.val) at_ (status 0 l.length (u.emit (.hostWrite (0x1000 + pf.val) (n 16 8) l)))))) ∧
           (∀ u c, dictRead w (n 0 2) (n 2 1) (n 8 4) (n 12 4) s = (u, .error c) → exec (.bulkRead w desc) s =
             .next (u.emit (.hostWrite (0x1000 + pf.val) at_ (status c 0 u))))) ∧
         (formed → n 3 1 = 2 → n 12 4 ≠ 0 →
           ∀ u c, pathWrite w (n 0 2) (n 2 1) (n 8 4) (host.take (n 12 4)) (if n 6 1 = 1 then some (n 4 2) else none) s = (u, c) →
             exec (.bulkWrite w desc host) s = .next (u.emit (.hostWrite (0x1000 + pf.val) at_
               (status c (if c = 0 then (host.take (n 12 4)).length else 0) u)))))))

/-- 16 R425, R428 to R431, R436: SDO over CAN FD and the CAN controller. An expedited download is applied and answered at once, a segmented
one collects its segments under an alternating toggle and is applied at its last; an upload answers an entry of at most 4 bytes at once
and any other in segments; a frame of another length, a wrong toggle, a segment with no transfer open and a timeout are aborted with
their codes and counted; the client's abort ends the transfer; NMT commands are only counted; the heartbeat is one byte; the write
grant counts down to 0. Unserved requests are lost. -/
def Obligations.SdoOverCan : Prop :=
  ∀ (f : List Byte) (big on : Bool) (cob : BitVec 11) (s : State),
    let node := s.dget 0x1E10 1
    let cs := leNat (slice f 0 1)
    let idx := leNat (slice f 1 2)
    let sub := leNat (slice f 3 1)
    let n := bitsOf cs 3 2
    let t := bitOf cs 4
    let zeroFrom := fun (k : Nat) => ∀ b ∈ f.drop k, b = (0 : Byte)
    let s0 := sdoEnd s
    let reply := fun (l : List Byte) (u : State) => u.emit (.can (0x580 + node) (fit (if big then 64 else 8) l))
    let frames := [Instr.sdoInitiateDownload f, .sdoDownloadSegment f, .sdoInitiateUpload f, .sdoUploadSegment f, .sdoAbort f]
    (canServed s = false → ∀ c ∈ frames, exec c s = .next s) ∧
    (canServed s = true → f.length ≠ 8 → f.length ≠ 64 → s.sdo = none → ∀ c ∈ frames,
      exec c s = .next (sdoAbort false 0 0 0x05040001 (s.bump 0x1E10 8))) ∧
    (∀ (x : Sdo) (c : Abort) (i j : Nat), ∃ u, u = sdoAbort big i j c { s with sdo := some x } ∧ u.sdo = none ∧ u.mem = s.mem ∧
      u.dget 0x1E10 7 = (s.dget 0x1E10 7 + 1) % 2 ^ 64 ∧
      Output.can (0x580 + node) (fit (if big then 64 else 8) (leBytes 1 0x80 ++ leBytes 2 i ++ leBytes 1 j ++ leBytes 4 c.toNat)) ∈ u.out) ∧
    (canServed s = true → f.length = (if big then 64 else 8) →
      (cs / 32 = 1 → t = false → bitOf cs 1 = true → zeroFrom (8 - n) →
        (∀ u, sdoApply idx sub (slice f 4 (4 - n)) s0 = (u, 0) →
          ∃ v, exec (.sdoInitiateDownload f) s = .next (reply (leBytes 1 0x60 ++ leBytes 2 idx ++ leBytes 1 sub) v) ∧
            v.dget 0x1E10 6 = (u.dget 0x1E10 6 + 1) % 2 ^ 64 ∧ v.mem = u.mem ∧ v.sdo = none) ∧
        (∀ u c, sdoApply idx sub (slice f 4 (4 - n)) s0 = (u, c) → c ≠ 0 →
          exec (.sdoInitiateDownload f) s = .next (sdoReset idx sub (sdoAbort big idx sub c u)))) ∧
      (cs = 0x21 → zeroFrom 8 → exec (.sdoInitiateDownload f) s = .next (reply (leBytes 1 0x60 ++ leBytes 2 idx ++ leBytes 1 sub)
        { s0 with sdo := some ⟨true, idx, sub, big, leNat (slice f 4 4), [], false⟩ })) ∧
      (s.sdo = none → (cs / 32 = 0 → exec (.sdoDownloadSegment f) s = .next (sdoAbort big 0 0 0x05040001 s)) ∧
        (cs / 32 = 3 → exec (.sdoUploadSegment f) s = .next (sdoAbort big 0 0 0x05040001 s))) ∧
      (∀ x, s.sdo = some x → x.big = big →
        (cs / 32 = 0 → x.down = true →
          (t ≠ x.toggle → exec (.sdoDownloadSegment f) s = .next (sdoAbort big x.idx x.sub 0x05030000 s)) ∧
          (t = x.toggle →
            let last := bitOf cs 0
            let m := bitsOf cs 3 1
            let k := if big then (if last then x.size - x.data.length else 63) else 7 - m
            let all := x.data ++ slice f 1 k
            (big = true → m = 0) → k ≤ (if big then 63 else 7) → zeroFrom (1 + k) →
            (last = false → all.length ≤ x.size → exec (.sdoDownloadSegment f) s =
              .next (reply (leBytes 1 (0x20 + 16 * b2n t)) { s with sdo := some { x with data := all, toggle := !x.toggle } })) ∧
            ((x.size < all.length ∨ (last = true ∧ all.length ≠ x.size)) →
              exec (.sdoDownloadSegment f) s = .next (sdoAbort big x.idx x.sub 0x06070010 s)) ∧
            (last = true → all.length = x.size →
              (∀ u, sdoApply x.idx x.sub all s = (u, 0) → exec (.sdoDownloadSegment f) s =
                .next (sdoEnd (reply (leBytes 1 (0x20 + 16 * b2n t)) (u.bump 0x1E10 6)))) ∧
              (∀ u c, sdoApply x.idx x.sub all s = (u, c) → c ≠ 0 → exec (.sdoDownloadSegment f) s =
                .next (sdoAbort big x.idx x.sub c u))))) ∧
        (cs / 32 = 3 → x.down = false → cs % 16 = 0 → zeroFrom 1 →
          (t ≠ x.toggle → exec (.sdoUploadSegment f) s = .next (sdoAbort big x.idx x.sub 0x05030000 s)) ∧
          (t = x.toggle →
            let room := if big then 63 else 7
            let seg := x.data.take room
            let rest := x.data.drop room
            let l := leBytes 1 (16 * b2n t + (if big then 0 else 2 * (7 - seg.length)) + b2n rest.isEmpty) ++ seg
            (rest = [] → exec (.sdoUploadSegment f) s = .next (sdoEnd (reply l (s.bump 0x1E10 6)))) ∧
            (rest ≠ [] → exec (.sdoUploadSegment f) s =
              .next (reply l { s with sdo := some { x with data := rest, toggle := !x.toggle } }))))) ∧
      (cs = 0x40 → zeroFrom 4 → isDom idx sub = false →
        (∀ u c, dictRead .can idx sub 0 0 s0 = (u, .error c) →
          exec (.sdoInitiateUpload f) s = .next (sdoReset idx sub (sdoAbort big idx sub c u))) ∧
        (∀ u l e, dictRead .can idx sub 0 0 s0 = (u, .ok l) → (entrySpec idx sub).map EntrySpec.ty = some (.scal e) →
          (e.size ≤ 4 → exec (.sdoInitiateUpload f) s =
            .next (reply (leBytes 1 (0x43 + 4 * (4 - l.length)) ++ leBytes 2 idx ++ leBytes 1 sub ++ l) (u.bump 0x1E10 6))) ∧
          (4 < e.size → exec (.sdoInitiateUpload f) s =
            .next (reply (leBytes 1 0x41 ++ leBytes 2 idx ++ leBytes 1 sub ++ leBytes 4 l.length)
              { u with sdo := some ⟨false, idx, sub, big, l.length, l, false⟩ })))) ∧
      ((4 < cs / 32 ∨ (cs / 32 = 4 ∧ cs ≠ 0x80)) → ∀ c ∈ frames, exec c s = .next (sdoAbort big idx sub 0x05040001 s)) ∧
      (cs / 32 = 1 → t = false → ((bitOf cs 1 = true ∧ ¬ zeroFrom (8 - n)) ∨ (cs = 0x21 ∧ ¬ zeroFrom 8)) →
        exec (.sdoInitiateDownload f) s = .next (sdoAbort big idx sub 0x05040001 s0)) ∧
      (cs / 32 = 2 → ¬ (cs = 0x40 ∧ zeroFrom 4) → exec (.sdoInitiateUpload f) s = .next (sdoAbort big idx sub 0x05040001 s0)) ∧
      (∀ x, s.sdo = some x → x.big = big → x.down = false → cs / 32 = 3 → ¬ zeroFrom 1 →
        exec (.sdoUploadSegment f) s = .next (sdoAbort big x.idx x.sub 0x05040001 s)) ∧
      (∀ x, s.sdo = some x → big = false → x.big = false → x.down = true → cs / 32 = 0 → t = x.toggle → ¬ zeroFrom (8 - bitsOf cs 3 1) →
        exec (.sdoDownloadSegment f) s = .next (sdoAbort big x.idx x.sub 0x05040001 s)) ∧
      (cs = 0x80 → exec (.sdoAbort f) s = .next s0)) ∧
    (s.sdo = none → exec .sdoSegmentTimeout s = .next s) ∧
    (∀ x, s.sdo = some x → canServed s = true → exec .sdoSegmentTimeout s = .next (sdoAbort x.big x.idx x.sub 0x05040000 s)) ∧
    (let down := s.frozen.contains 11
     (down = true → exec (.nmtCommand cob f) s = .next s) ∧
     (down = false → cob = 0 → exec (.nmtCommand cob f) s = .next (s.bump 0x1E10 8)) ∧
     (down = false → cob ≠ 0 → cob.toNat ≠ 0x600 + node → exec (.nmtCommand cob f) s = .next s) ∧
     ((s.dget 0x1017 0 = 0 ∨ down = true) → exec .canHeartbeat s = .next s) ∧
     (s.dget 0x1017 0 ≠ 0 → down = false → exec .canHeartbeat s = .next (s.emit (.can (0x700 + node) [5])))) ∧
    (∃ u, exec .canGrantTick s = .next u ∧ u.dget 0x1E00 3 = s.dget 0x1E00 3 - 1 ∧
      (∀ a b, b < 256 → (a ≠ 0x1E00 ∨ b ≠ 3) → u.dget a b = s.dget a b) ∧ u.mem = s.mem) ∧
    exec (.canErrorPassiveOrBusOff on) s = .next { s with canErr := on }

/-- 16 R432; 16, "MCTP over SMBus and PCIe VDM": the MCTP endpoints. A served control request is answered by its type, command and completion
code, and Set Endpoint ID gives the binding its EID; a dictionary message is counted and answered with the abort code of the read or
write that it asks for; a write with MORE is kept until its last part, and a part that does not continue it loses it. Requests of an
endpoint that is not served are lost. The layout of the control responses is the model's choice (PRESUMED, assumption 24). -/
def Obligations.MctpEndpoints : Prop :=
  ∀ (ep : MctpEndpoint) (eid : BitVec 8) (w : Writer) (msg : List Byte) (s : State),
    let reply := fun (cmd cc : Nat) (l : List Byte) (u : State) => u.emit (.mctp ep ([(0 : Byte)] ++ leBytes 1 cmd ++ leBytes 1 cc ++ l))
    (mctpServed s ep = false →
      ∀ c ∈ [Instr.mctpSetEndpointId ep eid, .mctpGetEndpointId ep, .mctpGetEndpointUuid ep, .mctpGetVersionSupport ep,
        .mctpGetMessageTypeSupport ep, .mctpGetVdmSupport ep], exec c s = .next s) ∧
    (mctpServed s ep = true →
      ((eid = 0 ∨ eid = 0xFF) → exec (.mctpSetEndpointId ep eid) s = .next (reply 1 2 [] s)) ∧
      (eid ≠ 0 → eid ≠ 0xFF → exec (.mctpSetEndpointId ep eid) s =
        .next (reply 1 0 [0, eid, 0] { s with eids := Tab.set 0 s.eids (binding ep) eid.toNat })) ∧
      exec (.mctpGetEndpointId ep) s = .next (reply 2 0 (leBytes 1 (Tab.get 0 s.eids (binding ep)) ++ [0, 0]) s) ∧
      exec (.mctpGetEndpointUuid ep) s = .next (reply 3 0 (fit 16 Config.uuid) s) ∧
      exec (.mctpGetVersionSupport ep) s = .next (reply 4 0 (leBytes 1 (Config.mctpVersions.length / 4) ++ Config.mctpVersions) s) ∧
      exec (.mctpGetMessageTypeSupport ep) s = .next (reply 5 0 [4, 0x00, 0x05, 0x06, 0x7E] s) ∧
      exec (.mctpGetVdmSupport ep) s = .next (reply 6 0 ([0xFF, 0] ++ (leBytes 2 (Config.vendorId.toNat % 2 ^ 16)).reverse ++ [0, 0]) s)) ∧
    (let rd := Instr.mctpDictRead w msg
     let wr := Instr.mctpDictWrite w msg
     (mctpEnd w = none → exec rd s = .next s ∧ exec wr s = .next s) ∧
     (∀ e sess, mctpEnd w = some (e, sess) →
       let lost := mctpServed s e = false ∨ ∃ sid, sess = some sid ∧ sessionOpen s sid e = false
       let n := fun (o k : Nat) => leNat (slice msg o k)
       let data := msg.drop 16
       let idx := n 2 2
       let sub := n 4 1
       let off := n 8 4
       let len := n 12 2
       let gen := if bitOf (n 5 1) 0 then some (n 6 2) else none
       let more := bitOf (n 5 1) 1 = true
       let a := s.accums.find? (fun x => x.ep == e)
       let s1 := { s.bump 0x1E20 2 with accums := s.accums.filter (fun x => x.ep != e) }
       let ans := fun (c : Abort) (l : List Byte) (u : State) => u.emit (.mctp e (leBytes 1 (n 0 1 % 128 + 128) ++ leBytes 1 (n 1 1) ++
         leBytes 4 c.toNat ++ leBytes 2 ((unitGen u idx sub).getD 0) ++ leBytes 2 l.length ++ l))
       let formed := 16 ≤ msg.length ∧ n 5 1 < 4 ∧ n 14 2 = 0 ∧ len ≤ 1024
       let reads := formed ∧ n 0 1 = 1 ∧ ¬ more ∧ data = []
       let writes := formed ∧ n 0 1 = 2 ∧ 1 ≤ len
       (lost → exec rd s = .next s ∧ exec wr s = .next s) ∧
       (¬ lost → a = none →
         (¬ reads → ¬ writes → exec rd s = .next (ans 0x06090030 [] s1) ∧ exec wr s = .next (ans 0x06090030 [] s1)) ∧
         (reads → len ≠ 0 →
           (∀ u l, dictRead w idx sub off len s1 = (u, .ok l) → exec rd s = .next (ans 0 (l.take 1024) u)) ∧
           (∀ u c, dictRead w idx sub off len s1 = (u, .error c) → exec rd s = .next (ans c [] u))) ∧
         (writes → data.length = len →
           (¬ more → ∀ u c, pathWrite w idx sub off data gen s1 = (u, c) → exec wr s = .next (ans c [] u)) ∧
           (more → exec wr s = .next (ans 0 [] { s1 with accums := s1.accums ++ [⟨e, idx, sub, off, data⟩] })))) ∧
       (¬ lost → ∀ x, a = some x →
         (reads → exec rd s = .next (ans 0x08000000 [] s1)) ∧
         (writes → (x.idx ≠ idx ∨ x.sub ≠ sub ∨ x.off + x.data.length ≠ off ∨ data.length ≠ len) →
           exec wr s = .next (ans 0x08000000 [] s1)) ∧
         (writes → x.idx = idx → x.sub = sub → x.off + x.data.length = off → data.length = len →
           (16777216 < x.data.length + len → exec wr s = .next (ans 0x06090030 [] s1)) ∧
           (x.data.length + len ≤ 16777216 → more →
             exec wr s = .next (ans 0 [] { s1 with accums := s1.accums ++ [{ x with data := x.data ++ data }] })) ∧
           (x.data.length + len ≤ 16777216 → ¬ more → ∀ u c, pathWrite w idx sub x.off (x.data ++ data) gen s1 = (u, c) →
             exec wr s = .next (ans c [] u))))))

/-- 16 R433; 17 R460, R461: SPDM. A served endpoint answers the version 1.2, its capabilities and algorithms, the digest and bytes of the
slot 0 chain, a challenge's signature by the alias key, and the measurement blocks 1 to 10 singly, counted or all; a key exchange opens a
session with its requester's role unless four are open; a session serves once it is finished, and ends by its end or its heartbeat's
expiry. The codes and encodings of the responses are the model's choice (PRESUMED, assumption 24). -/
def Obligations.SpdmSessions : Prop :=
  ∀ (ep : MctpEndpoint) (off len sid : Nat) (nonce : List Byte) (block : BitVec 8) (root : Option (Fin 4)) (s : State),
    let reply := fun (code : Nat) (l : List Byte) (u : State) => u.emit (.spdm ep code l)
    let err := reply 0x7F [] s
    (mctpServed s ep = false →
      ∀ c ∈ [Instr.spdmGetVersion ep, .spdmGetCapabilities ep, .spdmNegotiateAlgorithms ep, .spdmGetDigests ep,
        .spdmGetCertificate ep off len, .spdmChallenge ep nonce, .spdmGetMeasurements ep block, .spdmKeyExchange ep root,
        .spdmFinish ep sid, .spdmKeyUpdate ep sid, .spdmHeartbeat ep sid, .spdmEndSession ep sid], exec c s = .next s) ∧
    (mctpServed s ep = true →
      exec (.spdmGetVersion ep) s = .next (reply 0x04 [0x12] s) ∧
      exec (.spdmGetCapabilities ep) s = .next (reply 0x61 Config.spdmCapabilities s) ∧
      exec (.spdmNegotiateAlgorithms ep) s = .next (reply 0x63 Config.spdmAlgorithms s) ∧
      exec (.spdmGetDigests ep) s = .next (reply 0x01 (hash48 (s.domRead 0x2120 1 0 16384)) s) ∧
      exec (.spdmGetCertificate ep off len) s = .next (reply 0x02 (s.domRead 0x2120 1 off (min len (16777216 - off))) s) ∧
      exec (.spdmChallenge ep nonce) s = .next (reply 0x03 (fit 96 (Config.sign 0 (aliasPub s ++ nonce))) s) ∧
      exec (.spdmGetMeasurements ep 0) s = .next (reply 0x60 [10] s) ∧
      (∀ l, block ≠ 0 → block ≠ 0xFF → measBlock s block.toNat = some l → exec (.spdmGetMeasurements ep block) s = .next (reply 0x60 ([block] ++ l) s)) ∧
      (10 < block.toNat → block ≠ 0xFF → exec (.spdmGetMeasurements ep block) s = .next err) ∧
      (∃ l, exec (.spdmGetMeasurements ep 0xFF) s = .next (reply 0x60 l s)) ∧
      (∀ b, 1 ≤ b → b ≤ 10 → (measBlock s b).isSome = true) ∧
      (4 ≤ s.sessions.length → exec (.spdmKeyExchange ep root) s = .next (reply 0x7F [] (s.bump 0x1E20 4))) ∧
      (s.sessions.length < 4 →
        let all := ∀ i : Fin 4, rootValid s i = false
        (¬ all → (root = none ∨ ∃ i, root = some i ∧ rootValid s i.val = false) → exec (.spdmKeyExchange ep root) s = .next err) ∧
        (all → ∃ id u, exec (.spdmKeyExchange ep root) s = .next (reply 0x64 (leBytes 4 id) u) ∧
          u.sessions = s.sessions ++ [⟨id, ep, true, false⟩] ∧ (∀ x ∈ s.sessions, x.id ≠ id) ∧ u.dget 0x1E20 3 = s.sessions.length + 1) ∧
        (∀ i, root = some i → rootValid s i.val = true → ∃ id u, exec (.spdmKeyExchange ep root) s = .next (reply 0x64 (leBytes 4 id) u) ∧
          u.sessions = s.sessions ++ [⟨id, ep, s.domByte 0x2120 3 (128 * i.val + 1) == 0, false⟩] ∧ (∀ x ∈ s.sessions, x.id ≠ id))) ∧
      (∀ x, ownSession s ep sid = some x →
        (x.finished = true → exec (.spdmFinish ep sid) s = .next err) ∧
        (x.finished = false → exec (.spdmFinish ep sid) s = .next (reply 0x65 [] { s with
          sessions := s.sessions.map (fun y => if y.id == sid then { y with finished := true } else y) }))) ∧
      (ownSession s ep sid = none → exec (.spdmFinish ep sid) s = .next err) ∧
      (sessionOpen s sid ep = true →
        exec (.spdmKeyUpdate ep sid) s = .next (reply 0x69 [] s) ∧ exec (.spdmHeartbeat ep sid) s = .next (reply 0x68 [] s) ∧
        exec (.spdmEndSession ep sid) s = .next (endSessions (fun x => x.id == sid) (reply 0x6C [] s))) ∧
      (sessionOpen s sid ep = false → ∀ c ∈ [Instr.spdmKeyUpdate ep sid, .spdmHeartbeat ep sid, .spdmEndSession ep sid], exec c s = .next err)) ∧
    (∃ u, exec (.spdmHeartbeatTimeout sid) s = .next u ∧ u.sessions = s.sessions.filter (fun x => !(x.id == sid)) ∧ u.mem = s.mem ∧
      u.dget 0x1E20 3 = u.sessions.length)

/-- 19 R511, R512: the debugger's port and JTAG. An access of 0x8010.02 reads or writes 8 bytes at the debug address, or is refused; the TAP's
reset selects IDCODE and touches nothing else; IDCODE shifts 0x2320_0A5B; EXTEST and SAMPLE take levels into the cells, EXTEST alone drives
them; PERMIT presents its permit; DICT and MEM shift out the last access's result and start the next, refused while debug is locked;
any other code is BYPASS, as are 0x10 to 0x12 while DBG_EN_N is high; a port without its clock does nothing. -/
def Obligations.DebugPorts : Prop :=
  ∀ (w : Writer) (v : BitVec 64) (pins : List Bool) (permit : List Byte) (dr : BitVec 96) (dm : BitVec 113) (code : BitVec 8) (s : State),
    (let rd := Instr.debugMemoryAccess w none
     let wr := Instr.debugMemoryAccess w (some v)
     let d := leBytes 8 v.toNat
     windowShut s w = false →
      (∀ u l, dictRead w 0x8010 2 0 0 s = (u, .ok l) → exec rd s = .next (u.emit (.readData w.mid 0x003008010020 l))) ∧
      (∀ u c, dictRead w 0x8010 2 0 0 s = (u, .error c) → exec rd s = .next (readRefused w 0x8010 2 c u)) ∧
      Checked wr w 0x8010 2 0 d none s ∧
      (checkWrite w 0x8010 2 0 d none s = none →
        let a := s.dget 0x8010 1
        ((a % 8 ≠ 0 ∨ 2 ^ 48 ≤ a) → Refused wr w 0x8010 2 0x06090030 false s) ∧
        (a % 8 = 0 → a < 2 ^ 48 →
          (∀ r, checkAccess (debugMid w) a true s = .ok r → exec wr s =
            .next (codeWritten a 8 (storeHome (memKey (debugMid w) a s) d (keepHint s (debugMid w) a) s))) ∧
          ((∀ r, checkAccess (debugMid w) a true s ≠ .ok r) → ∃ u, u = accessEvent (debugMid w) a (checkAccess (debugMid w) a true s) s ∧
            exec wr s = .next (refuseWrite w 0x8010 2 0x08000020 false (writerPc w u) u))))) ∧
    exec .tapReset s = .next { s with tapIr := 1, tapDrive := false } ∧
    (let as_ := fun (n : Nat) => { s with tapIr := n, tapDrive := n == 0 }
     let bypass := fun (n : Nat) => (as_ n).emit (.jtag 0 1)
     let cmds := [Instr.jtagExtest pins, .jtagIdcode, .jtagSamplePreload pins, .jtagPermit permit, .jtagDict dr, .jtagMem dm, .jtagBypass code]
     (tapAlive s = false → ∀ c ∈ cmds, exec c s = .next s) ∧
     (tapAlive s = true →
       (∃ u n, exec (.jtagExtest pins) s = .next u ∧ u = { s with tapIr := 0, tapDrive := true, tapPins := pins, fresh := s.fresh + 1, out := u.out } ∧
         Output.jtag n pins.length ∈ u.out ∧ n < 2 ^ pins.length) ∧
       exec .jtagIdcode s = .next ((as_ 1).emit (.jtag 0x23200A5B 32)) ∧
       (∃ u n, exec (.jtagSamplePreload pins) s = .next u ∧ u = { s with tapIr := 2, tapDrive := false, tapPins := pins, fresh := s.fresh + 1, out := u.out } ∧
         Output.jtag n pins.length ∈ u.out ∧ n < 2 ^ pins.length) ∧
       (s.dbgEnHigh = true → exec (.jtagPermit permit) s = .next (bypass 0x10) ∧ exec (.jtagDict dr) s = .next (bypass 0x11) ∧
         exec (.jtagMem dm) s = .next (bypass 0x12)) ∧
       (s.dbgEnHigh = false →
         exec (.jtagPermit permit) s = .next (presentPermit 0x3000 (fit 256 permit) (as_ 0x10)) ∧
         (let x := (as_ 0x11).emit (.jtag s.tapDict 96)
          let name := bitsOf dr.toNat 95 72 * 2 ^ 72
          ((unlocked s = false ∨ bitsOf dr.toNat 70 64 ≠ 0) → exec (.jtagDict dr) s = .next { x with tapDict := 0x7F * 2 ^ 64 + 2 ^ 71 + name }) ∧
          (unlocked s = true → bitsOf dr.toNat 70 64 = 0 → bitOf dr.toNat 71 = false →
            (∀ u l, dictRead (.debugger false) (bitsOf dr.toNat 95 80) (bitsOf dr.toNat 79 72) 0 0 x = (u, .ok l) → l.length ≤ 8 →
              exec (.jtagDict dr) s = .next { u with tapDict := leNat l + 2 ^ 71 + name }) ∧
            (∀ u c, dictRead (.debugger false) (bitsOf dr.toNat 95 80) (bitsOf dr.toNat 79 72) 0 0 x = (u, .error c) →
              exec (.jtagDict dr) s = .next { u with tapDict := 0x7F * 2 ^ 64 + 2 ^ 71 + name }))) ∧
         (unlocked s = false → exec (.jtagMem dm) s =
           .next { (as_ 0x12).emit (.jtag s.tapMem 113) with tapMem := 0x7F * 2 ^ 64 + 2 ^ 71 }) ∧
         (∀ u y l, unlocked s = true → bitOf dm.toNat 112 = false →
           pathWrite (.debugger false) 0x8010 1 0 (leBytes 8 (bitsOf dm.toNat 111 64)) none ((as_ 0x12).emit (.jtag s.tapMem 113)) = (u, 0) →
           unlocked u = true → dictRead (.debugger false) 0x8010 2 0 0 u = (y, .ok l) → l.length ≤ 8 →
           exec (.jtagMem dm) s = .next { y with tapMem := leNat l + 2 ^ 71 })) ∧
       (code = 1 → exec (.jtagBypass code) s = .next ((as_ 1).emit (.jtag 0x23200A5B 32))) ∧
       (code ≠ 0 → code ≠ 1 → code ≠ 2 → (code.toNat < 0x10 ∨ 0x12 < code.toNat) → exec (.jtagBypass code) s = .next (bypass code.toNat)) ∧
       ((code = 0 ∨ code = 2) → exec (.jtagBypass code) s = .next (as_ code.toNat)) ∧
       (0x10 ≤ code.toNat → code.toNat ≤ 0x12 → exec (.jtagBypass code) s = .next (if s.dbgEnHigh then bypass code.toNat else as_ code.toNat))))

/-- 20 R516 to R519, R521, R524 to R527, R529 to R533: power, protection and hot plug. VIN brings standby power and a start; a lockout turns
every rail off; a protection marks its count and its event, and that of an unclean power-down, for the next start and powers the module
down; VIN below 9.0 V forces its cause and raises 0x170 until it has been restored; power above the cap lowers every rail's limit by
one index, and at pace 50 parks one cluster more, and all returns when the power has stayed below; a failed phase triggers a swap; a
junction above its threshold lowers the heat limit; PWRGD rises only with HP_EN and no locked rail; a removal that was not planned is
marked; a cage's module, fault and restore show in its word. -/
def Obligations.PowerAndHotPlug : Prop :=
  ∀ (w : Writer) (mv ma hi : BitVec 32) (watts : BitVec 16) (phase : Fin 14) (cage : Fin 4) (mw v : BitVec 8) (s : State),
    let hp := s.dget 0x2065 1
    let down := fun (x : State) => deviceReset 1 (x.dset 0x2065 1 (withBit (x.dget 0x2065 1) 4 false))
    let unclean := fun (x : State) => { x.bump 0x2061 4 with nextRaise := x.nextRaise ++ [(0x177, x.dget 0x2000 7 % 8)] }
    let trips := fun (i j src : Nat) => down (unclean { s.bump i j with
      nextRaise := s.nextRaise ++ [(src, (s.bump i j).anySyn)], fresh := s.fresh + 1 })
    let off := fun (x : State) => { (down x).dset 0x2100 3 (x.dget 0x2100 3) with power := 0 }
    (s.power = 0 →
      exec .vinApply s = .next (deviceReset 1 { s with power := 1 }) ∧
      ∀ c ∈ [Instr.standbyGood, .overvoltageCutoff, .inputLimitTrip, .railFault, .thermalShutdown], exec c s = .next s) ∧
    (s.power ≠ 0 → exec .vinApply s = .next s ∧
      exec .overvoltageCutoff s = .next { down s with railLock := true } ∧
      exec .inputLimitTrip s = .next (trips 0x2061 3 0x172) ∧
      exec .railFault s = .next { trips 0x2061 5 0x179 with railLock := true } ∧
      exec .thermalShutdown s = .next (trips 0x2062 4 0x174)) ∧
    (s.power = 1 → exec .standbyGood s = .next { s with power := 2 }) ∧
    (s.power = 2 → exec .standbyGood s = .next s) ∧
    exec .undervoltageLockout s = .next (off s) ∧
    (let x := s.dset 0x2061 1 mv.toNat
     ((mv.toNat < 9000 ∧ causeOn s 0 = false) → exec (.vinMeasurement mv) s = .next (raiseAny 0x170 none (setCause 0 true x))) ∧
     ((9000 ≤ mv.toNat ∨ causeOn s 0 = true) → exec (.vinMeasurement mv) s = .next x)) ∧
    (causeOn s 0 = true → 9300 ≤ s.dget 0x2061 1 → exec .vinRestoreExpiry s = .next (setCause 0 false s)) ∧
    ((causeOn s 0 = false ∨ s.dget 0x2061 1 < 9300) → exec .vinRestoreExpiry s = .next s) ∧
    (let x := (s.dset 0x2060 4 watts.toNat).dset 0x2061 2 ma.toNat
     let cap := if causeOn s 0 then min 160 (s.dget 0x2060 2) else s.dget 0x2060 2
     let low := ∀ r, r < 5 → railTarget s r ≤ 0x0320
     (watts.toNat ≤ cap → exec (.inputPowerMeasurement watts ma) s = .next x) ∧
     (cap < watts.toNat → ¬ low → ∃ u, exec (.inputPowerMeasurement watts ma) s = .next u ∧
       (∀ r, r < 5 → Tab.get 0x0640 u.capLimit r = max 0x0320 (railTarget s r - 16)) ∧ u = { x with capLimit := u.capLimit }) ∧
     (cap < watts.toNat → low →
       let may := fun (e : Petal × Cluster) => (6 * e.1.val + e.2.val) ∉ s.capParked ∧ passedOver s e.1 e.2 = false
       ((∀ e ∈ capOrder, ¬ may e) → exec (.inputPowerMeasurement watts ma) s = .next x) ∧
       (∀ e, capOrder.find? (fun y => !s.capParked.contains (6 * y.1.val + y.2.val) && !passedOver s y.1 y.2) = some e →
         ∃ u, exec (.inputPowerMeasurement watts ma) s = .next u ∧ u.capParked = s.capParked ++ [6 * e.1.val + e.2.val] ∧
           3 ∈ (u.clus e.1 e.2).hold ∧ u.mem = s.mem))) ∧
    (95 * effCap s < 100 * s.dget 0x2060 4 → exec .powerCapRestoreExpiry s = .next s) ∧
    (100 * s.dget 0x2060 4 ≤ 95 * effCap s → s.capParked = [] →
      exec .powerCapRestoreExpiry s = .next (showModes byHardware { s with capParked := [], capLimit := [] })) ∧
    (100 * s.dget 0x2060 4 ≤ 95 * effCap s →
      ∃ u, exec .powerCapRestoreExpiry s = .next u ∧ u.capParked = [] ∧ u.capLimit = []) ∧
    (let x := raise 0x175 phase.val none (s.bump 0x2063 1)
     let l := s.domNat 0x2063 0 (8 * phase.val) 1
     (l < 12 → exec (.phaseFault phase) s = .next (trigger (6 * 2 ^ 28 + l) 5 x)) ∧ (12 ≤ l → exec (.phaseFault phase) s = .next x)) ∧
    (let thr : Int := s.dget 0x2062 2 * 1000
     let hot := thr < hi.toInt ∨ ∃ g : Fin 4, (s.dram g).hot ≠ 0
     let c := Instr.junctionSensorRead hi
     ∃ u, exec c s = .next u ∧ u.mem = s.mem ∧
       (hot → u.heatLimit = max 0x0320 (s.heatLimit - 16)) ∧
       (¬ hot → hi.toInt < thr - 3000 → u.heatLimit = min 0x0640 (s.heatLimit + 16)) ∧
       (¬ hot → thr - 3000 ≤ hi.toInt → u.heatLimit = s.heatLimit)) ∧
    exec .hpEnAssert s = .next (s.dset 0x2065 1 (hp ||| 0b1101)) ∧
    (bitOf hp 0 = true → s.power = 2 → s.railLock = false → exec .railsGood s = .next (s.dset 0x2065 1 (withBit hp 4 true))) ∧
    ((bitOf hp 0 = false ∨ s.power ≠ 2 ∨ s.railLock = true) → exec .railsGood s = .next s) ∧
    (let x := s.dset 0x2065 1 (withBit hp 0 false)
     (bitOf hp 0 = false → exec .hpEnDeassert s = .next s) ∧
     (bitOf hp 0 = true → s.dget 0x2000 7 = 2 → exec .hpEnDeassert s = .next { down x with railLock := false }) ∧
     (bitOf hp 0 = true → s.dget 0x2000 7 ≠ 2 → exec .hpEnDeassert s = .next { down (unclean x) with railLock := false })) ∧
    exec .attnAssert s = .next (setCause 4 true (s.dset 0x2065 1 (withBit hp 1 true))) ∧
    exec .attnDeassert s = .next (setCause 4 false (s.dset 0x2065 1 (withBit hp 1 false))) ∧
    ((s.power = 0 ∨ s.dget 0x2000 7 = 2) → exec .surpriseRemoval s = .next { off (s.dset 0x2065 1 0) with railLock := false }) ∧
    (s.power ≠ 0 → s.dget 0x2000 7 ≠ 2 → exec .surpriseRemoval s = .next { off ((unclean s).dset 0x2065 1 0) with railLock := false }) ∧
    (let i := 1 + cage.val
     let word := s.dget 0x2064 i
     let put := fun (n : Nat) => refreshPorts cage.val (s.dset 0x2064 i n)
     (mw.toNat ≤ 16 → exec (.opticsInsert cage mw) s = .next (put (0b1011 + mw.toNat * 256))) ∧
     (16 < mw.toNat → exec (.opticsInsert cage mw) s = .next (raiseAny 0x176 none (put (0b11 + mw.toNat * 256)))) ∧
     exec (.opticsRemove cage) s = .next (put 0) ∧
     exec (.cageOvercurrent cage) s = .next (raiseAny 0x176 none (s.dset 0x2064 i (withBit (withBit word 1 false) 2 true))) ∧
     (let j := 5 + cage.val
      let c := Instr.cagePowerRestore w cage v
      let d := leBytes 1 v.toNat
      Checked c w 0x2064 j 0 d none s ∧
      (Admitted w 0x2064 j 0 d none s →
        ((v = 1 ∧ bitOf word 2 = true) → exec c s = .next (s.dset 0x2064 i (withBit (withBit word 2 false) 1 true))) ∧
        (¬ (v = 1 ∧ bitOf word 2 = true) → exec c s = .next s))))

/-- 08 R224: memory holds one byte at an address, in one canonical form (addresses strictly rising, no byte listed that equals what an
unlisted address reads as), and every step of the block keeps it so, whatever command it takes. -/
def Obligations.MemoryStaysCanonical : Prop :=
  ∀ s t : State, Memory.wf s.mem = true → step s = .next t → Memory.wf t.mem = true

/-- The machine after reset has its memory in canonical form, so that the invariant that every step keeps (`MemoryStaysCanonical`) holds
of every run from it; that memory lists nothing after reset is the model's choice (DESIGN CHOICE, assumption 5). -/
def Obligations.ResetMemoryIsCanonical : Prop := Memory.wf State.reset.mem = true ∧ State.reset.mem = [] ∧ State.reset.pending = []
end

