-- ==== Sys2Proof/Laws/Tab.lean ====
section
/-!
SUPPORT. Laws/Tab.lean: what reading a sparse table gives after each operation, and that each operation keeps the canonical
form.
-/
namespace Sys2Proof.Machine

variable {α : Type}

/-! ## Reading after an operation -/

@[simp] theorem Tab.find_nil (i : Nat) : Tab.find ([] : Tab α) i = none := rfl

theorem Tab.find_cons (k : Nat) (v : α) (t : Tab α) (i : Nat) :
    Tab.find ((k, v) :: t) i = if k = i then some v else Tab.find t i := rfl

@[simp] theorem Tab.find_put_self (t : Tab α) (i : Nat) (v : α) : Tab.find (Tab.put t i v) i = some v := by
  induction t with
  | nil => simp [Tab.put, Tab.find_cons]
  | cons e t ih =>
    obtain ⟨k, w⟩ := e
    simp only [Tab.put]
    split
    · simp [Tab.find_cons]
    · split
      · simp [Tab.find_cons]
      · rw [Tab.find_cons, if_neg (by omega), ih]

theorem Tab.find_put_ne (t : Tab α) {i j : Nat} (v : α) (h : j ≠ i) : Tab.find (Tab.put t i v) j = Tab.find t j := by
  induction t with
  | nil => simp [Tab.put, Tab.find_cons, Ne.symm h]
  | cons e t ih =>
    obtain ⟨k, w⟩ := e
    simp only [Tab.put]
    split
    · rw [Tab.find_cons, if_neg (Ne.symm h)]
    · split
      · subst i; simp [Tab.find_cons, Ne.symm h]
      · simp [Tab.find_cons, ih]

@[simp] theorem Tab.find_erase_self (t : Tab α) (i : Nat) : Tab.find (Tab.erase t i) i = none := by
  induction t with
  | nil => rfl
  | cons e t ih =>
    obtain ⟨k, w⟩ := e
    by_cases hk : k = i
    · simpa [Tab.erase, hk] using ih
    · simpa [Tab.erase, hk, Tab.find_cons] using ih

theorem Tab.find_erase_ne (t : Tab α) {i j : Nat} (h : j ≠ i) : Tab.find (Tab.erase t i) j = Tab.find t j := by
  induction t with
  | nil => rfl
  | cons e t ih =>
    obtain ⟨k, w⟩ := e
    by_cases hk : k = i
    · subst hk; simpa [Tab.erase, Tab.find_cons, Ne.symm h] using ih
    · by_cases hj : k = j
      · subst hj; simp [Tab.erase, Tab.find_cons, hk]
      · simpa [Tab.erase, hk, hj, Tab.find_cons] using ih

@[simp] theorem Tab.get_nil (d : α) (i : Nat) : Tab.get d ([] : Tab α) i = d := rfl

@[simp] theorem Tab.get_put_self (d : α) (t : Tab α) (i : Nat) (v : α) : Tab.get d (Tab.put t i v) i = v := by
  simp [Tab.get]

theorem Tab.get_put_ne (d : α) (t : Tab α) {i j : Nat} (v : α) (h : j ≠ i) :
    Tab.get d (Tab.put t i v) j = Tab.get d t j := by
  simp [Tab.get, Tab.find_put_ne t v h]

@[simp] theorem Tab.get_set_self [DecidableEq α] (d : α) (t : Tab α) (i : Nat) (v : α) :
    Tab.get d (Tab.set d t i v) i = v := by
  unfold Tab.set
  split
  · next h => simp [Tab.get, h]
  · simp

theorem Tab.find_set_ne [DecidableEq α] (d : α) (t : Tab α) {i j : Nat} (v : α) (h : j ≠ i) :
    Tab.find (Tab.set d t i v) j = Tab.find t j := by
  unfold Tab.set
  split
  · exact Tab.find_erase_ne t h
  · exact Tab.find_put_ne t v h

/-- Another key reads as before, whatever default either read uses. -/
theorem Tab.get_set_ne [DecidableEq α] (d d' : α) (t : Tab α) {i j : Nat} (v : α) (h : j ≠ i) :
    Tab.get d' (Tab.set d t i v) j = Tab.get d' t j := by
  simp [Tab.get, Tab.find_set_ne d t v h]

theorem Tab.get_upd (d : α) (t : Tab α) (i j : Nat) (f : α → α) :
    Tab.get d (Tab.upd d t i f) j = if j = i then f (Tab.get d t i) else Tab.get d t j := by
  unfold Tab.upd
  by_cases h : j = i
  · subst h; simp
  · simp [h, Tab.get_put_ne d t _ h]

/-- Clearing a range leaves every key outside it. -/
theorem Tab.find_clearRange_out (t : Tab Byte) {i n j : Nat} (h : j < i ∨ i + n ≤ j) :
    Tab.find (Tab.clearRange t i n) j = Tab.find t j := by
  induction t with
  | nil => rfl
  | cons e t ih =>
    obtain ⟨k, w⟩ := e
    by_cases hk : k < i ∨ i + n ≤ k
    · have : Tab.clearRange ((k, w) :: t) i n = (k, w) :: Tab.clearRange t i n := by
        simp [Tab.clearRange, hk]
      rw [this, Tab.find_cons, Tab.find_cons, ih]
    · have : Tab.clearRange ((k, w) :: t) i n = Tab.clearRange t i n := by
        simp [Tab.clearRange, hk]
      rw [this, ih, Tab.find_cons, if_neg]
      omega

/-- Clearing a range unlists every key inside it. -/
theorem Tab.find_clearRange_in (t : Tab Byte) {i n j : Nat} (h : i ≤ j ∧ j < i + n) :
    Tab.find (Tab.clearRange t i n) j = none := by
  induction t with
  | nil => rfl
  | cons e t ih =>
    obtain ⟨k, w⟩ := e
    by_cases hk : k < i ∨ i + n ≤ k
    · have : Tab.clearRange ((k, w) :: t) i n = (k, w) :: Tab.clearRange t i n := by
        simp [Tab.clearRange, hk]
      rw [this, Tab.find_cons, ih, if_neg]
      omega
    · have : Tab.clearRange ((k, w) :: t) i n = Tab.clearRange t i n := by
        simp [Tab.clearRange, hk]
      rw [this, ih]

/-! ## The canonical form -/

/-- Every key of a table is above `b`. -/
def Tab.above (b : Nat) (t : Tab α) : Prop := ∀ e ∈ t, b < e.1

theorem Tab.rising_cons (k : Nat) (v : α) (t : Tab α) :
    Tab.rising ((k, v) :: t) = true ↔ Tab.above k t ∧ Tab.rising t = true := by
  induction t generalizing k v with
  | nil => simp [Tab.rising, Tab.above]
  | cons e t ih =>
    obtain ⟨l, w⟩ := e
    simp only [Tab.rising, Bool.and_eq_true, decide_eq_true_eq, ih]
    constructor
    · rintro ⟨h1, h2, h3⟩
      refine ⟨?_, h2, h3⟩
      intro e he
      rcases List.mem_cons.mp he with rfl | he
      · exact h1
      · exact Nat.lt_trans h1 (h2 e he)
    · rintro ⟨h1, h2, h3⟩
      exact ⟨h1 (l, w) (List.mem_cons_self ..), h2, h3⟩

theorem Tab.mem_put (t : Tab α) (i : Nat) (v : α) (e : Nat × α) (h : e ∈ Tab.put t i v) : e = (i, v) ∨ e ∈ t := by
  induction t with
  | nil => simpa [Tab.put] using h
  | cons x t ih =>
    obtain ⟨k, w⟩ := x
    simp only [Tab.put] at h
    split at h
    · exact List.mem_cons.mp h
    · split at h
      · rcases List.mem_cons.mp h with h | h
        · exact .inl h
        · exact .inr (List.mem_cons_of_mem _ h)
      · rcases List.mem_cons.mp h with h | h
        · exact .inr (h ▸ List.mem_cons_self ..)
        · rcases ih h with h | h
          · exact .inl h
          · exact .inr (List.mem_cons_of_mem _ h)

theorem Tab.rising_put (t : Tab α) (i : Nat) (v : α) (h : Tab.rising t = true) : Tab.rising (Tab.put t i v) = true := by
  induction t with
  | nil => rfl
  | cons x t ih =>
    obtain ⟨k, w⟩ := x
    have hk := (Tab.rising_cons k w t).mp h
    simp only [Tab.put]
    split
    · next hi =>
      rw [Tab.rising_cons]
      refine ⟨?_, h⟩
      intro e he
      rcases List.mem_cons.mp he with rfl | he
      · exact hi
      · exact Nat.lt_trans hi (hk.1 e he)
    · split
      · next hi => subst hi; exact (Tab.rising_cons _ _ _).mpr hk
      · rw [Tab.rising_cons]
        refine ⟨?_, ih hk.2⟩
        intro e he
        rcases Tab.mem_put t i v e he with rfl | he
        · show k < i; omega
        · exact hk.1 e he

theorem Tab.rising_filter (t : Tab α) (p : Nat × α → Bool) (h : Tab.rising t = true) :
    Tab.rising (t.filter p) = true := by
  induction t with
  | nil => rfl
  | cons x t ih =>
    obtain ⟨k, w⟩ := x
    have hk := (Tab.rising_cons k w t).mp h
    rw [List.filter_cons]
    split
    · rw [Tab.rising_cons]
      exact ⟨fun e he => hk.1 e ((List.mem_filter.mp he).1), ih hk.2⟩
    · exact ih hk.2

/-- Writing a key keeps the canonical form. -/
theorem Tab.wf_set [DecidableEq α] (d : α) (t : Tab α) (i : Nat) (v : α) (h : Tab.wf d t = true) :
    Tab.wf d (Tab.set d t i v) = true := by
  simp only [Tab.wf, Bool.and_eq_true, List.all_eq_true] at h ⊢
  unfold Tab.set
  split
  · exact ⟨Tab.rising_filter t _ h.1, fun e he => h.2 e ((List.mem_filter.mp he).1)⟩
  · next hv =>
    refine ⟨Tab.rising_put t i v h.1, fun e he => ?_⟩
    rcases Tab.mem_put t i v e he with rfl | he
    · simpa using hv
    · exact h.2 e he

/-- Dropping entries keeps the canonical form. -/
theorem Tab.wf_filter [DecidableEq α] (d : α) (t : Tab α) (p : Nat × α → Bool) (h : Tab.wf d t = true) :
    Tab.wf d (t.filter p) = true := by
  simp only [Tab.wf, Bool.and_eq_true, List.all_eq_true] at h ⊢
  exact ⟨Tab.rising_filter t p h.1, fun e he => h.2 e ((List.mem_filter.mp he).1)⟩

theorem Tab.wf_clearRange (t : Tab Byte) (i n : Nat) (h : Tab.wf 0 t = true) : Tab.wf 0 (Tab.clearRange t i n) = true :=
  Tab.wf_filter 0 t _ h

theorem Tab.wf_setBytes (t : Tab Byte) (i : Nat) (l : List Byte) (h : Tab.wf 0 t = true) :
    Tab.wf 0 (Tab.setBytes t i l) = true := by
  induction l generalizing t i with
  | nil => exact h
  | cons b l ih => exact ih _ _ (Tab.wf_set 0 t i b h)

theorem Tab.mem_lay (n : Nat) (a b : Tab α) (e : Nat × α) (h : e ∈ Tab.lay n a b) : e ∈ a ∨ e ∈ b := by
  induction n generalizing a b with
  | zero => exact .inl h
  | succ n ih =>
    match a, b with
    | [], b => exact .inr h
    | x :: a, [] => exact .inl h
    | (k, v) :: a, (l, w) :: b =>
      simp only [Tab.lay] at h
      split at h
      · rcases List.mem_cons.mp h with rfl | h
        · exact .inl (List.mem_cons_self ..)
        · rcases ih _ _ h with h | h
          · exact .inl (List.mem_cons_of_mem _ h)
          · exact .inr h
      · split at h
        · rcases List.mem_cons.mp h with rfl | h
          · exact .inr (List.mem_cons_self ..)
          · rcases ih _ _ h with h | h
            · exact .inl h
            · exact .inr (List.mem_cons_of_mem _ h)
        · rcases List.mem_cons.mp h with rfl | h
          · exact .inl (List.mem_cons_self ..)
          · rcases ih _ _ h with h | h
            · exact .inl (List.mem_cons_of_mem _ h)
            · exact .inr (List.mem_cons_of_mem _ h)

theorem Tab.rising_lay (n : Nat) (a b : Tab α) (ha : Tab.rising a = true) (hb : Tab.rising b = true) :
    Tab.rising (Tab.lay n a b) = true := by
  induction n generalizing a b with
  | zero => exact ha
  | succ n ih =>
    match a, b with
    | [], b => exact hb
    | x :: a, [] => exact ha
    | (k, v) :: a, (l, w) :: b =>
      have ha' := (Tab.rising_cons k v a).mp ha
      have hb' := (Tab.rising_cons l w b).mp hb
      simp only [Tab.lay]
      split
      · next hkl =>
        rw [Tab.rising_cons]
        refine ⟨fun e he => ?_, ih _ _ ha'.2 hb⟩
        rcases Tab.mem_lay _ _ _ e he with he | he
        · exact ha'.1 e he
        · rcases List.mem_cons.mp he with rfl | he
          · exact hkl
          · exact Nat.lt_trans hkl (hb'.1 e he)
      · split
        · next hlk =>
          rw [Tab.rising_cons]
          refine ⟨fun e he => ?_, ih _ _ ha hb'.2⟩
          rcases Tab.mem_lay _ _ _ e he with he | he
          · rcases List.mem_cons.mp he with rfl | he
            · exact hlk
            · exact Nat.lt_trans hlk (ha'.1 e he)
          · exact hb'.1 e he
        · next h1 h2 =>
          have hkl : k = l := by omega
          subst hkl
          rw [Tab.rising_cons]
          refine ⟨fun e he => ?_, ih _ _ ha'.2 hb'.2⟩
          rcases Tab.mem_lay _ _ _ e he with he | he
          · exact ha'.1 e he
          · exact hb'.1 e he

/-- Laying one table over another keeps the canonical form. -/
theorem Tab.wf_lay [DecidableEq α] (d : α) (n : Nat) (a b : Tab α) (ha : Tab.wf d a = true) (hb : Tab.wf d b = true) :
    Tab.wf d (Tab.lay n a b) = true := by
  simp only [Tab.wf, Bool.and_eq_true, List.all_eq_true] at ha hb ⊢
  refine ⟨Tab.rising_lay n a b ha.1 hb.1, fun e he => ?_⟩
  rcases Tab.mem_lay n a b e he with he | he
  · exact ha.2 e he
  · exact hb.2 e he

end Sys2Proof.Machine
end

