-- ==== Sys2Proof/Laws/State.lean ====
section
/-!
SUPPORT. Laws/State.lean: for each named update of the state, every field it leaves, and every reading that it leaves: one
lemma per field per update, so that no proof unfolds a record update. The file is regular: update by update, in the order of
the fields of State.
-/
namespace Sys2Proof.Machine

/-- Writing DOMAIN bytes changes `doms` alone. -/
theorem State.domWrite_eq (s : State) (i j o : Nat) (l : List Byte) :
    s.domWrite i j o l = { s with doms := (s.domWrite i j o l).doms } := by
  induction l generalizing s o with
  | nil => rfl
  | cons b l ih => rw [State.domWrite, ih]


/-! ### State.dset changes `dict` -/

@[simp] theorem State.dset_time (s : State) (i j v : Nat) : (s.dset i j v).time = s.time := rfl
@[simp] theorem State.dset_pending (s : State) (i j v : Nat) : (s.dset i j v).pending = s.pending := rfl
@[simp] theorem State.dset_doms (s : State) (i j v : Nat) : (s.dset i j v).doms = s.doms := rfl
@[simp] theorem State.dset_mem (s : State) (i j v : Nat) : (s.dset i j v).mem = s.mem := rfl
@[simp] theorem State.dset_poison (s : State) (i j v : Nat) : (s.dset i j v).poison = s.poison := rfl
@[simp] theorem State.dset_fresh (s : State) (i j v : Nat) : (s.dset i j v).fresh = s.fresh := rfl
@[simp] theorem State.dset_out (s : State) (i j v : Nat) : (s.dset i j v).out = s.out := rfl
@[simp] theorem State.dset_win (s : State) (i j v : Nat) : (s.dset i j v).win = s.win := rfl
@[simp] theorem State.dset_threads (s : State) (i j v : Nat) : (s.dset i j v).threads = s.threads := rfl
@[simp] theorem State.dset_cores (s : State) (i j v : Nat) : (s.dset i j v).cores = s.cores := rfl
@[simp] theorem State.dset_clusters (s : State) (i j v : Nat) : (s.dset i j v).clusters = s.clusters := rfl
@[simp] theorem State.dset_chans (s : State) (i j v : Nat) : (s.dset i j v).chans = s.chans := rfl
@[simp] theorem State.dset_census (s : State) (i j v : Nat) : (s.dset i j v).census = s.census := rfl
@[simp] theorem State.dset_colls (s : State) (i j v : Nat) : (s.dset i j v).colls = s.colls := rfl
@[simp] theorem State.dset_trans (s : State) (i j v : Nat) : (s.dset i j v).trans = s.trans := rfl
@[simp] theorem State.dset_staged (s : State) (i j v : Nat) : (s.dset i j v).staged = s.staged := rfl
@[simp] theorem State.dset_snaps (s : State) (i j v : Nat) : (s.dset i j v).snaps = s.snaps := rfl
@[simp] theorem State.dset_halts (s : State) (i j v : Nat) : (s.dset i j v).halts = s.halts := rfl
@[simp] theorem State.dset_haltDue (s : State) (i j v : Nat) : (s.dset i j v).haltDue = s.haltDue := rfl
@[simp] theorem State.dset_msixOpen (s : State) (i j v : Nat) : (s.dset i j v).msixOpen = s.msixOpen := rfl
@[simp] theorem State.dset_msixPend (s : State) (i j v : Nat) : (s.dset i j v).msixPend = s.msixPend := rfl
@[simp] theorem State.dset_busMaster (s : State) (i j v : Nat) : (s.dset i j v).busMaster = s.busMaster := rfl
@[simp] theorem State.dset_holders (s : State) (i j v : Nat) : (s.dset i j v).holders = s.holders := rfl
@[simp] theorem State.dset_waiters (s : State) (i j v : Nat) : (s.dset i j v).waiters = s.waiters := rfl
@[simp] theorem State.dset_drams (s : State) (i j v : Nat) : (s.dset i j v).drams = s.drams := rfl
@[simp] theorem State.dset_sessions (s : State) (i j v : Nat) : (s.dset i j v).sessions = s.sessions := rfl
@[simp] theorem State.dset_perst (s : State) (i j v : Nat) : (s.dset i j v).perst = s.perst := rfl
@[simp] theorem State.dset_petals (s : State) (i j v : Nat) : (s.dset i j v).petals = s.petals := rfl
@[simp] theorem State.dset_slots (s : State) (i j v : Nat) : (s.dset i j v).slots = s.slots := rfl
@[simp] theorem State.dset_tables (s : State) (i j v : Nat) : (s.dset i j v).tables = s.tables := rfl
@[simp] theorem State.dset_cow (s : State) (i j v : Nat) : (s.dset i j v).cow = s.cow := rfl
@[simp] theorem State.dset_rxPause (s : State) (i j v : Nat) : (s.dset i j v).rxPause = s.rxPause := rfl
@[simp] theorem State.dset_stalled (s : State) (i j v : Nat) : (s.dset i j v).stalled = s.stalled := rfl
@[simp] theorem State.dset_modes (s : State) (i j v : Nat) : (s.dset i j v).modes = s.modes := rfl
@[simp] theorem State.dset_mism (s : State) (i j v : Nat) : (s.dset i j v).mism = s.mism := rfl
@[simp] theorem State.dset_sorrel (s : State) (i j v : Nat) : (s.dset i j v).sorrel = s.sorrel := rfl
@[simp] theorem State.dset_swaps (s : State) (i j v : Nat) : (s.dset i j v).swaps = s.swaps := rfl
@[simp] theorem State.dset_mboxes (s : State) (i j v : Nat) : (s.dset i j v).mboxes = s.mboxes := rfl
@[simp] theorem State.dset_requeue (s : State) (i j v : Nat) : (s.dset i j v).requeue = s.requeue := rfl
@[simp] theorem State.dset_repairs (s : State) (i j v : Nat) : (s.dset i j v).repairs = s.repairs := rfl
@[simp] theorem State.dset_ceTimes (s : State) (i j v : Nat) : (s.dset i j v).ceTimes = s.ceTimes := rfl
@[simp] theorem State.dset_ueTimes (s : State) (i j v : Nat) : (s.dset i j v).ueTimes = s.ueTimes := rfl
@[simp] theorem State.dset_wearWarned (s : State) (i j v : Nat) : (s.dset i j v).wearWarned = s.wearWarned := rfl
@[simp] theorem State.dset_swapLogged (s : State) (i j v : Nat) : (s.dset i j v).swapLogged = s.swapLogged := rfl
@[simp] theorem State.dset_cntBase (s : State) (i j v : Nat) : (s.dset i j v).cntBase = s.cntBase := rfl
@[simp] theorem State.dset_journal (s : State) (i j v : Nat) : (s.dset i j v).journal = s.journal := rfl
@[simp] theorem State.dset_lastHash (s : State) (i j v : Nat) : (s.dset i j v).lastHash = s.lastHash := rfl
@[simp] theorem State.dset_heldSeqs (s : State) (i j v : Nat) : (s.dset i j v).heldSeqs = s.heldSeqs := rfl
@[simp] theorem State.dset_golneB (s : State) (i j v : Nat) : (s.dset i j v).golneB = s.golneB := rfl
@[simp] theorem State.dset_golneDown (s : State) (i j v : Nat) : (s.dset i j v).golneDown = s.golneDown := rfl
@[simp] theorem State.dset_act (s : State) (i j v : Nat) : (s.dset i j v).act = s.act := rfl
@[simp] theorem State.dset_minStart (s : State) (i j v : Nat) : (s.dset i j v).minStart = s.minStart := rfl
@[simp] theorem State.dset_noDram (s : State) (i j v : Nat) : (s.dset i j v).noDram = s.noDram := rfl
@[simp] theorem State.dset_nextRaise (s : State) (i j v : Nat) : (s.dset i j v).nextRaise = s.nextRaise := rfl
@[simp] theorem State.dset_pseq (s : State) (i j v : Nat) : (s.dset i j v).pseq = s.pseq := rfl
@[simp] theorem State.dset_unlockMeas (s : State) (i j v : Nat) : (s.dset i j v).unlockMeas = s.unlockMeas := rfl
@[simp] theorem State.dset_unlockEnd (s : State) (i j v : Nat) : (s.dset i j v).unlockEnd = s.unlockEnd := rfl
@[simp] theorem State.dset_unlockPetals (s : State) (i j v : Nat) : (s.dset i j v).unlockPetals = s.unlockPetals := rfl
@[simp] theorem State.dset_romStuck (s : State) (i j v : Nat) : (s.dset i j v).romStuck = s.romStuck := rfl
@[simp] theorem State.dset_minRetry (s : State) (i j v : Nat) : (s.dset i j v).minRetry = s.minRetry := rfl
@[simp] theorem State.dset_power (s : State) (i j v : Nat) : (s.dset i j v).power = s.power := rfl
@[simp] theorem State.dset_dumps (s : State) (i j v : Nat) : (s.dset i j v).dumps = s.dumps := rfl
@[simp] theorem State.dset_rootSyn (s : State) (i j v : Nat) : (s.dset i j v).rootSyn = s.rootSyn := rfl
@[simp] theorem State.dset_isoPorts (s : State) (i j v : Nat) : (s.dset i j v).isoPorts = s.isoPorts := rfl
@[simp] theorem State.dset_haltTimes (s : State) (i j v : Nat) : (s.dset i j v).haltTimes = s.haltTimes := rfl
@[simp] theorem State.dset_restartAsked (s : State) (i j v : Nat) : (s.dset i j v).restartAsked = s.restartAsked := rfl
@[simp] theorem State.dset_frozen (s : State) (i j v : Nat) : (s.dset i j v).frozen = s.frozen := rfl
@[simp] theorem State.dset_canErr (s : State) (i j v : Nat) : (s.dset i j v).canErr = s.canErr := rfl
@[simp] theorem State.dset_capLimit (s : State) (i j v : Nat) : (s.dset i j v).capLimit = s.capLimit := rfl
@[simp] theorem State.dset_capParked (s : State) (i j v : Nat) : (s.dset i j v).capParked = s.capParked := rfl
@[simp] theorem State.dset_heatLimit (s : State) (i j v : Nat) : (s.dset i j v).heatLimit = s.heatLimit := rfl
@[simp] theorem State.dset_railLock (s : State) (i j v : Nat) : (s.dset i j v).railLock = s.railLock := rfl
@[simp] theorem State.dset_paceLow (s : State) (i j v : Nat) : (s.dset i j v).paceLow = s.paceLow := rfl
@[simp] theorem State.dset_boost (s : State) (i j v : Nat) : (s.dset i j v).boost = s.boost := rfl
@[simp] theorem State.dset_bulk (s : State) (i j v : Nat) : (s.dset i j v).bulk = s.bulk := rfl
@[simp] theorem State.dset_sdo (s : State) (i j v : Nat) : (s.dset i j v).sdo = s.sdo := rfl
@[simp] theorem State.dset_accums (s : State) (i j v : Nat) : (s.dset i j v).accums = s.accums := rfl
@[simp] theorem State.dset_eids (s : State) (i j v : Nat) : (s.dset i j v).eids = s.eids := rfl
@[simp] theorem State.dset_dbgEnHigh (s : State) (i j v : Nat) : (s.dset i j v).dbgEnHigh = s.dbgEnHigh := rfl
@[simp] theorem State.dset_tapIr (s : State) (i j v : Nat) : (s.dset i j v).tapIr = s.tapIr := rfl
@[simp] theorem State.dset_tapPins (s : State) (i j v : Nat) : (s.dset i j v).tapPins = s.tapPins := rfl
@[simp] theorem State.dset_tapDrive (s : State) (i j v : Nat) : (s.dset i j v).tapDrive = s.tapDrive := rfl
@[simp] theorem State.dset_tapDict (s : State) (i j v : Nat) : (s.dset i j v).tapDict = s.tapDict := rfl
@[simp] theorem State.dset_tapMem (s : State) (i j v : Nat) : (s.dset i j v).tapMem = s.tapMem := rfl
@[simp] theorem State.dset_stem (s : State) (i j v : Nat) : (s.dset i j v).stem = s.stem := rfl
@[simp] theorem State.dset_stemRr (s : State) (i j v : Nat) : (s.dset i j v).stemRr = s.stemRr := rfl
@[simp] theorem State.dset_cross (s : State) (i j v : Nat) : (s.dset i j v).cross = s.cross := rfl
@[simp] theorem State.dset_msixTab (s : State) (i j v : Nat) : (s.dset i j v).msixTab = s.msixTab := rfl
@[simp] theorem State.dset_paceSet (s : State) (i j v : Nat) : (s.dset i j v).paceSet = s.paceSet := rfl
@[simp] theorem State.dset_pipes (s : State) (i j v : Nat) : (s.dset i j v).pipes = s.pipes := rfl
@[simp] theorem State.dset_scratchBad (s : State) (i j v : Nat) : (s.dset i j v).scratchBad = s.scratchBad := rfl
@[simp] theorem State.dset_histOn (s : State) (i j v : Nat) : (s.dset i j v).histOn = s.histOn := rfl
@[simp] theorem State.dset_haltWords (s : State) (i j v : Nat) : (s.dset i j v).haltWords = s.haltWords := rfl
@[simp] theorem State.dset_domByte_reads (s : State) (i j v : Nat) (x y z : Nat) : (s.dset i j v).domByte x y z = s.domByte x y z := rfl
@[simp] theorem State.dset_memByte_reads (s : State) (i j v : Nat) (x : Nat) : (s.dset i j v).memByte x = s.memByte x := rfl
@[simp] theorem State.dset_winGet_reads (s : State) (i j v : Nat) (x : Nat) : (s.dset i j v).winGet x = s.winGet x := rfl
@[simp] theorem State.dset_thr_reads (s : State) (i j v : Nat) (x : Hart) : (s.dset i j v).thr x = s.thr x := rfl
@[simp] theorem State.dset_dreg_reads (s : State) (i j v : Nat) (x : Hart) (y : Reg) : (s.dset i j v).dreg x y = s.dreg x y := rfl
@[simp] theorem State.dset_areg_reads (s : State) (i j v : Nat) (x : Hart) (y : Reg) : (s.dset i j v).areg x y = s.areg x y := rfl
@[simp] theorem State.dset_acc_reads (s : State) (i j v : Nat) (x : Hart) (y : Fin 4) : (s.dset i j v).acc x y = s.acc x y := rfl
@[simp] theorem State.dset_creg_reads (s : State) (i j v : Nat) (x : Hart) (y : CReg) : (s.dset i j v).creg x y = s.creg x y := rfl
@[simp] theorem State.dset_core_reads (s : State) (i j v : Nat) (x : CoreId) : (s.dset i j v).core x = s.core x := rfl
@[simp] theorem State.dset_clus_reads (s : State) (i j v : Nat) (x : Petal) (y : Cluster) : (s.dset i j v).clus x y = s.clus x y := rfl
@[simp] theorem State.dset_chan_reads (s : State) (i j v : Nat) (x : Petal) (y : Nat) : (s.dset i j v).chan x y = s.chan x y := rfl
@[simp] theorem State.dset_pet_reads (s : State) (i j v : Nat) (x : Petal) : (s.dset i j v).pet x = s.pet x := rfl
@[simp] theorem State.dset_q_reads (s : State) (i j v : Nat) (x : Nat) : (s.dset i j v).q x = s.q x := rfl
@[simp] theorem State.dset_slot_reads (s : State) (i j v : Nat) (x : ThreadId) : (s.dset i j v).slot x = s.slot x := rfl
@[simp] theorem State.dset_coll_reads (s : State) (i j v : Nat) (x : Collector) : (s.dset i j v).coll x = s.coll x := rfl
@[simp] theorem State.dset_dram_reads (s : State) (i j v : Nat) (x : Nat) : (s.dset i j v).dram x = s.dram x := rfl
@[simp] theorem State.dset_mbox_reads (s : State) (i j v : Nat) (x : Nat) : (s.dset i j v).mbox x = s.mbox x := rfl
@[simp] theorem State.dset_pipe_reads (s : State) (i j v : Nat) (x : CoreId) : (s.dset i j v).pipe x = s.pipe x := rfl

/-! ### State.bumpBy changes `dict` -/

@[simp] theorem State.bumpBy_time (s : State) (i j n : Nat) : (s.bumpBy i j n).time = s.time := rfl
@[simp] theorem State.bumpBy_pending (s : State) (i j n : Nat) : (s.bumpBy i j n).pending = s.pending := rfl
@[simp] theorem State.bumpBy_doms (s : State) (i j n : Nat) : (s.bumpBy i j n).doms = s.doms := rfl
@[simp] theorem State.bumpBy_mem (s : State) (i j n : Nat) : (s.bumpBy i j n).mem = s.mem := rfl
@[simp] theorem State.bumpBy_poison (s : State) (i j n : Nat) : (s.bumpBy i j n).poison = s.poison := rfl
@[simp] theorem State.bumpBy_fresh (s : State) (i j n : Nat) : (s.bumpBy i j n).fresh = s.fresh := rfl
@[simp] theorem State.bumpBy_out (s : State) (i j n : Nat) : (s.bumpBy i j n).out = s.out := rfl
@[simp] theorem State.bumpBy_win (s : State) (i j n : Nat) : (s.bumpBy i j n).win = s.win := rfl
@[simp] theorem State.bumpBy_threads (s : State) (i j n : Nat) : (s.bumpBy i j n).threads = s.threads := rfl
@[simp] theorem State.bumpBy_cores (s : State) (i j n : Nat) : (s.bumpBy i j n).cores = s.cores := rfl
@[simp] theorem State.bumpBy_clusters (s : State) (i j n : Nat) : (s.bumpBy i j n).clusters = s.clusters := rfl
@[simp] theorem State.bumpBy_chans (s : State) (i j n : Nat) : (s.bumpBy i j n).chans = s.chans := rfl
@[simp] theorem State.bumpBy_census (s : State) (i j n : Nat) : (s.bumpBy i j n).census = s.census := rfl
@[simp] theorem State.bumpBy_colls (s : State) (i j n : Nat) : (s.bumpBy i j n).colls = s.colls := rfl
@[simp] theorem State.bumpBy_trans (s : State) (i j n : Nat) : (s.bumpBy i j n).trans = s.trans := rfl
@[simp] theorem State.bumpBy_staged (s : State) (i j n : Nat) : (s.bumpBy i j n).staged = s.staged := rfl
@[simp] theorem State.bumpBy_snaps (s : State) (i j n : Nat) : (s.bumpBy i j n).snaps = s.snaps := rfl
@[simp] theorem State.bumpBy_halts (s : State) (i j n : Nat) : (s.bumpBy i j n).halts = s.halts := rfl
@[simp] theorem State.bumpBy_haltDue (s : State) (i j n : Nat) : (s.bumpBy i j n).haltDue = s.haltDue := rfl
@[simp] theorem State.bumpBy_msixOpen (s : State) (i j n : Nat) : (s.bumpBy i j n).msixOpen = s.msixOpen := rfl
@[simp] theorem State.bumpBy_msixPend (s : State) (i j n : Nat) : (s.bumpBy i j n).msixPend = s.msixPend := rfl
@[simp] theorem State.bumpBy_busMaster (s : State) (i j n : Nat) : (s.bumpBy i j n).busMaster = s.busMaster := rfl
@[simp] theorem State.bumpBy_holders (s : State) (i j n : Nat) : (s.bumpBy i j n).holders = s.holders := rfl
@[simp] theorem State.bumpBy_waiters (s : State) (i j n : Nat) : (s.bumpBy i j n).waiters = s.waiters := rfl
@[simp] theorem State.bumpBy_drams (s : State) (i j n : Nat) : (s.bumpBy i j n).drams = s.drams := rfl
@[simp] theorem State.bumpBy_sessions (s : State) (i j n : Nat) : (s.bumpBy i j n).sessions = s.sessions := rfl
@[simp] theorem State.bumpBy_perst (s : State) (i j n : Nat) : (s.bumpBy i j n).perst = s.perst := rfl
@[simp] theorem State.bumpBy_petals (s : State) (i j n : Nat) : (s.bumpBy i j n).petals = s.petals := rfl
@[simp] theorem State.bumpBy_slots (s : State) (i j n : Nat) : (s.bumpBy i j n).slots = s.slots := rfl
@[simp] theorem State.bumpBy_tables (s : State) (i j n : Nat) : (s.bumpBy i j n).tables = s.tables := rfl
@[simp] theorem State.bumpBy_cow (s : State) (i j n : Nat) : (s.bumpBy i j n).cow = s.cow := rfl
@[simp] theorem State.bumpBy_rxPause (s : State) (i j n : Nat) : (s.bumpBy i j n).rxPause = s.rxPause := rfl
@[simp] theorem State.bumpBy_stalled (s : State) (i j n : Nat) : (s.bumpBy i j n).stalled = s.stalled := rfl
@[simp] theorem State.bumpBy_modes (s : State) (i j n : Nat) : (s.bumpBy i j n).modes = s.modes := rfl
@[simp] theorem State.bumpBy_mism (s : State) (i j n : Nat) : (s.bumpBy i j n).mism = s.mism := rfl
@[simp] theorem State.bumpBy_sorrel (s : State) (i j n : Nat) : (s.bumpBy i j n).sorrel = s.sorrel := rfl
@[simp] theorem State.bumpBy_swaps (s : State) (i j n : Nat) : (s.bumpBy i j n).swaps = s.swaps := rfl
@[simp] theorem State.bumpBy_mboxes (s : State) (i j n : Nat) : (s.bumpBy i j n).mboxes = s.mboxes := rfl
@[simp] theorem State.bumpBy_requeue (s : State) (i j n : Nat) : (s.bumpBy i j n).requeue = s.requeue := rfl
@[simp] theorem State.bumpBy_repairs (s : State) (i j n : Nat) : (s.bumpBy i j n).repairs = s.repairs := rfl
@[simp] theorem State.bumpBy_ceTimes (s : State) (i j n : Nat) : (s.bumpBy i j n).ceTimes = s.ceTimes := rfl
@[simp] theorem State.bumpBy_ueTimes (s : State) (i j n : Nat) : (s.bumpBy i j n).ueTimes = s.ueTimes := rfl
@[simp] theorem State.bumpBy_wearWarned (s : State) (i j n : Nat) : (s.bumpBy i j n).wearWarned = s.wearWarned := rfl
@[simp] theorem State.bumpBy_swapLogged (s : State) (i j n : Nat) : (s.bumpBy i j n).swapLogged = s.swapLogged := rfl
@[simp] theorem State.bumpBy_cntBase (s : State) (i j n : Nat) : (s.bumpBy i j n).cntBase = s.cntBase := rfl
@[simp] theorem State.bumpBy_journal (s : State) (i j n : Nat) : (s.bumpBy i j n).journal = s.journal := rfl
@[simp] theorem State.bumpBy_lastHash (s : State) (i j n : Nat) : (s.bumpBy i j n).lastHash = s.lastHash := rfl
@[simp] theorem State.bumpBy_heldSeqs (s : State) (i j n : Nat) : (s.bumpBy i j n).heldSeqs = s.heldSeqs := rfl
@[simp] theorem State.bumpBy_golneB (s : State) (i j n : Nat) : (s.bumpBy i j n).golneB = s.golneB := rfl
@[simp] theorem State.bumpBy_golneDown (s : State) (i j n : Nat) : (s.bumpBy i j n).golneDown = s.golneDown := rfl
@[simp] theorem State.bumpBy_act (s : State) (i j n : Nat) : (s.bumpBy i j n).act = s.act := rfl
@[simp] theorem State.bumpBy_minStart (s : State) (i j n : Nat) : (s.bumpBy i j n).minStart = s.minStart := rfl
@[simp] theorem State.bumpBy_noDram (s : State) (i j n : Nat) : (s.bumpBy i j n).noDram = s.noDram := rfl
@[simp] theorem State.bumpBy_nextRaise (s : State) (i j n : Nat) : (s.bumpBy i j n).nextRaise = s.nextRaise := rfl
@[simp] theorem State.bumpBy_pseq (s : State) (i j n : Nat) : (s.bumpBy i j n).pseq = s.pseq := rfl
@[simp] theorem State.bumpBy_unlockMeas (s : State) (i j n : Nat) : (s.bumpBy i j n).unlockMeas = s.unlockMeas := rfl
@[simp] theorem State.bumpBy_unlockEnd (s : State) (i j n : Nat) : (s.bumpBy i j n).unlockEnd = s.unlockEnd := rfl
@[simp] theorem State.bumpBy_unlockPetals (s : State) (i j n : Nat) : (s.bumpBy i j n).unlockPetals = s.unlockPetals := rfl
@[simp] theorem State.bumpBy_romStuck (s : State) (i j n : Nat) : (s.bumpBy i j n).romStuck = s.romStuck := rfl
@[simp] theorem State.bumpBy_minRetry (s : State) (i j n : Nat) : (s.bumpBy i j n).minRetry = s.minRetry := rfl
@[simp] theorem State.bumpBy_power (s : State) (i j n : Nat) : (s.bumpBy i j n).power = s.power := rfl
@[simp] theorem State.bumpBy_dumps (s : State) (i j n : Nat) : (s.bumpBy i j n).dumps = s.dumps := rfl
@[simp] theorem State.bumpBy_rootSyn (s : State) (i j n : Nat) : (s.bumpBy i j n).rootSyn = s.rootSyn := rfl
@[simp] theorem State.bumpBy_isoPorts (s : State) (i j n : Nat) : (s.bumpBy i j n).isoPorts = s.isoPorts := rfl
@[simp] theorem State.bumpBy_haltTimes (s : State) (i j n : Nat) : (s.bumpBy i j n).haltTimes = s.haltTimes := rfl
@[simp] theorem State.bumpBy_restartAsked (s : State) (i j n : Nat) : (s.bumpBy i j n).restartAsked = s.restartAsked := rfl
@[simp] theorem State.bumpBy_frozen (s : State) (i j n : Nat) : (s.bumpBy i j n).frozen = s.frozen := rfl
@[simp] theorem State.bumpBy_canErr (s : State) (i j n : Nat) : (s.bumpBy i j n).canErr = s.canErr := rfl
@[simp] theorem State.bumpBy_capLimit (s : State) (i j n : Nat) : (s.bumpBy i j n).capLimit = s.capLimit := rfl
@[simp] theorem State.bumpBy_capParked (s : State) (i j n : Nat) : (s.bumpBy i j n).capParked = s.capParked := rfl
@[simp] theorem State.bumpBy_heatLimit (s : State) (i j n : Nat) : (s.bumpBy i j n).heatLimit = s.heatLimit := rfl
@[simp] theorem State.bumpBy_railLock (s : State) (i j n : Nat) : (s.bumpBy i j n).railLock = s.railLock := rfl
@[simp] theorem State.bumpBy_paceLow (s : State) (i j n : Nat) : (s.bumpBy i j n).paceLow = s.paceLow := rfl
@[simp] theorem State.bumpBy_boost (s : State) (i j n : Nat) : (s.bumpBy i j n).boost = s.boost := rfl
@[simp] theorem State.bumpBy_bulk (s : State) (i j n : Nat) : (s.bumpBy i j n).bulk = s.bulk := rfl
@[simp] theorem State.bumpBy_sdo (s : State) (i j n : Nat) : (s.bumpBy i j n).sdo = s.sdo := rfl
@[simp] theorem State.bumpBy_accums (s : State) (i j n : Nat) : (s.bumpBy i j n).accums = s.accums := rfl
@[simp] theorem State.bumpBy_eids (s : State) (i j n : Nat) : (s.bumpBy i j n).eids = s.eids := rfl
@[simp] theorem State.bumpBy_dbgEnHigh (s : State) (i j n : Nat) : (s.bumpBy i j n).dbgEnHigh = s.dbgEnHigh := rfl
@[simp] theorem State.bumpBy_tapIr (s : State) (i j n : Nat) : (s.bumpBy i j n).tapIr = s.tapIr := rfl
@[simp] theorem State.bumpBy_tapPins (s : State) (i j n : Nat) : (s.bumpBy i j n).tapPins = s.tapPins := rfl
@[simp] theorem State.bumpBy_tapDrive (s : State) (i j n : Nat) : (s.bumpBy i j n).tapDrive = s.tapDrive := rfl
@[simp] theorem State.bumpBy_tapDict (s : State) (i j n : Nat) : (s.bumpBy i j n).tapDict = s.tapDict := rfl
@[simp] theorem State.bumpBy_tapMem (s : State) (i j n : Nat) : (s.bumpBy i j n).tapMem = s.tapMem := rfl
@[simp] theorem State.bumpBy_stem (s : State) (i j n : Nat) : (s.bumpBy i j n).stem = s.stem := rfl
@[simp] theorem State.bumpBy_stemRr (s : State) (i j n : Nat) : (s.bumpBy i j n).stemRr = s.stemRr := rfl
@[simp] theorem State.bumpBy_cross (s : State) (i j n : Nat) : (s.bumpBy i j n).cross = s.cross := rfl
@[simp] theorem State.bumpBy_msixTab (s : State) (i j n : Nat) : (s.bumpBy i j n).msixTab = s.msixTab := rfl
@[simp] theorem State.bumpBy_paceSet (s : State) (i j n : Nat) : (s.bumpBy i j n).paceSet = s.paceSet := rfl
@[simp] theorem State.bumpBy_pipes (s : State) (i j n : Nat) : (s.bumpBy i j n).pipes = s.pipes := rfl
@[simp] theorem State.bumpBy_scratchBad (s : State) (i j n : Nat) : (s.bumpBy i j n).scratchBad = s.scratchBad := rfl
@[simp] theorem State.bumpBy_histOn (s : State) (i j n : Nat) : (s.bumpBy i j n).histOn = s.histOn := rfl
@[simp] theorem State.bumpBy_haltWords (s : State) (i j n : Nat) : (s.bumpBy i j n).haltWords = s.haltWords := rfl
@[simp] theorem State.bumpBy_domByte_reads (s : State) (i j n : Nat) (x y z : Nat) : (s.bumpBy i j n).domByte x y z = s.domByte x y z := rfl
@[simp] theorem State.bumpBy_memByte_reads (s : State) (i j n : Nat) (x : Nat) : (s.bumpBy i j n).memByte x = s.memByte x := rfl
@[simp] theorem State.bumpBy_winGet_reads (s : State) (i j n : Nat) (x : Nat) : (s.bumpBy i j n).winGet x = s.winGet x := rfl
@[simp] theorem State.bumpBy_thr_reads (s : State) (i j n : Nat) (x : Hart) : (s.bumpBy i j n).thr x = s.thr x := rfl
@[simp] theorem State.bumpBy_dreg_reads (s : State) (i j n : Nat) (x : Hart) (y : Reg) : (s.bumpBy i j n).dreg x y = s.dreg x y := rfl
@[simp] theorem State.bumpBy_areg_reads (s : State) (i j n : Nat) (x : Hart) (y : Reg) : (s.bumpBy i j n).areg x y = s.areg x y := rfl
@[simp] theorem State.bumpBy_acc_reads (s : State) (i j n : Nat) (x : Hart) (y : Fin 4) : (s.bumpBy i j n).acc x y = s.acc x y := rfl
@[simp] theorem State.bumpBy_creg_reads (s : State) (i j n : Nat) (x : Hart) (y : CReg) : (s.bumpBy i j n).creg x y = s.creg x y := rfl
@[simp] theorem State.bumpBy_core_reads (s : State) (i j n : Nat) (x : CoreId) : (s.bumpBy i j n).core x = s.core x := rfl
@[simp] theorem State.bumpBy_clus_reads (s : State) (i j n : Nat) (x : Petal) (y : Cluster) : (s.bumpBy i j n).clus x y = s.clus x y := rfl
@[simp] theorem State.bumpBy_chan_reads (s : State) (i j n : Nat) (x : Petal) (y : Nat) : (s.bumpBy i j n).chan x y = s.chan x y := rfl
@[simp] theorem State.bumpBy_pet_reads (s : State) (i j n : Nat) (x : Petal) : (s.bumpBy i j n).pet x = s.pet x := rfl
@[simp] theorem State.bumpBy_q_reads (s : State) (i j n : Nat) (x : Nat) : (s.bumpBy i j n).q x = s.q x := rfl
@[simp] theorem State.bumpBy_slot_reads (s : State) (i j n : Nat) (x : ThreadId) : (s.bumpBy i j n).slot x = s.slot x := rfl
@[simp] theorem State.bumpBy_coll_reads (s : State) (i j n : Nat) (x : Collector) : (s.bumpBy i j n).coll x = s.coll x := rfl
@[simp] theorem State.bumpBy_dram_reads (s : State) (i j n : Nat) (x : Nat) : (s.bumpBy i j n).dram x = s.dram x := rfl
@[simp] theorem State.bumpBy_mbox_reads (s : State) (i j n : Nat) (x : Nat) : (s.bumpBy i j n).mbox x = s.mbox x := rfl
@[simp] theorem State.bumpBy_pipe_reads (s : State) (i j n : Nat) (x : CoreId) : (s.bumpBy i j n).pipe x = s.pipe x := rfl

/-! ### State.bump changes `dict` -/

@[simp] theorem State.bump_time (s : State) (i j : Nat) : (s.bump i j).time = s.time := rfl
@[simp] theorem State.bump_pending (s : State) (i j : Nat) : (s.bump i j).pending = s.pending := rfl
@[simp] theorem State.bump_doms (s : State) (i j : Nat) : (s.bump i j).doms = s.doms := rfl
@[simp] theorem State.bump_mem (s : State) (i j : Nat) : (s.bump i j).mem = s.mem := rfl
@[simp] theorem State.bump_poison (s : State) (i j : Nat) : (s.bump i j).poison = s.poison := rfl
@[simp] theorem State.bump_fresh (s : State) (i j : Nat) : (s.bump i j).fresh = s.fresh := rfl
@[simp] theorem State.bump_out (s : State) (i j : Nat) : (s.bump i j).out = s.out := rfl
@[simp] theorem State.bump_win (s : State) (i j : Nat) : (s.bump i j).win = s.win := rfl
@[simp] theorem State.bump_threads (s : State) (i j : Nat) : (s.bump i j).threads = s.threads := rfl
@[simp] theorem State.bump_cores (s : State) (i j : Nat) : (s.bump i j).cores = s.cores := rfl
@[simp] theorem State.bump_clusters (s : State) (i j : Nat) : (s.bump i j).clusters = s.clusters := rfl
@[simp] theorem State.bump_chans (s : State) (i j : Nat) : (s.bump i j).chans = s.chans := rfl
@[simp] theorem State.bump_census (s : State) (i j : Nat) : (s.bump i j).census = s.census := rfl
@[simp] theorem State.bump_colls (s : State) (i j : Nat) : (s.bump i j).colls = s.colls := rfl
@[simp] theorem State.bump_trans (s : State) (i j : Nat) : (s.bump i j).trans = s.trans := rfl
@[simp] theorem State.bump_staged (s : State) (i j : Nat) : (s.bump i j).staged = s.staged := rfl
@[simp] theorem State.bump_snaps (s : State) (i j : Nat) : (s.bump i j).snaps = s.snaps := rfl
@[simp] theorem State.bump_halts (s : State) (i j : Nat) : (s.bump i j).halts = s.halts := rfl
@[simp] theorem State.bump_haltDue (s : State) (i j : Nat) : (s.bump i j).haltDue = s.haltDue := rfl
@[simp] theorem State.bump_msixOpen (s : State) (i j : Nat) : (s.bump i j).msixOpen = s.msixOpen := rfl
@[simp] theorem State.bump_msixPend (s : State) (i j : Nat) : (s.bump i j).msixPend = s.msixPend := rfl
@[simp] theorem State.bump_busMaster (s : State) (i j : Nat) : (s.bump i j).busMaster = s.busMaster := rfl
@[simp] theorem State.bump_holders (s : State) (i j : Nat) : (s.bump i j).holders = s.holders := rfl
@[simp] theorem State.bump_waiters (s : State) (i j : Nat) : (s.bump i j).waiters = s.waiters := rfl
@[simp] theorem State.bump_drams (s : State) (i j : Nat) : (s.bump i j).drams = s.drams := rfl
@[simp] theorem State.bump_sessions (s : State) (i j : Nat) : (s.bump i j).sessions = s.sessions := rfl
@[simp] theorem State.bump_perst (s : State) (i j : Nat) : (s.bump i j).perst = s.perst := rfl
@[simp] theorem State.bump_petals (s : State) (i j : Nat) : (s.bump i j).petals = s.petals := rfl
@[simp] theorem State.bump_slots (s : State) (i j : Nat) : (s.bump i j).slots = s.slots := rfl
@[simp] theorem State.bump_tables (s : State) (i j : Nat) : (s.bump i j).tables = s.tables := rfl
@[simp] theorem State.bump_cow (s : State) (i j : Nat) : (s.bump i j).cow = s.cow := rfl
@[simp] theorem State.bump_rxPause (s : State) (i j : Nat) : (s.bump i j).rxPause = s.rxPause := rfl
@[simp] theorem State.bump_stalled (s : State) (i j : Nat) : (s.bump i j).stalled = s.stalled := rfl
@[simp] theorem State.bump_modes (s : State) (i j : Nat) : (s.bump i j).modes = s.modes := rfl
@[simp] theorem State.bump_mism (s : State) (i j : Nat) : (s.bump i j).mism = s.mism := rfl
@[simp] theorem State.bump_sorrel (s : State) (i j : Nat) : (s.bump i j).sorrel = s.sorrel := rfl
@[simp] theorem State.bump_swaps (s : State) (i j : Nat) : (s.bump i j).swaps = s.swaps := rfl
@[simp] theorem State.bump_mboxes (s : State) (i j : Nat) : (s.bump i j).mboxes = s.mboxes := rfl
@[simp] theorem State.bump_requeue (s : State) (i j : Nat) : (s.bump i j).requeue = s.requeue := rfl
@[simp] theorem State.bump_repairs (s : State) (i j : Nat) : (s.bump i j).repairs = s.repairs := rfl
@[simp] theorem State.bump_ceTimes (s : State) (i j : Nat) : (s.bump i j).ceTimes = s.ceTimes := rfl
@[simp] theorem State.bump_ueTimes (s : State) (i j : Nat) : (s.bump i j).ueTimes = s.ueTimes := rfl
@[simp] theorem State.bump_wearWarned (s : State) (i j : Nat) : (s.bump i j).wearWarned = s.wearWarned := rfl
@[simp] theorem State.bump_swapLogged (s : State) (i j : Nat) : (s.bump i j).swapLogged = s.swapLogged := rfl
@[simp] theorem State.bump_cntBase (s : State) (i j : Nat) : (s.bump i j).cntBase = s.cntBase := rfl
@[simp] theorem State.bump_journal (s : State) (i j : Nat) : (s.bump i j).journal = s.journal := rfl
@[simp] theorem State.bump_lastHash (s : State) (i j : Nat) : (s.bump i j).lastHash = s.lastHash := rfl
@[simp] theorem State.bump_heldSeqs (s : State) (i j : Nat) : (s.bump i j).heldSeqs = s.heldSeqs := rfl
@[simp] theorem State.bump_golneB (s : State) (i j : Nat) : (s.bump i j).golneB = s.golneB := rfl
@[simp] theorem State.bump_golneDown (s : State) (i j : Nat) : (s.bump i j).golneDown = s.golneDown := rfl
@[simp] theorem State.bump_act (s : State) (i j : Nat) : (s.bump i j).act = s.act := rfl
@[simp] theorem State.bump_minStart (s : State) (i j : Nat) : (s.bump i j).minStart = s.minStart := rfl
@[simp] theorem State.bump_noDram (s : State) (i j : Nat) : (s.bump i j).noDram = s.noDram := rfl
@[simp] theorem State.bump_nextRaise (s : State) (i j : Nat) : (s.bump i j).nextRaise = s.nextRaise := rfl
@[simp] theorem State.bump_pseq (s : State) (i j : Nat) : (s.bump i j).pseq = s.pseq := rfl
@[simp] theorem State.bump_unlockMeas (s : State) (i j : Nat) : (s.bump i j).unlockMeas = s.unlockMeas := rfl
@[simp] theorem State.bump_unlockEnd (s : State) (i j : Nat) : (s.bump i j).unlockEnd = s.unlockEnd := rfl
@[simp] theorem State.bump_unlockPetals (s : State) (i j : Nat) : (s.bump i j).unlockPetals = s.unlockPetals := rfl
@[simp] theorem State.bump_romStuck (s : State) (i j : Nat) : (s.bump i j).romStuck = s.romStuck := rfl
@[simp] theorem State.bump_minRetry (s : State) (i j : Nat) : (s.bump i j).minRetry = s.minRetry := rfl
@[simp] theorem State.bump_power (s : State) (i j : Nat) : (s.bump i j).power = s.power := rfl
@[simp] theorem State.bump_dumps (s : State) (i j : Nat) : (s.bump i j).dumps = s.dumps := rfl
@[simp] theorem State.bump_rootSyn (s : State) (i j : Nat) : (s.bump i j).rootSyn = s.rootSyn := rfl
@[simp] theorem State.bump_isoPorts (s : State) (i j : Nat) : (s.bump i j).isoPorts = s.isoPorts := rfl
@[simp] theorem State.bump_haltTimes (s : State) (i j : Nat) : (s.bump i j).haltTimes = s.haltTimes := rfl
@[simp] theorem State.bump_restartAsked (s : State) (i j : Nat) : (s.bump i j).restartAsked = s.restartAsked := rfl
@[simp] theorem State.bump_frozen (s : State) (i j : Nat) : (s.bump i j).frozen = s.frozen := rfl
@[simp] theorem State.bump_canErr (s : State) (i j : Nat) : (s.bump i j).canErr = s.canErr := rfl
@[simp] theorem State.bump_capLimit (s : State) (i j : Nat) : (s.bump i j).capLimit = s.capLimit := rfl
@[simp] theorem State.bump_capParked (s : State) (i j : Nat) : (s.bump i j).capParked = s.capParked := rfl
@[simp] theorem State.bump_heatLimit (s : State) (i j : Nat) : (s.bump i j).heatLimit = s.heatLimit := rfl
@[simp] theorem State.bump_railLock (s : State) (i j : Nat) : (s.bump i j).railLock = s.railLock := rfl
@[simp] theorem State.bump_paceLow (s : State) (i j : Nat) : (s.bump i j).paceLow = s.paceLow := rfl
@[simp] theorem State.bump_boost (s : State) (i j : Nat) : (s.bump i j).boost = s.boost := rfl
@[simp] theorem State.bump_bulk (s : State) (i j : Nat) : (s.bump i j).bulk = s.bulk := rfl
@[simp] theorem State.bump_sdo (s : State) (i j : Nat) : (s.bump i j).sdo = s.sdo := rfl
@[simp] theorem State.bump_accums (s : State) (i j : Nat) : (s.bump i j).accums = s.accums := rfl
@[simp] theorem State.bump_eids (s : State) (i j : Nat) : (s.bump i j).eids = s.eids := rfl
@[simp] theorem State.bump_dbgEnHigh (s : State) (i j : Nat) : (s.bump i j).dbgEnHigh = s.dbgEnHigh := rfl
@[simp] theorem State.bump_tapIr (s : State) (i j : Nat) : (s.bump i j).tapIr = s.tapIr := rfl
@[simp] theorem State.bump_tapPins (s : State) (i j : Nat) : (s.bump i j).tapPins = s.tapPins := rfl
@[simp] theorem State.bump_tapDrive (s : State) (i j : Nat) : (s.bump i j).tapDrive = s.tapDrive := rfl
@[simp] theorem State.bump_tapDict (s : State) (i j : Nat) : (s.bump i j).tapDict = s.tapDict := rfl
@[simp] theorem State.bump_tapMem (s : State) (i j : Nat) : (s.bump i j).tapMem = s.tapMem := rfl
@[simp] theorem State.bump_stem (s : State) (i j : Nat) : (s.bump i j).stem = s.stem := rfl
@[simp] theorem State.bump_stemRr (s : State) (i j : Nat) : (s.bump i j).stemRr = s.stemRr := rfl
@[simp] theorem State.bump_cross (s : State) (i j : Nat) : (s.bump i j).cross = s.cross := rfl
@[simp] theorem State.bump_msixTab (s : State) (i j : Nat) : (s.bump i j).msixTab = s.msixTab := rfl
@[simp] theorem State.bump_paceSet (s : State) (i j : Nat) : (s.bump i j).paceSet = s.paceSet := rfl
@[simp] theorem State.bump_pipes (s : State) (i j : Nat) : (s.bump i j).pipes = s.pipes := rfl
@[simp] theorem State.bump_scratchBad (s : State) (i j : Nat) : (s.bump i j).scratchBad = s.scratchBad := rfl
@[simp] theorem State.bump_histOn (s : State) (i j : Nat) : (s.bump i j).histOn = s.histOn := rfl
@[simp] theorem State.bump_haltWords (s : State) (i j : Nat) : (s.bump i j).haltWords = s.haltWords := rfl
@[simp] theorem State.bump_domByte_reads (s : State) (i j : Nat) (x y z : Nat) : (s.bump i j).domByte x y z = s.domByte x y z := rfl
@[simp] theorem State.bump_memByte_reads (s : State) (i j : Nat) (x : Nat) : (s.bump i j).memByte x = s.memByte x := rfl
@[simp] theorem State.bump_winGet_reads (s : State) (i j : Nat) (x : Nat) : (s.bump i j).winGet x = s.winGet x := rfl
@[simp] theorem State.bump_thr_reads (s : State) (i j : Nat) (x : Hart) : (s.bump i j).thr x = s.thr x := rfl
@[simp] theorem State.bump_dreg_reads (s : State) (i j : Nat) (x : Hart) (y : Reg) : (s.bump i j).dreg x y = s.dreg x y := rfl
@[simp] theorem State.bump_areg_reads (s : State) (i j : Nat) (x : Hart) (y : Reg) : (s.bump i j).areg x y = s.areg x y := rfl
@[simp] theorem State.bump_acc_reads (s : State) (i j : Nat) (x : Hart) (y : Fin 4) : (s.bump i j).acc x y = s.acc x y := rfl
@[simp] theorem State.bump_creg_reads (s : State) (i j : Nat) (x : Hart) (y : CReg) : (s.bump i j).creg x y = s.creg x y := rfl
@[simp] theorem State.bump_core_reads (s : State) (i j : Nat) (x : CoreId) : (s.bump i j).core x = s.core x := rfl
@[simp] theorem State.bump_clus_reads (s : State) (i j : Nat) (x : Petal) (y : Cluster) : (s.bump i j).clus x y = s.clus x y := rfl
@[simp] theorem State.bump_chan_reads (s : State) (i j : Nat) (x : Petal) (y : Nat) : (s.bump i j).chan x y = s.chan x y := rfl
@[simp] theorem State.bump_pet_reads (s : State) (i j : Nat) (x : Petal) : (s.bump i j).pet x = s.pet x := rfl
@[simp] theorem State.bump_q_reads (s : State) (i j : Nat) (x : Nat) : (s.bump i j).q x = s.q x := rfl
@[simp] theorem State.bump_slot_reads (s : State) (i j : Nat) (x : ThreadId) : (s.bump i j).slot x = s.slot x := rfl
@[simp] theorem State.bump_coll_reads (s : State) (i j : Nat) (x : Collector) : (s.bump i j).coll x = s.coll x := rfl
@[simp] theorem State.bump_dram_reads (s : State) (i j : Nat) (x : Nat) : (s.bump i j).dram x = s.dram x := rfl
@[simp] theorem State.bump_mbox_reads (s : State) (i j : Nat) (x : Nat) : (s.bump i j).mbox x = s.mbox x := rfl
@[simp] theorem State.bump_pipe_reads (s : State) (i j : Nat) (x : CoreId) : (s.bump i j).pipe x = s.pipe x := rfl

/-! ### State.domClear changes `doms` -/

@[simp] theorem State.domClear_time (s : State) (i j o n : Nat) : (s.domClear i j o n).time = s.time := rfl
@[simp] theorem State.domClear_pending (s : State) (i j o n : Nat) : (s.domClear i j o n).pending = s.pending := rfl
@[simp] theorem State.domClear_dict (s : State) (i j o n : Nat) : (s.domClear i j o n).dict = s.dict := rfl
@[simp] theorem State.domClear_mem (s : State) (i j o n : Nat) : (s.domClear i j o n).mem = s.mem := rfl
@[simp] theorem State.domClear_poison (s : State) (i j o n : Nat) : (s.domClear i j o n).poison = s.poison := rfl
@[simp] theorem State.domClear_fresh (s : State) (i j o n : Nat) : (s.domClear i j o n).fresh = s.fresh := rfl
@[simp] theorem State.domClear_out (s : State) (i j o n : Nat) : (s.domClear i j o n).out = s.out := rfl
@[simp] theorem State.domClear_win (s : State) (i j o n : Nat) : (s.domClear i j o n).win = s.win := rfl
@[simp] theorem State.domClear_threads (s : State) (i j o n : Nat) : (s.domClear i j o n).threads = s.threads := rfl
@[simp] theorem State.domClear_cores (s : State) (i j o n : Nat) : (s.domClear i j o n).cores = s.cores := rfl
@[simp] theorem State.domClear_clusters (s : State) (i j o n : Nat) : (s.domClear i j o n).clusters = s.clusters := rfl
@[simp] theorem State.domClear_chans (s : State) (i j o n : Nat) : (s.domClear i j o n).chans = s.chans := rfl
@[simp] theorem State.domClear_census (s : State) (i j o n : Nat) : (s.domClear i j o n).census = s.census := rfl
@[simp] theorem State.domClear_colls (s : State) (i j o n : Nat) : (s.domClear i j o n).colls = s.colls := rfl
@[simp] theorem State.domClear_trans (s : State) (i j o n : Nat) : (s.domClear i j o n).trans = s.trans := rfl
@[simp] theorem State.domClear_staged (s : State) (i j o n : Nat) : (s.domClear i j o n).staged = s.staged := rfl
@[simp] theorem State.domClear_snaps (s : State) (i j o n : Nat) : (s.domClear i j o n).snaps = s.snaps := rfl
@[simp] theorem State.domClear_halts (s : State) (i j o n : Nat) : (s.domClear i j o n).halts = s.halts := rfl
@[simp] theorem State.domClear_haltDue (s : State) (i j o n : Nat) : (s.domClear i j o n).haltDue = s.haltDue := rfl
@[simp] theorem State.domClear_msixOpen (s : State) (i j o n : Nat) : (s.domClear i j o n).msixOpen = s.msixOpen := rfl
@[simp] theorem State.domClear_msixPend (s : State) (i j o n : Nat) : (s.domClear i j o n).msixPend = s.msixPend := rfl
@[simp] theorem State.domClear_busMaster (s : State) (i j o n : Nat) : (s.domClear i j o n).busMaster = s.busMaster := rfl
@[simp] theorem State.domClear_holders (s : State) (i j o n : Nat) : (s.domClear i j o n).holders = s.holders := rfl
@[simp] theorem State.domClear_waiters (s : State) (i j o n : Nat) : (s.domClear i j o n).waiters = s.waiters := rfl
@[simp] theorem State.domClear_drams (s : State) (i j o n : Nat) : (s.domClear i j o n).drams = s.drams := rfl
@[simp] theorem State.domClear_sessions (s : State) (i j o n : Nat) : (s.domClear i j o n).sessions = s.sessions := rfl
@[simp] theorem State.domClear_perst (s : State) (i j o n : Nat) : (s.domClear i j o n).perst = s.perst := rfl
@[simp] theorem State.domClear_petals (s : State) (i j o n : Nat) : (s.domClear i j o n).petals = s.petals := rfl
@[simp] theorem State.domClear_slots (s : State) (i j o n : Nat) : (s.domClear i j o n).slots = s.slots := rfl
@[simp] theorem State.domClear_tables (s : State) (i j o n : Nat) : (s.domClear i j o n).tables = s.tables := rfl
@[simp] theorem State.domClear_cow (s : State) (i j o n : Nat) : (s.domClear i j o n).cow = s.cow := rfl
@[simp] theorem State.domClear_rxPause (s : State) (i j o n : Nat) : (s.domClear i j o n).rxPause = s.rxPause := rfl
@[simp] theorem State.domClear_stalled (s : State) (i j o n : Nat) : (s.domClear i j o n).stalled = s.stalled := rfl
@[simp] theorem State.domClear_modes (s : State) (i j o n : Nat) : (s.domClear i j o n).modes = s.modes := rfl
@[simp] theorem State.domClear_mism (s : State) (i j o n : Nat) : (s.domClear i j o n).mism = s.mism := rfl
@[simp] theorem State.domClear_sorrel (s : State) (i j o n : Nat) : (s.domClear i j o n).sorrel = s.sorrel := rfl
@[simp] theorem State.domClear_swaps (s : State) (i j o n : Nat) : (s.domClear i j o n).swaps = s.swaps := rfl
@[simp] theorem State.domClear_mboxes (s : State) (i j o n : Nat) : (s.domClear i j o n).mboxes = s.mboxes := rfl
@[simp] theorem State.domClear_requeue (s : State) (i j o n : Nat) : (s.domClear i j o n).requeue = s.requeue := rfl
@[simp] theorem State.domClear_repairs (s : State) (i j o n : Nat) : (s.domClear i j o n).repairs = s.repairs := rfl
@[simp] theorem State.domClear_ceTimes (s : State) (i j o n : Nat) : (s.domClear i j o n).ceTimes = s.ceTimes := rfl
@[simp] theorem State.domClear_ueTimes (s : State) (i j o n : Nat) : (s.domClear i j o n).ueTimes = s.ueTimes := rfl
@[simp] theorem State.domClear_wearWarned (s : State) (i j o n : Nat) : (s.domClear i j o n).wearWarned = s.wearWarned := rfl
@[simp] theorem State.domClear_swapLogged (s : State) (i j o n : Nat) : (s.domClear i j o n).swapLogged = s.swapLogged := rfl
@[simp] theorem State.domClear_cntBase (s : State) (i j o n : Nat) : (s.domClear i j o n).cntBase = s.cntBase := rfl
@[simp] theorem State.domClear_journal (s : State) (i j o n : Nat) : (s.domClear i j o n).journal = s.journal := rfl
@[simp] theorem State.domClear_lastHash (s : State) (i j o n : Nat) : (s.domClear i j o n).lastHash = s.lastHash := rfl
@[simp] theorem State.domClear_heldSeqs (s : State) (i j o n : Nat) : (s.domClear i j o n).heldSeqs = s.heldSeqs := rfl
@[simp] theorem State.domClear_golneB (s : State) (i j o n : Nat) : (s.domClear i j o n).golneB = s.golneB := rfl
@[simp] theorem State.domClear_golneDown (s : State) (i j o n : Nat) : (s.domClear i j o n).golneDown = s.golneDown := rfl
@[simp] theorem State.domClear_act (s : State) (i j o n : Nat) : (s.domClear i j o n).act = s.act := rfl
@[simp] theorem State.domClear_minStart (s : State) (i j o n : Nat) : (s.domClear i j o n).minStart = s.minStart := rfl
@[simp] theorem State.domClear_noDram (s : State) (i j o n : Nat) : (s.domClear i j o n).noDram = s.noDram := rfl
@[simp] theorem State.domClear_nextRaise (s : State) (i j o n : Nat) : (s.domClear i j o n).nextRaise = s.nextRaise := rfl
@[simp] theorem State.domClear_pseq (s : State) (i j o n : Nat) : (s.domClear i j o n).pseq = s.pseq := rfl
@[simp] theorem State.domClear_unlockMeas (s : State) (i j o n : Nat) : (s.domClear i j o n).unlockMeas = s.unlockMeas := rfl
@[simp] theorem State.domClear_unlockEnd (s : State) (i j o n : Nat) : (s.domClear i j o n).unlockEnd = s.unlockEnd := rfl
@[simp] theorem State.domClear_unlockPetals (s : State) (i j o n : Nat) : (s.domClear i j o n).unlockPetals = s.unlockPetals := rfl
@[simp] theorem State.domClear_romStuck (s : State) (i j o n : Nat) : (s.domClear i j o n).romStuck = s.romStuck := rfl
@[simp] theorem State.domClear_minRetry (s : State) (i j o n : Nat) : (s.domClear i j o n).minRetry = s.minRetry := rfl
@[simp] theorem State.domClear_power (s : State) (i j o n : Nat) : (s.domClear i j o n).power = s.power := rfl
@[simp] theorem State.domClear_dumps (s : State) (i j o n : Nat) : (s.domClear i j o n).dumps = s.dumps := rfl
@[simp] theorem State.domClear_rootSyn (s : State) (i j o n : Nat) : (s.domClear i j o n).rootSyn = s.rootSyn := rfl
@[simp] theorem State.domClear_isoPorts (s : State) (i j o n : Nat) : (s.domClear i j o n).isoPorts = s.isoPorts := rfl
@[simp] theorem State.domClear_haltTimes (s : State) (i j o n : Nat) : (s.domClear i j o n).haltTimes = s.haltTimes := rfl
@[simp] theorem State.domClear_restartAsked (s : State) (i j o n : Nat) : (s.domClear i j o n).restartAsked = s.restartAsked := rfl
@[simp] theorem State.domClear_frozen (s : State) (i j o n : Nat) : (s.domClear i j o n).frozen = s.frozen := rfl
@[simp] theorem State.domClear_canErr (s : State) (i j o n : Nat) : (s.domClear i j o n).canErr = s.canErr := rfl
@[simp] theorem State.domClear_capLimit (s : State) (i j o n : Nat) : (s.domClear i j o n).capLimit = s.capLimit := rfl
@[simp] theorem State.domClear_capParked (s : State) (i j o n : Nat) : (s.domClear i j o n).capParked = s.capParked := rfl
@[simp] theorem State.domClear_heatLimit (s : State) (i j o n : Nat) : (s.domClear i j o n).heatLimit = s.heatLimit := rfl
@[simp] theorem State.domClear_railLock (s : State) (i j o n : Nat) : (s.domClear i j o n).railLock = s.railLock := rfl
@[simp] theorem State.domClear_paceLow (s : State) (i j o n : Nat) : (s.domClear i j o n).paceLow = s.paceLow := rfl
@[simp] theorem State.domClear_boost (s : State) (i j o n : Nat) : (s.domClear i j o n).boost = s.boost := rfl
@[simp] theorem State.domClear_bulk (s : State) (i j o n : Nat) : (s.domClear i j o n).bulk = s.bulk := rfl
@[simp] theorem State.domClear_sdo (s : State) (i j o n : Nat) : (s.domClear i j o n).sdo = s.sdo := rfl
@[simp] theorem State.domClear_accums (s : State) (i j o n : Nat) : (s.domClear i j o n).accums = s.accums := rfl
@[simp] theorem State.domClear_eids (s : State) (i j o n : Nat) : (s.domClear i j o n).eids = s.eids := rfl
@[simp] theorem State.domClear_dbgEnHigh (s : State) (i j o n : Nat) : (s.domClear i j o n).dbgEnHigh = s.dbgEnHigh := rfl
@[simp] theorem State.domClear_tapIr (s : State) (i j o n : Nat) : (s.domClear i j o n).tapIr = s.tapIr := rfl
@[simp] theorem State.domClear_tapPins (s : State) (i j o n : Nat) : (s.domClear i j o n).tapPins = s.tapPins := rfl
@[simp] theorem State.domClear_tapDrive (s : State) (i j o n : Nat) : (s.domClear i j o n).tapDrive = s.tapDrive := rfl
@[simp] theorem State.domClear_tapDict (s : State) (i j o n : Nat) : (s.domClear i j o n).tapDict = s.tapDict := rfl
@[simp] theorem State.domClear_tapMem (s : State) (i j o n : Nat) : (s.domClear i j o n).tapMem = s.tapMem := rfl
@[simp] theorem State.domClear_stem (s : State) (i j o n : Nat) : (s.domClear i j o n).stem = s.stem := rfl
@[simp] theorem State.domClear_stemRr (s : State) (i j o n : Nat) : (s.domClear i j o n).stemRr = s.stemRr := rfl
@[simp] theorem State.domClear_cross (s : State) (i j o n : Nat) : (s.domClear i j o n).cross = s.cross := rfl
@[simp] theorem State.domClear_msixTab (s : State) (i j o n : Nat) : (s.domClear i j o n).msixTab = s.msixTab := rfl
@[simp] theorem State.domClear_paceSet (s : State) (i j o n : Nat) : (s.domClear i j o n).paceSet = s.paceSet := rfl
@[simp] theorem State.domClear_pipes (s : State) (i j o n : Nat) : (s.domClear i j o n).pipes = s.pipes := rfl
@[simp] theorem State.domClear_scratchBad (s : State) (i j o n : Nat) : (s.domClear i j o n).scratchBad = s.scratchBad := rfl
@[simp] theorem State.domClear_histOn (s : State) (i j o n : Nat) : (s.domClear i j o n).histOn = s.histOn := rfl
@[simp] theorem State.domClear_haltWords (s : State) (i j o n : Nat) : (s.domClear i j o n).haltWords = s.haltWords := rfl
@[simp] theorem State.domClear_dget_reads (s : State) (i j o n : Nat) (x y : Nat) : (s.domClear i j o n).dget x y = s.dget x y := rfl
@[simp] theorem State.domClear_memByte_reads (s : State) (i j o n : Nat) (x : Nat) : (s.domClear i j o n).memByte x = s.memByte x := rfl
@[simp] theorem State.domClear_winGet_reads (s : State) (i j o n : Nat) (x : Nat) : (s.domClear i j o n).winGet x = s.winGet x := rfl
@[simp] theorem State.domClear_thr_reads (s : State) (i j o n : Nat) (x : Hart) : (s.domClear i j o n).thr x = s.thr x := rfl
@[simp] theorem State.domClear_dreg_reads (s : State) (i j o n : Nat) (x : Hart) (y : Reg) : (s.domClear i j o n).dreg x y = s.dreg x y := rfl
@[simp] theorem State.domClear_areg_reads (s : State) (i j o n : Nat) (x : Hart) (y : Reg) : (s.domClear i j o n).areg x y = s.areg x y := rfl
@[simp] theorem State.domClear_acc_reads (s : State) (i j o n : Nat) (x : Hart) (y : Fin 4) : (s.domClear i j o n).acc x y = s.acc x y := rfl
@[simp] theorem State.domClear_creg_reads (s : State) (i j o n : Nat) (x : Hart) (y : CReg) : (s.domClear i j o n).creg x y = s.creg x y := rfl
@[simp] theorem State.domClear_core_reads (s : State) (i j o n : Nat) (x : CoreId) : (s.domClear i j o n).core x = s.core x := rfl
@[simp] theorem State.domClear_clus_reads (s : State) (i j o n : Nat) (x : Petal) (y : Cluster) : (s.domClear i j o n).clus x y = s.clus x y := rfl
@[simp] theorem State.domClear_chan_reads (s : State) (i j o n : Nat) (x : Petal) (y : Nat) : (s.domClear i j o n).chan x y = s.chan x y := rfl
@[simp] theorem State.domClear_pet_reads (s : State) (i j o n : Nat) (x : Petal) : (s.domClear i j o n).pet x = s.pet x := rfl
@[simp] theorem State.domClear_q_reads (s : State) (i j o n : Nat) (x : Nat) : (s.domClear i j o n).q x = s.q x := rfl
@[simp] theorem State.domClear_slot_reads (s : State) (i j o n : Nat) (x : ThreadId) : (s.domClear i j o n).slot x = s.slot x := rfl
@[simp] theorem State.domClear_coll_reads (s : State) (i j o n : Nat) (x : Collector) : (s.domClear i j o n).coll x = s.coll x := rfl
@[simp] theorem State.domClear_dram_reads (s : State) (i j o n : Nat) (x : Nat) : (s.domClear i j o n).dram x = s.dram x := rfl
@[simp] theorem State.domClear_mbox_reads (s : State) (i j o n : Nat) (x : Nat) : (s.domClear i j o n).mbox x = s.mbox x := rfl
@[simp] theorem State.domClear_pipe_reads (s : State) (i j o n : Nat) (x : CoreId) : (s.domClear i j o n).pipe x = s.pipe x := rfl

/-! ### State.domWrite changes `doms` -/

@[simp] theorem State.domWrite_time (s : State) (i j o : Nat) (l : List Byte) : (s.domWrite i j o l).time = s.time := by rw [State.domWrite_eq]
@[simp] theorem State.domWrite_pending (s : State) (i j o : Nat) (l : List Byte) : (s.domWrite i j o l).pending = s.pending := by rw [State.domWrite_eq]
@[simp] theorem State.domWrite_dict (s : State) (i j o : Nat) (l : List Byte) : (s.domWrite i j o l).dict = s.dict := by rw [State.domWrite_eq]
@[simp] theorem State.domWrite_mem (s : State) (i j o : Nat) (l : List Byte) : (s.domWrite i j o l).mem = s.mem := by rw [State.domWrite_eq]
@[simp] theorem State.domWrite_poison (s : State) (i j o : Nat) (l : List Byte) : (s.domWrite i j o l).poison = s.poison := by rw [State.domWrite_eq]
@[simp] theorem State.domWrite_fresh (s : State) (i j o : Nat) (l : List Byte) : (s.domWrite i j o l).fresh = s.fresh := by rw [State.domWrite_eq]
@[simp] theorem State.domWrite_out (s : State) (i j o : Nat) (l : List Byte) : (s.domWrite i j o l).out = s.out := by rw [State.domWrite_eq]
@[simp] theorem State.domWrite_win (s : State) (i j o : Nat) (l : List Byte) : (s.domWrite i j o l).win = s.win := by rw [State.domWrite_eq]
@[simp] theorem State.domWrite_threads (s : State) (i j o : Nat) (l : List Byte) : (s.domWrite i j o l).threads = s.threads := by rw [State.domWrite_eq]
@[simp] theorem State.domWrite_cores (s : State) (i j o : Nat) (l : List Byte) : (s.domWrite i j o l).cores = s.cores := by rw [State.domWrite_eq]
@[simp] theorem State.domWrite_clusters (s : State) (i j o : Nat) (l : List Byte) : (s.domWrite i j o l).clusters = s.clusters := by rw [State.domWrite_eq]
@[simp] theorem State.domWrite_chans (s : State) (i j o : Nat) (l : List Byte) : (s.domWrite i j o l).chans = s.chans := by rw [State.domWrite_eq]
@[simp] theorem State.domWrite_census (s : State) (i j o : Nat) (l : List Byte) : (s.domWrite i j o l).census = s.census := by rw [State.domWrite_eq]
@[simp] theorem State.domWrite_colls (s : State) (i j o : Nat) (l : List Byte) : (s.domWrite i j o l).colls = s.colls := by rw [State.domWrite_eq]
@[simp] theorem State.domWrite_trans (s : State) (i j o : Nat) (l : List Byte) : (s.domWrite i j o l).trans = s.trans := by rw [State.domWrite_eq]
@[simp] theorem State.domWrite_staged (s : State) (i j o : Nat) (l : List Byte) : (s.domWrite i j o l).staged = s.staged := by rw [State.domWrite_eq]
@[simp] theorem State.domWrite_snaps (s : State) (i j o : Nat) (l : List Byte) : (s.domWrite i j o l).snaps = s.snaps := by rw [State.domWrite_eq]
@[simp] theorem State.domWrite_halts (s : State) (i j o : Nat) (l : List Byte) : (s.domWrite i j o l).halts = s.halts := by rw [State.domWrite_eq]
@[simp] theorem State.domWrite_haltDue (s : State) (i j o : Nat) (l : List Byte) : (s.domWrite i j o l).haltDue = s.haltDue := by rw [State.domWrite_eq]
@[simp] theorem State.domWrite_msixOpen (s : State) (i j o : Nat) (l : List Byte) : (s.domWrite i j o l).msixOpen = s.msixOpen := by rw [State.domWrite_eq]
@[simp] theorem State.domWrite_msixPend (s : State) (i j o : Nat) (l : List Byte) : (s.domWrite i j o l).msixPend = s.msixPend := by rw [State.domWrite_eq]
@[simp] theorem State.domWrite_busMaster (s : State) (i j o : Nat) (l : List Byte) : (s.domWrite i j o l).busMaster = s.busMaster := by rw [State.domWrite_eq]
@[simp] theorem State.domWrite_holders (s : State) (i j o : Nat) (l : List Byte) : (s.domWrite i j o l).holders = s.holders := by rw [State.domWrite_eq]
@[simp] theorem State.domWrite_waiters (s : State) (i j o : Nat) (l : List Byte) : (s.domWrite i j o l).waiters = s.waiters := by rw [State.domWrite_eq]
@[simp] theorem State.domWrite_drams (s : State) (i j o : Nat) (l : List Byte) : (s.domWrite i j o l).drams = s.drams := by rw [State.domWrite_eq]
@[simp] theorem State.domWrite_sessions (s : State) (i j o : Nat) (l : List Byte) : (s.domWrite i j o l).sessions = s.sessions := by rw [State.domWrite_eq]
@[simp] theorem State.domWrite_perst (s : State) (i j o : Nat) (l : List Byte) : (s.domWrite i j o l).perst = s.perst := by rw [State.domWrite_eq]
@[simp] theorem State.domWrite_petals (s : State) (i j o : Nat) (l : List Byte) : (s.domWrite i j o l).petals = s.petals := by rw [State.domWrite_eq]
@[simp] theorem State.domWrite_slots (s : State) (i j o : Nat) (l : List Byte) : (s.domWrite i j o l).slots = s.slots := by rw [State.domWrite_eq]
@[simp] theorem State.domWrite_tables (s : State) (i j o : Nat) (l : List Byte) : (s.domWrite i j o l).tables = s.tables := by rw [State.domWrite_eq]
@[simp] theorem State.domWrite_cow (s : State) (i j o : Nat) (l : List Byte) : (s.domWrite i j o l).cow = s.cow := by rw [State.domWrite_eq]
@[simp] theorem State.domWrite_rxPause (s : State) (i j o : Nat) (l : List Byte) : (s.domWrite i j o l).rxPause = s.rxPause := by rw [State.domWrite_eq]
@[simp] theorem State.domWrite_stalled (s : State) (i j o : Nat) (l : List Byte) : (s.domWrite i j o l).stalled = s.stalled := by rw [State.domWrite_eq]
@[simp] theorem State.domWrite_modes (s : State) (i j o : Nat) (l : List Byte) : (s.domWrite i j o l).modes = s.modes := by rw [State.domWrite_eq]
@[simp] theorem State.domWrite_mism (s : State) (i j o : Nat) (l : List Byte) : (s.domWrite i j o l).mism = s.mism := by rw [State.domWrite_eq]
@[simp] theorem State.domWrite_sorrel (s : State) (i j o : Nat) (l : List Byte) : (s.domWrite i j o l).sorrel = s.sorrel := by rw [State.domWrite_eq]
@[simp] theorem State.domWrite_swaps (s : State) (i j o : Nat) (l : List Byte) : (s.domWrite i j o l).swaps = s.swaps := by rw [State.domWrite_eq]
@[simp] theorem State.domWrite_mboxes (s : State) (i j o : Nat) (l : List Byte) : (s.domWrite i j o l).mboxes = s.mboxes := by rw [State.domWrite_eq]
@[simp] theorem State.domWrite_requeue (s : State) (i j o : Nat) (l : List Byte) : (s.domWrite i j o l).requeue = s.requeue := by rw [State.domWrite_eq]
@[simp] theorem State.domWrite_repairs (s : State) (i j o : Nat) (l : List Byte) : (s.domWrite i j o l).repairs = s.repairs := by rw [State.domWrite_eq]
@[simp] theorem State.domWrite_ceTimes (s : State) (i j o : Nat) (l : List Byte) : (s.domWrite i j o l).ceTimes = s.ceTimes := by rw [State.domWrite_eq]
@[simp] theorem State.domWrite_ueTimes (s : State) (i j o : Nat) (l : List Byte) : (s.domWrite i j o l).ueTimes = s.ueTimes := by rw [State.domWrite_eq]
@[simp] theorem State.domWrite_wearWarned (s : State) (i j o : Nat) (l : List Byte) : (s.domWrite i j o l).wearWarned = s.wearWarned := by rw [State.domWrite_eq]
@[simp] theorem State.domWrite_swapLogged (s : State) (i j o : Nat) (l : List Byte) : (s.domWrite i j o l).swapLogged = s.swapLogged := by rw [State.domWrite_eq]
@[simp] theorem State.domWrite_cntBase (s : State) (i j o : Nat) (l : List Byte) : (s.domWrite i j o l).cntBase = s.cntBase := by rw [State.domWrite_eq]
@[simp] theorem State.domWrite_journal (s : State) (i j o : Nat) (l : List Byte) : (s.domWrite i j o l).journal = s.journal := by rw [State.domWrite_eq]
@[simp] theorem State.domWrite_lastHash (s : State) (i j o : Nat) (l : List Byte) : (s.domWrite i j o l).lastHash = s.lastHash := by rw [State.domWrite_eq]
@[simp] theorem State.domWrite_heldSeqs (s : State) (i j o : Nat) (l : List Byte) : (s.domWrite i j o l).heldSeqs = s.heldSeqs := by rw [State.domWrite_eq]
@[simp] theorem State.domWrite_golneB (s : State) (i j o : Nat) (l : List Byte) : (s.domWrite i j o l).golneB = s.golneB := by rw [State.domWrite_eq]
@[simp] theorem State.domWrite_golneDown (s : State) (i j o : Nat) (l : List Byte) : (s.domWrite i j o l).golneDown = s.golneDown := by rw [State.domWrite_eq]
@[simp] theorem State.domWrite_act (s : State) (i j o : Nat) (l : List Byte) : (s.domWrite i j o l).act = s.act := by rw [State.domWrite_eq]
@[simp] theorem State.domWrite_minStart (s : State) (i j o : Nat) (l : List Byte) : (s.domWrite i j o l).minStart = s.minStart := by rw [State.domWrite_eq]
@[simp] theorem State.domWrite_noDram (s : State) (i j o : Nat) (l : List Byte) : (s.domWrite i j o l).noDram = s.noDram := by rw [State.domWrite_eq]
@[simp] theorem State.domWrite_nextRaise (s : State) (i j o : Nat) (l : List Byte) : (s.domWrite i j o l).nextRaise = s.nextRaise := by rw [State.domWrite_eq]
@[simp] theorem State.domWrite_pseq (s : State) (i j o : Nat) (l : List Byte) : (s.domWrite i j o l).pseq = s.pseq := by rw [State.domWrite_eq]
@[simp] theorem State.domWrite_unlockMeas (s : State) (i j o : Nat) (l : List Byte) : (s.domWrite i j o l).unlockMeas = s.unlockMeas := by rw [State.domWrite_eq]
@[simp] theorem State.domWrite_unlockEnd (s : State) (i j o : Nat) (l : List Byte) : (s.domWrite i j o l).unlockEnd = s.unlockEnd := by rw [State.domWrite_eq]
@[simp] theorem State.domWrite_unlockPetals (s : State) (i j o : Nat) (l : List Byte) : (s.domWrite i j o l).unlockPetals = s.unlockPetals := by rw [State.domWrite_eq]
@[simp] theorem State.domWrite_romStuck (s : State) (i j o : Nat) (l : List Byte) : (s.domWrite i j o l).romStuck = s.romStuck := by rw [State.domWrite_eq]
@[simp] theorem State.domWrite_minRetry (s : State) (i j o : Nat) (l : List Byte) : (s.domWrite i j o l).minRetry = s.minRetry := by rw [State.domWrite_eq]
@[simp] theorem State.domWrite_power (s : State) (i j o : Nat) (l : List Byte) : (s.domWrite i j o l).power = s.power := by rw [State.domWrite_eq]
@[simp] theorem State.domWrite_dumps (s : State) (i j o : Nat) (l : List Byte) : (s.domWrite i j o l).dumps = s.dumps := by rw [State.domWrite_eq]
@[simp] theorem State.domWrite_rootSyn (s : State) (i j o : Nat) (l : List Byte) : (s.domWrite i j o l).rootSyn = s.rootSyn := by rw [State.domWrite_eq]
@[simp] theorem State.domWrite_isoPorts (s : State) (i j o : Nat) (l : List Byte) : (s.domWrite i j o l).isoPorts = s.isoPorts := by rw [State.domWrite_eq]
@[simp] theorem State.domWrite_haltTimes (s : State) (i j o : Nat) (l : List Byte) : (s.domWrite i j o l).haltTimes = s.haltTimes := by rw [State.domWrite_eq]
@[simp] theorem State.domWrite_restartAsked (s : State) (i j o : Nat) (l : List Byte) : (s.domWrite i j o l).restartAsked = s.restartAsked := by rw [State.domWrite_eq]
@[simp] theorem State.domWrite_frozen (s : State) (i j o : Nat) (l : List Byte) : (s.domWrite i j o l).frozen = s.frozen := by rw [State.domWrite_eq]
@[simp] theorem State.domWrite_canErr (s : State) (i j o : Nat) (l : List Byte) : (s.domWrite i j o l).canErr = s.canErr := by rw [State.domWrite_eq]
@[simp] theorem State.domWrite_capLimit (s : State) (i j o : Nat) (l : List Byte) : (s.domWrite i j o l).capLimit = s.capLimit := by rw [State.domWrite_eq]
@[simp] theorem State.domWrite_capParked (s : State) (i j o : Nat) (l : List Byte) : (s.domWrite i j o l).capParked = s.capParked := by rw [State.domWrite_eq]
@[simp] theorem State.domWrite_heatLimit (s : State) (i j o : Nat) (l : List Byte) : (s.domWrite i j o l).heatLimit = s.heatLimit := by rw [State.domWrite_eq]
@[simp] theorem State.domWrite_railLock (s : State) (i j o : Nat) (l : List Byte) : (s.domWrite i j o l).railLock = s.railLock := by rw [State.domWrite_eq]
@[simp] theorem State.domWrite_paceLow (s : State) (i j o : Nat) (l : List Byte) : (s.domWrite i j o l).paceLow = s.paceLow := by rw [State.domWrite_eq]
@[simp] theorem State.domWrite_boost (s : State) (i j o : Nat) (l : List Byte) : (s.domWrite i j o l).boost = s.boost := by rw [State.domWrite_eq]
@[simp] theorem State.domWrite_bulk (s : State) (i j o : Nat) (l : List Byte) : (s.domWrite i j o l).bulk = s.bulk := by rw [State.domWrite_eq]
@[simp] theorem State.domWrite_sdo (s : State) (i j o : Nat) (l : List Byte) : (s.domWrite i j o l).sdo = s.sdo := by rw [State.domWrite_eq]
@[simp] theorem State.domWrite_accums (s : State) (i j o : Nat) (l : List Byte) : (s.domWrite i j o l).accums = s.accums := by rw [State.domWrite_eq]
@[simp] theorem State.domWrite_eids (s : State) (i j o : Nat) (l : List Byte) : (s.domWrite i j o l).eids = s.eids := by rw [State.domWrite_eq]
@[simp] theorem State.domWrite_dbgEnHigh (s : State) (i j o : Nat) (l : List Byte) : (s.domWrite i j o l).dbgEnHigh = s.dbgEnHigh := by rw [State.domWrite_eq]
@[simp] theorem State.domWrite_tapIr (s : State) (i j o : Nat) (l : List Byte) : (s.domWrite i j o l).tapIr = s.tapIr := by rw [State.domWrite_eq]
@[simp] theorem State.domWrite_tapPins (s : State) (i j o : Nat) (l : List Byte) : (s.domWrite i j o l).tapPins = s.tapPins := by rw [State.domWrite_eq]
@[simp] theorem State.domWrite_tapDrive (s : State) (i j o : Nat) (l : List Byte) : (s.domWrite i j o l).tapDrive = s.tapDrive := by rw [State.domWrite_eq]
@[simp] theorem State.domWrite_tapDict (s : State) (i j o : Nat) (l : List Byte) : (s.domWrite i j o l).tapDict = s.tapDict := by rw [State.domWrite_eq]
@[simp] theorem State.domWrite_tapMem (s : State) (i j o : Nat) (l : List Byte) : (s.domWrite i j o l).tapMem = s.tapMem := by rw [State.domWrite_eq]
@[simp] theorem State.domWrite_stem (s : State) (i j o : Nat) (l : List Byte) : (s.domWrite i j o l).stem = s.stem := by rw [State.domWrite_eq]
@[simp] theorem State.domWrite_stemRr (s : State) (i j o : Nat) (l : List Byte) : (s.domWrite i j o l).stemRr = s.stemRr := by rw [State.domWrite_eq]
@[simp] theorem State.domWrite_cross (s : State) (i j o : Nat) (l : List Byte) : (s.domWrite i j o l).cross = s.cross := by rw [State.domWrite_eq]
@[simp] theorem State.domWrite_msixTab (s : State) (i j o : Nat) (l : List Byte) : (s.domWrite i j o l).msixTab = s.msixTab := by rw [State.domWrite_eq]
@[simp] theorem State.domWrite_paceSet (s : State) (i j o : Nat) (l : List Byte) : (s.domWrite i j o l).paceSet = s.paceSet := by rw [State.domWrite_eq]
@[simp] theorem State.domWrite_pipes (s : State) (i j o : Nat) (l : List Byte) : (s.domWrite i j o l).pipes = s.pipes := by rw [State.domWrite_eq]
@[simp] theorem State.domWrite_scratchBad (s : State) (i j o : Nat) (l : List Byte) : (s.domWrite i j o l).scratchBad = s.scratchBad := by rw [State.domWrite_eq]
@[simp] theorem State.domWrite_histOn (s : State) (i j o : Nat) (l : List Byte) : (s.domWrite i j o l).histOn = s.histOn := by rw [State.domWrite_eq]
@[simp] theorem State.domWrite_haltWords (s : State) (i j o : Nat) (l : List Byte) : (s.domWrite i j o l).haltWords = s.haltWords := by rw [State.domWrite_eq]
@[simp] theorem State.domWrite_dget_reads (s : State) (i j o : Nat) (l : List Byte) (x y : Nat) : (s.domWrite i j o l).dget x y = s.dget x y := by rw [State.domWrite_eq]; rfl
@[simp] theorem State.domWrite_memByte_reads (s : State) (i j o : Nat) (l : List Byte) (x : Nat) : (s.domWrite i j o l).memByte x = s.memByte x := by rw [State.domWrite_eq]; rfl
@[simp] theorem State.domWrite_winGet_reads (s : State) (i j o : Nat) (l : List Byte) (x : Nat) : (s.domWrite i j o l).winGet x = s.winGet x := by rw [State.domWrite_eq]; rfl
@[simp] theorem State.domWrite_thr_reads (s : State) (i j o : Nat) (l : List Byte) (x : Hart) : (s.domWrite i j o l).thr x = s.thr x := by rw [State.domWrite_eq]; rfl
@[simp] theorem State.domWrite_dreg_reads (s : State) (i j o : Nat) (l : List Byte) (x : Hart) (y : Reg) : (s.domWrite i j o l).dreg x y = s.dreg x y := by rw [State.domWrite_eq]; rfl
@[simp] theorem State.domWrite_areg_reads (s : State) (i j o : Nat) (l : List Byte) (x : Hart) (y : Reg) : (s.domWrite i j o l).areg x y = s.areg x y := by rw [State.domWrite_eq]; rfl
@[simp] theorem State.domWrite_acc_reads (s : State) (i j o : Nat) (l : List Byte) (x : Hart) (y : Fin 4) : (s.domWrite i j o l).acc x y = s.acc x y := by rw [State.domWrite_eq]; rfl
@[simp] theorem State.domWrite_creg_reads (s : State) (i j o : Nat) (l : List Byte) (x : Hart) (y : CReg) : (s.domWrite i j o l).creg x y = s.creg x y := by rw [State.domWrite_eq]; rfl
@[simp] theorem State.domWrite_core_reads (s : State) (i j o : Nat) (l : List Byte) (x : CoreId) : (s.domWrite i j o l).core x = s.core x := by rw [State.domWrite_eq]; rfl
@[simp] theorem State.domWrite_clus_reads (s : State) (i j o : Nat) (l : List Byte) (x : Petal) (y : Cluster) : (s.domWrite i j o l).clus x y = s.clus x y := by rw [State.domWrite_eq]; rfl
@[simp] theorem State.domWrite_chan_reads (s : State) (i j o : Nat) (l : List Byte) (x : Petal) (y : Nat) : (s.domWrite i j o l).chan x y = s.chan x y := by rw [State.domWrite_eq]; rfl
@[simp] theorem State.domWrite_pet_reads (s : State) (i j o : Nat) (l : List Byte) (x : Petal) : (s.domWrite i j o l).pet x = s.pet x := by rw [State.domWrite_eq]; rfl
@[simp] theorem State.domWrite_q_reads (s : State) (i j o : Nat) (l : List Byte) (x : Nat) : (s.domWrite i j o l).q x = s.q x := by rw [State.domWrite_eq]; rfl
@[simp] theorem State.domWrite_slot_reads (s : State) (i j o : Nat) (l : List Byte) (x : ThreadId) : (s.domWrite i j o l).slot x = s.slot x := by rw [State.domWrite_eq]; rfl
@[simp] theorem State.domWrite_coll_reads (s : State) (i j o : Nat) (l : List Byte) (x : Collector) : (s.domWrite i j o l).coll x = s.coll x := by rw [State.domWrite_eq]; rfl
@[simp] theorem State.domWrite_dram_reads (s : State) (i j o : Nat) (l : List Byte) (x : Nat) : (s.domWrite i j o l).dram x = s.dram x := by rw [State.domWrite_eq]; rfl
@[simp] theorem State.domWrite_mbox_reads (s : State) (i j o : Nat) (l : List Byte) (x : Nat) : (s.domWrite i j o l).mbox x = s.mbox x := by rw [State.domWrite_eq]; rfl
@[simp] theorem State.domWrite_pipe_reads (s : State) (i j o : Nat) (l : List Byte) (x : CoreId) : (s.domWrite i j o l).pipe x = s.pipe x := by rw [State.domWrite_eq]; rfl

/-! ### State.memWrite changes `mem` -/

@[simp] theorem State.memWrite_time (s : State) (a : Nat) (l : List Byte) : (s.memWrite a l).time = s.time := rfl
@[simp] theorem State.memWrite_pending (s : State) (a : Nat) (l : List Byte) : (s.memWrite a l).pending = s.pending := rfl
@[simp] theorem State.memWrite_dict (s : State) (a : Nat) (l : List Byte) : (s.memWrite a l).dict = s.dict := rfl
@[simp] theorem State.memWrite_doms (s : State) (a : Nat) (l : List Byte) : (s.memWrite a l).doms = s.doms := rfl
@[simp] theorem State.memWrite_poison (s : State) (a : Nat) (l : List Byte) : (s.memWrite a l).poison = s.poison := rfl
@[simp] theorem State.memWrite_fresh (s : State) (a : Nat) (l : List Byte) : (s.memWrite a l).fresh = s.fresh := rfl
@[simp] theorem State.memWrite_out (s : State) (a : Nat) (l : List Byte) : (s.memWrite a l).out = s.out := rfl
@[simp] theorem State.memWrite_win (s : State) (a : Nat) (l : List Byte) : (s.memWrite a l).win = s.win := rfl
@[simp] theorem State.memWrite_threads (s : State) (a : Nat) (l : List Byte) : (s.memWrite a l).threads = s.threads := rfl
@[simp] theorem State.memWrite_cores (s : State) (a : Nat) (l : List Byte) : (s.memWrite a l).cores = s.cores := rfl
@[simp] theorem State.memWrite_clusters (s : State) (a : Nat) (l : List Byte) : (s.memWrite a l).clusters = s.clusters := rfl
@[simp] theorem State.memWrite_chans (s : State) (a : Nat) (l : List Byte) : (s.memWrite a l).chans = s.chans := rfl
@[simp] theorem State.memWrite_census (s : State) (a : Nat) (l : List Byte) : (s.memWrite a l).census = s.census := rfl
@[simp] theorem State.memWrite_colls (s : State) (a : Nat) (l : List Byte) : (s.memWrite a l).colls = s.colls := rfl
@[simp] theorem State.memWrite_trans (s : State) (a : Nat) (l : List Byte) : (s.memWrite a l).trans = s.trans := rfl
@[simp] theorem State.memWrite_staged (s : State) (a : Nat) (l : List Byte) : (s.memWrite a l).staged = s.staged := rfl
@[simp] theorem State.memWrite_snaps (s : State) (a : Nat) (l : List Byte) : (s.memWrite a l).snaps = s.snaps := rfl
@[simp] theorem State.memWrite_halts (s : State) (a : Nat) (l : List Byte) : (s.memWrite a l).halts = s.halts := rfl
@[simp] theorem State.memWrite_haltDue (s : State) (a : Nat) (l : List Byte) : (s.memWrite a l).haltDue = s.haltDue := rfl
@[simp] theorem State.memWrite_msixOpen (s : State) (a : Nat) (l : List Byte) : (s.memWrite a l).msixOpen = s.msixOpen := rfl
@[simp] theorem State.memWrite_msixPend (s : State) (a : Nat) (l : List Byte) : (s.memWrite a l).msixPend = s.msixPend := rfl
@[simp] theorem State.memWrite_busMaster (s : State) (a : Nat) (l : List Byte) : (s.memWrite a l).busMaster = s.busMaster := rfl
@[simp] theorem State.memWrite_holders (s : State) (a : Nat) (l : List Byte) : (s.memWrite a l).holders = s.holders := rfl
@[simp] theorem State.memWrite_waiters (s : State) (a : Nat) (l : List Byte) : (s.memWrite a l).waiters = s.waiters := rfl
@[simp] theorem State.memWrite_drams (s : State) (a : Nat) (l : List Byte) : (s.memWrite a l).drams = s.drams := rfl
@[simp] theorem State.memWrite_sessions (s : State) (a : Nat) (l : List Byte) : (s.memWrite a l).sessions = s.sessions := rfl
@[simp] theorem State.memWrite_perst (s : State) (a : Nat) (l : List Byte) : (s.memWrite a l).perst = s.perst := rfl
@[simp] theorem State.memWrite_petals (s : State) (a : Nat) (l : List Byte) : (s.memWrite a l).petals = s.petals := rfl
@[simp] theorem State.memWrite_slots (s : State) (a : Nat) (l : List Byte) : (s.memWrite a l).slots = s.slots := rfl
@[simp] theorem State.memWrite_tables (s : State) (a : Nat) (l : List Byte) : (s.memWrite a l).tables = s.tables := rfl
@[simp] theorem State.memWrite_cow (s : State) (a : Nat) (l : List Byte) : (s.memWrite a l).cow = s.cow := rfl
@[simp] theorem State.memWrite_rxPause (s : State) (a : Nat) (l : List Byte) : (s.memWrite a l).rxPause = s.rxPause := rfl
@[simp] theorem State.memWrite_stalled (s : State) (a : Nat) (l : List Byte) : (s.memWrite a l).stalled = s.stalled := rfl
@[simp] theorem State.memWrite_modes (s : State) (a : Nat) (l : List Byte) : (s.memWrite a l).modes = s.modes := rfl
@[simp] theorem State.memWrite_mism (s : State) (a : Nat) (l : List Byte) : (s.memWrite a l).mism = s.mism := rfl
@[simp] theorem State.memWrite_sorrel (s : State) (a : Nat) (l : List Byte) : (s.memWrite a l).sorrel = s.sorrel := rfl
@[simp] theorem State.memWrite_swaps (s : State) (a : Nat) (l : List Byte) : (s.memWrite a l).swaps = s.swaps := rfl
@[simp] theorem State.memWrite_mboxes (s : State) (a : Nat) (l : List Byte) : (s.memWrite a l).mboxes = s.mboxes := rfl
@[simp] theorem State.memWrite_requeue (s : State) (a : Nat) (l : List Byte) : (s.memWrite a l).requeue = s.requeue := rfl
@[simp] theorem State.memWrite_repairs (s : State) (a : Nat) (l : List Byte) : (s.memWrite a l).repairs = s.repairs := rfl
@[simp] theorem State.memWrite_ceTimes (s : State) (a : Nat) (l : List Byte) : (s.memWrite a l).ceTimes = s.ceTimes := rfl
@[simp] theorem State.memWrite_ueTimes (s : State) (a : Nat) (l : List Byte) : (s.memWrite a l).ueTimes = s.ueTimes := rfl
@[simp] theorem State.memWrite_wearWarned (s : State) (a : Nat) (l : List Byte) : (s.memWrite a l).wearWarned = s.wearWarned := rfl
@[simp] theorem State.memWrite_swapLogged (s : State) (a : Nat) (l : List Byte) : (s.memWrite a l).swapLogged = s.swapLogged := rfl
@[simp] theorem State.memWrite_cntBase (s : State) (a : Nat) (l : List Byte) : (s.memWrite a l).cntBase = s.cntBase := rfl
@[simp] theorem State.memWrite_journal (s : State) (a : Nat) (l : List Byte) : (s.memWrite a l).journal = s.journal := rfl
@[simp] theorem State.memWrite_lastHash (s : State) (a : Nat) (l : List Byte) : (s.memWrite a l).lastHash = s.lastHash := rfl
@[simp] theorem State.memWrite_heldSeqs (s : State) (a : Nat) (l : List Byte) : (s.memWrite a l).heldSeqs = s.heldSeqs := rfl
@[simp] theorem State.memWrite_golneB (s : State) (a : Nat) (l : List Byte) : (s.memWrite a l).golneB = s.golneB := rfl
@[simp] theorem State.memWrite_golneDown (s : State) (a : Nat) (l : List Byte) : (s.memWrite a l).golneDown = s.golneDown := rfl
@[simp] theorem State.memWrite_act (s : State) (a : Nat) (l : List Byte) : (s.memWrite a l).act = s.act := rfl
@[simp] theorem State.memWrite_minStart (s : State) (a : Nat) (l : List Byte) : (s.memWrite a l).minStart = s.minStart := rfl
@[simp] theorem State.memWrite_noDram (s : State) (a : Nat) (l : List Byte) : (s.memWrite a l).noDram = s.noDram := rfl
@[simp] theorem State.memWrite_nextRaise (s : State) (a : Nat) (l : List Byte) : (s.memWrite a l).nextRaise = s.nextRaise := rfl
@[simp] theorem State.memWrite_pseq (s : State) (a : Nat) (l : List Byte) : (s.memWrite a l).pseq = s.pseq := rfl
@[simp] theorem State.memWrite_unlockMeas (s : State) (a : Nat) (l : List Byte) : (s.memWrite a l).unlockMeas = s.unlockMeas := rfl
@[simp] theorem State.memWrite_unlockEnd (s : State) (a : Nat) (l : List Byte) : (s.memWrite a l).unlockEnd = s.unlockEnd := rfl
@[simp] theorem State.memWrite_unlockPetals (s : State) (a : Nat) (l : List Byte) : (s.memWrite a l).unlockPetals = s.unlockPetals := rfl
@[simp] theorem State.memWrite_romStuck (s : State) (a : Nat) (l : List Byte) : (s.memWrite a l).romStuck = s.romStuck := rfl
@[simp] theorem State.memWrite_minRetry (s : State) (a : Nat) (l : List Byte) : (s.memWrite a l).minRetry = s.minRetry := rfl
@[simp] theorem State.memWrite_power (s : State) (a : Nat) (l : List Byte) : (s.memWrite a l).power = s.power := rfl
@[simp] theorem State.memWrite_dumps (s : State) (a : Nat) (l : List Byte) : (s.memWrite a l).dumps = s.dumps := rfl
@[simp] theorem State.memWrite_rootSyn (s : State) (a : Nat) (l : List Byte) : (s.memWrite a l).rootSyn = s.rootSyn := rfl
@[simp] theorem State.memWrite_isoPorts (s : State) (a : Nat) (l : List Byte) : (s.memWrite a l).isoPorts = s.isoPorts := rfl
@[simp] theorem State.memWrite_haltTimes (s : State) (a : Nat) (l : List Byte) : (s.memWrite a l).haltTimes = s.haltTimes := rfl
@[simp] theorem State.memWrite_restartAsked (s : State) (a : Nat) (l : List Byte) : (s.memWrite a l).restartAsked = s.restartAsked := rfl
@[simp] theorem State.memWrite_frozen (s : State) (a : Nat) (l : List Byte) : (s.memWrite a l).frozen = s.frozen := rfl
@[simp] theorem State.memWrite_canErr (s : State) (a : Nat) (l : List Byte) : (s.memWrite a l).canErr = s.canErr := rfl
@[simp] theorem State.memWrite_capLimit (s : State) (a : Nat) (l : List Byte) : (s.memWrite a l).capLimit = s.capLimit := rfl
@[simp] theorem State.memWrite_capParked (s : State) (a : Nat) (l : List Byte) : (s.memWrite a l).capParked = s.capParked := rfl
@[simp] theorem State.memWrite_heatLimit (s : State) (a : Nat) (l : List Byte) : (s.memWrite a l).heatLimit = s.heatLimit := rfl
@[simp] theorem State.memWrite_railLock (s : State) (a : Nat) (l : List Byte) : (s.memWrite a l).railLock = s.railLock := rfl
@[simp] theorem State.memWrite_paceLow (s : State) (a : Nat) (l : List Byte) : (s.memWrite a l).paceLow = s.paceLow := rfl
@[simp] theorem State.memWrite_boost (s : State) (a : Nat) (l : List Byte) : (s.memWrite a l).boost = s.boost := rfl
@[simp] theorem State.memWrite_bulk (s : State) (a : Nat) (l : List Byte) : (s.memWrite a l).bulk = s.bulk := rfl
@[simp] theorem State.memWrite_sdo (s : State) (a : Nat) (l : List Byte) : (s.memWrite a l).sdo = s.sdo := rfl
@[simp] theorem State.memWrite_accums (s : State) (a : Nat) (l : List Byte) : (s.memWrite a l).accums = s.accums := rfl
@[simp] theorem State.memWrite_eids (s : State) (a : Nat) (l : List Byte) : (s.memWrite a l).eids = s.eids := rfl
@[simp] theorem State.memWrite_dbgEnHigh (s : State) (a : Nat) (l : List Byte) : (s.memWrite a l).dbgEnHigh = s.dbgEnHigh := rfl
@[simp] theorem State.memWrite_tapIr (s : State) (a : Nat) (l : List Byte) : (s.memWrite a l).tapIr = s.tapIr := rfl
@[simp] theorem State.memWrite_tapPins (s : State) (a : Nat) (l : List Byte) : (s.memWrite a l).tapPins = s.tapPins := rfl
@[simp] theorem State.memWrite_tapDrive (s : State) (a : Nat) (l : List Byte) : (s.memWrite a l).tapDrive = s.tapDrive := rfl
@[simp] theorem State.memWrite_tapDict (s : State) (a : Nat) (l : List Byte) : (s.memWrite a l).tapDict = s.tapDict := rfl
@[simp] theorem State.memWrite_tapMem (s : State) (a : Nat) (l : List Byte) : (s.memWrite a l).tapMem = s.tapMem := rfl
@[simp] theorem State.memWrite_stem (s : State) (a : Nat) (l : List Byte) : (s.memWrite a l).stem = s.stem := rfl
@[simp] theorem State.memWrite_stemRr (s : State) (a : Nat) (l : List Byte) : (s.memWrite a l).stemRr = s.stemRr := rfl
@[simp] theorem State.memWrite_cross (s : State) (a : Nat) (l : List Byte) : (s.memWrite a l).cross = s.cross := rfl
@[simp] theorem State.memWrite_msixTab (s : State) (a : Nat) (l : List Byte) : (s.memWrite a l).msixTab = s.msixTab := rfl
@[simp] theorem State.memWrite_paceSet (s : State) (a : Nat) (l : List Byte) : (s.memWrite a l).paceSet = s.paceSet := rfl
@[simp] theorem State.memWrite_pipes (s : State) (a : Nat) (l : List Byte) : (s.memWrite a l).pipes = s.pipes := rfl
@[simp] theorem State.memWrite_scratchBad (s : State) (a : Nat) (l : List Byte) : (s.memWrite a l).scratchBad = s.scratchBad := rfl
@[simp] theorem State.memWrite_histOn (s : State) (a : Nat) (l : List Byte) : (s.memWrite a l).histOn = s.histOn := rfl
@[simp] theorem State.memWrite_haltWords (s : State) (a : Nat) (l : List Byte) : (s.memWrite a l).haltWords = s.haltWords := rfl
@[simp] theorem State.memWrite_dget_reads (s : State) (a : Nat) (l : List Byte) (x y : Nat) : (s.memWrite a l).dget x y = s.dget x y := rfl
@[simp] theorem State.memWrite_domByte_reads (s : State) (a : Nat) (l : List Byte) (x y z : Nat) : (s.memWrite a l).domByte x y z = s.domByte x y z := rfl
@[simp] theorem State.memWrite_winGet_reads (s : State) (a : Nat) (l : List Byte) (x : Nat) : (s.memWrite a l).winGet x = s.winGet x := rfl
@[simp] theorem State.memWrite_thr_reads (s : State) (a : Nat) (l : List Byte) (x : Hart) : (s.memWrite a l).thr x = s.thr x := rfl
@[simp] theorem State.memWrite_dreg_reads (s : State) (a : Nat) (l : List Byte) (x : Hart) (y : Reg) : (s.memWrite a l).dreg x y = s.dreg x y := rfl
@[simp] theorem State.memWrite_areg_reads (s : State) (a : Nat) (l : List Byte) (x : Hart) (y : Reg) : (s.memWrite a l).areg x y = s.areg x y := rfl
@[simp] theorem State.memWrite_acc_reads (s : State) (a : Nat) (l : List Byte) (x : Hart) (y : Fin 4) : (s.memWrite a l).acc x y = s.acc x y := rfl
@[simp] theorem State.memWrite_creg_reads (s : State) (a : Nat) (l : List Byte) (x : Hart) (y : CReg) : (s.memWrite a l).creg x y = s.creg x y := rfl
@[simp] theorem State.memWrite_core_reads (s : State) (a : Nat) (l : List Byte) (x : CoreId) : (s.memWrite a l).core x = s.core x := rfl
@[simp] theorem State.memWrite_clus_reads (s : State) (a : Nat) (l : List Byte) (x : Petal) (y : Cluster) : (s.memWrite a l).clus x y = s.clus x y := rfl
@[simp] theorem State.memWrite_chan_reads (s : State) (a : Nat) (l : List Byte) (x : Petal) (y : Nat) : (s.memWrite a l).chan x y = s.chan x y := rfl
@[simp] theorem State.memWrite_pet_reads (s : State) (a : Nat) (l : List Byte) (x : Petal) : (s.memWrite a l).pet x = s.pet x := rfl
@[simp] theorem State.memWrite_q_reads (s : State) (a : Nat) (l : List Byte) (x : Nat) : (s.memWrite a l).q x = s.q x := rfl
@[simp] theorem State.memWrite_slot_reads (s : State) (a : Nat) (l : List Byte) (x : ThreadId) : (s.memWrite a l).slot x = s.slot x := rfl
@[simp] theorem State.memWrite_coll_reads (s : State) (a : Nat) (l : List Byte) (x : Collector) : (s.memWrite a l).coll x = s.coll x := rfl
@[simp] theorem State.memWrite_dram_reads (s : State) (a : Nat) (l : List Byte) (x : Nat) : (s.memWrite a l).dram x = s.dram x := rfl
@[simp] theorem State.memWrite_mbox_reads (s : State) (a : Nat) (l : List Byte) (x : Nat) : (s.memWrite a l).mbox x = s.mbox x := rfl
@[simp] theorem State.memWrite_pipe_reads (s : State) (a : Nat) (l : List Byte) (x : CoreId) : (s.memWrite a l).pipe x = s.pipe x := rfl

/-! ### State.memClear changes `mem` -/

@[simp] theorem State.memClear_time (s : State) (a n : Nat) : (s.memClear a n).time = s.time := rfl
@[simp] theorem State.memClear_pending (s : State) (a n : Nat) : (s.memClear a n).pending = s.pending := rfl
@[simp] theorem State.memClear_dict (s : State) (a n : Nat) : (s.memClear a n).dict = s.dict := rfl
@[simp] theorem State.memClear_doms (s : State) (a n : Nat) : (s.memClear a n).doms = s.doms := rfl
@[simp] theorem State.memClear_poison (s : State) (a n : Nat) : (s.memClear a n).poison = s.poison := rfl
@[simp] theorem State.memClear_fresh (s : State) (a n : Nat) : (s.memClear a n).fresh = s.fresh := rfl
@[simp] theorem State.memClear_out (s : State) (a n : Nat) : (s.memClear a n).out = s.out := rfl
@[simp] theorem State.memClear_win (s : State) (a n : Nat) : (s.memClear a n).win = s.win := rfl
@[simp] theorem State.memClear_threads (s : State) (a n : Nat) : (s.memClear a n).threads = s.threads := rfl
@[simp] theorem State.memClear_cores (s : State) (a n : Nat) : (s.memClear a n).cores = s.cores := rfl
@[simp] theorem State.memClear_clusters (s : State) (a n : Nat) : (s.memClear a n).clusters = s.clusters := rfl
@[simp] theorem State.memClear_chans (s : State) (a n : Nat) : (s.memClear a n).chans = s.chans := rfl
@[simp] theorem State.memClear_census (s : State) (a n : Nat) : (s.memClear a n).census = s.census := rfl
@[simp] theorem State.memClear_colls (s : State) (a n : Nat) : (s.memClear a n).colls = s.colls := rfl
@[simp] theorem State.memClear_trans (s : State) (a n : Nat) : (s.memClear a n).trans = s.trans := rfl
@[simp] theorem State.memClear_staged (s : State) (a n : Nat) : (s.memClear a n).staged = s.staged := rfl
@[simp] theorem State.memClear_snaps (s : State) (a n : Nat) : (s.memClear a n).snaps = s.snaps := rfl
@[simp] theorem State.memClear_halts (s : State) (a n : Nat) : (s.memClear a n).halts = s.halts := rfl
@[simp] theorem State.memClear_haltDue (s : State) (a n : Nat) : (s.memClear a n).haltDue = s.haltDue := rfl
@[simp] theorem State.memClear_msixOpen (s : State) (a n : Nat) : (s.memClear a n).msixOpen = s.msixOpen := rfl
@[simp] theorem State.memClear_msixPend (s : State) (a n : Nat) : (s.memClear a n).msixPend = s.msixPend := rfl
@[simp] theorem State.memClear_busMaster (s : State) (a n : Nat) : (s.memClear a n).busMaster = s.busMaster := rfl
@[simp] theorem State.memClear_holders (s : State) (a n : Nat) : (s.memClear a n).holders = s.holders := rfl
@[simp] theorem State.memClear_waiters (s : State) (a n : Nat) : (s.memClear a n).waiters = s.waiters := rfl
@[simp] theorem State.memClear_drams (s : State) (a n : Nat) : (s.memClear a n).drams = s.drams := rfl
@[simp] theorem State.memClear_sessions (s : State) (a n : Nat) : (s.memClear a n).sessions = s.sessions := rfl
@[simp] theorem State.memClear_perst (s : State) (a n : Nat) : (s.memClear a n).perst = s.perst := rfl
@[simp] theorem State.memClear_petals (s : State) (a n : Nat) : (s.memClear a n).petals = s.petals := rfl
@[simp] theorem State.memClear_slots (s : State) (a n : Nat) : (s.memClear a n).slots = s.slots := rfl
@[simp] theorem State.memClear_tables (s : State) (a n : Nat) : (s.memClear a n).tables = s.tables := rfl
@[simp] theorem State.memClear_cow (s : State) (a n : Nat) : (s.memClear a n).cow = s.cow := rfl
@[simp] theorem State.memClear_rxPause (s : State) (a n : Nat) : (s.memClear a n).rxPause = s.rxPause := rfl
@[simp] theorem State.memClear_stalled (s : State) (a n : Nat) : (s.memClear a n).stalled = s.stalled := rfl
@[simp] theorem State.memClear_modes (s : State) (a n : Nat) : (s.memClear a n).modes = s.modes := rfl
@[simp] theorem State.memClear_mism (s : State) (a n : Nat) : (s.memClear a n).mism = s.mism := rfl
@[simp] theorem State.memClear_sorrel (s : State) (a n : Nat) : (s.memClear a n).sorrel = s.sorrel := rfl
@[simp] theorem State.memClear_swaps (s : State) (a n : Nat) : (s.memClear a n).swaps = s.swaps := rfl
@[simp] theorem State.memClear_mboxes (s : State) (a n : Nat) : (s.memClear a n).mboxes = s.mboxes := rfl
@[simp] theorem State.memClear_requeue (s : State) (a n : Nat) : (s.memClear a n).requeue = s.requeue := rfl
@[simp] theorem State.memClear_repairs (s : State) (a n : Nat) : (s.memClear a n).repairs = s.repairs := rfl
@[simp] theorem State.memClear_ceTimes (s : State) (a n : Nat) : (s.memClear a n).ceTimes = s.ceTimes := rfl
@[simp] theorem State.memClear_ueTimes (s : State) (a n : Nat) : (s.memClear a n).ueTimes = s.ueTimes := rfl
@[simp] theorem State.memClear_wearWarned (s : State) (a n : Nat) : (s.memClear a n).wearWarned = s.wearWarned := rfl
@[simp] theorem State.memClear_swapLogged (s : State) (a n : Nat) : (s.memClear a n).swapLogged = s.swapLogged := rfl
@[simp] theorem State.memClear_cntBase (s : State) (a n : Nat) : (s.memClear a n).cntBase = s.cntBase := rfl
@[simp] theorem State.memClear_journal (s : State) (a n : Nat) : (s.memClear a n).journal = s.journal := rfl
@[simp] theorem State.memClear_lastHash (s : State) (a n : Nat) : (s.memClear a n).lastHash = s.lastHash := rfl
@[simp] theorem State.memClear_heldSeqs (s : State) (a n : Nat) : (s.memClear a n).heldSeqs = s.heldSeqs := rfl
@[simp] theorem State.memClear_golneB (s : State) (a n : Nat) : (s.memClear a n).golneB = s.golneB := rfl
@[simp] theorem State.memClear_golneDown (s : State) (a n : Nat) : (s.memClear a n).golneDown = s.golneDown := rfl
@[simp] theorem State.memClear_act (s : State) (a n : Nat) : (s.memClear a n).act = s.act := rfl
@[simp] theorem State.memClear_minStart (s : State) (a n : Nat) : (s.memClear a n).minStart = s.minStart := rfl
@[simp] theorem State.memClear_noDram (s : State) (a n : Nat) : (s.memClear a n).noDram = s.noDram := rfl
@[simp] theorem State.memClear_nextRaise (s : State) (a n : Nat) : (s.memClear a n).nextRaise = s.nextRaise := rfl
@[simp] theorem State.memClear_pseq (s : State) (a n : Nat) : (s.memClear a n).pseq = s.pseq := rfl
@[simp] theorem State.memClear_unlockMeas (s : State) (a n : Nat) : (s.memClear a n).unlockMeas = s.unlockMeas := rfl
@[simp] theorem State.memClear_unlockEnd (s : State) (a n : Nat) : (s.memClear a n).unlockEnd = s.unlockEnd := rfl
@[simp] theorem State.memClear_unlockPetals (s : State) (a n : Nat) : (s.memClear a n).unlockPetals = s.unlockPetals := rfl
@[simp] theorem State.memClear_romStuck (s : State) (a n : Nat) : (s.memClear a n).romStuck = s.romStuck := rfl
@[simp] theorem State.memClear_minRetry (s : State) (a n : Nat) : (s.memClear a n).minRetry = s.minRetry := rfl
@[simp] theorem State.memClear_power (s : State) (a n : Nat) : (s.memClear a n).power = s.power := rfl
@[simp] theorem State.memClear_dumps (s : State) (a n : Nat) : (s.memClear a n).dumps = s.dumps := rfl
@[simp] theorem State.memClear_rootSyn (s : State) (a n : Nat) : (s.memClear a n).rootSyn = s.rootSyn := rfl
@[simp] theorem State.memClear_isoPorts (s : State) (a n : Nat) : (s.memClear a n).isoPorts = s.isoPorts := rfl
@[simp] theorem State.memClear_haltTimes (s : State) (a n : Nat) : (s.memClear a n).haltTimes = s.haltTimes := rfl
@[simp] theorem State.memClear_restartAsked (s : State) (a n : Nat) : (s.memClear a n).restartAsked = s.restartAsked := rfl
@[simp] theorem State.memClear_frozen (s : State) (a n : Nat) : (s.memClear a n).frozen = s.frozen := rfl
@[simp] theorem State.memClear_canErr (s : State) (a n : Nat) : (s.memClear a n).canErr = s.canErr := rfl
@[simp] theorem State.memClear_capLimit (s : State) (a n : Nat) : (s.memClear a n).capLimit = s.capLimit := rfl
@[simp] theorem State.memClear_capParked (s : State) (a n : Nat) : (s.memClear a n).capParked = s.capParked := rfl
@[simp] theorem State.memClear_heatLimit (s : State) (a n : Nat) : (s.memClear a n).heatLimit = s.heatLimit := rfl
@[simp] theorem State.memClear_railLock (s : State) (a n : Nat) : (s.memClear a n).railLock = s.railLock := rfl
@[simp] theorem State.memClear_paceLow (s : State) (a n : Nat) : (s.memClear a n).paceLow = s.paceLow := rfl
@[simp] theorem State.memClear_boost (s : State) (a n : Nat) : (s.memClear a n).boost = s.boost := rfl
@[simp] theorem State.memClear_bulk (s : State) (a n : Nat) : (s.memClear a n).bulk = s.bulk := rfl
@[simp] theorem State.memClear_sdo (s : State) (a n : Nat) : (s.memClear a n).sdo = s.sdo := rfl
@[simp] theorem State.memClear_accums (s : State) (a n : Nat) : (s.memClear a n).accums = s.accums := rfl
@[simp] theorem State.memClear_eids (s : State) (a n : Nat) : (s.memClear a n).eids = s.eids := rfl
@[simp] theorem State.memClear_dbgEnHigh (s : State) (a n : Nat) : (s.memClear a n).dbgEnHigh = s.dbgEnHigh := rfl
@[simp] theorem State.memClear_tapIr (s : State) (a n : Nat) : (s.memClear a n).tapIr = s.tapIr := rfl
@[simp] theorem State.memClear_tapPins (s : State) (a n : Nat) : (s.memClear a n).tapPins = s.tapPins := rfl
@[simp] theorem State.memClear_tapDrive (s : State) (a n : Nat) : (s.memClear a n).tapDrive = s.tapDrive := rfl
@[simp] theorem State.memClear_tapDict (s : State) (a n : Nat) : (s.memClear a n).tapDict = s.tapDict := rfl
@[simp] theorem State.memClear_tapMem (s : State) (a n : Nat) : (s.memClear a n).tapMem = s.tapMem := rfl
@[simp] theorem State.memClear_stem (s : State) (a n : Nat) : (s.memClear a n).stem = s.stem := rfl
@[simp] theorem State.memClear_stemRr (s : State) (a n : Nat) : (s.memClear a n).stemRr = s.stemRr := rfl
@[simp] theorem State.memClear_cross (s : State) (a n : Nat) : (s.memClear a n).cross = s.cross := rfl
@[simp] theorem State.memClear_msixTab (s : State) (a n : Nat) : (s.memClear a n).msixTab = s.msixTab := rfl
@[simp] theorem State.memClear_paceSet (s : State) (a n : Nat) : (s.memClear a n).paceSet = s.paceSet := rfl
@[simp] theorem State.memClear_pipes (s : State) (a n : Nat) : (s.memClear a n).pipes = s.pipes := rfl
@[simp] theorem State.memClear_scratchBad (s : State) (a n : Nat) : (s.memClear a n).scratchBad = s.scratchBad := rfl
@[simp] theorem State.memClear_histOn (s : State) (a n : Nat) : (s.memClear a n).histOn = s.histOn := rfl
@[simp] theorem State.memClear_haltWords (s : State) (a n : Nat) : (s.memClear a n).haltWords = s.haltWords := rfl
@[simp] theorem State.memClear_dget_reads (s : State) (a n : Nat) (x y : Nat) : (s.memClear a n).dget x y = s.dget x y := rfl
@[simp] theorem State.memClear_domByte_reads (s : State) (a n : Nat) (x y z : Nat) : (s.memClear a n).domByte x y z = s.domByte x y z := rfl
@[simp] theorem State.memClear_winGet_reads (s : State) (a n : Nat) (x : Nat) : (s.memClear a n).winGet x = s.winGet x := rfl
@[simp] theorem State.memClear_thr_reads (s : State) (a n : Nat) (x : Hart) : (s.memClear a n).thr x = s.thr x := rfl
@[simp] theorem State.memClear_dreg_reads (s : State) (a n : Nat) (x : Hart) (y : Reg) : (s.memClear a n).dreg x y = s.dreg x y := rfl
@[simp] theorem State.memClear_areg_reads (s : State) (a n : Nat) (x : Hart) (y : Reg) : (s.memClear a n).areg x y = s.areg x y := rfl
@[simp] theorem State.memClear_acc_reads (s : State) (a n : Nat) (x : Hart) (y : Fin 4) : (s.memClear a n).acc x y = s.acc x y := rfl
@[simp] theorem State.memClear_creg_reads (s : State) (a n : Nat) (x : Hart) (y : CReg) : (s.memClear a n).creg x y = s.creg x y := rfl
@[simp] theorem State.memClear_core_reads (s : State) (a n : Nat) (x : CoreId) : (s.memClear a n).core x = s.core x := rfl
@[simp] theorem State.memClear_clus_reads (s : State) (a n : Nat) (x : Petal) (y : Cluster) : (s.memClear a n).clus x y = s.clus x y := rfl
@[simp] theorem State.memClear_chan_reads (s : State) (a n : Nat) (x : Petal) (y : Nat) : (s.memClear a n).chan x y = s.chan x y := rfl
@[simp] theorem State.memClear_pet_reads (s : State) (a n : Nat) (x : Petal) : (s.memClear a n).pet x = s.pet x := rfl
@[simp] theorem State.memClear_q_reads (s : State) (a n : Nat) (x : Nat) : (s.memClear a n).q x = s.q x := rfl
@[simp] theorem State.memClear_slot_reads (s : State) (a n : Nat) (x : ThreadId) : (s.memClear a n).slot x = s.slot x := rfl
@[simp] theorem State.memClear_coll_reads (s : State) (a n : Nat) (x : Collector) : (s.memClear a n).coll x = s.coll x := rfl
@[simp] theorem State.memClear_dram_reads (s : State) (a n : Nat) (x : Nat) : (s.memClear a n).dram x = s.dram x := rfl
@[simp] theorem State.memClear_mbox_reads (s : State) (a n : Nat) (x : Nat) : (s.memClear a n).mbox x = s.mbox x := rfl
@[simp] theorem State.memClear_pipe_reads (s : State) (a n : Nat) (x : CoreId) : (s.memClear a n).pipe x = s.pipe x := rfl

/-! ### State.tick changes `fresh` -/

@[simp] theorem State.tick_time (s : State) : s.tick.time = s.time := rfl
@[simp] theorem State.tick_pending (s : State) : s.tick.pending = s.pending := rfl
@[simp] theorem State.tick_dict (s : State) : s.tick.dict = s.dict := rfl
@[simp] theorem State.tick_doms (s : State) : s.tick.doms = s.doms := rfl
@[simp] theorem State.tick_mem (s : State) : s.tick.mem = s.mem := rfl
@[simp] theorem State.tick_poison (s : State) : s.tick.poison = s.poison := rfl
@[simp] theorem State.tick_out (s : State) : s.tick.out = s.out := rfl
@[simp] theorem State.tick_win (s : State) : s.tick.win = s.win := rfl
@[simp] theorem State.tick_threads (s : State) : s.tick.threads = s.threads := rfl
@[simp] theorem State.tick_cores (s : State) : s.tick.cores = s.cores := rfl
@[simp] theorem State.tick_clusters (s : State) : s.tick.clusters = s.clusters := rfl
@[simp] theorem State.tick_chans (s : State) : s.tick.chans = s.chans := rfl
@[simp] theorem State.tick_census (s : State) : s.tick.census = s.census := rfl
@[simp] theorem State.tick_colls (s : State) : s.tick.colls = s.colls := rfl
@[simp] theorem State.tick_trans (s : State) : s.tick.trans = s.trans := rfl
@[simp] theorem State.tick_staged (s : State) : s.tick.staged = s.staged := rfl
@[simp] theorem State.tick_snaps (s : State) : s.tick.snaps = s.snaps := rfl
@[simp] theorem State.tick_halts (s : State) : s.tick.halts = s.halts := rfl
@[simp] theorem State.tick_haltDue (s : State) : s.tick.haltDue = s.haltDue := rfl
@[simp] theorem State.tick_msixOpen (s : State) : s.tick.msixOpen = s.msixOpen := rfl
@[simp] theorem State.tick_msixPend (s : State) : s.tick.msixPend = s.msixPend := rfl
@[simp] theorem State.tick_busMaster (s : State) : s.tick.busMaster = s.busMaster := rfl
@[simp] theorem State.tick_holders (s : State) : s.tick.holders = s.holders := rfl
@[simp] theorem State.tick_waiters (s : State) : s.tick.waiters = s.waiters := rfl
@[simp] theorem State.tick_drams (s : State) : s.tick.drams = s.drams := rfl
@[simp] theorem State.tick_sessions (s : State) : s.tick.sessions = s.sessions := rfl
@[simp] theorem State.tick_perst (s : State) : s.tick.perst = s.perst := rfl
@[simp] theorem State.tick_petals (s : State) : s.tick.petals = s.petals := rfl
@[simp] theorem State.tick_slots (s : State) : s.tick.slots = s.slots := rfl
@[simp] theorem State.tick_tables (s : State) : s.tick.tables = s.tables := rfl
@[simp] theorem State.tick_cow (s : State) : s.tick.cow = s.cow := rfl
@[simp] theorem State.tick_rxPause (s : State) : s.tick.rxPause = s.rxPause := rfl
@[simp] theorem State.tick_stalled (s : State) : s.tick.stalled = s.stalled := rfl
@[simp] theorem State.tick_modes (s : State) : s.tick.modes = s.modes := rfl
@[simp] theorem State.tick_mism (s : State) : s.tick.mism = s.mism := rfl
@[simp] theorem State.tick_sorrel (s : State) : s.tick.sorrel = s.sorrel := rfl
@[simp] theorem State.tick_swaps (s : State) : s.tick.swaps = s.swaps := rfl
@[simp] theorem State.tick_mboxes (s : State) : s.tick.mboxes = s.mboxes := rfl
@[simp] theorem State.tick_requeue (s : State) : s.tick.requeue = s.requeue := rfl
@[simp] theorem State.tick_repairs (s : State) : s.tick.repairs = s.repairs := rfl
@[simp] theorem State.tick_ceTimes (s : State) : s.tick.ceTimes = s.ceTimes := rfl
@[simp] theorem State.tick_ueTimes (s : State) : s.tick.ueTimes = s.ueTimes := rfl
@[simp] theorem State.tick_wearWarned (s : State) : s.tick.wearWarned = s.wearWarned := rfl
@[simp] theorem State.tick_swapLogged (s : State) : s.tick.swapLogged = s.swapLogged := rfl
@[simp] theorem State.tick_cntBase (s : State) : s.tick.cntBase = s.cntBase := rfl
@[simp] theorem State.tick_journal (s : State) : s.tick.journal = s.journal := rfl
@[simp] theorem State.tick_lastHash (s : State) : s.tick.lastHash = s.lastHash := rfl
@[simp] theorem State.tick_heldSeqs (s : State) : s.tick.heldSeqs = s.heldSeqs := rfl
@[simp] theorem State.tick_golneB (s : State) : s.tick.golneB = s.golneB := rfl
@[simp] theorem State.tick_golneDown (s : State) : s.tick.golneDown = s.golneDown := rfl
@[simp] theorem State.tick_act (s : State) : s.tick.act = s.act := rfl
@[simp] theorem State.tick_minStart (s : State) : s.tick.minStart = s.minStart := rfl
@[simp] theorem State.tick_noDram (s : State) : s.tick.noDram = s.noDram := rfl
@[simp] theorem State.tick_nextRaise (s : State) : s.tick.nextRaise = s.nextRaise := rfl
@[simp] theorem State.tick_pseq (s : State) : s.tick.pseq = s.pseq := rfl
@[simp] theorem State.tick_unlockMeas (s : State) : s.tick.unlockMeas = s.unlockMeas := rfl
@[simp] theorem State.tick_unlockEnd (s : State) : s.tick.unlockEnd = s.unlockEnd := rfl
@[simp] theorem State.tick_unlockPetals (s : State) : s.tick.unlockPetals = s.unlockPetals := rfl
@[simp] theorem State.tick_romStuck (s : State) : s.tick.romStuck = s.romStuck := rfl
@[simp] theorem State.tick_minRetry (s : State) : s.tick.minRetry = s.minRetry := rfl
@[simp] theorem State.tick_power (s : State) : s.tick.power = s.power := rfl
@[simp] theorem State.tick_dumps (s : State) : s.tick.dumps = s.dumps := rfl
@[simp] theorem State.tick_rootSyn (s : State) : s.tick.rootSyn = s.rootSyn := rfl
@[simp] theorem State.tick_isoPorts (s : State) : s.tick.isoPorts = s.isoPorts := rfl
@[simp] theorem State.tick_haltTimes (s : State) : s.tick.haltTimes = s.haltTimes := rfl
@[simp] theorem State.tick_restartAsked (s : State) : s.tick.restartAsked = s.restartAsked := rfl
@[simp] theorem State.tick_frozen (s : State) : s.tick.frozen = s.frozen := rfl
@[simp] theorem State.tick_canErr (s : State) : s.tick.canErr = s.canErr := rfl
@[simp] theorem State.tick_capLimit (s : State) : s.tick.capLimit = s.capLimit := rfl
@[simp] theorem State.tick_capParked (s : State) : s.tick.capParked = s.capParked := rfl
@[simp] theorem State.tick_heatLimit (s : State) : s.tick.heatLimit = s.heatLimit := rfl
@[simp] theorem State.tick_railLock (s : State) : s.tick.railLock = s.railLock := rfl
@[simp] theorem State.tick_paceLow (s : State) : s.tick.paceLow = s.paceLow := rfl
@[simp] theorem State.tick_boost (s : State) : s.tick.boost = s.boost := rfl
@[simp] theorem State.tick_bulk (s : State) : s.tick.bulk = s.bulk := rfl
@[simp] theorem State.tick_sdo (s : State) : s.tick.sdo = s.sdo := rfl
@[simp] theorem State.tick_accums (s : State) : s.tick.accums = s.accums := rfl
@[simp] theorem State.tick_eids (s : State) : s.tick.eids = s.eids := rfl
@[simp] theorem State.tick_dbgEnHigh (s : State) : s.tick.dbgEnHigh = s.dbgEnHigh := rfl
@[simp] theorem State.tick_tapIr (s : State) : s.tick.tapIr = s.tapIr := rfl
@[simp] theorem State.tick_tapPins (s : State) : s.tick.tapPins = s.tapPins := rfl
@[simp] theorem State.tick_tapDrive (s : State) : s.tick.tapDrive = s.tapDrive := rfl
@[simp] theorem State.tick_tapDict (s : State) : s.tick.tapDict = s.tapDict := rfl
@[simp] theorem State.tick_tapMem (s : State) : s.tick.tapMem = s.tapMem := rfl
@[simp] theorem State.tick_stem (s : State) : s.tick.stem = s.stem := rfl
@[simp] theorem State.tick_stemRr (s : State) : s.tick.stemRr = s.stemRr := rfl
@[simp] theorem State.tick_cross (s : State) : s.tick.cross = s.cross := rfl
@[simp] theorem State.tick_msixTab (s : State) : s.tick.msixTab = s.msixTab := rfl
@[simp] theorem State.tick_paceSet (s : State) : s.tick.paceSet = s.paceSet := rfl
@[simp] theorem State.tick_pipes (s : State) : s.tick.pipes = s.pipes := rfl
@[simp] theorem State.tick_scratchBad (s : State) : s.tick.scratchBad = s.scratchBad := rfl
@[simp] theorem State.tick_histOn (s : State) : s.tick.histOn = s.histOn := rfl
@[simp] theorem State.tick_haltWords (s : State) : s.tick.haltWords = s.haltWords := rfl
@[simp] theorem State.tick_dget_reads (s : State) (x y : Nat) : s.tick.dget x y = s.dget x y := rfl
@[simp] theorem State.tick_domByte_reads (s : State) (x y z : Nat) : s.tick.domByte x y z = s.domByte x y z := rfl
@[simp] theorem State.tick_memByte_reads (s : State) (x : Nat) : s.tick.memByte x = s.memByte x := rfl
@[simp] theorem State.tick_winGet_reads (s : State) (x : Nat) : s.tick.winGet x = s.winGet x := rfl
@[simp] theorem State.tick_thr_reads (s : State) (x : Hart) : s.tick.thr x = s.thr x := rfl
@[simp] theorem State.tick_dreg_reads (s : State) (x : Hart) (y : Reg) : s.tick.dreg x y = s.dreg x y := rfl
@[simp] theorem State.tick_areg_reads (s : State) (x : Hart) (y : Reg) : s.tick.areg x y = s.areg x y := rfl
@[simp] theorem State.tick_acc_reads (s : State) (x : Hart) (y : Fin 4) : s.tick.acc x y = s.acc x y := rfl
@[simp] theorem State.tick_creg_reads (s : State) (x : Hart) (y : CReg) : s.tick.creg x y = s.creg x y := rfl
@[simp] theorem State.tick_core_reads (s : State) (x : CoreId) : s.tick.core x = s.core x := rfl
@[simp] theorem State.tick_clus_reads (s : State) (x : Petal) (y : Cluster) : s.tick.clus x y = s.clus x y := rfl
@[simp] theorem State.tick_chan_reads (s : State) (x : Petal) (y : Nat) : s.tick.chan x y = s.chan x y := rfl
@[simp] theorem State.tick_pet_reads (s : State) (x : Petal) : s.tick.pet x = s.pet x := rfl
@[simp] theorem State.tick_q_reads (s : State) (x : Nat) : s.tick.q x = s.q x := rfl
@[simp] theorem State.tick_slot_reads (s : State) (x : ThreadId) : s.tick.slot x = s.slot x := rfl
@[simp] theorem State.tick_coll_reads (s : State) (x : Collector) : s.tick.coll x = s.coll x := rfl
@[simp] theorem State.tick_dram_reads (s : State) (x : Nat) : s.tick.dram x = s.dram x := rfl
@[simp] theorem State.tick_mbox_reads (s : State) (x : Nat) : s.tick.mbox x = s.mbox x := rfl
@[simp] theorem State.tick_pipe_reads (s : State) (x : CoreId) : s.tick.pipe x = s.pipe x := rfl

/-! ### State.emit changes `out` -/

@[simp] theorem State.emit_time (s : State) (o : Output) : (s.emit o).time = s.time := rfl
@[simp] theorem State.emit_pending (s : State) (o : Output) : (s.emit o).pending = s.pending := rfl
@[simp] theorem State.emit_dict (s : State) (o : Output) : (s.emit o).dict = s.dict := rfl
@[simp] theorem State.emit_doms (s : State) (o : Output) : (s.emit o).doms = s.doms := rfl
@[simp] theorem State.emit_mem (s : State) (o : Output) : (s.emit o).mem = s.mem := rfl
@[simp] theorem State.emit_poison (s : State) (o : Output) : (s.emit o).poison = s.poison := rfl
@[simp] theorem State.emit_fresh (s : State) (o : Output) : (s.emit o).fresh = s.fresh := rfl
@[simp] theorem State.emit_win (s : State) (o : Output) : (s.emit o).win = s.win := rfl
@[simp] theorem State.emit_threads (s : State) (o : Output) : (s.emit o).threads = s.threads := rfl
@[simp] theorem State.emit_cores (s : State) (o : Output) : (s.emit o).cores = s.cores := rfl
@[simp] theorem State.emit_clusters (s : State) (o : Output) : (s.emit o).clusters = s.clusters := rfl
@[simp] theorem State.emit_chans (s : State) (o : Output) : (s.emit o).chans = s.chans := rfl
@[simp] theorem State.emit_census (s : State) (o : Output) : (s.emit o).census = s.census := rfl
@[simp] theorem State.emit_colls (s : State) (o : Output) : (s.emit o).colls = s.colls := rfl
@[simp] theorem State.emit_trans (s : State) (o : Output) : (s.emit o).trans = s.trans := rfl
@[simp] theorem State.emit_staged (s : State) (o : Output) : (s.emit o).staged = s.staged := rfl
@[simp] theorem State.emit_snaps (s : State) (o : Output) : (s.emit o).snaps = s.snaps := rfl
@[simp] theorem State.emit_halts (s : State) (o : Output) : (s.emit o).halts = s.halts := rfl
@[simp] theorem State.emit_haltDue (s : State) (o : Output) : (s.emit o).haltDue = s.haltDue := rfl
@[simp] theorem State.emit_msixOpen (s : State) (o : Output) : (s.emit o).msixOpen = s.msixOpen := rfl
@[simp] theorem State.emit_msixPend (s : State) (o : Output) : (s.emit o).msixPend = s.msixPend := rfl
@[simp] theorem State.emit_busMaster (s : State) (o : Output) : (s.emit o).busMaster = s.busMaster := rfl
@[simp] theorem State.emit_holders (s : State) (o : Output) : (s.emit o).holders = s.holders := rfl
@[simp] theorem State.emit_waiters (s : State) (o : Output) : (s.emit o).waiters = s.waiters := rfl
@[simp] theorem State.emit_drams (s : State) (o : Output) : (s.emit o).drams = s.drams := rfl
@[simp] theorem State.emit_sessions (s : State) (o : Output) : (s.emit o).sessions = s.sessions := rfl
@[simp] theorem State.emit_perst (s : State) (o : Output) : (s.emit o).perst = s.perst := rfl
@[simp] theorem State.emit_petals (s : State) (o : Output) : (s.emit o).petals = s.petals := rfl
@[simp] theorem State.emit_slots (s : State) (o : Output) : (s.emit o).slots = s.slots := rfl
@[simp] theorem State.emit_tables (s : State) (o : Output) : (s.emit o).tables = s.tables := rfl
@[simp] theorem State.emit_cow (s : State) (o : Output) : (s.emit o).cow = s.cow := rfl
@[simp] theorem State.emit_rxPause (s : State) (o : Output) : (s.emit o).rxPause = s.rxPause := rfl
@[simp] theorem State.emit_stalled (s : State) (o : Output) : (s.emit o).stalled = s.stalled := rfl
@[simp] theorem State.emit_modes (s : State) (o : Output) : (s.emit o).modes = s.modes := rfl
@[simp] theorem State.emit_mism (s : State) (o : Output) : (s.emit o).mism = s.mism := rfl
@[simp] theorem State.emit_sorrel (s : State) (o : Output) : (s.emit o).sorrel = s.sorrel := rfl
@[simp] theorem State.emit_swaps (s : State) (o : Output) : (s.emit o).swaps = s.swaps := rfl
@[simp] theorem State.emit_mboxes (s : State) (o : Output) : (s.emit o).mboxes = s.mboxes := rfl
@[simp] theorem State.emit_requeue (s : State) (o : Output) : (s.emit o).requeue = s.requeue := rfl
@[simp] theorem State.emit_repairs (s : State) (o : Output) : (s.emit o).repairs = s.repairs := rfl
@[simp] theorem State.emit_ceTimes (s : State) (o : Output) : (s.emit o).ceTimes = s.ceTimes := rfl
@[simp] theorem State.emit_ueTimes (s : State) (o : Output) : (s.emit o).ueTimes = s.ueTimes := rfl
@[simp] theorem State.emit_wearWarned (s : State) (o : Output) : (s.emit o).wearWarned = s.wearWarned := rfl
@[simp] theorem State.emit_swapLogged (s : State) (o : Output) : (s.emit o).swapLogged = s.swapLogged := rfl
@[simp] theorem State.emit_cntBase (s : State) (o : Output) : (s.emit o).cntBase = s.cntBase := rfl
@[simp] theorem State.emit_journal (s : State) (o : Output) : (s.emit o).journal = s.journal := rfl
@[simp] theorem State.emit_lastHash (s : State) (o : Output) : (s.emit o).lastHash = s.lastHash := rfl
@[simp] theorem State.emit_heldSeqs (s : State) (o : Output) : (s.emit o).heldSeqs = s.heldSeqs := rfl
@[simp] theorem State.emit_golneB (s : State) (o : Output) : (s.emit o).golneB = s.golneB := rfl
@[simp] theorem State.emit_golneDown (s : State) (o : Output) : (s.emit o).golneDown = s.golneDown := rfl
@[simp] theorem State.emit_act (s : State) (o : Output) : (s.emit o).act = s.act := rfl
@[simp] theorem State.emit_minStart (s : State) (o : Output) : (s.emit o).minStart = s.minStart := rfl
@[simp] theorem State.emit_noDram (s : State) (o : Output) : (s.emit o).noDram = s.noDram := rfl
@[simp] theorem State.emit_nextRaise (s : State) (o : Output) : (s.emit o).nextRaise = s.nextRaise := rfl
@[simp] theorem State.emit_pseq (s : State) (o : Output) : (s.emit o).pseq = s.pseq := rfl
@[simp] theorem State.emit_unlockMeas (s : State) (o : Output) : (s.emit o).unlockMeas = s.unlockMeas := rfl
@[simp] theorem State.emit_unlockEnd (s : State) (o : Output) : (s.emit o).unlockEnd = s.unlockEnd := rfl
@[simp] theorem State.emit_unlockPetals (s : State) (o : Output) : (s.emit o).unlockPetals = s.unlockPetals := rfl
@[simp] theorem State.emit_romStuck (s : State) (o : Output) : (s.emit o).romStuck = s.romStuck := rfl
@[simp] theorem State.emit_minRetry (s : State) (o : Output) : (s.emit o).minRetry = s.minRetry := rfl
@[simp] theorem State.emit_power (s : State) (o : Output) : (s.emit o).power = s.power := rfl
@[simp] theorem State.emit_dumps (s : State) (o : Output) : (s.emit o).dumps = s.dumps := rfl
@[simp] theorem State.emit_rootSyn (s : State) (o : Output) : (s.emit o).rootSyn = s.rootSyn := rfl
@[simp] theorem State.emit_isoPorts (s : State) (o : Output) : (s.emit o).isoPorts = s.isoPorts := rfl
@[simp] theorem State.emit_haltTimes (s : State) (o : Output) : (s.emit o).haltTimes = s.haltTimes := rfl
@[simp] theorem State.emit_restartAsked (s : State) (o : Output) : (s.emit o).restartAsked = s.restartAsked := rfl
@[simp] theorem State.emit_frozen (s : State) (o : Output) : (s.emit o).frozen = s.frozen := rfl
@[simp] theorem State.emit_canErr (s : State) (o : Output) : (s.emit o).canErr = s.canErr := rfl
@[simp] theorem State.emit_capLimit (s : State) (o : Output) : (s.emit o).capLimit = s.capLimit := rfl
@[simp] theorem State.emit_capParked (s : State) (o : Output) : (s.emit o).capParked = s.capParked := rfl
@[simp] theorem State.emit_heatLimit (s : State) (o : Output) : (s.emit o).heatLimit = s.heatLimit := rfl
@[simp] theorem State.emit_railLock (s : State) (o : Output) : (s.emit o).railLock = s.railLock := rfl
@[simp] theorem State.emit_paceLow (s : State) (o : Output) : (s.emit o).paceLow = s.paceLow := rfl
@[simp] theorem State.emit_boost (s : State) (o : Output) : (s.emit o).boost = s.boost := rfl
@[simp] theorem State.emit_bulk (s : State) (o : Output) : (s.emit o).bulk = s.bulk := rfl
@[simp] theorem State.emit_sdo (s : State) (o : Output) : (s.emit o).sdo = s.sdo := rfl
@[simp] theorem State.emit_accums (s : State) (o : Output) : (s.emit o).accums = s.accums := rfl
@[simp] theorem State.emit_eids (s : State) (o : Output) : (s.emit o).eids = s.eids := rfl
@[simp] theorem State.emit_dbgEnHigh (s : State) (o : Output) : (s.emit o).dbgEnHigh = s.dbgEnHigh := rfl
@[simp] theorem State.emit_tapIr (s : State) (o : Output) : (s.emit o).tapIr = s.tapIr := rfl
@[simp] theorem State.emit_tapPins (s : State) (o : Output) : (s.emit o).tapPins = s.tapPins := rfl
@[simp] theorem State.emit_tapDrive (s : State) (o : Output) : (s.emit o).tapDrive = s.tapDrive := rfl
@[simp] theorem State.emit_tapDict (s : State) (o : Output) : (s.emit o).tapDict = s.tapDict := rfl
@[simp] theorem State.emit_tapMem (s : State) (o : Output) : (s.emit o).tapMem = s.tapMem := rfl
@[simp] theorem State.emit_stem (s : State) (o : Output) : (s.emit o).stem = s.stem := rfl
@[simp] theorem State.emit_stemRr (s : State) (o : Output) : (s.emit o).stemRr = s.stemRr := rfl
@[simp] theorem State.emit_cross (s : State) (o : Output) : (s.emit o).cross = s.cross := rfl
@[simp] theorem State.emit_msixTab (s : State) (o : Output) : (s.emit o).msixTab = s.msixTab := rfl
@[simp] theorem State.emit_paceSet (s : State) (o : Output) : (s.emit o).paceSet = s.paceSet := rfl
@[simp] theorem State.emit_pipes (s : State) (o : Output) : (s.emit o).pipes = s.pipes := rfl
@[simp] theorem State.emit_scratchBad (s : State) (o : Output) : (s.emit o).scratchBad = s.scratchBad := rfl
@[simp] theorem State.emit_histOn (s : State) (o : Output) : (s.emit o).histOn = s.histOn := rfl
@[simp] theorem State.emit_haltWords (s : State) (o : Output) : (s.emit o).haltWords = s.haltWords := rfl
@[simp] theorem State.emit_dget_reads (s : State) (o : Output) (x y : Nat) : (s.emit o).dget x y = s.dget x y := rfl
@[simp] theorem State.emit_domByte_reads (s : State) (o : Output) (x y z : Nat) : (s.emit o).domByte x y z = s.domByte x y z := rfl
@[simp] theorem State.emit_memByte_reads (s : State) (o : Output) (x : Nat) : (s.emit o).memByte x = s.memByte x := rfl
@[simp] theorem State.emit_winGet_reads (s : State) (o : Output) (x : Nat) : (s.emit o).winGet x = s.winGet x := rfl
@[simp] theorem State.emit_thr_reads (s : State) (o : Output) (x : Hart) : (s.emit o).thr x = s.thr x := rfl
@[simp] theorem State.emit_dreg_reads (s : State) (o : Output) (x : Hart) (y : Reg) : (s.emit o).dreg x y = s.dreg x y := rfl
@[simp] theorem State.emit_areg_reads (s : State) (o : Output) (x : Hart) (y : Reg) : (s.emit o).areg x y = s.areg x y := rfl
@[simp] theorem State.emit_acc_reads (s : State) (o : Output) (x : Hart) (y : Fin 4) : (s.emit o).acc x y = s.acc x y := rfl
@[simp] theorem State.emit_creg_reads (s : State) (o : Output) (x : Hart) (y : CReg) : (s.emit o).creg x y = s.creg x y := rfl
@[simp] theorem State.emit_core_reads (s : State) (o : Output) (x : CoreId) : (s.emit o).core x = s.core x := rfl
@[simp] theorem State.emit_clus_reads (s : State) (o : Output) (x : Petal) (y : Cluster) : (s.emit o).clus x y = s.clus x y := rfl
@[simp] theorem State.emit_chan_reads (s : State) (o : Output) (x : Petal) (y : Nat) : (s.emit o).chan x y = s.chan x y := rfl
@[simp] theorem State.emit_pet_reads (s : State) (o : Output) (x : Petal) : (s.emit o).pet x = s.pet x := rfl
@[simp] theorem State.emit_q_reads (s : State) (o : Output) (x : Nat) : (s.emit o).q x = s.q x := rfl
@[simp] theorem State.emit_slot_reads (s : State) (o : Output) (x : ThreadId) : (s.emit o).slot x = s.slot x := rfl
@[simp] theorem State.emit_coll_reads (s : State) (o : Output) (x : Collector) : (s.emit o).coll x = s.coll x := rfl
@[simp] theorem State.emit_dram_reads (s : State) (o : Output) (x : Nat) : (s.emit o).dram x = s.dram x := rfl
@[simp] theorem State.emit_mbox_reads (s : State) (o : Output) (x : Nat) : (s.emit o).mbox x = s.mbox x := rfl
@[simp] theorem State.emit_pipe_reads (s : State) (o : Output) (x : CoreId) : (s.emit o).pipe x = s.pipe x := rfl

/-! ### State.winBump changes `win` -/

@[simp] theorem State.winBump_time (s : State) (k : Nat) : (s.winBump k).time = s.time := rfl
@[simp] theorem State.winBump_pending (s : State) (k : Nat) : (s.winBump k).pending = s.pending := rfl
@[simp] theorem State.winBump_dict (s : State) (k : Nat) : (s.winBump k).dict = s.dict := rfl
@[simp] theorem State.winBump_doms (s : State) (k : Nat) : (s.winBump k).doms = s.doms := rfl
@[simp] theorem State.winBump_mem (s : State) (k : Nat) : (s.winBump k).mem = s.mem := rfl
@[simp] theorem State.winBump_poison (s : State) (k : Nat) : (s.winBump k).poison = s.poison := rfl
@[simp] theorem State.winBump_fresh (s : State) (k : Nat) : (s.winBump k).fresh = s.fresh := rfl
@[simp] theorem State.winBump_out (s : State) (k : Nat) : (s.winBump k).out = s.out := rfl
@[simp] theorem State.winBump_threads (s : State) (k : Nat) : (s.winBump k).threads = s.threads := rfl
@[simp] theorem State.winBump_cores (s : State) (k : Nat) : (s.winBump k).cores = s.cores := rfl
@[simp] theorem State.winBump_clusters (s : State) (k : Nat) : (s.winBump k).clusters = s.clusters := rfl
@[simp] theorem State.winBump_chans (s : State) (k : Nat) : (s.winBump k).chans = s.chans := rfl
@[simp] theorem State.winBump_census (s : State) (k : Nat) : (s.winBump k).census = s.census := rfl
@[simp] theorem State.winBump_colls (s : State) (k : Nat) : (s.winBump k).colls = s.colls := rfl
@[simp] theorem State.winBump_trans (s : State) (k : Nat) : (s.winBump k).trans = s.trans := rfl
@[simp] theorem State.winBump_staged (s : State) (k : Nat) : (s.winBump k).staged = s.staged := rfl
@[simp] theorem State.winBump_snaps (s : State) (k : Nat) : (s.winBump k).snaps = s.snaps := rfl
@[simp] theorem State.winBump_halts (s : State) (k : Nat) : (s.winBump k).halts = s.halts := rfl
@[simp] theorem State.winBump_haltDue (s : State) (k : Nat) : (s.winBump k).haltDue = s.haltDue := rfl
@[simp] theorem State.winBump_msixOpen (s : State) (k : Nat) : (s.winBump k).msixOpen = s.msixOpen := rfl
@[simp] theorem State.winBump_msixPend (s : State) (k : Nat) : (s.winBump k).msixPend = s.msixPend := rfl
@[simp] theorem State.winBump_busMaster (s : State) (k : Nat) : (s.winBump k).busMaster = s.busMaster := rfl
@[simp] theorem State.winBump_holders (s : State) (k : Nat) : (s.winBump k).holders = s.holders := rfl
@[simp] theorem State.winBump_waiters (s : State) (k : Nat) : (s.winBump k).waiters = s.waiters := rfl
@[simp] theorem State.winBump_drams (s : State) (k : Nat) : (s.winBump k).drams = s.drams := rfl
@[simp] theorem State.winBump_sessions (s : State) (k : Nat) : (s.winBump k).sessions = s.sessions := rfl
@[simp] theorem State.winBump_perst (s : State) (k : Nat) : (s.winBump k).perst = s.perst := rfl
@[simp] theorem State.winBump_petals (s : State) (k : Nat) : (s.winBump k).petals = s.petals := rfl
@[simp] theorem State.winBump_slots (s : State) (k : Nat) : (s.winBump k).slots = s.slots := rfl
@[simp] theorem State.winBump_tables (s : State) (k : Nat) : (s.winBump k).tables = s.tables := rfl
@[simp] theorem State.winBump_cow (s : State) (k : Nat) : (s.winBump k).cow = s.cow := rfl
@[simp] theorem State.winBump_rxPause (s : State) (k : Nat) : (s.winBump k).rxPause = s.rxPause := rfl
@[simp] theorem State.winBump_stalled (s : State) (k : Nat) : (s.winBump k).stalled = s.stalled := rfl
@[simp] theorem State.winBump_modes (s : State) (k : Nat) : (s.winBump k).modes = s.modes := rfl
@[simp] theorem State.winBump_mism (s : State) (k : Nat) : (s.winBump k).mism = s.mism := rfl
@[simp] theorem State.winBump_sorrel (s : State) (k : Nat) : (s.winBump k).sorrel = s.sorrel := rfl
@[simp] theorem State.winBump_swaps (s : State) (k : Nat) : (s.winBump k).swaps = s.swaps := rfl
@[simp] theorem State.winBump_mboxes (s : State) (k : Nat) : (s.winBump k).mboxes = s.mboxes := rfl
@[simp] theorem State.winBump_requeue (s : State) (k : Nat) : (s.winBump k).requeue = s.requeue := rfl
@[simp] theorem State.winBump_repairs (s : State) (k : Nat) : (s.winBump k).repairs = s.repairs := rfl
@[simp] theorem State.winBump_ceTimes (s : State) (k : Nat) : (s.winBump k).ceTimes = s.ceTimes := rfl
@[simp] theorem State.winBump_ueTimes (s : State) (k : Nat) : (s.winBump k).ueTimes = s.ueTimes := rfl
@[simp] theorem State.winBump_wearWarned (s : State) (k : Nat) : (s.winBump k).wearWarned = s.wearWarned := rfl
@[simp] theorem State.winBump_swapLogged (s : State) (k : Nat) : (s.winBump k).swapLogged = s.swapLogged := rfl
@[simp] theorem State.winBump_cntBase (s : State) (k : Nat) : (s.winBump k).cntBase = s.cntBase := rfl
@[simp] theorem State.winBump_journal (s : State) (k : Nat) : (s.winBump k).journal = s.journal := rfl
@[simp] theorem State.winBump_lastHash (s : State) (k : Nat) : (s.winBump k).lastHash = s.lastHash := rfl
@[simp] theorem State.winBump_heldSeqs (s : State) (k : Nat) : (s.winBump k).heldSeqs = s.heldSeqs := rfl
@[simp] theorem State.winBump_golneB (s : State) (k : Nat) : (s.winBump k).golneB = s.golneB := rfl
@[simp] theorem State.winBump_golneDown (s : State) (k : Nat) : (s.winBump k).golneDown = s.golneDown := rfl
@[simp] theorem State.winBump_act (s : State) (k : Nat) : (s.winBump k).act = s.act := rfl
@[simp] theorem State.winBump_minStart (s : State) (k : Nat) : (s.winBump k).minStart = s.minStart := rfl
@[simp] theorem State.winBump_noDram (s : State) (k : Nat) : (s.winBump k).noDram = s.noDram := rfl
@[simp] theorem State.winBump_nextRaise (s : State) (k : Nat) : (s.winBump k).nextRaise = s.nextRaise := rfl
@[simp] theorem State.winBump_pseq (s : State) (k : Nat) : (s.winBump k).pseq = s.pseq := rfl
@[simp] theorem State.winBump_unlockMeas (s : State) (k : Nat) : (s.winBump k).unlockMeas = s.unlockMeas := rfl
@[simp] theorem State.winBump_unlockEnd (s : State) (k : Nat) : (s.winBump k).unlockEnd = s.unlockEnd := rfl
@[simp] theorem State.winBump_unlockPetals (s : State) (k : Nat) : (s.winBump k).unlockPetals = s.unlockPetals := rfl
@[simp] theorem State.winBump_romStuck (s : State) (k : Nat) : (s.winBump k).romStuck = s.romStuck := rfl
@[simp] theorem State.winBump_minRetry (s : State) (k : Nat) : (s.winBump k).minRetry = s.minRetry := rfl
@[simp] theorem State.winBump_power (s : State) (k : Nat) : (s.winBump k).power = s.power := rfl
@[simp] theorem State.winBump_dumps (s : State) (k : Nat) : (s.winBump k).dumps = s.dumps := rfl
@[simp] theorem State.winBump_rootSyn (s : State) (k : Nat) : (s.winBump k).rootSyn = s.rootSyn := rfl
@[simp] theorem State.winBump_isoPorts (s : State) (k : Nat) : (s.winBump k).isoPorts = s.isoPorts := rfl
@[simp] theorem State.winBump_haltTimes (s : State) (k : Nat) : (s.winBump k).haltTimes = s.haltTimes := rfl
@[simp] theorem State.winBump_restartAsked (s : State) (k : Nat) : (s.winBump k).restartAsked = s.restartAsked := rfl
@[simp] theorem State.winBump_frozen (s : State) (k : Nat) : (s.winBump k).frozen = s.frozen := rfl
@[simp] theorem State.winBump_canErr (s : State) (k : Nat) : (s.winBump k).canErr = s.canErr := rfl
@[simp] theorem State.winBump_capLimit (s : State) (k : Nat) : (s.winBump k).capLimit = s.capLimit := rfl
@[simp] theorem State.winBump_capParked (s : State) (k : Nat) : (s.winBump k).capParked = s.capParked := rfl
@[simp] theorem State.winBump_heatLimit (s : State) (k : Nat) : (s.winBump k).heatLimit = s.heatLimit := rfl
@[simp] theorem State.winBump_railLock (s : State) (k : Nat) : (s.winBump k).railLock = s.railLock := rfl
@[simp] theorem State.winBump_paceLow (s : State) (k : Nat) : (s.winBump k).paceLow = s.paceLow := rfl
@[simp] theorem State.winBump_boost (s : State) (k : Nat) : (s.winBump k).boost = s.boost := rfl
@[simp] theorem State.winBump_bulk (s : State) (k : Nat) : (s.winBump k).bulk = s.bulk := rfl
@[simp] theorem State.winBump_sdo (s : State) (k : Nat) : (s.winBump k).sdo = s.sdo := rfl
@[simp] theorem State.winBump_accums (s : State) (k : Nat) : (s.winBump k).accums = s.accums := rfl
@[simp] theorem State.winBump_eids (s : State) (k : Nat) : (s.winBump k).eids = s.eids := rfl
@[simp] theorem State.winBump_dbgEnHigh (s : State) (k : Nat) : (s.winBump k).dbgEnHigh = s.dbgEnHigh := rfl
@[simp] theorem State.winBump_tapIr (s : State) (k : Nat) : (s.winBump k).tapIr = s.tapIr := rfl
@[simp] theorem State.winBump_tapPins (s : State) (k : Nat) : (s.winBump k).tapPins = s.tapPins := rfl
@[simp] theorem State.winBump_tapDrive (s : State) (k : Nat) : (s.winBump k).tapDrive = s.tapDrive := rfl
@[simp] theorem State.winBump_tapDict (s : State) (k : Nat) : (s.winBump k).tapDict = s.tapDict := rfl
@[simp] theorem State.winBump_tapMem (s : State) (k : Nat) : (s.winBump k).tapMem = s.tapMem := rfl
@[simp] theorem State.winBump_stem (s : State) (k : Nat) : (s.winBump k).stem = s.stem := rfl
@[simp] theorem State.winBump_stemRr (s : State) (k : Nat) : (s.winBump k).stemRr = s.stemRr := rfl
@[simp] theorem State.winBump_cross (s : State) (k : Nat) : (s.winBump k).cross = s.cross := rfl
@[simp] theorem State.winBump_msixTab (s : State) (k : Nat) : (s.winBump k).msixTab = s.msixTab := rfl
@[simp] theorem State.winBump_paceSet (s : State) (k : Nat) : (s.winBump k).paceSet = s.paceSet := rfl
@[simp] theorem State.winBump_pipes (s : State) (k : Nat) : (s.winBump k).pipes = s.pipes := rfl
@[simp] theorem State.winBump_scratchBad (s : State) (k : Nat) : (s.winBump k).scratchBad = s.scratchBad := rfl
@[simp] theorem State.winBump_histOn (s : State) (k : Nat) : (s.winBump k).histOn = s.histOn := rfl
@[simp] theorem State.winBump_haltWords (s : State) (k : Nat) : (s.winBump k).haltWords = s.haltWords := rfl
@[simp] theorem State.winBump_dget_reads (s : State) (k : Nat) (x y : Nat) : (s.winBump k).dget x y = s.dget x y := rfl
@[simp] theorem State.winBump_domByte_reads (s : State) (k : Nat) (x y z : Nat) : (s.winBump k).domByte x y z = s.domByte x y z := rfl
@[simp] theorem State.winBump_memByte_reads (s : State) (k : Nat) (x : Nat) : (s.winBump k).memByte x = s.memByte x := rfl
@[simp] theorem State.winBump_thr_reads (s : State) (k : Nat) (x : Hart) : (s.winBump k).thr x = s.thr x := rfl
@[simp] theorem State.winBump_dreg_reads (s : State) (k : Nat) (x : Hart) (y : Reg) : (s.winBump k).dreg x y = s.dreg x y := rfl
@[simp] theorem State.winBump_areg_reads (s : State) (k : Nat) (x : Hart) (y : Reg) : (s.winBump k).areg x y = s.areg x y := rfl
@[simp] theorem State.winBump_acc_reads (s : State) (k : Nat) (x : Hart) (y : Fin 4) : (s.winBump k).acc x y = s.acc x y := rfl
@[simp] theorem State.winBump_creg_reads (s : State) (k : Nat) (x : Hart) (y : CReg) : (s.winBump k).creg x y = s.creg x y := rfl
@[simp] theorem State.winBump_core_reads (s : State) (k : Nat) (x : CoreId) : (s.winBump k).core x = s.core x := rfl
@[simp] theorem State.winBump_clus_reads (s : State) (k : Nat) (x : Petal) (y : Cluster) : (s.winBump k).clus x y = s.clus x y := rfl
@[simp] theorem State.winBump_chan_reads (s : State) (k : Nat) (x : Petal) (y : Nat) : (s.winBump k).chan x y = s.chan x y := rfl
@[simp] theorem State.winBump_pet_reads (s : State) (k : Nat) (x : Petal) : (s.winBump k).pet x = s.pet x := rfl
@[simp] theorem State.winBump_q_reads (s : State) (k : Nat) (x : Nat) : (s.winBump k).q x = s.q x := rfl
@[simp] theorem State.winBump_slot_reads (s : State) (k : Nat) (x : ThreadId) : (s.winBump k).slot x = s.slot x := rfl
@[simp] theorem State.winBump_coll_reads (s : State) (k : Nat) (x : Collector) : (s.winBump k).coll x = s.coll x := rfl
@[simp] theorem State.winBump_dram_reads (s : State) (k : Nat) (x : Nat) : (s.winBump k).dram x = s.dram x := rfl
@[simp] theorem State.winBump_mbox_reads (s : State) (k : Nat) (x : Nat) : (s.winBump k).mbox x = s.mbox x := rfl
@[simp] theorem State.winBump_pipe_reads (s : State) (k : Nat) (x : CoreId) : (s.winBump k).pipe x = s.pipe x := rfl

/-! ### State.setThr changes `threads` -/

@[simp] theorem State.setThr_time (s : State) (h : Hart) (w : Thread) : (s.setThr h w).time = s.time := rfl
@[simp] theorem State.setThr_pending (s : State) (h : Hart) (w : Thread) : (s.setThr h w).pending = s.pending := rfl
@[simp] theorem State.setThr_dict (s : State) (h : Hart) (w : Thread) : (s.setThr h w).dict = s.dict := rfl
@[simp] theorem State.setThr_doms (s : State) (h : Hart) (w : Thread) : (s.setThr h w).doms = s.doms := rfl
@[simp] theorem State.setThr_mem (s : State) (h : Hart) (w : Thread) : (s.setThr h w).mem = s.mem := rfl
@[simp] theorem State.setThr_poison (s : State) (h : Hart) (w : Thread) : (s.setThr h w).poison = s.poison := rfl
@[simp] theorem State.setThr_fresh (s : State) (h : Hart) (w : Thread) : (s.setThr h w).fresh = s.fresh := rfl
@[simp] theorem State.setThr_out (s : State) (h : Hart) (w : Thread) : (s.setThr h w).out = s.out := rfl
@[simp] theorem State.setThr_win (s : State) (h : Hart) (w : Thread) : (s.setThr h w).win = s.win := rfl
@[simp] theorem State.setThr_cores (s : State) (h : Hart) (w : Thread) : (s.setThr h w).cores = s.cores := rfl
@[simp] theorem State.setThr_clusters (s : State) (h : Hart) (w : Thread) : (s.setThr h w).clusters = s.clusters := rfl
@[simp] theorem State.setThr_chans (s : State) (h : Hart) (w : Thread) : (s.setThr h w).chans = s.chans := rfl
@[simp] theorem State.setThr_census (s : State) (h : Hart) (w : Thread) : (s.setThr h w).census = s.census := rfl
@[simp] theorem State.setThr_colls (s : State) (h : Hart) (w : Thread) : (s.setThr h w).colls = s.colls := rfl
@[simp] theorem State.setThr_trans (s : State) (h : Hart) (w : Thread) : (s.setThr h w).trans = s.trans := rfl
@[simp] theorem State.setThr_staged (s : State) (h : Hart) (w : Thread) : (s.setThr h w).staged = s.staged := rfl
@[simp] theorem State.setThr_snaps (s : State) (h : Hart) (w : Thread) : (s.setThr h w).snaps = s.snaps := rfl
@[simp] theorem State.setThr_halts (s : State) (h : Hart) (w : Thread) : (s.setThr h w).halts = s.halts := rfl
@[simp] theorem State.setThr_haltDue (s : State) (h : Hart) (w : Thread) : (s.setThr h w).haltDue = s.haltDue := rfl
@[simp] theorem State.setThr_msixOpen (s : State) (h : Hart) (w : Thread) : (s.setThr h w).msixOpen = s.msixOpen := rfl
@[simp] theorem State.setThr_msixPend (s : State) (h : Hart) (w : Thread) : (s.setThr h w).msixPend = s.msixPend := rfl
@[simp] theorem State.setThr_busMaster (s : State) (h : Hart) (w : Thread) : (s.setThr h w).busMaster = s.busMaster := rfl
@[simp] theorem State.setThr_holders (s : State) (h : Hart) (w : Thread) : (s.setThr h w).holders = s.holders := rfl
@[simp] theorem State.setThr_waiters (s : State) (h : Hart) (w : Thread) : (s.setThr h w).waiters = s.waiters := rfl
@[simp] theorem State.setThr_drams (s : State) (h : Hart) (w : Thread) : (s.setThr h w).drams = s.drams := rfl
@[simp] theorem State.setThr_sessions (s : State) (h : Hart) (w : Thread) : (s.setThr h w).sessions = s.sessions := rfl
@[simp] theorem State.setThr_perst (s : State) (h : Hart) (w : Thread) : (s.setThr h w).perst = s.perst := rfl
@[simp] theorem State.setThr_petals (s : State) (h : Hart) (w : Thread) : (s.setThr h w).petals = s.petals := rfl
@[simp] theorem State.setThr_slots (s : State) (h : Hart) (w : Thread) : (s.setThr h w).slots = s.slots := rfl
@[simp] theorem State.setThr_tables (s : State) (h : Hart) (w : Thread) : (s.setThr h w).tables = s.tables := rfl
@[simp] theorem State.setThr_cow (s : State) (h : Hart) (w : Thread) : (s.setThr h w).cow = s.cow := rfl
@[simp] theorem State.setThr_rxPause (s : State) (h : Hart) (w : Thread) : (s.setThr h w).rxPause = s.rxPause := rfl
@[simp] theorem State.setThr_stalled (s : State) (h : Hart) (w : Thread) : (s.setThr h w).stalled = s.stalled := rfl
@[simp] theorem State.setThr_modes (s : State) (h : Hart) (w : Thread) : (s.setThr h w).modes = s.modes := rfl
@[simp] theorem State.setThr_mism (s : State) (h : Hart) (w : Thread) : (s.setThr h w).mism = s.mism := rfl
@[simp] theorem State.setThr_sorrel (s : State) (h : Hart) (w : Thread) : (s.setThr h w).sorrel = s.sorrel := rfl
@[simp] theorem State.setThr_swaps (s : State) (h : Hart) (w : Thread) : (s.setThr h w).swaps = s.swaps := rfl
@[simp] theorem State.setThr_mboxes (s : State) (h : Hart) (w : Thread) : (s.setThr h w).mboxes = s.mboxes := rfl
@[simp] theorem State.setThr_requeue (s : State) (h : Hart) (w : Thread) : (s.setThr h w).requeue = s.requeue := rfl
@[simp] theorem State.setThr_repairs (s : State) (h : Hart) (w : Thread) : (s.setThr h w).repairs = s.repairs := rfl
@[simp] theorem State.setThr_ceTimes (s : State) (h : Hart) (w : Thread) : (s.setThr h w).ceTimes = s.ceTimes := rfl
@[simp] theorem State.setThr_ueTimes (s : State) (h : Hart) (w : Thread) : (s.setThr h w).ueTimes = s.ueTimes := rfl
@[simp] theorem State.setThr_wearWarned (s : State) (h : Hart) (w : Thread) : (s.setThr h w).wearWarned = s.wearWarned := rfl
@[simp] theorem State.setThr_swapLogged (s : State) (h : Hart) (w : Thread) : (s.setThr h w).swapLogged = s.swapLogged := rfl
@[simp] theorem State.setThr_cntBase (s : State) (h : Hart) (w : Thread) : (s.setThr h w).cntBase = s.cntBase := rfl
@[simp] theorem State.setThr_journal (s : State) (h : Hart) (w : Thread) : (s.setThr h w).journal = s.journal := rfl
@[simp] theorem State.setThr_lastHash (s : State) (h : Hart) (w : Thread) : (s.setThr h w).lastHash = s.lastHash := rfl
@[simp] theorem State.setThr_heldSeqs (s : State) (h : Hart) (w : Thread) : (s.setThr h w).heldSeqs = s.heldSeqs := rfl
@[simp] theorem State.setThr_golneB (s : State) (h : Hart) (w : Thread) : (s.setThr h w).golneB = s.golneB := rfl
@[simp] theorem State.setThr_golneDown (s : State) (h : Hart) (w : Thread) : (s.setThr h w).golneDown = s.golneDown := rfl
@[simp] theorem State.setThr_act (s : State) (h : Hart) (w : Thread) : (s.setThr h w).act = s.act := rfl
@[simp] theorem State.setThr_minStart (s : State) (h : Hart) (w : Thread) : (s.setThr h w).minStart = s.minStart := rfl
@[simp] theorem State.setThr_noDram (s : State) (h : Hart) (w : Thread) : (s.setThr h w).noDram = s.noDram := rfl
@[simp] theorem State.setThr_nextRaise (s : State) (h : Hart) (w : Thread) : (s.setThr h w).nextRaise = s.nextRaise := rfl
@[simp] theorem State.setThr_pseq (s : State) (h : Hart) (w : Thread) : (s.setThr h w).pseq = s.pseq := rfl
@[simp] theorem State.setThr_unlockMeas (s : State) (h : Hart) (w : Thread) : (s.setThr h w).unlockMeas = s.unlockMeas := rfl
@[simp] theorem State.setThr_unlockEnd (s : State) (h : Hart) (w : Thread) : (s.setThr h w).unlockEnd = s.unlockEnd := rfl
@[simp] theorem State.setThr_unlockPetals (s : State) (h : Hart) (w : Thread) : (s.setThr h w).unlockPetals = s.unlockPetals := rfl
@[simp] theorem State.setThr_romStuck (s : State) (h : Hart) (w : Thread) : (s.setThr h w).romStuck = s.romStuck := rfl
@[simp] theorem State.setThr_minRetry (s : State) (h : Hart) (w : Thread) : (s.setThr h w).minRetry = s.minRetry := rfl
@[simp] theorem State.setThr_power (s : State) (h : Hart) (w : Thread) : (s.setThr h w).power = s.power := rfl
@[simp] theorem State.setThr_dumps (s : State) (h : Hart) (w : Thread) : (s.setThr h w).dumps = s.dumps := rfl
@[simp] theorem State.setThr_rootSyn (s : State) (h : Hart) (w : Thread) : (s.setThr h w).rootSyn = s.rootSyn := rfl
@[simp] theorem State.setThr_isoPorts (s : State) (h : Hart) (w : Thread) : (s.setThr h w).isoPorts = s.isoPorts := rfl
@[simp] theorem State.setThr_haltTimes (s : State) (h : Hart) (w : Thread) : (s.setThr h w).haltTimes = s.haltTimes := rfl
@[simp] theorem State.setThr_restartAsked (s : State) (h : Hart) (w : Thread) : (s.setThr h w).restartAsked = s.restartAsked := rfl
@[simp] theorem State.setThr_frozen (s : State) (h : Hart) (w : Thread) : (s.setThr h w).frozen = s.frozen := rfl
@[simp] theorem State.setThr_canErr (s : State) (h : Hart) (w : Thread) : (s.setThr h w).canErr = s.canErr := rfl
@[simp] theorem State.setThr_capLimit (s : State) (h : Hart) (w : Thread) : (s.setThr h w).capLimit = s.capLimit := rfl
@[simp] theorem State.setThr_capParked (s : State) (h : Hart) (w : Thread) : (s.setThr h w).capParked = s.capParked := rfl
@[simp] theorem State.setThr_heatLimit (s : State) (h : Hart) (w : Thread) : (s.setThr h w).heatLimit = s.heatLimit := rfl
@[simp] theorem State.setThr_railLock (s : State) (h : Hart) (w : Thread) : (s.setThr h w).railLock = s.railLock := rfl
@[simp] theorem State.setThr_paceLow (s : State) (h : Hart) (w : Thread) : (s.setThr h w).paceLow = s.paceLow := rfl
@[simp] theorem State.setThr_boost (s : State) (h : Hart) (w : Thread) : (s.setThr h w).boost = s.boost := rfl
@[simp] theorem State.setThr_bulk (s : State) (h : Hart) (w : Thread) : (s.setThr h w).bulk = s.bulk := rfl
@[simp] theorem State.setThr_sdo (s : State) (h : Hart) (w : Thread) : (s.setThr h w).sdo = s.sdo := rfl
@[simp] theorem State.setThr_accums (s : State) (h : Hart) (w : Thread) : (s.setThr h w).accums = s.accums := rfl
@[simp] theorem State.setThr_eids (s : State) (h : Hart) (w : Thread) : (s.setThr h w).eids = s.eids := rfl
@[simp] theorem State.setThr_dbgEnHigh (s : State) (h : Hart) (w : Thread) : (s.setThr h w).dbgEnHigh = s.dbgEnHigh := rfl
@[simp] theorem State.setThr_tapIr (s : State) (h : Hart) (w : Thread) : (s.setThr h w).tapIr = s.tapIr := rfl
@[simp] theorem State.setThr_tapPins (s : State) (h : Hart) (w : Thread) : (s.setThr h w).tapPins = s.tapPins := rfl
@[simp] theorem State.setThr_tapDrive (s : State) (h : Hart) (w : Thread) : (s.setThr h w).tapDrive = s.tapDrive := rfl
@[simp] theorem State.setThr_tapDict (s : State) (h : Hart) (w : Thread) : (s.setThr h w).tapDict = s.tapDict := rfl
@[simp] theorem State.setThr_tapMem (s : State) (h : Hart) (w : Thread) : (s.setThr h w).tapMem = s.tapMem := rfl
@[simp] theorem State.setThr_stem (s : State) (h : Hart) (w : Thread) : (s.setThr h w).stem = s.stem := rfl
@[simp] theorem State.setThr_stemRr (s : State) (h : Hart) (w : Thread) : (s.setThr h w).stemRr = s.stemRr := rfl
@[simp] theorem State.setThr_cross (s : State) (h : Hart) (w : Thread) : (s.setThr h w).cross = s.cross := rfl
@[simp] theorem State.setThr_msixTab (s : State) (h : Hart) (w : Thread) : (s.setThr h w).msixTab = s.msixTab := rfl
@[simp] theorem State.setThr_paceSet (s : State) (h : Hart) (w : Thread) : (s.setThr h w).paceSet = s.paceSet := rfl
@[simp] theorem State.setThr_pipes (s : State) (h : Hart) (w : Thread) : (s.setThr h w).pipes = s.pipes := rfl
@[simp] theorem State.setThr_scratchBad (s : State) (h : Hart) (w : Thread) : (s.setThr h w).scratchBad = s.scratchBad := rfl
@[simp] theorem State.setThr_histOn (s : State) (h : Hart) (w : Thread) : (s.setThr h w).histOn = s.histOn := rfl
@[simp] theorem State.setThr_haltWords (s : State) (h : Hart) (w : Thread) : (s.setThr h w).haltWords = s.haltWords := rfl
@[simp] theorem State.setThr_dget_reads (s : State) (h : Hart) (w : Thread) (x y : Nat) : (s.setThr h w).dget x y = s.dget x y := rfl
@[simp] theorem State.setThr_domByte_reads (s : State) (h : Hart) (w : Thread) (x y z : Nat) : (s.setThr h w).domByte x y z = s.domByte x y z := rfl
@[simp] theorem State.setThr_memByte_reads (s : State) (h : Hart) (w : Thread) (x : Nat) : (s.setThr h w).memByte x = s.memByte x := rfl
@[simp] theorem State.setThr_winGet_reads (s : State) (h : Hart) (w : Thread) (x : Nat) : (s.setThr h w).winGet x = s.winGet x := rfl
@[simp] theorem State.setThr_core_reads (s : State) (h : Hart) (w : Thread) (x : CoreId) : (s.setThr h w).core x = s.core x := rfl
@[simp] theorem State.setThr_clus_reads (s : State) (h : Hart) (w : Thread) (x : Petal) (y : Cluster) : (s.setThr h w).clus x y = s.clus x y := rfl
@[simp] theorem State.setThr_chan_reads (s : State) (h : Hart) (w : Thread) (x : Petal) (y : Nat) : (s.setThr h w).chan x y = s.chan x y := rfl
@[simp] theorem State.setThr_pet_reads (s : State) (h : Hart) (w : Thread) (x : Petal) : (s.setThr h w).pet x = s.pet x := rfl
@[simp] theorem State.setThr_q_reads (s : State) (h : Hart) (w : Thread) (x : Nat) : (s.setThr h w).q x = s.q x := rfl
@[simp] theorem State.setThr_slot_reads (s : State) (h : Hart) (w : Thread) (x : ThreadId) : (s.setThr h w).slot x = s.slot x := rfl
@[simp] theorem State.setThr_coll_reads (s : State) (h : Hart) (w : Thread) (x : Collector) : (s.setThr h w).coll x = s.coll x := rfl
@[simp] theorem State.setThr_dram_reads (s : State) (h : Hart) (w : Thread) (x : Nat) : (s.setThr h w).dram x = s.dram x := rfl
@[simp] theorem State.setThr_mbox_reads (s : State) (h : Hart) (w : Thread) (x : Nat) : (s.setThr h w).mbox x = s.mbox x := rfl
@[simp] theorem State.setThr_pipe_reads (s : State) (h : Hart) (w : Thread) (x : CoreId) : (s.setThr h w).pipe x = s.pipe x := rfl

/-! ### State.updThr changes `threads` -/

@[simp] theorem State.updThr_time (s : State) (h : Hart) (f : Thread → Thread) : (s.updThr h f).time = s.time := rfl
@[simp] theorem State.updThr_pending (s : State) (h : Hart) (f : Thread → Thread) : (s.updThr h f).pending = s.pending := rfl
@[simp] theorem State.updThr_dict (s : State) (h : Hart) (f : Thread → Thread) : (s.updThr h f).dict = s.dict := rfl
@[simp] theorem State.updThr_doms (s : State) (h : Hart) (f : Thread → Thread) : (s.updThr h f).doms = s.doms := rfl
@[simp] theorem State.updThr_mem (s : State) (h : Hart) (f : Thread → Thread) : (s.updThr h f).mem = s.mem := rfl
@[simp] theorem State.updThr_poison (s : State) (h : Hart) (f : Thread → Thread) : (s.updThr h f).poison = s.poison := rfl
@[simp] theorem State.updThr_fresh (s : State) (h : Hart) (f : Thread → Thread) : (s.updThr h f).fresh = s.fresh := rfl
@[simp] theorem State.updThr_out (s : State) (h : Hart) (f : Thread → Thread) : (s.updThr h f).out = s.out := rfl
@[simp] theorem State.updThr_win (s : State) (h : Hart) (f : Thread → Thread) : (s.updThr h f).win = s.win := rfl
@[simp] theorem State.updThr_cores (s : State) (h : Hart) (f : Thread → Thread) : (s.updThr h f).cores = s.cores := rfl
@[simp] theorem State.updThr_clusters (s : State) (h : Hart) (f : Thread → Thread) : (s.updThr h f).clusters = s.clusters := rfl
@[simp] theorem State.updThr_chans (s : State) (h : Hart) (f : Thread → Thread) : (s.updThr h f).chans = s.chans := rfl
@[simp] theorem State.updThr_census (s : State) (h : Hart) (f : Thread → Thread) : (s.updThr h f).census = s.census := rfl
@[simp] theorem State.updThr_colls (s : State) (h : Hart) (f : Thread → Thread) : (s.updThr h f).colls = s.colls := rfl
@[simp] theorem State.updThr_trans (s : State) (h : Hart) (f : Thread → Thread) : (s.updThr h f).trans = s.trans := rfl
@[simp] theorem State.updThr_staged (s : State) (h : Hart) (f : Thread → Thread) : (s.updThr h f).staged = s.staged := rfl
@[simp] theorem State.updThr_snaps (s : State) (h : Hart) (f : Thread → Thread) : (s.updThr h f).snaps = s.snaps := rfl
@[simp] theorem State.updThr_halts (s : State) (h : Hart) (f : Thread → Thread) : (s.updThr h f).halts = s.halts := rfl
@[simp] theorem State.updThr_haltDue (s : State) (h : Hart) (f : Thread → Thread) : (s.updThr h f).haltDue = s.haltDue := rfl
@[simp] theorem State.updThr_msixOpen (s : State) (h : Hart) (f : Thread → Thread) : (s.updThr h f).msixOpen = s.msixOpen := rfl
@[simp] theorem State.updThr_msixPend (s : State) (h : Hart) (f : Thread → Thread) : (s.updThr h f).msixPend = s.msixPend := rfl
@[simp] theorem State.updThr_busMaster (s : State) (h : Hart) (f : Thread → Thread) : (s.updThr h f).busMaster = s.busMaster := rfl
@[simp] theorem State.updThr_holders (s : State) (h : Hart) (f : Thread → Thread) : (s.updThr h f).holders = s.holders := rfl
@[simp] theorem State.updThr_waiters (s : State) (h : Hart) (f : Thread → Thread) : (s.updThr h f).waiters = s.waiters := rfl
@[simp] theorem State.updThr_drams (s : State) (h : Hart) (f : Thread → Thread) : (s.updThr h f).drams = s.drams := rfl
@[simp] theorem State.updThr_sessions (s : State) (h : Hart) (f : Thread → Thread) : (s.updThr h f).sessions = s.sessions := rfl
@[simp] theorem State.updThr_perst (s : State) (h : Hart) (f : Thread → Thread) : (s.updThr h f).perst = s.perst := rfl
@[simp] theorem State.updThr_petals (s : State) (h : Hart) (f : Thread → Thread) : (s.updThr h f).petals = s.petals := rfl
@[simp] theorem State.updThr_slots (s : State) (h : Hart) (f : Thread → Thread) : (s.updThr h f).slots = s.slots := rfl
@[simp] theorem State.updThr_tables (s : State) (h : Hart) (f : Thread → Thread) : (s.updThr h f).tables = s.tables := rfl
@[simp] theorem State.updThr_cow (s : State) (h : Hart) (f : Thread → Thread) : (s.updThr h f).cow = s.cow := rfl
@[simp] theorem State.updThr_rxPause (s : State) (h : Hart) (f : Thread → Thread) : (s.updThr h f).rxPause = s.rxPause := rfl
@[simp] theorem State.updThr_stalled (s : State) (h : Hart) (f : Thread → Thread) : (s.updThr h f).stalled = s.stalled := rfl
@[simp] theorem State.updThr_modes (s : State) (h : Hart) (f : Thread → Thread) : (s.updThr h f).modes = s.modes := rfl
@[simp] theorem State.updThr_mism (s : State) (h : Hart) (f : Thread → Thread) : (s.updThr h f).mism = s.mism := rfl
@[simp] theorem State.updThr_sorrel (s : State) (h : Hart) (f : Thread → Thread) : (s.updThr h f).sorrel = s.sorrel := rfl
@[simp] theorem State.updThr_swaps (s : State) (h : Hart) (f : Thread → Thread) : (s.updThr h f).swaps = s.swaps := rfl
@[simp] theorem State.updThr_mboxes (s : State) (h : Hart) (f : Thread → Thread) : (s.updThr h f).mboxes = s.mboxes := rfl
@[simp] theorem State.updThr_requeue (s : State) (h : Hart) (f : Thread → Thread) : (s.updThr h f).requeue = s.requeue := rfl
@[simp] theorem State.updThr_repairs (s : State) (h : Hart) (f : Thread → Thread) : (s.updThr h f).repairs = s.repairs := rfl
@[simp] theorem State.updThr_ceTimes (s : State) (h : Hart) (f : Thread → Thread) : (s.updThr h f).ceTimes = s.ceTimes := rfl
@[simp] theorem State.updThr_ueTimes (s : State) (h : Hart) (f : Thread → Thread) : (s.updThr h f).ueTimes = s.ueTimes := rfl
@[simp] theorem State.updThr_wearWarned (s : State) (h : Hart) (f : Thread → Thread) : (s.updThr h f).wearWarned = s.wearWarned := rfl
@[simp] theorem State.updThr_swapLogged (s : State) (h : Hart) (f : Thread → Thread) : (s.updThr h f).swapLogged = s.swapLogged := rfl
@[simp] theorem State.updThr_cntBase (s : State) (h : Hart) (f : Thread → Thread) : (s.updThr h f).cntBase = s.cntBase := rfl
@[simp] theorem State.updThr_journal (s : State) (h : Hart) (f : Thread → Thread) : (s.updThr h f).journal = s.journal := rfl
@[simp] theorem State.updThr_lastHash (s : State) (h : Hart) (f : Thread → Thread) : (s.updThr h f).lastHash = s.lastHash := rfl
@[simp] theorem State.updThr_heldSeqs (s : State) (h : Hart) (f : Thread → Thread) : (s.updThr h f).heldSeqs = s.heldSeqs := rfl
@[simp] theorem State.updThr_golneB (s : State) (h : Hart) (f : Thread → Thread) : (s.updThr h f).golneB = s.golneB := rfl
@[simp] theorem State.updThr_golneDown (s : State) (h : Hart) (f : Thread → Thread) : (s.updThr h f).golneDown = s.golneDown := rfl
@[simp] theorem State.updThr_act (s : State) (h : Hart) (f : Thread → Thread) : (s.updThr h f).act = s.act := rfl
@[simp] theorem State.updThr_minStart (s : State) (h : Hart) (f : Thread → Thread) : (s.updThr h f).minStart = s.minStart := rfl
@[simp] theorem State.updThr_noDram (s : State) (h : Hart) (f : Thread → Thread) : (s.updThr h f).noDram = s.noDram := rfl
@[simp] theorem State.updThr_nextRaise (s : State) (h : Hart) (f : Thread → Thread) : (s.updThr h f).nextRaise = s.nextRaise := rfl
@[simp] theorem State.updThr_pseq (s : State) (h : Hart) (f : Thread → Thread) : (s.updThr h f).pseq = s.pseq := rfl
@[simp] theorem State.updThr_unlockMeas (s : State) (h : Hart) (f : Thread → Thread) : (s.updThr h f).unlockMeas = s.unlockMeas := rfl
@[simp] theorem State.updThr_unlockEnd (s : State) (h : Hart) (f : Thread → Thread) : (s.updThr h f).unlockEnd = s.unlockEnd := rfl
@[simp] theorem State.updThr_unlockPetals (s : State) (h : Hart) (f : Thread → Thread) : (s.updThr h f).unlockPetals = s.unlockPetals := rfl
@[simp] theorem State.updThr_romStuck (s : State) (h : Hart) (f : Thread → Thread) : (s.updThr h f).romStuck = s.romStuck := rfl
@[simp] theorem State.updThr_minRetry (s : State) (h : Hart) (f : Thread → Thread) : (s.updThr h f).minRetry = s.minRetry := rfl
@[simp] theorem State.updThr_power (s : State) (h : Hart) (f : Thread → Thread) : (s.updThr h f).power = s.power := rfl
@[simp] theorem State.updThr_dumps (s : State) (h : Hart) (f : Thread → Thread) : (s.updThr h f).dumps = s.dumps := rfl
@[simp] theorem State.updThr_rootSyn (s : State) (h : Hart) (f : Thread → Thread) : (s.updThr h f).rootSyn = s.rootSyn := rfl
@[simp] theorem State.updThr_isoPorts (s : State) (h : Hart) (f : Thread → Thread) : (s.updThr h f).isoPorts = s.isoPorts := rfl
@[simp] theorem State.updThr_haltTimes (s : State) (h : Hart) (f : Thread → Thread) : (s.updThr h f).haltTimes = s.haltTimes := rfl
@[simp] theorem State.updThr_restartAsked (s : State) (h : Hart) (f : Thread → Thread) : (s.updThr h f).restartAsked = s.restartAsked := rfl
@[simp] theorem State.updThr_frozen (s : State) (h : Hart) (f : Thread → Thread) : (s.updThr h f).frozen = s.frozen := rfl
@[simp] theorem State.updThr_canErr (s : State) (h : Hart) (f : Thread → Thread) : (s.updThr h f).canErr = s.canErr := rfl
@[simp] theorem State.updThr_capLimit (s : State) (h : Hart) (f : Thread → Thread) : (s.updThr h f).capLimit = s.capLimit := rfl
@[simp] theorem State.updThr_capParked (s : State) (h : Hart) (f : Thread → Thread) : (s.updThr h f).capParked = s.capParked := rfl
@[simp] theorem State.updThr_heatLimit (s : State) (h : Hart) (f : Thread → Thread) : (s.updThr h f).heatLimit = s.heatLimit := rfl
@[simp] theorem State.updThr_railLock (s : State) (h : Hart) (f : Thread → Thread) : (s.updThr h f).railLock = s.railLock := rfl
@[simp] theorem State.updThr_paceLow (s : State) (h : Hart) (f : Thread → Thread) : (s.updThr h f).paceLow = s.paceLow := rfl
@[simp] theorem State.updThr_boost (s : State) (h : Hart) (f : Thread → Thread) : (s.updThr h f).boost = s.boost := rfl
@[simp] theorem State.updThr_bulk (s : State) (h : Hart) (f : Thread → Thread) : (s.updThr h f).bulk = s.bulk := rfl
@[simp] theorem State.updThr_sdo (s : State) (h : Hart) (f : Thread → Thread) : (s.updThr h f).sdo = s.sdo := rfl
@[simp] theorem State.updThr_accums (s : State) (h : Hart) (f : Thread → Thread) : (s.updThr h f).accums = s.accums := rfl
@[simp] theorem State.updThr_eids (s : State) (h : Hart) (f : Thread → Thread) : (s.updThr h f).eids = s.eids := rfl
@[simp] theorem State.updThr_dbgEnHigh (s : State) (h : Hart) (f : Thread → Thread) : (s.updThr h f).dbgEnHigh = s.dbgEnHigh := rfl
@[simp] theorem State.updThr_tapIr (s : State) (h : Hart) (f : Thread → Thread) : (s.updThr h f).tapIr = s.tapIr := rfl
@[simp] theorem State.updThr_tapPins (s : State) (h : Hart) (f : Thread → Thread) : (s.updThr h f).tapPins = s.tapPins := rfl
@[simp] theorem State.updThr_tapDrive (s : State) (h : Hart) (f : Thread → Thread) : (s.updThr h f).tapDrive = s.tapDrive := rfl
@[simp] theorem State.updThr_tapDict (s : State) (h : Hart) (f : Thread → Thread) : (s.updThr h f).tapDict = s.tapDict := rfl
@[simp] theorem State.updThr_tapMem (s : State) (h : Hart) (f : Thread → Thread) : (s.updThr h f).tapMem = s.tapMem := rfl
@[simp] theorem State.updThr_stem (s : State) (h : Hart) (f : Thread → Thread) : (s.updThr h f).stem = s.stem := rfl
@[simp] theorem State.updThr_stemRr (s : State) (h : Hart) (f : Thread → Thread) : (s.updThr h f).stemRr = s.stemRr := rfl
@[simp] theorem State.updThr_cross (s : State) (h : Hart) (f : Thread → Thread) : (s.updThr h f).cross = s.cross := rfl
@[simp] theorem State.updThr_msixTab (s : State) (h : Hart) (f : Thread → Thread) : (s.updThr h f).msixTab = s.msixTab := rfl
@[simp] theorem State.updThr_paceSet (s : State) (h : Hart) (f : Thread → Thread) : (s.updThr h f).paceSet = s.paceSet := rfl
@[simp] theorem State.updThr_pipes (s : State) (h : Hart) (f : Thread → Thread) : (s.updThr h f).pipes = s.pipes := rfl
@[simp] theorem State.updThr_scratchBad (s : State) (h : Hart) (f : Thread → Thread) : (s.updThr h f).scratchBad = s.scratchBad := rfl
@[simp] theorem State.updThr_histOn (s : State) (h : Hart) (f : Thread → Thread) : (s.updThr h f).histOn = s.histOn := rfl
@[simp] theorem State.updThr_haltWords (s : State) (h : Hart) (f : Thread → Thread) : (s.updThr h f).haltWords = s.haltWords := rfl
@[simp] theorem State.updThr_dget_reads (s : State) (h : Hart) (f : Thread → Thread) (x y : Nat) : (s.updThr h f).dget x y = s.dget x y := rfl
@[simp] theorem State.updThr_domByte_reads (s : State) (h : Hart) (f : Thread → Thread) (x y z : Nat) : (s.updThr h f).domByte x y z = s.domByte x y z := rfl
@[simp] theorem State.updThr_memByte_reads (s : State) (h : Hart) (f : Thread → Thread) (x : Nat) : (s.updThr h f).memByte x = s.memByte x := rfl
@[simp] theorem State.updThr_winGet_reads (s : State) (h : Hart) (f : Thread → Thread) (x : Nat) : (s.updThr h f).winGet x = s.winGet x := rfl
@[simp] theorem State.updThr_core_reads (s : State) (h : Hart) (f : Thread → Thread) (x : CoreId) : (s.updThr h f).core x = s.core x := rfl
@[simp] theorem State.updThr_clus_reads (s : State) (h : Hart) (f : Thread → Thread) (x : Petal) (y : Cluster) : (s.updThr h f).clus x y = s.clus x y := rfl
@[simp] theorem State.updThr_chan_reads (s : State) (h : Hart) (f : Thread → Thread) (x : Petal) (y : Nat) : (s.updThr h f).chan x y = s.chan x y := rfl
@[simp] theorem State.updThr_pet_reads (s : State) (h : Hart) (f : Thread → Thread) (x : Petal) : (s.updThr h f).pet x = s.pet x := rfl
@[simp] theorem State.updThr_q_reads (s : State) (h : Hart) (f : Thread → Thread) (x : Nat) : (s.updThr h f).q x = s.q x := rfl
@[simp] theorem State.updThr_slot_reads (s : State) (h : Hart) (f : Thread → Thread) (x : ThreadId) : (s.updThr h f).slot x = s.slot x := rfl
@[simp] theorem State.updThr_coll_reads (s : State) (h : Hart) (f : Thread → Thread) (x : Collector) : (s.updThr h f).coll x = s.coll x := rfl
@[simp] theorem State.updThr_dram_reads (s : State) (h : Hart) (f : Thread → Thread) (x : Nat) : (s.updThr h f).dram x = s.dram x := rfl
@[simp] theorem State.updThr_mbox_reads (s : State) (h : Hart) (f : Thread → Thread) (x : Nat) : (s.updThr h f).mbox x = s.mbox x := rfl
@[simp] theorem State.updThr_pipe_reads (s : State) (h : Hart) (f : Thread → Thread) (x : CoreId) : (s.updThr h f).pipe x = s.pipe x := rfl

/-! ### State.setD changes `threads` -/

@[simp] theorem State.setD_time (s : State) (h : Hart) (r : Reg) (v : Word) : (s.setD h r v).time = s.time := rfl
@[simp] theorem State.setD_pending (s : State) (h : Hart) (r : Reg) (v : Word) : (s.setD h r v).pending = s.pending := rfl
@[simp] theorem State.setD_dict (s : State) (h : Hart) (r : Reg) (v : Word) : (s.setD h r v).dict = s.dict := rfl
@[simp] theorem State.setD_doms (s : State) (h : Hart) (r : Reg) (v : Word) : (s.setD h r v).doms = s.doms := rfl
@[simp] theorem State.setD_mem (s : State) (h : Hart) (r : Reg) (v : Word) : (s.setD h r v).mem = s.mem := rfl
@[simp] theorem State.setD_poison (s : State) (h : Hart) (r : Reg) (v : Word) : (s.setD h r v).poison = s.poison := rfl
@[simp] theorem State.setD_fresh (s : State) (h : Hart) (r : Reg) (v : Word) : (s.setD h r v).fresh = s.fresh := rfl
@[simp] theorem State.setD_out (s : State) (h : Hart) (r : Reg) (v : Word) : (s.setD h r v).out = s.out := rfl
@[simp] theorem State.setD_win (s : State) (h : Hart) (r : Reg) (v : Word) : (s.setD h r v).win = s.win := rfl
@[simp] theorem State.setD_cores (s : State) (h : Hart) (r : Reg) (v : Word) : (s.setD h r v).cores = s.cores := rfl
@[simp] theorem State.setD_clusters (s : State) (h : Hart) (r : Reg) (v : Word) : (s.setD h r v).clusters = s.clusters := rfl
@[simp] theorem State.setD_chans (s : State) (h : Hart) (r : Reg) (v : Word) : (s.setD h r v).chans = s.chans := rfl
@[simp] theorem State.setD_census (s : State) (h : Hart) (r : Reg) (v : Word) : (s.setD h r v).census = s.census := rfl
@[simp] theorem State.setD_colls (s : State) (h : Hart) (r : Reg) (v : Word) : (s.setD h r v).colls = s.colls := rfl
@[simp] theorem State.setD_trans (s : State) (h : Hart) (r : Reg) (v : Word) : (s.setD h r v).trans = s.trans := rfl
@[simp] theorem State.setD_staged (s : State) (h : Hart) (r : Reg) (v : Word) : (s.setD h r v).staged = s.staged := rfl
@[simp] theorem State.setD_snaps (s : State) (h : Hart) (r : Reg) (v : Word) : (s.setD h r v).snaps = s.snaps := rfl
@[simp] theorem State.setD_halts (s : State) (h : Hart) (r : Reg) (v : Word) : (s.setD h r v).halts = s.halts := rfl
@[simp] theorem State.setD_haltDue (s : State) (h : Hart) (r : Reg) (v : Word) : (s.setD h r v).haltDue = s.haltDue := rfl
@[simp] theorem State.setD_msixOpen (s : State) (h : Hart) (r : Reg) (v : Word) : (s.setD h r v).msixOpen = s.msixOpen := rfl
@[simp] theorem State.setD_msixPend (s : State) (h : Hart) (r : Reg) (v : Word) : (s.setD h r v).msixPend = s.msixPend := rfl
@[simp] theorem State.setD_busMaster (s : State) (h : Hart) (r : Reg) (v : Word) : (s.setD h r v).busMaster = s.busMaster := rfl
@[simp] theorem State.setD_holders (s : State) (h : Hart) (r : Reg) (v : Word) : (s.setD h r v).holders = s.holders := rfl
@[simp] theorem State.setD_waiters (s : State) (h : Hart) (r : Reg) (v : Word) : (s.setD h r v).waiters = s.waiters := rfl
@[simp] theorem State.setD_drams (s : State) (h : Hart) (r : Reg) (v : Word) : (s.setD h r v).drams = s.drams := rfl
@[simp] theorem State.setD_sessions (s : State) (h : Hart) (r : Reg) (v : Word) : (s.setD h r v).sessions = s.sessions := rfl
@[simp] theorem State.setD_perst (s : State) (h : Hart) (r : Reg) (v : Word) : (s.setD h r v).perst = s.perst := rfl
@[simp] theorem State.setD_petals (s : State) (h : Hart) (r : Reg) (v : Word) : (s.setD h r v).petals = s.petals := rfl
@[simp] theorem State.setD_slots (s : State) (h : Hart) (r : Reg) (v : Word) : (s.setD h r v).slots = s.slots := rfl
@[simp] theorem State.setD_tables (s : State) (h : Hart) (r : Reg) (v : Word) : (s.setD h r v).tables = s.tables := rfl
@[simp] theorem State.setD_cow (s : State) (h : Hart) (r : Reg) (v : Word) : (s.setD h r v).cow = s.cow := rfl
@[simp] theorem State.setD_rxPause (s : State) (h : Hart) (r : Reg) (v : Word) : (s.setD h r v).rxPause = s.rxPause := rfl
@[simp] theorem State.setD_stalled (s : State) (h : Hart) (r : Reg) (v : Word) : (s.setD h r v).stalled = s.stalled := rfl
@[simp] theorem State.setD_modes (s : State) (h : Hart) (r : Reg) (v : Word) : (s.setD h r v).modes = s.modes := rfl
@[simp] theorem State.setD_mism (s : State) (h : Hart) (r : Reg) (v : Word) : (s.setD h r v).mism = s.mism := rfl
@[simp] theorem State.setD_sorrel (s : State) (h : Hart) (r : Reg) (v : Word) : (s.setD h r v).sorrel = s.sorrel := rfl
@[simp] theorem State.setD_swaps (s : State) (h : Hart) (r : Reg) (v : Word) : (s.setD h r v).swaps = s.swaps := rfl
@[simp] theorem State.setD_mboxes (s : State) (h : Hart) (r : Reg) (v : Word) : (s.setD h r v).mboxes = s.mboxes := rfl
@[simp] theorem State.setD_requeue (s : State) (h : Hart) (r : Reg) (v : Word) : (s.setD h r v).requeue = s.requeue := rfl
@[simp] theorem State.setD_repairs (s : State) (h : Hart) (r : Reg) (v : Word) : (s.setD h r v).repairs = s.repairs := rfl
@[simp] theorem State.setD_ceTimes (s : State) (h : Hart) (r : Reg) (v : Word) : (s.setD h r v).ceTimes = s.ceTimes := rfl
@[simp] theorem State.setD_ueTimes (s : State) (h : Hart) (r : Reg) (v : Word) : (s.setD h r v).ueTimes = s.ueTimes := rfl
@[simp] theorem State.setD_wearWarned (s : State) (h : Hart) (r : Reg) (v : Word) : (s.setD h r v).wearWarned = s.wearWarned := rfl
@[simp] theorem State.setD_swapLogged (s : State) (h : Hart) (r : Reg) (v : Word) : (s.setD h r v).swapLogged = s.swapLogged := rfl
@[simp] theorem State.setD_cntBase (s : State) (h : Hart) (r : Reg) (v : Word) : (s.setD h r v).cntBase = s.cntBase := rfl
@[simp] theorem State.setD_journal (s : State) (h : Hart) (r : Reg) (v : Word) : (s.setD h r v).journal = s.journal := rfl
@[simp] theorem State.setD_lastHash (s : State) (h : Hart) (r : Reg) (v : Word) : (s.setD h r v).lastHash = s.lastHash := rfl
@[simp] theorem State.setD_heldSeqs (s : State) (h : Hart) (r : Reg) (v : Word) : (s.setD h r v).heldSeqs = s.heldSeqs := rfl
@[simp] theorem State.setD_golneB (s : State) (h : Hart) (r : Reg) (v : Word) : (s.setD h r v).golneB = s.golneB := rfl
@[simp] theorem State.setD_golneDown (s : State) (h : Hart) (r : Reg) (v : Word) : (s.setD h r v).golneDown = s.golneDown := rfl
@[simp] theorem State.setD_act (s : State) (h : Hart) (r : Reg) (v : Word) : (s.setD h r v).act = s.act := rfl
@[simp] theorem State.setD_minStart (s : State) (h : Hart) (r : Reg) (v : Word) : (s.setD h r v).minStart = s.minStart := rfl
@[simp] theorem State.setD_noDram (s : State) (h : Hart) (r : Reg) (v : Word) : (s.setD h r v).noDram = s.noDram := rfl
@[simp] theorem State.setD_nextRaise (s : State) (h : Hart) (r : Reg) (v : Word) : (s.setD h r v).nextRaise = s.nextRaise := rfl
@[simp] theorem State.setD_pseq (s : State) (h : Hart) (r : Reg) (v : Word) : (s.setD h r v).pseq = s.pseq := rfl
@[simp] theorem State.setD_unlockMeas (s : State) (h : Hart) (r : Reg) (v : Word) : (s.setD h r v).unlockMeas = s.unlockMeas := rfl
@[simp] theorem State.setD_unlockEnd (s : State) (h : Hart) (r : Reg) (v : Word) : (s.setD h r v).unlockEnd = s.unlockEnd := rfl
@[simp] theorem State.setD_unlockPetals (s : State) (h : Hart) (r : Reg) (v : Word) : (s.setD h r v).unlockPetals = s.unlockPetals := rfl
@[simp] theorem State.setD_romStuck (s : State) (h : Hart) (r : Reg) (v : Word) : (s.setD h r v).romStuck = s.romStuck := rfl
@[simp] theorem State.setD_minRetry (s : State) (h : Hart) (r : Reg) (v : Word) : (s.setD h r v).minRetry = s.minRetry := rfl
@[simp] theorem State.setD_power (s : State) (h : Hart) (r : Reg) (v : Word) : (s.setD h r v).power = s.power := rfl
@[simp] theorem State.setD_dumps (s : State) (h : Hart) (r : Reg) (v : Word) : (s.setD h r v).dumps = s.dumps := rfl
@[simp] theorem State.setD_rootSyn (s : State) (h : Hart) (r : Reg) (v : Word) : (s.setD h r v).rootSyn = s.rootSyn := rfl
@[simp] theorem State.setD_isoPorts (s : State) (h : Hart) (r : Reg) (v : Word) : (s.setD h r v).isoPorts = s.isoPorts := rfl
@[simp] theorem State.setD_haltTimes (s : State) (h : Hart) (r : Reg) (v : Word) : (s.setD h r v).haltTimes = s.haltTimes := rfl
@[simp] theorem State.setD_restartAsked (s : State) (h : Hart) (r : Reg) (v : Word) : (s.setD h r v).restartAsked = s.restartAsked := rfl
@[simp] theorem State.setD_frozen (s : State) (h : Hart) (r : Reg) (v : Word) : (s.setD h r v).frozen = s.frozen := rfl
@[simp] theorem State.setD_canErr (s : State) (h : Hart) (r : Reg) (v : Word) : (s.setD h r v).canErr = s.canErr := rfl
@[simp] theorem State.setD_capLimit (s : State) (h : Hart) (r : Reg) (v : Word) : (s.setD h r v).capLimit = s.capLimit := rfl
@[simp] theorem State.setD_capParked (s : State) (h : Hart) (r : Reg) (v : Word) : (s.setD h r v).capParked = s.capParked := rfl
@[simp] theorem State.setD_heatLimit (s : State) (h : Hart) (r : Reg) (v : Word) : (s.setD h r v).heatLimit = s.heatLimit := rfl
@[simp] theorem State.setD_railLock (s : State) (h : Hart) (r : Reg) (v : Word) : (s.setD h r v).railLock = s.railLock := rfl
@[simp] theorem State.setD_paceLow (s : State) (h : Hart) (r : Reg) (v : Word) : (s.setD h r v).paceLow = s.paceLow := rfl
@[simp] theorem State.setD_boost (s : State) (h : Hart) (r : Reg) (v : Word) : (s.setD h r v).boost = s.boost := rfl
@[simp] theorem State.setD_bulk (s : State) (h : Hart) (r : Reg) (v : Word) : (s.setD h r v).bulk = s.bulk := rfl
@[simp] theorem State.setD_sdo (s : State) (h : Hart) (r : Reg) (v : Word) : (s.setD h r v).sdo = s.sdo := rfl
@[simp] theorem State.setD_accums (s : State) (h : Hart) (r : Reg) (v : Word) : (s.setD h r v).accums = s.accums := rfl
@[simp] theorem State.setD_eids (s : State) (h : Hart) (r : Reg) (v : Word) : (s.setD h r v).eids = s.eids := rfl
@[simp] theorem State.setD_dbgEnHigh (s : State) (h : Hart) (r : Reg) (v : Word) : (s.setD h r v).dbgEnHigh = s.dbgEnHigh := rfl
@[simp] theorem State.setD_tapIr (s : State) (h : Hart) (r : Reg) (v : Word) : (s.setD h r v).tapIr = s.tapIr := rfl
@[simp] theorem State.setD_tapPins (s : State) (h : Hart) (r : Reg) (v : Word) : (s.setD h r v).tapPins = s.tapPins := rfl
@[simp] theorem State.setD_tapDrive (s : State) (h : Hart) (r : Reg) (v : Word) : (s.setD h r v).tapDrive = s.tapDrive := rfl
@[simp] theorem State.setD_tapDict (s : State) (h : Hart) (r : Reg) (v : Word) : (s.setD h r v).tapDict = s.tapDict := rfl
@[simp] theorem State.setD_tapMem (s : State) (h : Hart) (r : Reg) (v : Word) : (s.setD h r v).tapMem = s.tapMem := rfl
@[simp] theorem State.setD_stem (s : State) (h : Hart) (r : Reg) (v : Word) : (s.setD h r v).stem = s.stem := rfl
@[simp] theorem State.setD_stemRr (s : State) (h : Hart) (r : Reg) (v : Word) : (s.setD h r v).stemRr = s.stemRr := rfl
@[simp] theorem State.setD_cross (s : State) (h : Hart) (r : Reg) (v : Word) : (s.setD h r v).cross = s.cross := rfl
@[simp] theorem State.setD_msixTab (s : State) (h : Hart) (r : Reg) (v : Word) : (s.setD h r v).msixTab = s.msixTab := rfl
@[simp] theorem State.setD_paceSet (s : State) (h : Hart) (r : Reg) (v : Word) : (s.setD h r v).paceSet = s.paceSet := rfl
@[simp] theorem State.setD_pipes (s : State) (h : Hart) (r : Reg) (v : Word) : (s.setD h r v).pipes = s.pipes := rfl
@[simp] theorem State.setD_scratchBad (s : State) (h : Hart) (r : Reg) (v : Word) : (s.setD h r v).scratchBad = s.scratchBad := rfl
@[simp] theorem State.setD_histOn (s : State) (h : Hart) (r : Reg) (v : Word) : (s.setD h r v).histOn = s.histOn := rfl
@[simp] theorem State.setD_haltWords (s : State) (h : Hart) (r : Reg) (v : Word) : (s.setD h r v).haltWords = s.haltWords := rfl
@[simp] theorem State.setD_dget_reads (s : State) (h : Hart) (r : Reg) (v : Word) (x y : Nat) : (s.setD h r v).dget x y = s.dget x y := rfl
@[simp] theorem State.setD_domByte_reads (s : State) (h : Hart) (r : Reg) (v : Word) (x y z : Nat) : (s.setD h r v).domByte x y z = s.domByte x y z := rfl
@[simp] theorem State.setD_memByte_reads (s : State) (h : Hart) (r : Reg) (v : Word) (x : Nat) : (s.setD h r v).memByte x = s.memByte x := rfl
@[simp] theorem State.setD_winGet_reads (s : State) (h : Hart) (r : Reg) (v : Word) (x : Nat) : (s.setD h r v).winGet x = s.winGet x := rfl
@[simp] theorem State.setD_core_reads (s : State) (h : Hart) (r : Reg) (v : Word) (x : CoreId) : (s.setD h r v).core x = s.core x := rfl
@[simp] theorem State.setD_clus_reads (s : State) (h : Hart) (r : Reg) (v : Word) (x : Petal) (y : Cluster) : (s.setD h r v).clus x y = s.clus x y := rfl
@[simp] theorem State.setD_chan_reads (s : State) (h : Hart) (r : Reg) (v : Word) (x : Petal) (y : Nat) : (s.setD h r v).chan x y = s.chan x y := rfl
@[simp] theorem State.setD_pet_reads (s : State) (h : Hart) (r : Reg) (v : Word) (x : Petal) : (s.setD h r v).pet x = s.pet x := rfl
@[simp] theorem State.setD_q_reads (s : State) (h : Hart) (r : Reg) (v : Word) (x : Nat) : (s.setD h r v).q x = s.q x := rfl
@[simp] theorem State.setD_slot_reads (s : State) (h : Hart) (r : Reg) (v : Word) (x : ThreadId) : (s.setD h r v).slot x = s.slot x := rfl
@[simp] theorem State.setD_coll_reads (s : State) (h : Hart) (r : Reg) (v : Word) (x : Collector) : (s.setD h r v).coll x = s.coll x := rfl
@[simp] theorem State.setD_dram_reads (s : State) (h : Hart) (r : Reg) (v : Word) (x : Nat) : (s.setD h r v).dram x = s.dram x := rfl
@[simp] theorem State.setD_mbox_reads (s : State) (h : Hart) (r : Reg) (v : Word) (x : Nat) : (s.setD h r v).mbox x = s.mbox x := rfl
@[simp] theorem State.setD_pipe_reads (s : State) (h : Hart) (r : Reg) (v : Word) (x : CoreId) : (s.setD h r v).pipe x = s.pipe x := rfl

/-! ### State.setA changes `threads` -/

@[simp] theorem State.setA_time (s : State) (h : Hart) (r : Reg) (v : Addr) : (s.setA h r v).time = s.time := rfl
@[simp] theorem State.setA_pending (s : State) (h : Hart) (r : Reg) (v : Addr) : (s.setA h r v).pending = s.pending := rfl
@[simp] theorem State.setA_dict (s : State) (h : Hart) (r : Reg) (v : Addr) : (s.setA h r v).dict = s.dict := rfl
@[simp] theorem State.setA_doms (s : State) (h : Hart) (r : Reg) (v : Addr) : (s.setA h r v).doms = s.doms := rfl
@[simp] theorem State.setA_mem (s : State) (h : Hart) (r : Reg) (v : Addr) : (s.setA h r v).mem = s.mem := rfl
@[simp] theorem State.setA_poison (s : State) (h : Hart) (r : Reg) (v : Addr) : (s.setA h r v).poison = s.poison := rfl
@[simp] theorem State.setA_fresh (s : State) (h : Hart) (r : Reg) (v : Addr) : (s.setA h r v).fresh = s.fresh := rfl
@[simp] theorem State.setA_out (s : State) (h : Hart) (r : Reg) (v : Addr) : (s.setA h r v).out = s.out := rfl
@[simp] theorem State.setA_win (s : State) (h : Hart) (r : Reg) (v : Addr) : (s.setA h r v).win = s.win := rfl
@[simp] theorem State.setA_cores (s : State) (h : Hart) (r : Reg) (v : Addr) : (s.setA h r v).cores = s.cores := rfl
@[simp] theorem State.setA_clusters (s : State) (h : Hart) (r : Reg) (v : Addr) : (s.setA h r v).clusters = s.clusters := rfl
@[simp] theorem State.setA_chans (s : State) (h : Hart) (r : Reg) (v : Addr) : (s.setA h r v).chans = s.chans := rfl
@[simp] theorem State.setA_census (s : State) (h : Hart) (r : Reg) (v : Addr) : (s.setA h r v).census = s.census := rfl
@[simp] theorem State.setA_colls (s : State) (h : Hart) (r : Reg) (v : Addr) : (s.setA h r v).colls = s.colls := rfl
@[simp] theorem State.setA_trans (s : State) (h : Hart) (r : Reg) (v : Addr) : (s.setA h r v).trans = s.trans := rfl
@[simp] theorem State.setA_staged (s : State) (h : Hart) (r : Reg) (v : Addr) : (s.setA h r v).staged = s.staged := rfl
@[simp] theorem State.setA_snaps (s : State) (h : Hart) (r : Reg) (v : Addr) : (s.setA h r v).snaps = s.snaps := rfl
@[simp] theorem State.setA_halts (s : State) (h : Hart) (r : Reg) (v : Addr) : (s.setA h r v).halts = s.halts := rfl
@[simp] theorem State.setA_haltDue (s : State) (h : Hart) (r : Reg) (v : Addr) : (s.setA h r v).haltDue = s.haltDue := rfl
@[simp] theorem State.setA_msixOpen (s : State) (h : Hart) (r : Reg) (v : Addr) : (s.setA h r v).msixOpen = s.msixOpen := rfl
@[simp] theorem State.setA_msixPend (s : State) (h : Hart) (r : Reg) (v : Addr) : (s.setA h r v).msixPend = s.msixPend := rfl
@[simp] theorem State.setA_busMaster (s : State) (h : Hart) (r : Reg) (v : Addr) : (s.setA h r v).busMaster = s.busMaster := rfl
@[simp] theorem State.setA_holders (s : State) (h : Hart) (r : Reg) (v : Addr) : (s.setA h r v).holders = s.holders := rfl
@[simp] theorem State.setA_waiters (s : State) (h : Hart) (r : Reg) (v : Addr) : (s.setA h r v).waiters = s.waiters := rfl
@[simp] theorem State.setA_drams (s : State) (h : Hart) (r : Reg) (v : Addr) : (s.setA h r v).drams = s.drams := rfl
@[simp] theorem State.setA_sessions (s : State) (h : Hart) (r : Reg) (v : Addr) : (s.setA h r v).sessions = s.sessions := rfl
@[simp] theorem State.setA_perst (s : State) (h : Hart) (r : Reg) (v : Addr) : (s.setA h r v).perst = s.perst := rfl
@[simp] theorem State.setA_petals (s : State) (h : Hart) (r : Reg) (v : Addr) : (s.setA h r v).petals = s.petals := rfl
@[simp] theorem State.setA_slots (s : State) (h : Hart) (r : Reg) (v : Addr) : (s.setA h r v).slots = s.slots := rfl
@[simp] theorem State.setA_tables (s : State) (h : Hart) (r : Reg) (v : Addr) : (s.setA h r v).tables = s.tables := rfl
@[simp] theorem State.setA_cow (s : State) (h : Hart) (r : Reg) (v : Addr) : (s.setA h r v).cow = s.cow := rfl
@[simp] theorem State.setA_rxPause (s : State) (h : Hart) (r : Reg) (v : Addr) : (s.setA h r v).rxPause = s.rxPause := rfl
@[simp] theorem State.setA_stalled (s : State) (h : Hart) (r : Reg) (v : Addr) : (s.setA h r v).stalled = s.stalled := rfl
@[simp] theorem State.setA_modes (s : State) (h : Hart) (r : Reg) (v : Addr) : (s.setA h r v).modes = s.modes := rfl
@[simp] theorem State.setA_mism (s : State) (h : Hart) (r : Reg) (v : Addr) : (s.setA h r v).mism = s.mism := rfl
@[simp] theorem State.setA_sorrel (s : State) (h : Hart) (r : Reg) (v : Addr) : (s.setA h r v).sorrel = s.sorrel := rfl
@[simp] theorem State.setA_swaps (s : State) (h : Hart) (r : Reg) (v : Addr) : (s.setA h r v).swaps = s.swaps := rfl
@[simp] theorem State.setA_mboxes (s : State) (h : Hart) (r : Reg) (v : Addr) : (s.setA h r v).mboxes = s.mboxes := rfl
@[simp] theorem State.setA_requeue (s : State) (h : Hart) (r : Reg) (v : Addr) : (s.setA h r v).requeue = s.requeue := rfl
@[simp] theorem State.setA_repairs (s : State) (h : Hart) (r : Reg) (v : Addr) : (s.setA h r v).repairs = s.repairs := rfl
@[simp] theorem State.setA_ceTimes (s : State) (h : Hart) (r : Reg) (v : Addr) : (s.setA h r v).ceTimes = s.ceTimes := rfl
@[simp] theorem State.setA_ueTimes (s : State) (h : Hart) (r : Reg) (v : Addr) : (s.setA h r v).ueTimes = s.ueTimes := rfl
@[simp] theorem State.setA_wearWarned (s : State) (h : Hart) (r : Reg) (v : Addr) : (s.setA h r v).wearWarned = s.wearWarned := rfl
@[simp] theorem State.setA_swapLogged (s : State) (h : Hart) (r : Reg) (v : Addr) : (s.setA h r v).swapLogged = s.swapLogged := rfl
@[simp] theorem State.setA_cntBase (s : State) (h : Hart) (r : Reg) (v : Addr) : (s.setA h r v).cntBase = s.cntBase := rfl
@[simp] theorem State.setA_journal (s : State) (h : Hart) (r : Reg) (v : Addr) : (s.setA h r v).journal = s.journal := rfl
@[simp] theorem State.setA_lastHash (s : State) (h : Hart) (r : Reg) (v : Addr) : (s.setA h r v).lastHash = s.lastHash := rfl
@[simp] theorem State.setA_heldSeqs (s : State) (h : Hart) (r : Reg) (v : Addr) : (s.setA h r v).heldSeqs = s.heldSeqs := rfl
@[simp] theorem State.setA_golneB (s : State) (h : Hart) (r : Reg) (v : Addr) : (s.setA h r v).golneB = s.golneB := rfl
@[simp] theorem State.setA_golneDown (s : State) (h : Hart) (r : Reg) (v : Addr) : (s.setA h r v).golneDown = s.golneDown := rfl
@[simp] theorem State.setA_act (s : State) (h : Hart) (r : Reg) (v : Addr) : (s.setA h r v).act = s.act := rfl
@[simp] theorem State.setA_minStart (s : State) (h : Hart) (r : Reg) (v : Addr) : (s.setA h r v).minStart = s.minStart := rfl
@[simp] theorem State.setA_noDram (s : State) (h : Hart) (r : Reg) (v : Addr) : (s.setA h r v).noDram = s.noDram := rfl
@[simp] theorem State.setA_nextRaise (s : State) (h : Hart) (r : Reg) (v : Addr) : (s.setA h r v).nextRaise = s.nextRaise := rfl
@[simp] theorem State.setA_pseq (s : State) (h : Hart) (r : Reg) (v : Addr) : (s.setA h r v).pseq = s.pseq := rfl
@[simp] theorem State.setA_unlockMeas (s : State) (h : Hart) (r : Reg) (v : Addr) : (s.setA h r v).unlockMeas = s.unlockMeas := rfl
@[simp] theorem State.setA_unlockEnd (s : State) (h : Hart) (r : Reg) (v : Addr) : (s.setA h r v).unlockEnd = s.unlockEnd := rfl
@[simp] theorem State.setA_unlockPetals (s : State) (h : Hart) (r : Reg) (v : Addr) : (s.setA h r v).unlockPetals = s.unlockPetals := rfl
@[simp] theorem State.setA_romStuck (s : State) (h : Hart) (r : Reg) (v : Addr) : (s.setA h r v).romStuck = s.romStuck := rfl
@[simp] theorem State.setA_minRetry (s : State) (h : Hart) (r : Reg) (v : Addr) : (s.setA h r v).minRetry = s.minRetry := rfl
@[simp] theorem State.setA_power (s : State) (h : Hart) (r : Reg) (v : Addr) : (s.setA h r v).power = s.power := rfl
@[simp] theorem State.setA_dumps (s : State) (h : Hart) (r : Reg) (v : Addr) : (s.setA h r v).dumps = s.dumps := rfl
@[simp] theorem State.setA_rootSyn (s : State) (h : Hart) (r : Reg) (v : Addr) : (s.setA h r v).rootSyn = s.rootSyn := rfl
@[simp] theorem State.setA_isoPorts (s : State) (h : Hart) (r : Reg) (v : Addr) : (s.setA h r v).isoPorts = s.isoPorts := rfl
@[simp] theorem State.setA_haltTimes (s : State) (h : Hart) (r : Reg) (v : Addr) : (s.setA h r v).haltTimes = s.haltTimes := rfl
@[simp] theorem State.setA_restartAsked (s : State) (h : Hart) (r : Reg) (v : Addr) : (s.setA h r v).restartAsked = s.restartAsked := rfl
@[simp] theorem State.setA_frozen (s : State) (h : Hart) (r : Reg) (v : Addr) : (s.setA h r v).frozen = s.frozen := rfl
@[simp] theorem State.setA_canErr (s : State) (h : Hart) (r : Reg) (v : Addr) : (s.setA h r v).canErr = s.canErr := rfl
@[simp] theorem State.setA_capLimit (s : State) (h : Hart) (r : Reg) (v : Addr) : (s.setA h r v).capLimit = s.capLimit := rfl
@[simp] theorem State.setA_capParked (s : State) (h : Hart) (r : Reg) (v : Addr) : (s.setA h r v).capParked = s.capParked := rfl
@[simp] theorem State.setA_heatLimit (s : State) (h : Hart) (r : Reg) (v : Addr) : (s.setA h r v).heatLimit = s.heatLimit := rfl
@[simp] theorem State.setA_railLock (s : State) (h : Hart) (r : Reg) (v : Addr) : (s.setA h r v).railLock = s.railLock := rfl
@[simp] theorem State.setA_paceLow (s : State) (h : Hart) (r : Reg) (v : Addr) : (s.setA h r v).paceLow = s.paceLow := rfl
@[simp] theorem State.setA_boost (s : State) (h : Hart) (r : Reg) (v : Addr) : (s.setA h r v).boost = s.boost := rfl
@[simp] theorem State.setA_bulk (s : State) (h : Hart) (r : Reg) (v : Addr) : (s.setA h r v).bulk = s.bulk := rfl
@[simp] theorem State.setA_sdo (s : State) (h : Hart) (r : Reg) (v : Addr) : (s.setA h r v).sdo = s.sdo := rfl
@[simp] theorem State.setA_accums (s : State) (h : Hart) (r : Reg) (v : Addr) : (s.setA h r v).accums = s.accums := rfl
@[simp] theorem State.setA_eids (s : State) (h : Hart) (r : Reg) (v : Addr) : (s.setA h r v).eids = s.eids := rfl
@[simp] theorem State.setA_dbgEnHigh (s : State) (h : Hart) (r : Reg) (v : Addr) : (s.setA h r v).dbgEnHigh = s.dbgEnHigh := rfl
@[simp] theorem State.setA_tapIr (s : State) (h : Hart) (r : Reg) (v : Addr) : (s.setA h r v).tapIr = s.tapIr := rfl
@[simp] theorem State.setA_tapPins (s : State) (h : Hart) (r : Reg) (v : Addr) : (s.setA h r v).tapPins = s.tapPins := rfl
@[simp] theorem State.setA_tapDrive (s : State) (h : Hart) (r : Reg) (v : Addr) : (s.setA h r v).tapDrive = s.tapDrive := rfl
@[simp] theorem State.setA_tapDict (s : State) (h : Hart) (r : Reg) (v : Addr) : (s.setA h r v).tapDict = s.tapDict := rfl
@[simp] theorem State.setA_tapMem (s : State) (h : Hart) (r : Reg) (v : Addr) : (s.setA h r v).tapMem = s.tapMem := rfl
@[simp] theorem State.setA_stem (s : State) (h : Hart) (r : Reg) (v : Addr) : (s.setA h r v).stem = s.stem := rfl
@[simp] theorem State.setA_stemRr (s : State) (h : Hart) (r : Reg) (v : Addr) : (s.setA h r v).stemRr = s.stemRr := rfl
@[simp] theorem State.setA_cross (s : State) (h : Hart) (r : Reg) (v : Addr) : (s.setA h r v).cross = s.cross := rfl
@[simp] theorem State.setA_msixTab (s : State) (h : Hart) (r : Reg) (v : Addr) : (s.setA h r v).msixTab = s.msixTab := rfl
@[simp] theorem State.setA_paceSet (s : State) (h : Hart) (r : Reg) (v : Addr) : (s.setA h r v).paceSet = s.paceSet := rfl
@[simp] theorem State.setA_pipes (s : State) (h : Hart) (r : Reg) (v : Addr) : (s.setA h r v).pipes = s.pipes := rfl
@[simp] theorem State.setA_scratchBad (s : State) (h : Hart) (r : Reg) (v : Addr) : (s.setA h r v).scratchBad = s.scratchBad := rfl
@[simp] theorem State.setA_histOn (s : State) (h : Hart) (r : Reg) (v : Addr) : (s.setA h r v).histOn = s.histOn := rfl
@[simp] theorem State.setA_haltWords (s : State) (h : Hart) (r : Reg) (v : Addr) : (s.setA h r v).haltWords = s.haltWords := rfl
@[simp] theorem State.setA_dget_reads (s : State) (h : Hart) (r : Reg) (v : Addr) (x y : Nat) : (s.setA h r v).dget x y = s.dget x y := rfl
@[simp] theorem State.setA_domByte_reads (s : State) (h : Hart) (r : Reg) (v : Addr) (x y z : Nat) : (s.setA h r v).domByte x y z = s.domByte x y z := rfl
@[simp] theorem State.setA_memByte_reads (s : State) (h : Hart) (r : Reg) (v : Addr) (x : Nat) : (s.setA h r v).memByte x = s.memByte x := rfl
@[simp] theorem State.setA_winGet_reads (s : State) (h : Hart) (r : Reg) (v : Addr) (x : Nat) : (s.setA h r v).winGet x = s.winGet x := rfl
@[simp] theorem State.setA_core_reads (s : State) (h : Hart) (r : Reg) (v : Addr) (x : CoreId) : (s.setA h r v).core x = s.core x := rfl
@[simp] theorem State.setA_clus_reads (s : State) (h : Hart) (r : Reg) (v : Addr) (x : Petal) (y : Cluster) : (s.setA h r v).clus x y = s.clus x y := rfl
@[simp] theorem State.setA_chan_reads (s : State) (h : Hart) (r : Reg) (v : Addr) (x : Petal) (y : Nat) : (s.setA h r v).chan x y = s.chan x y := rfl
@[simp] theorem State.setA_pet_reads (s : State) (h : Hart) (r : Reg) (v : Addr) (x : Petal) : (s.setA h r v).pet x = s.pet x := rfl
@[simp] theorem State.setA_q_reads (s : State) (h : Hart) (r : Reg) (v : Addr) (x : Nat) : (s.setA h r v).q x = s.q x := rfl
@[simp] theorem State.setA_slot_reads (s : State) (h : Hart) (r : Reg) (v : Addr) (x : ThreadId) : (s.setA h r v).slot x = s.slot x := rfl
@[simp] theorem State.setA_coll_reads (s : State) (h : Hart) (r : Reg) (v : Addr) (x : Collector) : (s.setA h r v).coll x = s.coll x := rfl
@[simp] theorem State.setA_dram_reads (s : State) (h : Hart) (r : Reg) (v : Addr) (x : Nat) : (s.setA h r v).dram x = s.dram x := rfl
@[simp] theorem State.setA_mbox_reads (s : State) (h : Hart) (r : Reg) (v : Addr) (x : Nat) : (s.setA h r v).mbox x = s.mbox x := rfl
@[simp] theorem State.setA_pipe_reads (s : State) (h : Hart) (r : Reg) (v : Addr) (x : CoreId) : (s.setA h r v).pipe x = s.pipe x := rfl

/-! ### State.setAc changes `threads` -/

@[simp] theorem State.setAc_time (s : State) (h : Hart) (r : Fin 4) (v : Acc) : (s.setAc h r v).time = s.time := rfl
@[simp] theorem State.setAc_pending (s : State) (h : Hart) (r : Fin 4) (v : Acc) : (s.setAc h r v).pending = s.pending := rfl
@[simp] theorem State.setAc_dict (s : State) (h : Hart) (r : Fin 4) (v : Acc) : (s.setAc h r v).dict = s.dict := rfl
@[simp] theorem State.setAc_doms (s : State) (h : Hart) (r : Fin 4) (v : Acc) : (s.setAc h r v).doms = s.doms := rfl
@[simp] theorem State.setAc_mem (s : State) (h : Hart) (r : Fin 4) (v : Acc) : (s.setAc h r v).mem = s.mem := rfl
@[simp] theorem State.setAc_poison (s : State) (h : Hart) (r : Fin 4) (v : Acc) : (s.setAc h r v).poison = s.poison := rfl
@[simp] theorem State.setAc_fresh (s : State) (h : Hart) (r : Fin 4) (v : Acc) : (s.setAc h r v).fresh = s.fresh := rfl
@[simp] theorem State.setAc_out (s : State) (h : Hart) (r : Fin 4) (v : Acc) : (s.setAc h r v).out = s.out := rfl
@[simp] theorem State.setAc_win (s : State) (h : Hart) (r : Fin 4) (v : Acc) : (s.setAc h r v).win = s.win := rfl
@[simp] theorem State.setAc_cores (s : State) (h : Hart) (r : Fin 4) (v : Acc) : (s.setAc h r v).cores = s.cores := rfl
@[simp] theorem State.setAc_clusters (s : State) (h : Hart) (r : Fin 4) (v : Acc) : (s.setAc h r v).clusters = s.clusters := rfl
@[simp] theorem State.setAc_chans (s : State) (h : Hart) (r : Fin 4) (v : Acc) : (s.setAc h r v).chans = s.chans := rfl
@[simp] theorem State.setAc_census (s : State) (h : Hart) (r : Fin 4) (v : Acc) : (s.setAc h r v).census = s.census := rfl
@[simp] theorem State.setAc_colls (s : State) (h : Hart) (r : Fin 4) (v : Acc) : (s.setAc h r v).colls = s.colls := rfl
@[simp] theorem State.setAc_trans (s : State) (h : Hart) (r : Fin 4) (v : Acc) : (s.setAc h r v).trans = s.trans := rfl
@[simp] theorem State.setAc_staged (s : State) (h : Hart) (r : Fin 4) (v : Acc) : (s.setAc h r v).staged = s.staged := rfl
@[simp] theorem State.setAc_snaps (s : State) (h : Hart) (r : Fin 4) (v : Acc) : (s.setAc h r v).snaps = s.snaps := rfl
@[simp] theorem State.setAc_halts (s : State) (h : Hart) (r : Fin 4) (v : Acc) : (s.setAc h r v).halts = s.halts := rfl
@[simp] theorem State.setAc_haltDue (s : State) (h : Hart) (r : Fin 4) (v : Acc) : (s.setAc h r v).haltDue = s.haltDue := rfl
@[simp] theorem State.setAc_msixOpen (s : State) (h : Hart) (r : Fin 4) (v : Acc) : (s.setAc h r v).msixOpen = s.msixOpen := rfl
@[simp] theorem State.setAc_msixPend (s : State) (h : Hart) (r : Fin 4) (v : Acc) : (s.setAc h r v).msixPend = s.msixPend := rfl
@[simp] theorem State.setAc_busMaster (s : State) (h : Hart) (r : Fin 4) (v : Acc) : (s.setAc h r v).busMaster = s.busMaster := rfl
@[simp] theorem State.setAc_holders (s : State) (h : Hart) (r : Fin 4) (v : Acc) : (s.setAc h r v).holders = s.holders := rfl
@[simp] theorem State.setAc_waiters (s : State) (h : Hart) (r : Fin 4) (v : Acc) : (s.setAc h r v).waiters = s.waiters := rfl
@[simp] theorem State.setAc_drams (s : State) (h : Hart) (r : Fin 4) (v : Acc) : (s.setAc h r v).drams = s.drams := rfl
@[simp] theorem State.setAc_sessions (s : State) (h : Hart) (r : Fin 4) (v : Acc) : (s.setAc h r v).sessions = s.sessions := rfl
@[simp] theorem State.setAc_perst (s : State) (h : Hart) (r : Fin 4) (v : Acc) : (s.setAc h r v).perst = s.perst := rfl
@[simp] theorem State.setAc_petals (s : State) (h : Hart) (r : Fin 4) (v : Acc) : (s.setAc h r v).petals = s.petals := rfl
@[simp] theorem State.setAc_slots (s : State) (h : Hart) (r : Fin 4) (v : Acc) : (s.setAc h r v).slots = s.slots := rfl
@[simp] theorem State.setAc_tables (s : State) (h : Hart) (r : Fin 4) (v : Acc) : (s.setAc h r v).tables = s.tables := rfl
@[simp] theorem State.setAc_cow (s : State) (h : Hart) (r : Fin 4) (v : Acc) : (s.setAc h r v).cow = s.cow := rfl
@[simp] theorem State.setAc_rxPause (s : State) (h : Hart) (r : Fin 4) (v : Acc) : (s.setAc h r v).rxPause = s.rxPause := rfl
@[simp] theorem State.setAc_stalled (s : State) (h : Hart) (r : Fin 4) (v : Acc) : (s.setAc h r v).stalled = s.stalled := rfl
@[simp] theorem State.setAc_modes (s : State) (h : Hart) (r : Fin 4) (v : Acc) : (s.setAc h r v).modes = s.modes := rfl
@[simp] theorem State.setAc_mism (s : State) (h : Hart) (r : Fin 4) (v : Acc) : (s.setAc h r v).mism = s.mism := rfl
@[simp] theorem State.setAc_sorrel (s : State) (h : Hart) (r : Fin 4) (v : Acc) : (s.setAc h r v).sorrel = s.sorrel := rfl
@[simp] theorem State.setAc_swaps (s : State) (h : Hart) (r : Fin 4) (v : Acc) : (s.setAc h r v).swaps = s.swaps := rfl
@[simp] theorem State.setAc_mboxes (s : State) (h : Hart) (r : Fin 4) (v : Acc) : (s.setAc h r v).mboxes = s.mboxes := rfl
@[simp] theorem State.setAc_requeue (s : State) (h : Hart) (r : Fin 4) (v : Acc) : (s.setAc h r v).requeue = s.requeue := rfl
@[simp] theorem State.setAc_repairs (s : State) (h : Hart) (r : Fin 4) (v : Acc) : (s.setAc h r v).repairs = s.repairs := rfl
@[simp] theorem State.setAc_ceTimes (s : State) (h : Hart) (r : Fin 4) (v : Acc) : (s.setAc h r v).ceTimes = s.ceTimes := rfl
@[simp] theorem State.setAc_ueTimes (s : State) (h : Hart) (r : Fin 4) (v : Acc) : (s.setAc h r v).ueTimes = s.ueTimes := rfl
@[simp] theorem State.setAc_wearWarned (s : State) (h : Hart) (r : Fin 4) (v : Acc) : (s.setAc h r v).wearWarned = s.wearWarned := rfl
@[simp] theorem State.setAc_swapLogged (s : State) (h : Hart) (r : Fin 4) (v : Acc) : (s.setAc h r v).swapLogged = s.swapLogged := rfl
@[simp] theorem State.setAc_cntBase (s : State) (h : Hart) (r : Fin 4) (v : Acc) : (s.setAc h r v).cntBase = s.cntBase := rfl
@[simp] theorem State.setAc_journal (s : State) (h : Hart) (r : Fin 4) (v : Acc) : (s.setAc h r v).journal = s.journal := rfl
@[simp] theorem State.setAc_lastHash (s : State) (h : Hart) (r : Fin 4) (v : Acc) : (s.setAc h r v).lastHash = s.lastHash := rfl
@[simp] theorem State.setAc_heldSeqs (s : State) (h : Hart) (r : Fin 4) (v : Acc) : (s.setAc h r v).heldSeqs = s.heldSeqs := rfl
@[simp] theorem State.setAc_golneB (s : State) (h : Hart) (r : Fin 4) (v : Acc) : (s.setAc h r v).golneB = s.golneB := rfl
@[simp] theorem State.setAc_golneDown (s : State) (h : Hart) (r : Fin 4) (v : Acc) : (s.setAc h r v).golneDown = s.golneDown := rfl
@[simp] theorem State.setAc_act (s : State) (h : Hart) (r : Fin 4) (v : Acc) : (s.setAc h r v).act = s.act := rfl
@[simp] theorem State.setAc_minStart (s : State) (h : Hart) (r : Fin 4) (v : Acc) : (s.setAc h r v).minStart = s.minStart := rfl
@[simp] theorem State.setAc_noDram (s : State) (h : Hart) (r : Fin 4) (v : Acc) : (s.setAc h r v).noDram = s.noDram := rfl
@[simp] theorem State.setAc_nextRaise (s : State) (h : Hart) (r : Fin 4) (v : Acc) : (s.setAc h r v).nextRaise = s.nextRaise := rfl
@[simp] theorem State.setAc_pseq (s : State) (h : Hart) (r : Fin 4) (v : Acc) : (s.setAc h r v).pseq = s.pseq := rfl
@[simp] theorem State.setAc_unlockMeas (s : State) (h : Hart) (r : Fin 4) (v : Acc) : (s.setAc h r v).unlockMeas = s.unlockMeas := rfl
@[simp] theorem State.setAc_unlockEnd (s : State) (h : Hart) (r : Fin 4) (v : Acc) : (s.setAc h r v).unlockEnd = s.unlockEnd := rfl
@[simp] theorem State.setAc_unlockPetals (s : State) (h : Hart) (r : Fin 4) (v : Acc) : (s.setAc h r v).unlockPetals = s.unlockPetals := rfl
@[simp] theorem State.setAc_romStuck (s : State) (h : Hart) (r : Fin 4) (v : Acc) : (s.setAc h r v).romStuck = s.romStuck := rfl
@[simp] theorem State.setAc_minRetry (s : State) (h : Hart) (r : Fin 4) (v : Acc) : (s.setAc h r v).minRetry = s.minRetry := rfl
@[simp] theorem State.setAc_power (s : State) (h : Hart) (r : Fin 4) (v : Acc) : (s.setAc h r v).power = s.power := rfl
@[simp] theorem State.setAc_dumps (s : State) (h : Hart) (r : Fin 4) (v : Acc) : (s.setAc h r v).dumps = s.dumps := rfl
@[simp] theorem State.setAc_rootSyn (s : State) (h : Hart) (r : Fin 4) (v : Acc) : (s.setAc h r v).rootSyn = s.rootSyn := rfl
@[simp] theorem State.setAc_isoPorts (s : State) (h : Hart) (r : Fin 4) (v : Acc) : (s.setAc h r v).isoPorts = s.isoPorts := rfl
@[simp] theorem State.setAc_haltTimes (s : State) (h : Hart) (r : Fin 4) (v : Acc) : (s.setAc h r v).haltTimes = s.haltTimes := rfl
@[simp] theorem State.setAc_restartAsked (s : State) (h : Hart) (r : Fin 4) (v : Acc) : (s.setAc h r v).restartAsked = s.restartAsked := rfl
@[simp] theorem State.setAc_frozen (s : State) (h : Hart) (r : Fin 4) (v : Acc) : (s.setAc h r v).frozen = s.frozen := rfl
@[simp] theorem State.setAc_canErr (s : State) (h : Hart) (r : Fin 4) (v : Acc) : (s.setAc h r v).canErr = s.canErr := rfl
@[simp] theorem State.setAc_capLimit (s : State) (h : Hart) (r : Fin 4) (v : Acc) : (s.setAc h r v).capLimit = s.capLimit := rfl
@[simp] theorem State.setAc_capParked (s : State) (h : Hart) (r : Fin 4) (v : Acc) : (s.setAc h r v).capParked = s.capParked := rfl
@[simp] theorem State.setAc_heatLimit (s : State) (h : Hart) (r : Fin 4) (v : Acc) : (s.setAc h r v).heatLimit = s.heatLimit := rfl
@[simp] theorem State.setAc_railLock (s : State) (h : Hart) (r : Fin 4) (v : Acc) : (s.setAc h r v).railLock = s.railLock := rfl
@[simp] theorem State.setAc_paceLow (s : State) (h : Hart) (r : Fin 4) (v : Acc) : (s.setAc h r v).paceLow = s.paceLow := rfl
@[simp] theorem State.setAc_boost (s : State) (h : Hart) (r : Fin 4) (v : Acc) : (s.setAc h r v).boost = s.boost := rfl
@[simp] theorem State.setAc_bulk (s : State) (h : Hart) (r : Fin 4) (v : Acc) : (s.setAc h r v).bulk = s.bulk := rfl
@[simp] theorem State.setAc_sdo (s : State) (h : Hart) (r : Fin 4) (v : Acc) : (s.setAc h r v).sdo = s.sdo := rfl
@[simp] theorem State.setAc_accums (s : State) (h : Hart) (r : Fin 4) (v : Acc) : (s.setAc h r v).accums = s.accums := rfl
@[simp] theorem State.setAc_eids (s : State) (h : Hart) (r : Fin 4) (v : Acc) : (s.setAc h r v).eids = s.eids := rfl
@[simp] theorem State.setAc_dbgEnHigh (s : State) (h : Hart) (r : Fin 4) (v : Acc) : (s.setAc h r v).dbgEnHigh = s.dbgEnHigh := rfl
@[simp] theorem State.setAc_tapIr (s : State) (h : Hart) (r : Fin 4) (v : Acc) : (s.setAc h r v).tapIr = s.tapIr := rfl
@[simp] theorem State.setAc_tapPins (s : State) (h : Hart) (r : Fin 4) (v : Acc) : (s.setAc h r v).tapPins = s.tapPins := rfl
@[simp] theorem State.setAc_tapDrive (s : State) (h : Hart) (r : Fin 4) (v : Acc) : (s.setAc h r v).tapDrive = s.tapDrive := rfl
@[simp] theorem State.setAc_tapDict (s : State) (h : Hart) (r : Fin 4) (v : Acc) : (s.setAc h r v).tapDict = s.tapDict := rfl
@[simp] theorem State.setAc_tapMem (s : State) (h : Hart) (r : Fin 4) (v : Acc) : (s.setAc h r v).tapMem = s.tapMem := rfl
@[simp] theorem State.setAc_stem (s : State) (h : Hart) (r : Fin 4) (v : Acc) : (s.setAc h r v).stem = s.stem := rfl
@[simp] theorem State.setAc_stemRr (s : State) (h : Hart) (r : Fin 4) (v : Acc) : (s.setAc h r v).stemRr = s.stemRr := rfl
@[simp] theorem State.setAc_cross (s : State) (h : Hart) (r : Fin 4) (v : Acc) : (s.setAc h r v).cross = s.cross := rfl
@[simp] theorem State.setAc_msixTab (s : State) (h : Hart) (r : Fin 4) (v : Acc) : (s.setAc h r v).msixTab = s.msixTab := rfl
@[simp] theorem State.setAc_paceSet (s : State) (h : Hart) (r : Fin 4) (v : Acc) : (s.setAc h r v).paceSet = s.paceSet := rfl
@[simp] theorem State.setAc_pipes (s : State) (h : Hart) (r : Fin 4) (v : Acc) : (s.setAc h r v).pipes = s.pipes := rfl
@[simp] theorem State.setAc_scratchBad (s : State) (h : Hart) (r : Fin 4) (v : Acc) : (s.setAc h r v).scratchBad = s.scratchBad := rfl
@[simp] theorem State.setAc_histOn (s : State) (h : Hart) (r : Fin 4) (v : Acc) : (s.setAc h r v).histOn = s.histOn := rfl
@[simp] theorem State.setAc_haltWords (s : State) (h : Hart) (r : Fin 4) (v : Acc) : (s.setAc h r v).haltWords = s.haltWords := rfl
@[simp] theorem State.setAc_dget_reads (s : State) (h : Hart) (r : Fin 4) (v : Acc) (x y : Nat) : (s.setAc h r v).dget x y = s.dget x y := rfl
@[simp] theorem State.setAc_domByte_reads (s : State) (h : Hart) (r : Fin 4) (v : Acc) (x y z : Nat) : (s.setAc h r v).domByte x y z = s.domByte x y z := rfl
@[simp] theorem State.setAc_memByte_reads (s : State) (h : Hart) (r : Fin 4) (v : Acc) (x : Nat) : (s.setAc h r v).memByte x = s.memByte x := rfl
@[simp] theorem State.setAc_winGet_reads (s : State) (h : Hart) (r : Fin 4) (v : Acc) (x : Nat) : (s.setAc h r v).winGet x = s.winGet x := rfl
@[simp] theorem State.setAc_core_reads (s : State) (h : Hart) (r : Fin 4) (v : Acc) (x : CoreId) : (s.setAc h r v).core x = s.core x := rfl
@[simp] theorem State.setAc_clus_reads (s : State) (h : Hart) (r : Fin 4) (v : Acc) (x : Petal) (y : Cluster) : (s.setAc h r v).clus x y = s.clus x y := rfl
@[simp] theorem State.setAc_chan_reads (s : State) (h : Hart) (r : Fin 4) (v : Acc) (x : Petal) (y : Nat) : (s.setAc h r v).chan x y = s.chan x y := rfl
@[simp] theorem State.setAc_pet_reads (s : State) (h : Hart) (r : Fin 4) (v : Acc) (x : Petal) : (s.setAc h r v).pet x = s.pet x := rfl
@[simp] theorem State.setAc_q_reads (s : State) (h : Hart) (r : Fin 4) (v : Acc) (x : Nat) : (s.setAc h r v).q x = s.q x := rfl
@[simp] theorem State.setAc_slot_reads (s : State) (h : Hart) (r : Fin 4) (v : Acc) (x : ThreadId) : (s.setAc h r v).slot x = s.slot x := rfl
@[simp] theorem State.setAc_coll_reads (s : State) (h : Hart) (r : Fin 4) (v : Acc) (x : Collector) : (s.setAc h r v).coll x = s.coll x := rfl
@[simp] theorem State.setAc_dram_reads (s : State) (h : Hart) (r : Fin 4) (v : Acc) (x : Nat) : (s.setAc h r v).dram x = s.dram x := rfl
@[simp] theorem State.setAc_mbox_reads (s : State) (h : Hart) (r : Fin 4) (v : Acc) (x : Nat) : (s.setAc h r v).mbox x = s.mbox x := rfl
@[simp] theorem State.setAc_pipe_reads (s : State) (h : Hart) (r : Fin 4) (v : Acc) (x : CoreId) : (s.setAc h r v).pipe x = s.pipe x := rfl

/-! ### State.updCore changes `cores` -/

@[simp] theorem State.updCore_time (s : State) (k : CoreId) (f : CoreSt → CoreSt) : (s.updCore k f).time = s.time := rfl
@[simp] theorem State.updCore_pending (s : State) (k : CoreId) (f : CoreSt → CoreSt) : (s.updCore k f).pending = s.pending := rfl
@[simp] theorem State.updCore_dict (s : State) (k : CoreId) (f : CoreSt → CoreSt) : (s.updCore k f).dict = s.dict := rfl
@[simp] theorem State.updCore_doms (s : State) (k : CoreId) (f : CoreSt → CoreSt) : (s.updCore k f).doms = s.doms := rfl
@[simp] theorem State.updCore_mem (s : State) (k : CoreId) (f : CoreSt → CoreSt) : (s.updCore k f).mem = s.mem := rfl
@[simp] theorem State.updCore_poison (s : State) (k : CoreId) (f : CoreSt → CoreSt) : (s.updCore k f).poison = s.poison := rfl
@[simp] theorem State.updCore_fresh (s : State) (k : CoreId) (f : CoreSt → CoreSt) : (s.updCore k f).fresh = s.fresh := rfl
@[simp] theorem State.updCore_out (s : State) (k : CoreId) (f : CoreSt → CoreSt) : (s.updCore k f).out = s.out := rfl
@[simp] theorem State.updCore_win (s : State) (k : CoreId) (f : CoreSt → CoreSt) : (s.updCore k f).win = s.win := rfl
@[simp] theorem State.updCore_threads (s : State) (k : CoreId) (f : CoreSt → CoreSt) : (s.updCore k f).threads = s.threads := rfl
@[simp] theorem State.updCore_clusters (s : State) (k : CoreId) (f : CoreSt → CoreSt) : (s.updCore k f).clusters = s.clusters := rfl
@[simp] theorem State.updCore_chans (s : State) (k : CoreId) (f : CoreSt → CoreSt) : (s.updCore k f).chans = s.chans := rfl
@[simp] theorem State.updCore_census (s : State) (k : CoreId) (f : CoreSt → CoreSt) : (s.updCore k f).census = s.census := rfl
@[simp] theorem State.updCore_colls (s : State) (k : CoreId) (f : CoreSt → CoreSt) : (s.updCore k f).colls = s.colls := rfl
@[simp] theorem State.updCore_trans (s : State) (k : CoreId) (f : CoreSt → CoreSt) : (s.updCore k f).trans = s.trans := rfl
@[simp] theorem State.updCore_staged (s : State) (k : CoreId) (f : CoreSt → CoreSt) : (s.updCore k f).staged = s.staged := rfl
@[simp] theorem State.updCore_snaps (s : State) (k : CoreId) (f : CoreSt → CoreSt) : (s.updCore k f).snaps = s.snaps := rfl
@[simp] theorem State.updCore_halts (s : State) (k : CoreId) (f : CoreSt → CoreSt) : (s.updCore k f).halts = s.halts := rfl
@[simp] theorem State.updCore_haltDue (s : State) (k : CoreId) (f : CoreSt → CoreSt) : (s.updCore k f).haltDue = s.haltDue := rfl
@[simp] theorem State.updCore_msixOpen (s : State) (k : CoreId) (f : CoreSt → CoreSt) : (s.updCore k f).msixOpen = s.msixOpen := rfl
@[simp] theorem State.updCore_msixPend (s : State) (k : CoreId) (f : CoreSt → CoreSt) : (s.updCore k f).msixPend = s.msixPend := rfl
@[simp] theorem State.updCore_busMaster (s : State) (k : CoreId) (f : CoreSt → CoreSt) : (s.updCore k f).busMaster = s.busMaster := rfl
@[simp] theorem State.updCore_holders (s : State) (k : CoreId) (f : CoreSt → CoreSt) : (s.updCore k f).holders = s.holders := rfl
@[simp] theorem State.updCore_waiters (s : State) (k : CoreId) (f : CoreSt → CoreSt) : (s.updCore k f).waiters = s.waiters := rfl
@[simp] theorem State.updCore_drams (s : State) (k : CoreId) (f : CoreSt → CoreSt) : (s.updCore k f).drams = s.drams := rfl
@[simp] theorem State.updCore_sessions (s : State) (k : CoreId) (f : CoreSt → CoreSt) : (s.updCore k f).sessions = s.sessions := rfl
@[simp] theorem State.updCore_perst (s : State) (k : CoreId) (f : CoreSt → CoreSt) : (s.updCore k f).perst = s.perst := rfl
@[simp] theorem State.updCore_petals (s : State) (k : CoreId) (f : CoreSt → CoreSt) : (s.updCore k f).petals = s.petals := rfl
@[simp] theorem State.updCore_slots (s : State) (k : CoreId) (f : CoreSt → CoreSt) : (s.updCore k f).slots = s.slots := rfl
@[simp] theorem State.updCore_tables (s : State) (k : CoreId) (f : CoreSt → CoreSt) : (s.updCore k f).tables = s.tables := rfl
@[simp] theorem State.updCore_cow (s : State) (k : CoreId) (f : CoreSt → CoreSt) : (s.updCore k f).cow = s.cow := rfl
@[simp] theorem State.updCore_rxPause (s : State) (k : CoreId) (f : CoreSt → CoreSt) : (s.updCore k f).rxPause = s.rxPause := rfl
@[simp] theorem State.updCore_stalled (s : State) (k : CoreId) (f : CoreSt → CoreSt) : (s.updCore k f).stalled = s.stalled := rfl
@[simp] theorem State.updCore_modes (s : State) (k : CoreId) (f : CoreSt → CoreSt) : (s.updCore k f).modes = s.modes := rfl
@[simp] theorem State.updCore_mism (s : State) (k : CoreId) (f : CoreSt → CoreSt) : (s.updCore k f).mism = s.mism := rfl
@[simp] theorem State.updCore_sorrel (s : State) (k : CoreId) (f : CoreSt → CoreSt) : (s.updCore k f).sorrel = s.sorrel := rfl
@[simp] theorem State.updCore_swaps (s : State) (k : CoreId) (f : CoreSt → CoreSt) : (s.updCore k f).swaps = s.swaps := rfl
@[simp] theorem State.updCore_mboxes (s : State) (k : CoreId) (f : CoreSt → CoreSt) : (s.updCore k f).mboxes = s.mboxes := rfl
@[simp] theorem State.updCore_requeue (s : State) (k : CoreId) (f : CoreSt → CoreSt) : (s.updCore k f).requeue = s.requeue := rfl
@[simp] theorem State.updCore_repairs (s : State) (k : CoreId) (f : CoreSt → CoreSt) : (s.updCore k f).repairs = s.repairs := rfl
@[simp] theorem State.updCore_ceTimes (s : State) (k : CoreId) (f : CoreSt → CoreSt) : (s.updCore k f).ceTimes = s.ceTimes := rfl
@[simp] theorem State.updCore_ueTimes (s : State) (k : CoreId) (f : CoreSt → CoreSt) : (s.updCore k f).ueTimes = s.ueTimes := rfl
@[simp] theorem State.updCore_wearWarned (s : State) (k : CoreId) (f : CoreSt → CoreSt) : (s.updCore k f).wearWarned = s.wearWarned := rfl
@[simp] theorem State.updCore_swapLogged (s : State) (k : CoreId) (f : CoreSt → CoreSt) : (s.updCore k f).swapLogged = s.swapLogged := rfl
@[simp] theorem State.updCore_cntBase (s : State) (k : CoreId) (f : CoreSt → CoreSt) : (s.updCore k f).cntBase = s.cntBase := rfl
@[simp] theorem State.updCore_journal (s : State) (k : CoreId) (f : CoreSt → CoreSt) : (s.updCore k f).journal = s.journal := rfl
@[simp] theorem State.updCore_lastHash (s : State) (k : CoreId) (f : CoreSt → CoreSt) : (s.updCore k f).lastHash = s.lastHash := rfl
@[simp] theorem State.updCore_heldSeqs (s : State) (k : CoreId) (f : CoreSt → CoreSt) : (s.updCore k f).heldSeqs = s.heldSeqs := rfl
@[simp] theorem State.updCore_golneB (s : State) (k : CoreId) (f : CoreSt → CoreSt) : (s.updCore k f).golneB = s.golneB := rfl
@[simp] theorem State.updCore_golneDown (s : State) (k : CoreId) (f : CoreSt → CoreSt) : (s.updCore k f).golneDown = s.golneDown := rfl
@[simp] theorem State.updCore_act (s : State) (k : CoreId) (f : CoreSt → CoreSt) : (s.updCore k f).act = s.act := rfl
@[simp] theorem State.updCore_minStart (s : State) (k : CoreId) (f : CoreSt → CoreSt) : (s.updCore k f).minStart = s.minStart := rfl
@[simp] theorem State.updCore_noDram (s : State) (k : CoreId) (f : CoreSt → CoreSt) : (s.updCore k f).noDram = s.noDram := rfl
@[simp] theorem State.updCore_nextRaise (s : State) (k : CoreId) (f : CoreSt → CoreSt) : (s.updCore k f).nextRaise = s.nextRaise := rfl
@[simp] theorem State.updCore_pseq (s : State) (k : CoreId) (f : CoreSt → CoreSt) : (s.updCore k f).pseq = s.pseq := rfl
@[simp] theorem State.updCore_unlockMeas (s : State) (k : CoreId) (f : CoreSt → CoreSt) : (s.updCore k f).unlockMeas = s.unlockMeas := rfl
@[simp] theorem State.updCore_unlockEnd (s : State) (k : CoreId) (f : CoreSt → CoreSt) : (s.updCore k f).unlockEnd = s.unlockEnd := rfl
@[simp] theorem State.updCore_unlockPetals (s : State) (k : CoreId) (f : CoreSt → CoreSt) : (s.updCore k f).unlockPetals = s.unlockPetals := rfl
@[simp] theorem State.updCore_romStuck (s : State) (k : CoreId) (f : CoreSt → CoreSt) : (s.updCore k f).romStuck = s.romStuck := rfl
@[simp] theorem State.updCore_minRetry (s : State) (k : CoreId) (f : CoreSt → CoreSt) : (s.updCore k f).minRetry = s.minRetry := rfl
@[simp] theorem State.updCore_power (s : State) (k : CoreId) (f : CoreSt → CoreSt) : (s.updCore k f).power = s.power := rfl
@[simp] theorem State.updCore_dumps (s : State) (k : CoreId) (f : CoreSt → CoreSt) : (s.updCore k f).dumps = s.dumps := rfl
@[simp] theorem State.updCore_rootSyn (s : State) (k : CoreId) (f : CoreSt → CoreSt) : (s.updCore k f).rootSyn = s.rootSyn := rfl
@[simp] theorem State.updCore_isoPorts (s : State) (k : CoreId) (f : CoreSt → CoreSt) : (s.updCore k f).isoPorts = s.isoPorts := rfl
@[simp] theorem State.updCore_haltTimes (s : State) (k : CoreId) (f : CoreSt → CoreSt) : (s.updCore k f).haltTimes = s.haltTimes := rfl
@[simp] theorem State.updCore_restartAsked (s : State) (k : CoreId) (f : CoreSt → CoreSt) : (s.updCore k f).restartAsked = s.restartAsked := rfl
@[simp] theorem State.updCore_frozen (s : State) (k : CoreId) (f : CoreSt → CoreSt) : (s.updCore k f).frozen = s.frozen := rfl
@[simp] theorem State.updCore_canErr (s : State) (k : CoreId) (f : CoreSt → CoreSt) : (s.updCore k f).canErr = s.canErr := rfl
@[simp] theorem State.updCore_capLimit (s : State) (k : CoreId) (f : CoreSt → CoreSt) : (s.updCore k f).capLimit = s.capLimit := rfl
@[simp] theorem State.updCore_capParked (s : State) (k : CoreId) (f : CoreSt → CoreSt) : (s.updCore k f).capParked = s.capParked := rfl
@[simp] theorem State.updCore_heatLimit (s : State) (k : CoreId) (f : CoreSt → CoreSt) : (s.updCore k f).heatLimit = s.heatLimit := rfl
@[simp] theorem State.updCore_railLock (s : State) (k : CoreId) (f : CoreSt → CoreSt) : (s.updCore k f).railLock = s.railLock := rfl
@[simp] theorem State.updCore_paceLow (s : State) (k : CoreId) (f : CoreSt → CoreSt) : (s.updCore k f).paceLow = s.paceLow := rfl
@[simp] theorem State.updCore_boost (s : State) (k : CoreId) (f : CoreSt → CoreSt) : (s.updCore k f).boost = s.boost := rfl
@[simp] theorem State.updCore_bulk (s : State) (k : CoreId) (f : CoreSt → CoreSt) : (s.updCore k f).bulk = s.bulk := rfl
@[simp] theorem State.updCore_sdo (s : State) (k : CoreId) (f : CoreSt → CoreSt) : (s.updCore k f).sdo = s.sdo := rfl
@[simp] theorem State.updCore_accums (s : State) (k : CoreId) (f : CoreSt → CoreSt) : (s.updCore k f).accums = s.accums := rfl
@[simp] theorem State.updCore_eids (s : State) (k : CoreId) (f : CoreSt → CoreSt) : (s.updCore k f).eids = s.eids := rfl
@[simp] theorem State.updCore_dbgEnHigh (s : State) (k : CoreId) (f : CoreSt → CoreSt) : (s.updCore k f).dbgEnHigh = s.dbgEnHigh := rfl
@[simp] theorem State.updCore_tapIr (s : State) (k : CoreId) (f : CoreSt → CoreSt) : (s.updCore k f).tapIr = s.tapIr := rfl
@[simp] theorem State.updCore_tapPins (s : State) (k : CoreId) (f : CoreSt → CoreSt) : (s.updCore k f).tapPins = s.tapPins := rfl
@[simp] theorem State.updCore_tapDrive (s : State) (k : CoreId) (f : CoreSt → CoreSt) : (s.updCore k f).tapDrive = s.tapDrive := rfl
@[simp] theorem State.updCore_tapDict (s : State) (k : CoreId) (f : CoreSt → CoreSt) : (s.updCore k f).tapDict = s.tapDict := rfl
@[simp] theorem State.updCore_tapMem (s : State) (k : CoreId) (f : CoreSt → CoreSt) : (s.updCore k f).tapMem = s.tapMem := rfl
@[simp] theorem State.updCore_stem (s : State) (k : CoreId) (f : CoreSt → CoreSt) : (s.updCore k f).stem = s.stem := rfl
@[simp] theorem State.updCore_stemRr (s : State) (k : CoreId) (f : CoreSt → CoreSt) : (s.updCore k f).stemRr = s.stemRr := rfl
@[simp] theorem State.updCore_cross (s : State) (k : CoreId) (f : CoreSt → CoreSt) : (s.updCore k f).cross = s.cross := rfl
@[simp] theorem State.updCore_msixTab (s : State) (k : CoreId) (f : CoreSt → CoreSt) : (s.updCore k f).msixTab = s.msixTab := rfl
@[simp] theorem State.updCore_paceSet (s : State) (k : CoreId) (f : CoreSt → CoreSt) : (s.updCore k f).paceSet = s.paceSet := rfl
@[simp] theorem State.updCore_pipes (s : State) (k : CoreId) (f : CoreSt → CoreSt) : (s.updCore k f).pipes = s.pipes := rfl
@[simp] theorem State.updCore_scratchBad (s : State) (k : CoreId) (f : CoreSt → CoreSt) : (s.updCore k f).scratchBad = s.scratchBad := rfl
@[simp] theorem State.updCore_histOn (s : State) (k : CoreId) (f : CoreSt → CoreSt) : (s.updCore k f).histOn = s.histOn := rfl
@[simp] theorem State.updCore_haltWords (s : State) (k : CoreId) (f : CoreSt → CoreSt) : (s.updCore k f).haltWords = s.haltWords := rfl
@[simp] theorem State.updCore_dget_reads (s : State) (k : CoreId) (f : CoreSt → CoreSt) (x y : Nat) : (s.updCore k f).dget x y = s.dget x y := rfl
@[simp] theorem State.updCore_domByte_reads (s : State) (k : CoreId) (f : CoreSt → CoreSt) (x y z : Nat) : (s.updCore k f).domByte x y z = s.domByte x y z := rfl
@[simp] theorem State.updCore_memByte_reads (s : State) (k : CoreId) (f : CoreSt → CoreSt) (x : Nat) : (s.updCore k f).memByte x = s.memByte x := rfl
@[simp] theorem State.updCore_winGet_reads (s : State) (k : CoreId) (f : CoreSt → CoreSt) (x : Nat) : (s.updCore k f).winGet x = s.winGet x := rfl
@[simp] theorem State.updCore_thr_reads (s : State) (k : CoreId) (f : CoreSt → CoreSt) (x : Hart) : (s.updCore k f).thr x = s.thr x := rfl
@[simp] theorem State.updCore_dreg_reads (s : State) (k : CoreId) (f : CoreSt → CoreSt) (x : Hart) (y : Reg) : (s.updCore k f).dreg x y = s.dreg x y := rfl
@[simp] theorem State.updCore_areg_reads (s : State) (k : CoreId) (f : CoreSt → CoreSt) (x : Hart) (y : Reg) : (s.updCore k f).areg x y = s.areg x y := rfl
@[simp] theorem State.updCore_acc_reads (s : State) (k : CoreId) (f : CoreSt → CoreSt) (x : Hart) (y : Fin 4) : (s.updCore k f).acc x y = s.acc x y := rfl
@[simp] theorem State.updCore_creg_reads (s : State) (k : CoreId) (f : CoreSt → CoreSt) (x : Hart) (y : CReg) : (s.updCore k f).creg x y = s.creg x y := rfl
@[simp] theorem State.updCore_clus_reads (s : State) (k : CoreId) (f : CoreSt → CoreSt) (x : Petal) (y : Cluster) : (s.updCore k f).clus x y = s.clus x y := rfl
@[simp] theorem State.updCore_chan_reads (s : State) (k : CoreId) (f : CoreSt → CoreSt) (x : Petal) (y : Nat) : (s.updCore k f).chan x y = s.chan x y := rfl
@[simp] theorem State.updCore_pet_reads (s : State) (k : CoreId) (f : CoreSt → CoreSt) (x : Petal) : (s.updCore k f).pet x = s.pet x := rfl
@[simp] theorem State.updCore_q_reads (s : State) (k : CoreId) (f : CoreSt → CoreSt) (x : Nat) : (s.updCore k f).q x = s.q x := rfl
@[simp] theorem State.updCore_slot_reads (s : State) (k : CoreId) (f : CoreSt → CoreSt) (x : ThreadId) : (s.updCore k f).slot x = s.slot x := rfl
@[simp] theorem State.updCore_coll_reads (s : State) (k : CoreId) (f : CoreSt → CoreSt) (x : Collector) : (s.updCore k f).coll x = s.coll x := rfl
@[simp] theorem State.updCore_dram_reads (s : State) (k : CoreId) (f : CoreSt → CoreSt) (x : Nat) : (s.updCore k f).dram x = s.dram x := rfl
@[simp] theorem State.updCore_mbox_reads (s : State) (k : CoreId) (f : CoreSt → CoreSt) (x : Nat) : (s.updCore k f).mbox x = s.mbox x := rfl
@[simp] theorem State.updCore_pipe_reads (s : State) (k : CoreId) (f : CoreSt → CoreSt) (x : CoreId) : (s.updCore k f).pipe x = s.pipe x := rfl

/-! ### State.updClus changes `clusters` -/

@[simp] theorem State.updClus_time (s : State) (p : Petal) (c : Cluster) (f : ClusterSt → ClusterSt) : (s.updClus p c f).time = s.time := rfl
@[simp] theorem State.updClus_pending (s : State) (p : Petal) (c : Cluster) (f : ClusterSt → ClusterSt) : (s.updClus p c f).pending = s.pending := rfl
@[simp] theorem State.updClus_dict (s : State) (p : Petal) (c : Cluster) (f : ClusterSt → ClusterSt) : (s.updClus p c f).dict = s.dict := rfl
@[simp] theorem State.updClus_doms (s : State) (p : Petal) (c : Cluster) (f : ClusterSt → ClusterSt) : (s.updClus p c f).doms = s.doms := rfl
@[simp] theorem State.updClus_mem (s : State) (p : Petal) (c : Cluster) (f : ClusterSt → ClusterSt) : (s.updClus p c f).mem = s.mem := rfl
@[simp] theorem State.updClus_poison (s : State) (p : Petal) (c : Cluster) (f : ClusterSt → ClusterSt) : (s.updClus p c f).poison = s.poison := rfl
@[simp] theorem State.updClus_fresh (s : State) (p : Petal) (c : Cluster) (f : ClusterSt → ClusterSt) : (s.updClus p c f).fresh = s.fresh := rfl
@[simp] theorem State.updClus_out (s : State) (p : Petal) (c : Cluster) (f : ClusterSt → ClusterSt) : (s.updClus p c f).out = s.out := rfl
@[simp] theorem State.updClus_win (s : State) (p : Petal) (c : Cluster) (f : ClusterSt → ClusterSt) : (s.updClus p c f).win = s.win := rfl
@[simp] theorem State.updClus_threads (s : State) (p : Petal) (c : Cluster) (f : ClusterSt → ClusterSt) : (s.updClus p c f).threads = s.threads := rfl
@[simp] theorem State.updClus_cores (s : State) (p : Petal) (c : Cluster) (f : ClusterSt → ClusterSt) : (s.updClus p c f).cores = s.cores := rfl
@[simp] theorem State.updClus_chans (s : State) (p : Petal) (c : Cluster) (f : ClusterSt → ClusterSt) : (s.updClus p c f).chans = s.chans := rfl
@[simp] theorem State.updClus_census (s : State) (p : Petal) (c : Cluster) (f : ClusterSt → ClusterSt) : (s.updClus p c f).census = s.census := rfl
@[simp] theorem State.updClus_colls (s : State) (p : Petal) (c : Cluster) (f : ClusterSt → ClusterSt) : (s.updClus p c f).colls = s.colls := rfl
@[simp] theorem State.updClus_trans (s : State) (p : Petal) (c : Cluster) (f : ClusterSt → ClusterSt) : (s.updClus p c f).trans = s.trans := rfl
@[simp] theorem State.updClus_staged (s : State) (p : Petal) (c : Cluster) (f : ClusterSt → ClusterSt) : (s.updClus p c f).staged = s.staged := rfl
@[simp] theorem State.updClus_snaps (s : State) (p : Petal) (c : Cluster) (f : ClusterSt → ClusterSt) : (s.updClus p c f).snaps = s.snaps := rfl
@[simp] theorem State.updClus_halts (s : State) (p : Petal) (c : Cluster) (f : ClusterSt → ClusterSt) : (s.updClus p c f).halts = s.halts := rfl
@[simp] theorem State.updClus_haltDue (s : State) (p : Petal) (c : Cluster) (f : ClusterSt → ClusterSt) : (s.updClus p c f).haltDue = s.haltDue := rfl
@[simp] theorem State.updClus_msixOpen (s : State) (p : Petal) (c : Cluster) (f : ClusterSt → ClusterSt) : (s.updClus p c f).msixOpen = s.msixOpen := rfl
@[simp] theorem State.updClus_msixPend (s : State) (p : Petal) (c : Cluster) (f : ClusterSt → ClusterSt) : (s.updClus p c f).msixPend = s.msixPend := rfl
@[simp] theorem State.updClus_busMaster (s : State) (p : Petal) (c : Cluster) (f : ClusterSt → ClusterSt) : (s.updClus p c f).busMaster = s.busMaster := rfl
@[simp] theorem State.updClus_holders (s : State) (p : Petal) (c : Cluster) (f : ClusterSt → ClusterSt) : (s.updClus p c f).holders = s.holders := rfl
@[simp] theorem State.updClus_waiters (s : State) (p : Petal) (c : Cluster) (f : ClusterSt → ClusterSt) : (s.updClus p c f).waiters = s.waiters := rfl
@[simp] theorem State.updClus_drams (s : State) (p : Petal) (c : Cluster) (f : ClusterSt → ClusterSt) : (s.updClus p c f).drams = s.drams := rfl
@[simp] theorem State.updClus_sessions (s : State) (p : Petal) (c : Cluster) (f : ClusterSt → ClusterSt) : (s.updClus p c f).sessions = s.sessions := rfl
@[simp] theorem State.updClus_perst (s : State) (p : Petal) (c : Cluster) (f : ClusterSt → ClusterSt) : (s.updClus p c f).perst = s.perst := rfl
@[simp] theorem State.updClus_petals (s : State) (p : Petal) (c : Cluster) (f : ClusterSt → ClusterSt) : (s.updClus p c f).petals = s.petals := rfl
@[simp] theorem State.updClus_slots (s : State) (p : Petal) (c : Cluster) (f : ClusterSt → ClusterSt) : (s.updClus p c f).slots = s.slots := rfl
@[simp] theorem State.updClus_tables (s : State) (p : Petal) (c : Cluster) (f : ClusterSt → ClusterSt) : (s.updClus p c f).tables = s.tables := rfl
@[simp] theorem State.updClus_cow (s : State) (p : Petal) (c : Cluster) (f : ClusterSt → ClusterSt) : (s.updClus p c f).cow = s.cow := rfl
@[simp] theorem State.updClus_rxPause (s : State) (p : Petal) (c : Cluster) (f : ClusterSt → ClusterSt) : (s.updClus p c f).rxPause = s.rxPause := rfl
@[simp] theorem State.updClus_stalled (s : State) (p : Petal) (c : Cluster) (f : ClusterSt → ClusterSt) : (s.updClus p c f).stalled = s.stalled := rfl
@[simp] theorem State.updClus_modes (s : State) (p : Petal) (c : Cluster) (f : ClusterSt → ClusterSt) : (s.updClus p c f).modes = s.modes := rfl
@[simp] theorem State.updClus_mism (s : State) (p : Petal) (c : Cluster) (f : ClusterSt → ClusterSt) : (s.updClus p c f).mism = s.mism := rfl
@[simp] theorem State.updClus_sorrel (s : State) (p : Petal) (c : Cluster) (f : ClusterSt → ClusterSt) : (s.updClus p c f).sorrel = s.sorrel := rfl
@[simp] theorem State.updClus_swaps (s : State) (p : Petal) (c : Cluster) (f : ClusterSt → ClusterSt) : (s.updClus p c f).swaps = s.swaps := rfl
@[simp] theorem State.updClus_mboxes (s : State) (p : Petal) (c : Cluster) (f : ClusterSt → ClusterSt) : (s.updClus p c f).mboxes = s.mboxes := rfl
@[simp] theorem State.updClus_requeue (s : State) (p : Petal) (c : Cluster) (f : ClusterSt → ClusterSt) : (s.updClus p c f).requeue = s.requeue := rfl
@[simp] theorem State.updClus_repairs (s : State) (p : Petal) (c : Cluster) (f : ClusterSt → ClusterSt) : (s.updClus p c f).repairs = s.repairs := rfl
@[simp] theorem State.updClus_ceTimes (s : State) (p : Petal) (c : Cluster) (f : ClusterSt → ClusterSt) : (s.updClus p c f).ceTimes = s.ceTimes := rfl
@[simp] theorem State.updClus_ueTimes (s : State) (p : Petal) (c : Cluster) (f : ClusterSt → ClusterSt) : (s.updClus p c f).ueTimes = s.ueTimes := rfl
@[simp] theorem State.updClus_wearWarned (s : State) (p : Petal) (c : Cluster) (f : ClusterSt → ClusterSt) : (s.updClus p c f).wearWarned = s.wearWarned := rfl
@[simp] theorem State.updClus_swapLogged (s : State) (p : Petal) (c : Cluster) (f : ClusterSt → ClusterSt) : (s.updClus p c f).swapLogged = s.swapLogged := rfl
@[simp] theorem State.updClus_cntBase (s : State) (p : Petal) (c : Cluster) (f : ClusterSt → ClusterSt) : (s.updClus p c f).cntBase = s.cntBase := rfl
@[simp] theorem State.updClus_journal (s : State) (p : Petal) (c : Cluster) (f : ClusterSt → ClusterSt) : (s.updClus p c f).journal = s.journal := rfl
@[simp] theorem State.updClus_lastHash (s : State) (p : Petal) (c : Cluster) (f : ClusterSt → ClusterSt) : (s.updClus p c f).lastHash = s.lastHash := rfl
@[simp] theorem State.updClus_heldSeqs (s : State) (p : Petal) (c : Cluster) (f : ClusterSt → ClusterSt) : (s.updClus p c f).heldSeqs = s.heldSeqs := rfl
@[simp] theorem State.updClus_golneB (s : State) (p : Petal) (c : Cluster) (f : ClusterSt → ClusterSt) : (s.updClus p c f).golneB = s.golneB := rfl
@[simp] theorem State.updClus_golneDown (s : State) (p : Petal) (c : Cluster) (f : ClusterSt → ClusterSt) : (s.updClus p c f).golneDown = s.golneDown := rfl
@[simp] theorem State.updClus_act (s : State) (p : Petal) (c : Cluster) (f : ClusterSt → ClusterSt) : (s.updClus p c f).act = s.act := rfl
@[simp] theorem State.updClus_minStart (s : State) (p : Petal) (c : Cluster) (f : ClusterSt → ClusterSt) : (s.updClus p c f).minStart = s.minStart := rfl
@[simp] theorem State.updClus_noDram (s : State) (p : Petal) (c : Cluster) (f : ClusterSt → ClusterSt) : (s.updClus p c f).noDram = s.noDram := rfl
@[simp] theorem State.updClus_nextRaise (s : State) (p : Petal) (c : Cluster) (f : ClusterSt → ClusterSt) : (s.updClus p c f).nextRaise = s.nextRaise := rfl
@[simp] theorem State.updClus_pseq (s : State) (p : Petal) (c : Cluster) (f : ClusterSt → ClusterSt) : (s.updClus p c f).pseq = s.pseq := rfl
@[simp] theorem State.updClus_unlockMeas (s : State) (p : Petal) (c : Cluster) (f : ClusterSt → ClusterSt) : (s.updClus p c f).unlockMeas = s.unlockMeas := rfl
@[simp] theorem State.updClus_unlockEnd (s : State) (p : Petal) (c : Cluster) (f : ClusterSt → ClusterSt) : (s.updClus p c f).unlockEnd = s.unlockEnd := rfl
@[simp] theorem State.updClus_unlockPetals (s : State) (p : Petal) (c : Cluster) (f : ClusterSt → ClusterSt) : (s.updClus p c f).unlockPetals = s.unlockPetals := rfl
@[simp] theorem State.updClus_romStuck (s : State) (p : Petal) (c : Cluster) (f : ClusterSt → ClusterSt) : (s.updClus p c f).romStuck = s.romStuck := rfl
@[simp] theorem State.updClus_minRetry (s : State) (p : Petal) (c : Cluster) (f : ClusterSt → ClusterSt) : (s.updClus p c f).minRetry = s.minRetry := rfl
@[simp] theorem State.updClus_power (s : State) (p : Petal) (c : Cluster) (f : ClusterSt → ClusterSt) : (s.updClus p c f).power = s.power := rfl
@[simp] theorem State.updClus_dumps (s : State) (p : Petal) (c : Cluster) (f : ClusterSt → ClusterSt) : (s.updClus p c f).dumps = s.dumps := rfl
@[simp] theorem State.updClus_rootSyn (s : State) (p : Petal) (c : Cluster) (f : ClusterSt → ClusterSt) : (s.updClus p c f).rootSyn = s.rootSyn := rfl
@[simp] theorem State.updClus_isoPorts (s : State) (p : Petal) (c : Cluster) (f : ClusterSt → ClusterSt) : (s.updClus p c f).isoPorts = s.isoPorts := rfl
@[simp] theorem State.updClus_haltTimes (s : State) (p : Petal) (c : Cluster) (f : ClusterSt → ClusterSt) : (s.updClus p c f).haltTimes = s.haltTimes := rfl
@[simp] theorem State.updClus_restartAsked (s : State) (p : Petal) (c : Cluster) (f : ClusterSt → ClusterSt) : (s.updClus p c f).restartAsked = s.restartAsked := rfl
@[simp] theorem State.updClus_frozen (s : State) (p : Petal) (c : Cluster) (f : ClusterSt → ClusterSt) : (s.updClus p c f).frozen = s.frozen := rfl
@[simp] theorem State.updClus_canErr (s : State) (p : Petal) (c : Cluster) (f : ClusterSt → ClusterSt) : (s.updClus p c f).canErr = s.canErr := rfl
@[simp] theorem State.updClus_capLimit (s : State) (p : Petal) (c : Cluster) (f : ClusterSt → ClusterSt) : (s.updClus p c f).capLimit = s.capLimit := rfl
@[simp] theorem State.updClus_capParked (s : State) (p : Petal) (c : Cluster) (f : ClusterSt → ClusterSt) : (s.updClus p c f).capParked = s.capParked := rfl
@[simp] theorem State.updClus_heatLimit (s : State) (p : Petal) (c : Cluster) (f : ClusterSt → ClusterSt) : (s.updClus p c f).heatLimit = s.heatLimit := rfl
@[simp] theorem State.updClus_railLock (s : State) (p : Petal) (c : Cluster) (f : ClusterSt → ClusterSt) : (s.updClus p c f).railLock = s.railLock := rfl
@[simp] theorem State.updClus_paceLow (s : State) (p : Petal) (c : Cluster) (f : ClusterSt → ClusterSt) : (s.updClus p c f).paceLow = s.paceLow := rfl
@[simp] theorem State.updClus_boost (s : State) (p : Petal) (c : Cluster) (f : ClusterSt → ClusterSt) : (s.updClus p c f).boost = s.boost := rfl
@[simp] theorem State.updClus_bulk (s : State) (p : Petal) (c : Cluster) (f : ClusterSt → ClusterSt) : (s.updClus p c f).bulk = s.bulk := rfl
@[simp] theorem State.updClus_sdo (s : State) (p : Petal) (c : Cluster) (f : ClusterSt → ClusterSt) : (s.updClus p c f).sdo = s.sdo := rfl
@[simp] theorem State.updClus_accums (s : State) (p : Petal) (c : Cluster) (f : ClusterSt → ClusterSt) : (s.updClus p c f).accums = s.accums := rfl
@[simp] theorem State.updClus_eids (s : State) (p : Petal) (c : Cluster) (f : ClusterSt → ClusterSt) : (s.updClus p c f).eids = s.eids := rfl
@[simp] theorem State.updClus_dbgEnHigh (s : State) (p : Petal) (c : Cluster) (f : ClusterSt → ClusterSt) : (s.updClus p c f).dbgEnHigh = s.dbgEnHigh := rfl
@[simp] theorem State.updClus_tapIr (s : State) (p : Petal) (c : Cluster) (f : ClusterSt → ClusterSt) : (s.updClus p c f).tapIr = s.tapIr := rfl
@[simp] theorem State.updClus_tapPins (s : State) (p : Petal) (c : Cluster) (f : ClusterSt → ClusterSt) : (s.updClus p c f).tapPins = s.tapPins := rfl
@[simp] theorem State.updClus_tapDrive (s : State) (p : Petal) (c : Cluster) (f : ClusterSt → ClusterSt) : (s.updClus p c f).tapDrive = s.tapDrive := rfl
@[simp] theorem State.updClus_tapDict (s : State) (p : Petal) (c : Cluster) (f : ClusterSt → ClusterSt) : (s.updClus p c f).tapDict = s.tapDict := rfl
@[simp] theorem State.updClus_tapMem (s : State) (p : Petal) (c : Cluster) (f : ClusterSt → ClusterSt) : (s.updClus p c f).tapMem = s.tapMem := rfl
@[simp] theorem State.updClus_stem (s : State) (p : Petal) (c : Cluster) (f : ClusterSt → ClusterSt) : (s.updClus p c f).stem = s.stem := rfl
@[simp] theorem State.updClus_stemRr (s : State) (p : Petal) (c : Cluster) (f : ClusterSt → ClusterSt) : (s.updClus p c f).stemRr = s.stemRr := rfl
@[simp] theorem State.updClus_cross (s : State) (p : Petal) (c : Cluster) (f : ClusterSt → ClusterSt) : (s.updClus p c f).cross = s.cross := rfl
@[simp] theorem State.updClus_msixTab (s : State) (p : Petal) (c : Cluster) (f : ClusterSt → ClusterSt) : (s.updClus p c f).msixTab = s.msixTab := rfl
@[simp] theorem State.updClus_paceSet (s : State) (p : Petal) (c : Cluster) (f : ClusterSt → ClusterSt) : (s.updClus p c f).paceSet = s.paceSet := rfl
@[simp] theorem State.updClus_pipes (s : State) (p : Petal) (c : Cluster) (f : ClusterSt → ClusterSt) : (s.updClus p c f).pipes = s.pipes := rfl
@[simp] theorem State.updClus_scratchBad (s : State) (p : Petal) (c : Cluster) (f : ClusterSt → ClusterSt) : (s.updClus p c f).scratchBad = s.scratchBad := rfl
@[simp] theorem State.updClus_histOn (s : State) (p : Petal) (c : Cluster) (f : ClusterSt → ClusterSt) : (s.updClus p c f).histOn = s.histOn := rfl
@[simp] theorem State.updClus_haltWords (s : State) (p : Petal) (c : Cluster) (f : ClusterSt → ClusterSt) : (s.updClus p c f).haltWords = s.haltWords := rfl
@[simp] theorem State.updClus_dget_reads (s : State) (p : Petal) (c : Cluster) (f : ClusterSt → ClusterSt) (x y : Nat) : (s.updClus p c f).dget x y = s.dget x y := rfl
@[simp] theorem State.updClus_domByte_reads (s : State) (p : Petal) (c : Cluster) (f : ClusterSt → ClusterSt) (x y z : Nat) : (s.updClus p c f).domByte x y z = s.domByte x y z := rfl
@[simp] theorem State.updClus_memByte_reads (s : State) (p : Petal) (c : Cluster) (f : ClusterSt → ClusterSt) (x : Nat) : (s.updClus p c f).memByte x = s.memByte x := rfl
@[simp] theorem State.updClus_winGet_reads (s : State) (p : Petal) (c : Cluster) (f : ClusterSt → ClusterSt) (x : Nat) : (s.updClus p c f).winGet x = s.winGet x := rfl
@[simp] theorem State.updClus_thr_reads (s : State) (p : Petal) (c : Cluster) (f : ClusterSt → ClusterSt) (x : Hart) : (s.updClus p c f).thr x = s.thr x := rfl
@[simp] theorem State.updClus_dreg_reads (s : State) (p : Petal) (c : Cluster) (f : ClusterSt → ClusterSt) (x : Hart) (y : Reg) : (s.updClus p c f).dreg x y = s.dreg x y := rfl
@[simp] theorem State.updClus_areg_reads (s : State) (p : Petal) (c : Cluster) (f : ClusterSt → ClusterSt) (x : Hart) (y : Reg) : (s.updClus p c f).areg x y = s.areg x y := rfl
@[simp] theorem State.updClus_acc_reads (s : State) (p : Petal) (c : Cluster) (f : ClusterSt → ClusterSt) (x : Hart) (y : Fin 4) : (s.updClus p c f).acc x y = s.acc x y := rfl
@[simp] theorem State.updClus_creg_reads (s : State) (p : Petal) (c : Cluster) (f : ClusterSt → ClusterSt) (x : Hart) (y : CReg) : (s.updClus p c f).creg x y = s.creg x y := rfl
@[simp] theorem State.updClus_core_reads (s : State) (p : Petal) (c : Cluster) (f : ClusterSt → ClusterSt) (x : CoreId) : (s.updClus p c f).core x = s.core x := rfl
@[simp] theorem State.updClus_chan_reads (s : State) (p : Petal) (c : Cluster) (f : ClusterSt → ClusterSt) (x : Petal) (y : Nat) : (s.updClus p c f).chan x y = s.chan x y := rfl
@[simp] theorem State.updClus_pet_reads (s : State) (p : Petal) (c : Cluster) (f : ClusterSt → ClusterSt) (x : Petal) : (s.updClus p c f).pet x = s.pet x := rfl
@[simp] theorem State.updClus_q_reads (s : State) (p : Petal) (c : Cluster) (f : ClusterSt → ClusterSt) (x : Nat) : (s.updClus p c f).q x = s.q x := rfl
@[simp] theorem State.updClus_slot_reads (s : State) (p : Petal) (c : Cluster) (f : ClusterSt → ClusterSt) (x : ThreadId) : (s.updClus p c f).slot x = s.slot x := rfl
@[simp] theorem State.updClus_coll_reads (s : State) (p : Petal) (c : Cluster) (f : ClusterSt → ClusterSt) (x : Collector) : (s.updClus p c f).coll x = s.coll x := rfl
@[simp] theorem State.updClus_dram_reads (s : State) (p : Petal) (c : Cluster) (f : ClusterSt → ClusterSt) (x : Nat) : (s.updClus p c f).dram x = s.dram x := rfl
@[simp] theorem State.updClus_mbox_reads (s : State) (p : Petal) (c : Cluster) (f : ClusterSt → ClusterSt) (x : Nat) : (s.updClus p c f).mbox x = s.mbox x := rfl
@[simp] theorem State.updClus_pipe_reads (s : State) (p : Petal) (c : Cluster) (f : ClusterSt → ClusterSt) (x : CoreId) : (s.updClus p c f).pipe x = s.pipe x := rfl

/-! ### State.updPet changes `petals` -/

@[simp] theorem State.updPet_time (s : State) (p : Petal) (f : PetalSt → PetalSt) : (s.updPet p f).time = s.time := rfl
@[simp] theorem State.updPet_pending (s : State) (p : Petal) (f : PetalSt → PetalSt) : (s.updPet p f).pending = s.pending := rfl
@[simp] theorem State.updPet_dict (s : State) (p : Petal) (f : PetalSt → PetalSt) : (s.updPet p f).dict = s.dict := rfl
@[simp] theorem State.updPet_doms (s : State) (p : Petal) (f : PetalSt → PetalSt) : (s.updPet p f).doms = s.doms := rfl
@[simp] theorem State.updPet_mem (s : State) (p : Petal) (f : PetalSt → PetalSt) : (s.updPet p f).mem = s.mem := rfl
@[simp] theorem State.updPet_poison (s : State) (p : Petal) (f : PetalSt → PetalSt) : (s.updPet p f).poison = s.poison := rfl
@[simp] theorem State.updPet_fresh (s : State) (p : Petal) (f : PetalSt → PetalSt) : (s.updPet p f).fresh = s.fresh := rfl
@[simp] theorem State.updPet_out (s : State) (p : Petal) (f : PetalSt → PetalSt) : (s.updPet p f).out = s.out := rfl
@[simp] theorem State.updPet_win (s : State) (p : Petal) (f : PetalSt → PetalSt) : (s.updPet p f).win = s.win := rfl
@[simp] theorem State.updPet_threads (s : State) (p : Petal) (f : PetalSt → PetalSt) : (s.updPet p f).threads = s.threads := rfl
@[simp] theorem State.updPet_cores (s : State) (p : Petal) (f : PetalSt → PetalSt) : (s.updPet p f).cores = s.cores := rfl
@[simp] theorem State.updPet_clusters (s : State) (p : Petal) (f : PetalSt → PetalSt) : (s.updPet p f).clusters = s.clusters := rfl
@[simp] theorem State.updPet_chans (s : State) (p : Petal) (f : PetalSt → PetalSt) : (s.updPet p f).chans = s.chans := rfl
@[simp] theorem State.updPet_census (s : State) (p : Petal) (f : PetalSt → PetalSt) : (s.updPet p f).census = s.census := rfl
@[simp] theorem State.updPet_colls (s : State) (p : Petal) (f : PetalSt → PetalSt) : (s.updPet p f).colls = s.colls := rfl
@[simp] theorem State.updPet_trans (s : State) (p : Petal) (f : PetalSt → PetalSt) : (s.updPet p f).trans = s.trans := rfl
@[simp] theorem State.updPet_staged (s : State) (p : Petal) (f : PetalSt → PetalSt) : (s.updPet p f).staged = s.staged := rfl
@[simp] theorem State.updPet_snaps (s : State) (p : Petal) (f : PetalSt → PetalSt) : (s.updPet p f).snaps = s.snaps := rfl
@[simp] theorem State.updPet_halts (s : State) (p : Petal) (f : PetalSt → PetalSt) : (s.updPet p f).halts = s.halts := rfl
@[simp] theorem State.updPet_haltDue (s : State) (p : Petal) (f : PetalSt → PetalSt) : (s.updPet p f).haltDue = s.haltDue := rfl
@[simp] theorem State.updPet_msixOpen (s : State) (p : Petal) (f : PetalSt → PetalSt) : (s.updPet p f).msixOpen = s.msixOpen := rfl
@[simp] theorem State.updPet_msixPend (s : State) (p : Petal) (f : PetalSt → PetalSt) : (s.updPet p f).msixPend = s.msixPend := rfl
@[simp] theorem State.updPet_busMaster (s : State) (p : Petal) (f : PetalSt → PetalSt) : (s.updPet p f).busMaster = s.busMaster := rfl
@[simp] theorem State.updPet_holders (s : State) (p : Petal) (f : PetalSt → PetalSt) : (s.updPet p f).holders = s.holders := rfl
@[simp] theorem State.updPet_waiters (s : State) (p : Petal) (f : PetalSt → PetalSt) : (s.updPet p f).waiters = s.waiters := rfl
@[simp] theorem State.updPet_drams (s : State) (p : Petal) (f : PetalSt → PetalSt) : (s.updPet p f).drams = s.drams := rfl
@[simp] theorem State.updPet_sessions (s : State) (p : Petal) (f : PetalSt → PetalSt) : (s.updPet p f).sessions = s.sessions := rfl
@[simp] theorem State.updPet_perst (s : State) (p : Petal) (f : PetalSt → PetalSt) : (s.updPet p f).perst = s.perst := rfl
@[simp] theorem State.updPet_slots (s : State) (p : Petal) (f : PetalSt → PetalSt) : (s.updPet p f).slots = s.slots := rfl
@[simp] theorem State.updPet_tables (s : State) (p : Petal) (f : PetalSt → PetalSt) : (s.updPet p f).tables = s.tables := rfl
@[simp] theorem State.updPet_cow (s : State) (p : Petal) (f : PetalSt → PetalSt) : (s.updPet p f).cow = s.cow := rfl
@[simp] theorem State.updPet_rxPause (s : State) (p : Petal) (f : PetalSt → PetalSt) : (s.updPet p f).rxPause = s.rxPause := rfl
@[simp] theorem State.updPet_stalled (s : State) (p : Petal) (f : PetalSt → PetalSt) : (s.updPet p f).stalled = s.stalled := rfl
@[simp] theorem State.updPet_modes (s : State) (p : Petal) (f : PetalSt → PetalSt) : (s.updPet p f).modes = s.modes := rfl
@[simp] theorem State.updPet_mism (s : State) (p : Petal) (f : PetalSt → PetalSt) : (s.updPet p f).mism = s.mism := rfl
@[simp] theorem State.updPet_sorrel (s : State) (p : Petal) (f : PetalSt → PetalSt) : (s.updPet p f).sorrel = s.sorrel := rfl
@[simp] theorem State.updPet_swaps (s : State) (p : Petal) (f : PetalSt → PetalSt) : (s.updPet p f).swaps = s.swaps := rfl
@[simp] theorem State.updPet_mboxes (s : State) (p : Petal) (f : PetalSt → PetalSt) : (s.updPet p f).mboxes = s.mboxes := rfl
@[simp] theorem State.updPet_requeue (s : State) (p : Petal) (f : PetalSt → PetalSt) : (s.updPet p f).requeue = s.requeue := rfl
@[simp] theorem State.updPet_repairs (s : State) (p : Petal) (f : PetalSt → PetalSt) : (s.updPet p f).repairs = s.repairs := rfl
@[simp] theorem State.updPet_ceTimes (s : State) (p : Petal) (f : PetalSt → PetalSt) : (s.updPet p f).ceTimes = s.ceTimes := rfl
@[simp] theorem State.updPet_ueTimes (s : State) (p : Petal) (f : PetalSt → PetalSt) : (s.updPet p f).ueTimes = s.ueTimes := rfl
@[simp] theorem State.updPet_wearWarned (s : State) (p : Petal) (f : PetalSt → PetalSt) : (s.updPet p f).wearWarned = s.wearWarned := rfl
@[simp] theorem State.updPet_swapLogged (s : State) (p : Petal) (f : PetalSt → PetalSt) : (s.updPet p f).swapLogged = s.swapLogged := rfl
@[simp] theorem State.updPet_cntBase (s : State) (p : Petal) (f : PetalSt → PetalSt) : (s.updPet p f).cntBase = s.cntBase := rfl
@[simp] theorem State.updPet_journal (s : State) (p : Petal) (f : PetalSt → PetalSt) : (s.updPet p f).journal = s.journal := rfl
@[simp] theorem State.updPet_lastHash (s : State) (p : Petal) (f : PetalSt → PetalSt) : (s.updPet p f).lastHash = s.lastHash := rfl
@[simp] theorem State.updPet_heldSeqs (s : State) (p : Petal) (f : PetalSt → PetalSt) : (s.updPet p f).heldSeqs = s.heldSeqs := rfl
@[simp] theorem State.updPet_golneB (s : State) (p : Petal) (f : PetalSt → PetalSt) : (s.updPet p f).golneB = s.golneB := rfl
@[simp] theorem State.updPet_golneDown (s : State) (p : Petal) (f : PetalSt → PetalSt) : (s.updPet p f).golneDown = s.golneDown := rfl
@[simp] theorem State.updPet_act (s : State) (p : Petal) (f : PetalSt → PetalSt) : (s.updPet p f).act = s.act := rfl
@[simp] theorem State.updPet_minStart (s : State) (p : Petal) (f : PetalSt → PetalSt) : (s.updPet p f).minStart = s.minStart := rfl
@[simp] theorem State.updPet_noDram (s : State) (p : Petal) (f : PetalSt → PetalSt) : (s.updPet p f).noDram = s.noDram := rfl
@[simp] theorem State.updPet_nextRaise (s : State) (p : Petal) (f : PetalSt → PetalSt) : (s.updPet p f).nextRaise = s.nextRaise := rfl
@[simp] theorem State.updPet_pseq (s : State) (p : Petal) (f : PetalSt → PetalSt) : (s.updPet p f).pseq = s.pseq := rfl
@[simp] theorem State.updPet_unlockMeas (s : State) (p : Petal) (f : PetalSt → PetalSt) : (s.updPet p f).unlockMeas = s.unlockMeas := rfl
@[simp] theorem State.updPet_unlockEnd (s : State) (p : Petal) (f : PetalSt → PetalSt) : (s.updPet p f).unlockEnd = s.unlockEnd := rfl
@[simp] theorem State.updPet_unlockPetals (s : State) (p : Petal) (f : PetalSt → PetalSt) : (s.updPet p f).unlockPetals = s.unlockPetals := rfl
@[simp] theorem State.updPet_romStuck (s : State) (p : Petal) (f : PetalSt → PetalSt) : (s.updPet p f).romStuck = s.romStuck := rfl
@[simp] theorem State.updPet_minRetry (s : State) (p : Petal) (f : PetalSt → PetalSt) : (s.updPet p f).minRetry = s.minRetry := rfl
@[simp] theorem State.updPet_power (s : State) (p : Petal) (f : PetalSt → PetalSt) : (s.updPet p f).power = s.power := rfl
@[simp] theorem State.updPet_dumps (s : State) (p : Petal) (f : PetalSt → PetalSt) : (s.updPet p f).dumps = s.dumps := rfl
@[simp] theorem State.updPet_rootSyn (s : State) (p : Petal) (f : PetalSt → PetalSt) : (s.updPet p f).rootSyn = s.rootSyn := rfl
@[simp] theorem State.updPet_isoPorts (s : State) (p : Petal) (f : PetalSt → PetalSt) : (s.updPet p f).isoPorts = s.isoPorts := rfl
@[simp] theorem State.updPet_haltTimes (s : State) (p : Petal) (f : PetalSt → PetalSt) : (s.updPet p f).haltTimes = s.haltTimes := rfl
@[simp] theorem State.updPet_restartAsked (s : State) (p : Petal) (f : PetalSt → PetalSt) : (s.updPet p f).restartAsked = s.restartAsked := rfl
@[simp] theorem State.updPet_frozen (s : State) (p : Petal) (f : PetalSt → PetalSt) : (s.updPet p f).frozen = s.frozen := rfl
@[simp] theorem State.updPet_canErr (s : State) (p : Petal) (f : PetalSt → PetalSt) : (s.updPet p f).canErr = s.canErr := rfl
@[simp] theorem State.updPet_capLimit (s : State) (p : Petal) (f : PetalSt → PetalSt) : (s.updPet p f).capLimit = s.capLimit := rfl
@[simp] theorem State.updPet_capParked (s : State) (p : Petal) (f : PetalSt → PetalSt) : (s.updPet p f).capParked = s.capParked := rfl
@[simp] theorem State.updPet_heatLimit (s : State) (p : Petal) (f : PetalSt → PetalSt) : (s.updPet p f).heatLimit = s.heatLimit := rfl
@[simp] theorem State.updPet_railLock (s : State) (p : Petal) (f : PetalSt → PetalSt) : (s.updPet p f).railLock = s.railLock := rfl
@[simp] theorem State.updPet_paceLow (s : State) (p : Petal) (f : PetalSt → PetalSt) : (s.updPet p f).paceLow = s.paceLow := rfl
@[simp] theorem State.updPet_boost (s : State) (p : Petal) (f : PetalSt → PetalSt) : (s.updPet p f).boost = s.boost := rfl
@[simp] theorem State.updPet_bulk (s : State) (p : Petal) (f : PetalSt → PetalSt) : (s.updPet p f).bulk = s.bulk := rfl
@[simp] theorem State.updPet_sdo (s : State) (p : Petal) (f : PetalSt → PetalSt) : (s.updPet p f).sdo = s.sdo := rfl
@[simp] theorem State.updPet_accums (s : State) (p : Petal) (f : PetalSt → PetalSt) : (s.updPet p f).accums = s.accums := rfl
@[simp] theorem State.updPet_eids (s : State) (p : Petal) (f : PetalSt → PetalSt) : (s.updPet p f).eids = s.eids := rfl
@[simp] theorem State.updPet_dbgEnHigh (s : State) (p : Petal) (f : PetalSt → PetalSt) : (s.updPet p f).dbgEnHigh = s.dbgEnHigh := rfl
@[simp] theorem State.updPet_tapIr (s : State) (p : Petal) (f : PetalSt → PetalSt) : (s.updPet p f).tapIr = s.tapIr := rfl
@[simp] theorem State.updPet_tapPins (s : State) (p : Petal) (f : PetalSt → PetalSt) : (s.updPet p f).tapPins = s.tapPins := rfl
@[simp] theorem State.updPet_tapDrive (s : State) (p : Petal) (f : PetalSt → PetalSt) : (s.updPet p f).tapDrive = s.tapDrive := rfl
@[simp] theorem State.updPet_tapDict (s : State) (p : Petal) (f : PetalSt → PetalSt) : (s.updPet p f).tapDict = s.tapDict := rfl
@[simp] theorem State.updPet_tapMem (s : State) (p : Petal) (f : PetalSt → PetalSt) : (s.updPet p f).tapMem = s.tapMem := rfl
@[simp] theorem State.updPet_stem (s : State) (p : Petal) (f : PetalSt → PetalSt) : (s.updPet p f).stem = s.stem := rfl
@[simp] theorem State.updPet_stemRr (s : State) (p : Petal) (f : PetalSt → PetalSt) : (s.updPet p f).stemRr = s.stemRr := rfl
@[simp] theorem State.updPet_cross (s : State) (p : Petal) (f : PetalSt → PetalSt) : (s.updPet p f).cross = s.cross := rfl
@[simp] theorem State.updPet_msixTab (s : State) (p : Petal) (f : PetalSt → PetalSt) : (s.updPet p f).msixTab = s.msixTab := rfl
@[simp] theorem State.updPet_paceSet (s : State) (p : Petal) (f : PetalSt → PetalSt) : (s.updPet p f).paceSet = s.paceSet := rfl
@[simp] theorem State.updPet_pipes (s : State) (p : Petal) (f : PetalSt → PetalSt) : (s.updPet p f).pipes = s.pipes := rfl
@[simp] theorem State.updPet_scratchBad (s : State) (p : Petal) (f : PetalSt → PetalSt) : (s.updPet p f).scratchBad = s.scratchBad := rfl
@[simp] theorem State.updPet_histOn (s : State) (p : Petal) (f : PetalSt → PetalSt) : (s.updPet p f).histOn = s.histOn := rfl
@[simp] theorem State.updPet_haltWords (s : State) (p : Petal) (f : PetalSt → PetalSt) : (s.updPet p f).haltWords = s.haltWords := rfl
@[simp] theorem State.updPet_dget_reads (s : State) (p : Petal) (f : PetalSt → PetalSt) (x y : Nat) : (s.updPet p f).dget x y = s.dget x y := rfl
@[simp] theorem State.updPet_domByte_reads (s : State) (p : Petal) (f : PetalSt → PetalSt) (x y z : Nat) : (s.updPet p f).domByte x y z = s.domByte x y z := rfl
@[simp] theorem State.updPet_memByte_reads (s : State) (p : Petal) (f : PetalSt → PetalSt) (x : Nat) : (s.updPet p f).memByte x = s.memByte x := rfl
@[simp] theorem State.updPet_winGet_reads (s : State) (p : Petal) (f : PetalSt → PetalSt) (x : Nat) : (s.updPet p f).winGet x = s.winGet x := rfl
@[simp] theorem State.updPet_thr_reads (s : State) (p : Petal) (f : PetalSt → PetalSt) (x : Hart) : (s.updPet p f).thr x = s.thr x := rfl
@[simp] theorem State.updPet_dreg_reads (s : State) (p : Petal) (f : PetalSt → PetalSt) (x : Hart) (y : Reg) : (s.updPet p f).dreg x y = s.dreg x y := rfl
@[simp] theorem State.updPet_areg_reads (s : State) (p : Petal) (f : PetalSt → PetalSt) (x : Hart) (y : Reg) : (s.updPet p f).areg x y = s.areg x y := rfl
@[simp] theorem State.updPet_acc_reads (s : State) (p : Petal) (f : PetalSt → PetalSt) (x : Hart) (y : Fin 4) : (s.updPet p f).acc x y = s.acc x y := rfl
@[simp] theorem State.updPet_creg_reads (s : State) (p : Petal) (f : PetalSt → PetalSt) (x : Hart) (y : CReg) : (s.updPet p f).creg x y = s.creg x y := rfl
@[simp] theorem State.updPet_core_reads (s : State) (p : Petal) (f : PetalSt → PetalSt) (x : CoreId) : (s.updPet p f).core x = s.core x := rfl
@[simp] theorem State.updPet_clus_reads (s : State) (p : Petal) (f : PetalSt → PetalSt) (x : Petal) (y : Cluster) : (s.updPet p f).clus x y = s.clus x y := rfl
@[simp] theorem State.updPet_chan_reads (s : State) (p : Petal) (f : PetalSt → PetalSt) (x : Petal) (y : Nat) : (s.updPet p f).chan x y = s.chan x y := rfl
@[simp] theorem State.updPet_slot_reads (s : State) (p : Petal) (f : PetalSt → PetalSt) (x : ThreadId) : (s.updPet p f).slot x = s.slot x := rfl
@[simp] theorem State.updPet_coll_reads (s : State) (p : Petal) (f : PetalSt → PetalSt) (x : Collector) : (s.updPet p f).coll x = s.coll x := rfl
@[simp] theorem State.updPet_dram_reads (s : State) (p : Petal) (f : PetalSt → PetalSt) (x : Nat) : (s.updPet p f).dram x = s.dram x := rfl
@[simp] theorem State.updPet_mbox_reads (s : State) (p : Petal) (f : PetalSt → PetalSt) (x : Nat) : (s.updPet p f).mbox x = s.mbox x := rfl
@[simp] theorem State.updPet_pipe_reads (s : State) (p : Petal) (f : PetalSt → PetalSt) (x : CoreId) : (s.updPet p f).pipe x = s.pipe x := rfl

/-! ### State.updChan changes `chans` -/

@[simp] theorem State.updChan_time (s : State) (p : Petal) (n : Nat) (f : Chan → Chan) : (s.updChan p n f).time = s.time := rfl
@[simp] theorem State.updChan_pending (s : State) (p : Petal) (n : Nat) (f : Chan → Chan) : (s.updChan p n f).pending = s.pending := rfl
@[simp] theorem State.updChan_dict (s : State) (p : Petal) (n : Nat) (f : Chan → Chan) : (s.updChan p n f).dict = s.dict := rfl
@[simp] theorem State.updChan_doms (s : State) (p : Petal) (n : Nat) (f : Chan → Chan) : (s.updChan p n f).doms = s.doms := rfl
@[simp] theorem State.updChan_mem (s : State) (p : Petal) (n : Nat) (f : Chan → Chan) : (s.updChan p n f).mem = s.mem := rfl
@[simp] theorem State.updChan_poison (s : State) (p : Petal) (n : Nat) (f : Chan → Chan) : (s.updChan p n f).poison = s.poison := rfl
@[simp] theorem State.updChan_fresh (s : State) (p : Petal) (n : Nat) (f : Chan → Chan) : (s.updChan p n f).fresh = s.fresh := rfl
@[simp] theorem State.updChan_out (s : State) (p : Petal) (n : Nat) (f : Chan → Chan) : (s.updChan p n f).out = s.out := rfl
@[simp] theorem State.updChan_win (s : State) (p : Petal) (n : Nat) (f : Chan → Chan) : (s.updChan p n f).win = s.win := rfl
@[simp] theorem State.updChan_threads (s : State) (p : Petal) (n : Nat) (f : Chan → Chan) : (s.updChan p n f).threads = s.threads := rfl
@[simp] theorem State.updChan_cores (s : State) (p : Petal) (n : Nat) (f : Chan → Chan) : (s.updChan p n f).cores = s.cores := rfl
@[simp] theorem State.updChan_clusters (s : State) (p : Petal) (n : Nat) (f : Chan → Chan) : (s.updChan p n f).clusters = s.clusters := rfl
@[simp] theorem State.updChan_census (s : State) (p : Petal) (n : Nat) (f : Chan → Chan) : (s.updChan p n f).census = s.census := rfl
@[simp] theorem State.updChan_colls (s : State) (p : Petal) (n : Nat) (f : Chan → Chan) : (s.updChan p n f).colls = s.colls := rfl
@[simp] theorem State.updChan_trans (s : State) (p : Petal) (n : Nat) (f : Chan → Chan) : (s.updChan p n f).trans = s.trans := rfl
@[simp] theorem State.updChan_staged (s : State) (p : Petal) (n : Nat) (f : Chan → Chan) : (s.updChan p n f).staged = s.staged := rfl
@[simp] theorem State.updChan_snaps (s : State) (p : Petal) (n : Nat) (f : Chan → Chan) : (s.updChan p n f).snaps = s.snaps := rfl
@[simp] theorem State.updChan_halts (s : State) (p : Petal) (n : Nat) (f : Chan → Chan) : (s.updChan p n f).halts = s.halts := rfl
@[simp] theorem State.updChan_haltDue (s : State) (p : Petal) (n : Nat) (f : Chan → Chan) : (s.updChan p n f).haltDue = s.haltDue := rfl
@[simp] theorem State.updChan_msixOpen (s : State) (p : Petal) (n : Nat) (f : Chan → Chan) : (s.updChan p n f).msixOpen = s.msixOpen := rfl
@[simp] theorem State.updChan_msixPend (s : State) (p : Petal) (n : Nat) (f : Chan → Chan) : (s.updChan p n f).msixPend = s.msixPend := rfl
@[simp] theorem State.updChan_busMaster (s : State) (p : Petal) (n : Nat) (f : Chan → Chan) : (s.updChan p n f).busMaster = s.busMaster := rfl
@[simp] theorem State.updChan_holders (s : State) (p : Petal) (n : Nat) (f : Chan → Chan) : (s.updChan p n f).holders = s.holders := rfl
@[simp] theorem State.updChan_waiters (s : State) (p : Petal) (n : Nat) (f : Chan → Chan) : (s.updChan p n f).waiters = s.waiters := rfl
@[simp] theorem State.updChan_drams (s : State) (p : Petal) (n : Nat) (f : Chan → Chan) : (s.updChan p n f).drams = s.drams := rfl
@[simp] theorem State.updChan_sessions (s : State) (p : Petal) (n : Nat) (f : Chan → Chan) : (s.updChan p n f).sessions = s.sessions := rfl
@[simp] theorem State.updChan_perst (s : State) (p : Petal) (n : Nat) (f : Chan → Chan) : (s.updChan p n f).perst = s.perst := rfl
@[simp] theorem State.updChan_petals (s : State) (p : Petal) (n : Nat) (f : Chan → Chan) : (s.updChan p n f).petals = s.petals := rfl
@[simp] theorem State.updChan_slots (s : State) (p : Petal) (n : Nat) (f : Chan → Chan) : (s.updChan p n f).slots = s.slots := rfl
@[simp] theorem State.updChan_tables (s : State) (p : Petal) (n : Nat) (f : Chan → Chan) : (s.updChan p n f).tables = s.tables := rfl
@[simp] theorem State.updChan_cow (s : State) (p : Petal) (n : Nat) (f : Chan → Chan) : (s.updChan p n f).cow = s.cow := rfl
@[simp] theorem State.updChan_rxPause (s : State) (p : Petal) (n : Nat) (f : Chan → Chan) : (s.updChan p n f).rxPause = s.rxPause := rfl
@[simp] theorem State.updChan_stalled (s : State) (p : Petal) (n : Nat) (f : Chan → Chan) : (s.updChan p n f).stalled = s.stalled := rfl
@[simp] theorem State.updChan_modes (s : State) (p : Petal) (n : Nat) (f : Chan → Chan) : (s.updChan p n f).modes = s.modes := rfl
@[simp] theorem State.updChan_mism (s : State) (p : Petal) (n : Nat) (f : Chan → Chan) : (s.updChan p n f).mism = s.mism := rfl
@[simp] theorem State.updChan_sorrel (s : State) (p : Petal) (n : Nat) (f : Chan → Chan) : (s.updChan p n f).sorrel = s.sorrel := rfl
@[simp] theorem State.updChan_swaps (s : State) (p : Petal) (n : Nat) (f : Chan → Chan) : (s.updChan p n f).swaps = s.swaps := rfl
@[simp] theorem State.updChan_mboxes (s : State) (p : Petal) (n : Nat) (f : Chan → Chan) : (s.updChan p n f).mboxes = s.mboxes := rfl
@[simp] theorem State.updChan_requeue (s : State) (p : Petal) (n : Nat) (f : Chan → Chan) : (s.updChan p n f).requeue = s.requeue := rfl
@[simp] theorem State.updChan_repairs (s : State) (p : Petal) (n : Nat) (f : Chan → Chan) : (s.updChan p n f).repairs = s.repairs := rfl
@[simp] theorem State.updChan_ceTimes (s : State) (p : Petal) (n : Nat) (f : Chan → Chan) : (s.updChan p n f).ceTimes = s.ceTimes := rfl
@[simp] theorem State.updChan_ueTimes (s : State) (p : Petal) (n : Nat) (f : Chan → Chan) : (s.updChan p n f).ueTimes = s.ueTimes := rfl
@[simp] theorem State.updChan_wearWarned (s : State) (p : Petal) (n : Nat) (f : Chan → Chan) : (s.updChan p n f).wearWarned = s.wearWarned := rfl
@[simp] theorem State.updChan_swapLogged (s : State) (p : Petal) (n : Nat) (f : Chan → Chan) : (s.updChan p n f).swapLogged = s.swapLogged := rfl
@[simp] theorem State.updChan_cntBase (s : State) (p : Petal) (n : Nat) (f : Chan → Chan) : (s.updChan p n f).cntBase = s.cntBase := rfl
@[simp] theorem State.updChan_journal (s : State) (p : Petal) (n : Nat) (f : Chan → Chan) : (s.updChan p n f).journal = s.journal := rfl
@[simp] theorem State.updChan_lastHash (s : State) (p : Petal) (n : Nat) (f : Chan → Chan) : (s.updChan p n f).lastHash = s.lastHash := rfl
@[simp] theorem State.updChan_heldSeqs (s : State) (p : Petal) (n : Nat) (f : Chan → Chan) : (s.updChan p n f).heldSeqs = s.heldSeqs := rfl
@[simp] theorem State.updChan_golneB (s : State) (p : Petal) (n : Nat) (f : Chan → Chan) : (s.updChan p n f).golneB = s.golneB := rfl
@[simp] theorem State.updChan_golneDown (s : State) (p : Petal) (n : Nat) (f : Chan → Chan) : (s.updChan p n f).golneDown = s.golneDown := rfl
@[simp] theorem State.updChan_act (s : State) (p : Petal) (n : Nat) (f : Chan → Chan) : (s.updChan p n f).act = s.act := rfl
@[simp] theorem State.updChan_minStart (s : State) (p : Petal) (n : Nat) (f : Chan → Chan) : (s.updChan p n f).minStart = s.minStart := rfl
@[simp] theorem State.updChan_noDram (s : State) (p : Petal) (n : Nat) (f : Chan → Chan) : (s.updChan p n f).noDram = s.noDram := rfl
@[simp] theorem State.updChan_nextRaise (s : State) (p : Petal) (n : Nat) (f : Chan → Chan) : (s.updChan p n f).nextRaise = s.nextRaise := rfl
@[simp] theorem State.updChan_pseq (s : State) (p : Petal) (n : Nat) (f : Chan → Chan) : (s.updChan p n f).pseq = s.pseq := rfl
@[simp] theorem State.updChan_unlockMeas (s : State) (p : Petal) (n : Nat) (f : Chan → Chan) : (s.updChan p n f).unlockMeas = s.unlockMeas := rfl
@[simp] theorem State.updChan_unlockEnd (s : State) (p : Petal) (n : Nat) (f : Chan → Chan) : (s.updChan p n f).unlockEnd = s.unlockEnd := rfl
@[simp] theorem State.updChan_unlockPetals (s : State) (p : Petal) (n : Nat) (f : Chan → Chan) : (s.updChan p n f).unlockPetals = s.unlockPetals := rfl
@[simp] theorem State.updChan_romStuck (s : State) (p : Petal) (n : Nat) (f : Chan → Chan) : (s.updChan p n f).romStuck = s.romStuck := rfl
@[simp] theorem State.updChan_minRetry (s : State) (p : Petal) (n : Nat) (f : Chan → Chan) : (s.updChan p n f).minRetry = s.minRetry := rfl
@[simp] theorem State.updChan_power (s : State) (p : Petal) (n : Nat) (f : Chan → Chan) : (s.updChan p n f).power = s.power := rfl
@[simp] theorem State.updChan_dumps (s : State) (p : Petal) (n : Nat) (f : Chan → Chan) : (s.updChan p n f).dumps = s.dumps := rfl
@[simp] theorem State.updChan_rootSyn (s : State) (p : Petal) (n : Nat) (f : Chan → Chan) : (s.updChan p n f).rootSyn = s.rootSyn := rfl
@[simp] theorem State.updChan_isoPorts (s : State) (p : Petal) (n : Nat) (f : Chan → Chan) : (s.updChan p n f).isoPorts = s.isoPorts := rfl
@[simp] theorem State.updChan_haltTimes (s : State) (p : Petal) (n : Nat) (f : Chan → Chan) : (s.updChan p n f).haltTimes = s.haltTimes := rfl
@[simp] theorem State.updChan_restartAsked (s : State) (p : Petal) (n : Nat) (f : Chan → Chan) : (s.updChan p n f).restartAsked = s.restartAsked := rfl
@[simp] theorem State.updChan_frozen (s : State) (p : Petal) (n : Nat) (f : Chan → Chan) : (s.updChan p n f).frozen = s.frozen := rfl
@[simp] theorem State.updChan_canErr (s : State) (p : Petal) (n : Nat) (f : Chan → Chan) : (s.updChan p n f).canErr = s.canErr := rfl
@[simp] theorem State.updChan_capLimit (s : State) (p : Petal) (n : Nat) (f : Chan → Chan) : (s.updChan p n f).capLimit = s.capLimit := rfl
@[simp] theorem State.updChan_capParked (s : State) (p : Petal) (n : Nat) (f : Chan → Chan) : (s.updChan p n f).capParked = s.capParked := rfl
@[simp] theorem State.updChan_heatLimit (s : State) (p : Petal) (n : Nat) (f : Chan → Chan) : (s.updChan p n f).heatLimit = s.heatLimit := rfl
@[simp] theorem State.updChan_railLock (s : State) (p : Petal) (n : Nat) (f : Chan → Chan) : (s.updChan p n f).railLock = s.railLock := rfl
@[simp] theorem State.updChan_paceLow (s : State) (p : Petal) (n : Nat) (f : Chan → Chan) : (s.updChan p n f).paceLow = s.paceLow := rfl
@[simp] theorem State.updChan_boost (s : State) (p : Petal) (n : Nat) (f : Chan → Chan) : (s.updChan p n f).boost = s.boost := rfl
@[simp] theorem State.updChan_bulk (s : State) (p : Petal) (n : Nat) (f : Chan → Chan) : (s.updChan p n f).bulk = s.bulk := rfl
@[simp] theorem State.updChan_sdo (s : State) (p : Petal) (n : Nat) (f : Chan → Chan) : (s.updChan p n f).sdo = s.sdo := rfl
@[simp] theorem State.updChan_accums (s : State) (p : Petal) (n : Nat) (f : Chan → Chan) : (s.updChan p n f).accums = s.accums := rfl
@[simp] theorem State.updChan_eids (s : State) (p : Petal) (n : Nat) (f : Chan → Chan) : (s.updChan p n f).eids = s.eids := rfl
@[simp] theorem State.updChan_dbgEnHigh (s : State) (p : Petal) (n : Nat) (f : Chan → Chan) : (s.updChan p n f).dbgEnHigh = s.dbgEnHigh := rfl
@[simp] theorem State.updChan_tapIr (s : State) (p : Petal) (n : Nat) (f : Chan → Chan) : (s.updChan p n f).tapIr = s.tapIr := rfl
@[simp] theorem State.updChan_tapPins (s : State) (p : Petal) (n : Nat) (f : Chan → Chan) : (s.updChan p n f).tapPins = s.tapPins := rfl
@[simp] theorem State.updChan_tapDrive (s : State) (p : Petal) (n : Nat) (f : Chan → Chan) : (s.updChan p n f).tapDrive = s.tapDrive := rfl
@[simp] theorem State.updChan_tapDict (s : State) (p : Petal) (n : Nat) (f : Chan → Chan) : (s.updChan p n f).tapDict = s.tapDict := rfl
@[simp] theorem State.updChan_tapMem (s : State) (p : Petal) (n : Nat) (f : Chan → Chan) : (s.updChan p n f).tapMem = s.tapMem := rfl
@[simp] theorem State.updChan_stem (s : State) (p : Petal) (n : Nat) (f : Chan → Chan) : (s.updChan p n f).stem = s.stem := rfl
@[simp] theorem State.updChan_stemRr (s : State) (p : Petal) (n : Nat) (f : Chan → Chan) : (s.updChan p n f).stemRr = s.stemRr := rfl
@[simp] theorem State.updChan_cross (s : State) (p : Petal) (n : Nat) (f : Chan → Chan) : (s.updChan p n f).cross = s.cross := rfl
@[simp] theorem State.updChan_msixTab (s : State) (p : Petal) (n : Nat) (f : Chan → Chan) : (s.updChan p n f).msixTab = s.msixTab := rfl
@[simp] theorem State.updChan_paceSet (s : State) (p : Petal) (n : Nat) (f : Chan → Chan) : (s.updChan p n f).paceSet = s.paceSet := rfl
@[simp] theorem State.updChan_pipes (s : State) (p : Petal) (n : Nat) (f : Chan → Chan) : (s.updChan p n f).pipes = s.pipes := rfl
@[simp] theorem State.updChan_scratchBad (s : State) (p : Petal) (n : Nat) (f : Chan → Chan) : (s.updChan p n f).scratchBad = s.scratchBad := rfl
@[simp] theorem State.updChan_histOn (s : State) (p : Petal) (n : Nat) (f : Chan → Chan) : (s.updChan p n f).histOn = s.histOn := rfl
@[simp] theorem State.updChan_haltWords (s : State) (p : Petal) (n : Nat) (f : Chan → Chan) : (s.updChan p n f).haltWords = s.haltWords := rfl
@[simp] theorem State.updChan_dget_reads (s : State) (p : Petal) (n : Nat) (f : Chan → Chan) (x y : Nat) : (s.updChan p n f).dget x y = s.dget x y := rfl
@[simp] theorem State.updChan_domByte_reads (s : State) (p : Petal) (n : Nat) (f : Chan → Chan) (x y z : Nat) : (s.updChan p n f).domByte x y z = s.domByte x y z := rfl
@[simp] theorem State.updChan_memByte_reads (s : State) (p : Petal) (n : Nat) (f : Chan → Chan) (x : Nat) : (s.updChan p n f).memByte x = s.memByte x := rfl
@[simp] theorem State.updChan_winGet_reads (s : State) (p : Petal) (n : Nat) (f : Chan → Chan) (x : Nat) : (s.updChan p n f).winGet x = s.winGet x := rfl
@[simp] theorem State.updChan_thr_reads (s : State) (p : Petal) (n : Nat) (f : Chan → Chan) (x : Hart) : (s.updChan p n f).thr x = s.thr x := rfl
@[simp] theorem State.updChan_dreg_reads (s : State) (p : Petal) (n : Nat) (f : Chan → Chan) (x : Hart) (y : Reg) : (s.updChan p n f).dreg x y = s.dreg x y := rfl
@[simp] theorem State.updChan_areg_reads (s : State) (p : Petal) (n : Nat) (f : Chan → Chan) (x : Hart) (y : Reg) : (s.updChan p n f).areg x y = s.areg x y := rfl
@[simp] theorem State.updChan_acc_reads (s : State) (p : Petal) (n : Nat) (f : Chan → Chan) (x : Hart) (y : Fin 4) : (s.updChan p n f).acc x y = s.acc x y := rfl
@[simp] theorem State.updChan_creg_reads (s : State) (p : Petal) (n : Nat) (f : Chan → Chan) (x : Hart) (y : CReg) : (s.updChan p n f).creg x y = s.creg x y := rfl
@[simp] theorem State.updChan_core_reads (s : State) (p : Petal) (n : Nat) (f : Chan → Chan) (x : CoreId) : (s.updChan p n f).core x = s.core x := rfl
@[simp] theorem State.updChan_clus_reads (s : State) (p : Petal) (n : Nat) (f : Chan → Chan) (x : Petal) (y : Cluster) : (s.updChan p n f).clus x y = s.clus x y := rfl
@[simp] theorem State.updChan_pet_reads (s : State) (p : Petal) (n : Nat) (f : Chan → Chan) (x : Petal) : (s.updChan p n f).pet x = s.pet x := rfl
@[simp] theorem State.updChan_q_reads (s : State) (p : Petal) (n : Nat) (f : Chan → Chan) (x : Nat) : (s.updChan p n f).q x = s.q x := rfl
@[simp] theorem State.updChan_slot_reads (s : State) (p : Petal) (n : Nat) (f : Chan → Chan) (x : ThreadId) : (s.updChan p n f).slot x = s.slot x := rfl
@[simp] theorem State.updChan_coll_reads (s : State) (p : Petal) (n : Nat) (f : Chan → Chan) (x : Collector) : (s.updChan p n f).coll x = s.coll x := rfl
@[simp] theorem State.updChan_dram_reads (s : State) (p : Petal) (n : Nat) (f : Chan → Chan) (x : Nat) : (s.updChan p n f).dram x = s.dram x := rfl
@[simp] theorem State.updChan_mbox_reads (s : State) (p : Petal) (n : Nat) (f : Chan → Chan) (x : Nat) : (s.updChan p n f).mbox x = s.mbox x := rfl
@[simp] theorem State.updChan_pipe_reads (s : State) (p : Petal) (n : Nat) (f : Chan → Chan) (x : CoreId) : (s.updChan p n f).pipe x = s.pipe x := rfl

/-! ### State.updDram changes `drams` -/

@[simp] theorem State.updDram_time (s : State) (g : Nat) (f : DramGroup → DramGroup) : (s.updDram g f).time = s.time := rfl
@[simp] theorem State.updDram_pending (s : State) (g : Nat) (f : DramGroup → DramGroup) : (s.updDram g f).pending = s.pending := rfl
@[simp] theorem State.updDram_dict (s : State) (g : Nat) (f : DramGroup → DramGroup) : (s.updDram g f).dict = s.dict := rfl
@[simp] theorem State.updDram_doms (s : State) (g : Nat) (f : DramGroup → DramGroup) : (s.updDram g f).doms = s.doms := rfl
@[simp] theorem State.updDram_mem (s : State) (g : Nat) (f : DramGroup → DramGroup) : (s.updDram g f).mem = s.mem := rfl
@[simp] theorem State.updDram_poison (s : State) (g : Nat) (f : DramGroup → DramGroup) : (s.updDram g f).poison = s.poison := rfl
@[simp] theorem State.updDram_fresh (s : State) (g : Nat) (f : DramGroup → DramGroup) : (s.updDram g f).fresh = s.fresh := rfl
@[simp] theorem State.updDram_out (s : State) (g : Nat) (f : DramGroup → DramGroup) : (s.updDram g f).out = s.out := rfl
@[simp] theorem State.updDram_win (s : State) (g : Nat) (f : DramGroup → DramGroup) : (s.updDram g f).win = s.win := rfl
@[simp] theorem State.updDram_threads (s : State) (g : Nat) (f : DramGroup → DramGroup) : (s.updDram g f).threads = s.threads := rfl
@[simp] theorem State.updDram_cores (s : State) (g : Nat) (f : DramGroup → DramGroup) : (s.updDram g f).cores = s.cores := rfl
@[simp] theorem State.updDram_clusters (s : State) (g : Nat) (f : DramGroup → DramGroup) : (s.updDram g f).clusters = s.clusters := rfl
@[simp] theorem State.updDram_chans (s : State) (g : Nat) (f : DramGroup → DramGroup) : (s.updDram g f).chans = s.chans := rfl
@[simp] theorem State.updDram_census (s : State) (g : Nat) (f : DramGroup → DramGroup) : (s.updDram g f).census = s.census := rfl
@[simp] theorem State.updDram_colls (s : State) (g : Nat) (f : DramGroup → DramGroup) : (s.updDram g f).colls = s.colls := rfl
@[simp] theorem State.updDram_trans (s : State) (g : Nat) (f : DramGroup → DramGroup) : (s.updDram g f).trans = s.trans := rfl
@[simp] theorem State.updDram_staged (s : State) (g : Nat) (f : DramGroup → DramGroup) : (s.updDram g f).staged = s.staged := rfl
@[simp] theorem State.updDram_snaps (s : State) (g : Nat) (f : DramGroup → DramGroup) : (s.updDram g f).snaps = s.snaps := rfl
@[simp] theorem State.updDram_halts (s : State) (g : Nat) (f : DramGroup → DramGroup) : (s.updDram g f).halts = s.halts := rfl
@[simp] theorem State.updDram_haltDue (s : State) (g : Nat) (f : DramGroup → DramGroup) : (s.updDram g f).haltDue = s.haltDue := rfl
@[simp] theorem State.updDram_msixOpen (s : State) (g : Nat) (f : DramGroup → DramGroup) : (s.updDram g f).msixOpen = s.msixOpen := rfl
@[simp] theorem State.updDram_msixPend (s : State) (g : Nat) (f : DramGroup → DramGroup) : (s.updDram g f).msixPend = s.msixPend := rfl
@[simp] theorem State.updDram_busMaster (s : State) (g : Nat) (f : DramGroup → DramGroup) : (s.updDram g f).busMaster = s.busMaster := rfl
@[simp] theorem State.updDram_holders (s : State) (g : Nat) (f : DramGroup → DramGroup) : (s.updDram g f).holders = s.holders := rfl
@[simp] theorem State.updDram_waiters (s : State) (g : Nat) (f : DramGroup → DramGroup) : (s.updDram g f).waiters = s.waiters := rfl
@[simp] theorem State.updDram_sessions (s : State) (g : Nat) (f : DramGroup → DramGroup) : (s.updDram g f).sessions = s.sessions := rfl
@[simp] theorem State.updDram_perst (s : State) (g : Nat) (f : DramGroup → DramGroup) : (s.updDram g f).perst = s.perst := rfl
@[simp] theorem State.updDram_petals (s : State) (g : Nat) (f : DramGroup → DramGroup) : (s.updDram g f).petals = s.petals := rfl
@[simp] theorem State.updDram_slots (s : State) (g : Nat) (f : DramGroup → DramGroup) : (s.updDram g f).slots = s.slots := rfl
@[simp] theorem State.updDram_tables (s : State) (g : Nat) (f : DramGroup → DramGroup) : (s.updDram g f).tables = s.tables := rfl
@[simp] theorem State.updDram_cow (s : State) (g : Nat) (f : DramGroup → DramGroup) : (s.updDram g f).cow = s.cow := rfl
@[simp] theorem State.updDram_rxPause (s : State) (g : Nat) (f : DramGroup → DramGroup) : (s.updDram g f).rxPause = s.rxPause := rfl
@[simp] theorem State.updDram_stalled (s : State) (g : Nat) (f : DramGroup → DramGroup) : (s.updDram g f).stalled = s.stalled := rfl
@[simp] theorem State.updDram_modes (s : State) (g : Nat) (f : DramGroup → DramGroup) : (s.updDram g f).modes = s.modes := rfl
@[simp] theorem State.updDram_mism (s : State) (g : Nat) (f : DramGroup → DramGroup) : (s.updDram g f).mism = s.mism := rfl
@[simp] theorem State.updDram_sorrel (s : State) (g : Nat) (f : DramGroup → DramGroup) : (s.updDram g f).sorrel = s.sorrel := rfl
@[simp] theorem State.updDram_swaps (s : State) (g : Nat) (f : DramGroup → DramGroup) : (s.updDram g f).swaps = s.swaps := rfl
@[simp] theorem State.updDram_mboxes (s : State) (g : Nat) (f : DramGroup → DramGroup) : (s.updDram g f).mboxes = s.mboxes := rfl
@[simp] theorem State.updDram_requeue (s : State) (g : Nat) (f : DramGroup → DramGroup) : (s.updDram g f).requeue = s.requeue := rfl
@[simp] theorem State.updDram_repairs (s : State) (g : Nat) (f : DramGroup → DramGroup) : (s.updDram g f).repairs = s.repairs := rfl
@[simp] theorem State.updDram_ceTimes (s : State) (g : Nat) (f : DramGroup → DramGroup) : (s.updDram g f).ceTimes = s.ceTimes := rfl
@[simp] theorem State.updDram_ueTimes (s : State) (g : Nat) (f : DramGroup → DramGroup) : (s.updDram g f).ueTimes = s.ueTimes := rfl
@[simp] theorem State.updDram_wearWarned (s : State) (g : Nat) (f : DramGroup → DramGroup) : (s.updDram g f).wearWarned = s.wearWarned := rfl
@[simp] theorem State.updDram_swapLogged (s : State) (g : Nat) (f : DramGroup → DramGroup) : (s.updDram g f).swapLogged = s.swapLogged := rfl
@[simp] theorem State.updDram_cntBase (s : State) (g : Nat) (f : DramGroup → DramGroup) : (s.updDram g f).cntBase = s.cntBase := rfl
@[simp] theorem State.updDram_journal (s : State) (g : Nat) (f : DramGroup → DramGroup) : (s.updDram g f).journal = s.journal := rfl
@[simp] theorem State.updDram_lastHash (s : State) (g : Nat) (f : DramGroup → DramGroup) : (s.updDram g f).lastHash = s.lastHash := rfl
@[simp] theorem State.updDram_heldSeqs (s : State) (g : Nat) (f : DramGroup → DramGroup) : (s.updDram g f).heldSeqs = s.heldSeqs := rfl
@[simp] theorem State.updDram_golneB (s : State) (g : Nat) (f : DramGroup → DramGroup) : (s.updDram g f).golneB = s.golneB := rfl
@[simp] theorem State.updDram_golneDown (s : State) (g : Nat) (f : DramGroup → DramGroup) : (s.updDram g f).golneDown = s.golneDown := rfl
@[simp] theorem State.updDram_act (s : State) (g : Nat) (f : DramGroup → DramGroup) : (s.updDram g f).act = s.act := rfl
@[simp] theorem State.updDram_minStart (s : State) (g : Nat) (f : DramGroup → DramGroup) : (s.updDram g f).minStart = s.minStart := rfl
@[simp] theorem State.updDram_noDram (s : State) (g : Nat) (f : DramGroup → DramGroup) : (s.updDram g f).noDram = s.noDram := rfl
@[simp] theorem State.updDram_nextRaise (s : State) (g : Nat) (f : DramGroup → DramGroup) : (s.updDram g f).nextRaise = s.nextRaise := rfl
@[simp] theorem State.updDram_pseq (s : State) (g : Nat) (f : DramGroup → DramGroup) : (s.updDram g f).pseq = s.pseq := rfl
@[simp] theorem State.updDram_unlockMeas (s : State) (g : Nat) (f : DramGroup → DramGroup) : (s.updDram g f).unlockMeas = s.unlockMeas := rfl
@[simp] theorem State.updDram_unlockEnd (s : State) (g : Nat) (f : DramGroup → DramGroup) : (s.updDram g f).unlockEnd = s.unlockEnd := rfl
@[simp] theorem State.updDram_unlockPetals (s : State) (g : Nat) (f : DramGroup → DramGroup) : (s.updDram g f).unlockPetals = s.unlockPetals := rfl
@[simp] theorem State.updDram_romStuck (s : State) (g : Nat) (f : DramGroup → DramGroup) : (s.updDram g f).romStuck = s.romStuck := rfl
@[simp] theorem State.updDram_minRetry (s : State) (g : Nat) (f : DramGroup → DramGroup) : (s.updDram g f).minRetry = s.minRetry := rfl
@[simp] theorem State.updDram_power (s : State) (g : Nat) (f : DramGroup → DramGroup) : (s.updDram g f).power = s.power := rfl
@[simp] theorem State.updDram_dumps (s : State) (g : Nat) (f : DramGroup → DramGroup) : (s.updDram g f).dumps = s.dumps := rfl
@[simp] theorem State.updDram_rootSyn (s : State) (g : Nat) (f : DramGroup → DramGroup) : (s.updDram g f).rootSyn = s.rootSyn := rfl
@[simp] theorem State.updDram_isoPorts (s : State) (g : Nat) (f : DramGroup → DramGroup) : (s.updDram g f).isoPorts = s.isoPorts := rfl
@[simp] theorem State.updDram_haltTimes (s : State) (g : Nat) (f : DramGroup → DramGroup) : (s.updDram g f).haltTimes = s.haltTimes := rfl
@[simp] theorem State.updDram_restartAsked (s : State) (g : Nat) (f : DramGroup → DramGroup) : (s.updDram g f).restartAsked = s.restartAsked := rfl
@[simp] theorem State.updDram_frozen (s : State) (g : Nat) (f : DramGroup → DramGroup) : (s.updDram g f).frozen = s.frozen := rfl
@[simp] theorem State.updDram_canErr (s : State) (g : Nat) (f : DramGroup → DramGroup) : (s.updDram g f).canErr = s.canErr := rfl
@[simp] theorem State.updDram_capLimit (s : State) (g : Nat) (f : DramGroup → DramGroup) : (s.updDram g f).capLimit = s.capLimit := rfl
@[simp] theorem State.updDram_capParked (s : State) (g : Nat) (f : DramGroup → DramGroup) : (s.updDram g f).capParked = s.capParked := rfl
@[simp] theorem State.updDram_heatLimit (s : State) (g : Nat) (f : DramGroup → DramGroup) : (s.updDram g f).heatLimit = s.heatLimit := rfl
@[simp] theorem State.updDram_railLock (s : State) (g : Nat) (f : DramGroup → DramGroup) : (s.updDram g f).railLock = s.railLock := rfl
@[simp] theorem State.updDram_paceLow (s : State) (g : Nat) (f : DramGroup → DramGroup) : (s.updDram g f).paceLow = s.paceLow := rfl
@[simp] theorem State.updDram_boost (s : State) (g : Nat) (f : DramGroup → DramGroup) : (s.updDram g f).boost = s.boost := rfl
@[simp] theorem State.updDram_bulk (s : State) (g : Nat) (f : DramGroup → DramGroup) : (s.updDram g f).bulk = s.bulk := rfl
@[simp] theorem State.updDram_sdo (s : State) (g : Nat) (f : DramGroup → DramGroup) : (s.updDram g f).sdo = s.sdo := rfl
@[simp] theorem State.updDram_accums (s : State) (g : Nat) (f : DramGroup → DramGroup) : (s.updDram g f).accums = s.accums := rfl
@[simp] theorem State.updDram_eids (s : State) (g : Nat) (f : DramGroup → DramGroup) : (s.updDram g f).eids = s.eids := rfl
@[simp] theorem State.updDram_dbgEnHigh (s : State) (g : Nat) (f : DramGroup → DramGroup) : (s.updDram g f).dbgEnHigh = s.dbgEnHigh := rfl
@[simp] theorem State.updDram_tapIr (s : State) (g : Nat) (f : DramGroup → DramGroup) : (s.updDram g f).tapIr = s.tapIr := rfl
@[simp] theorem State.updDram_tapPins (s : State) (g : Nat) (f : DramGroup → DramGroup) : (s.updDram g f).tapPins = s.tapPins := rfl
@[simp] theorem State.updDram_tapDrive (s : State) (g : Nat) (f : DramGroup → DramGroup) : (s.updDram g f).tapDrive = s.tapDrive := rfl
@[simp] theorem State.updDram_tapDict (s : State) (g : Nat) (f : DramGroup → DramGroup) : (s.updDram g f).tapDict = s.tapDict := rfl
@[simp] theorem State.updDram_tapMem (s : State) (g : Nat) (f : DramGroup → DramGroup) : (s.updDram g f).tapMem = s.tapMem := rfl
@[simp] theorem State.updDram_stem (s : State) (g : Nat) (f : DramGroup → DramGroup) : (s.updDram g f).stem = s.stem := rfl
@[simp] theorem State.updDram_stemRr (s : State) (g : Nat) (f : DramGroup → DramGroup) : (s.updDram g f).stemRr = s.stemRr := rfl
@[simp] theorem State.updDram_cross (s : State) (g : Nat) (f : DramGroup → DramGroup) : (s.updDram g f).cross = s.cross := rfl
@[simp] theorem State.updDram_msixTab (s : State) (g : Nat) (f : DramGroup → DramGroup) : (s.updDram g f).msixTab = s.msixTab := rfl
@[simp] theorem State.updDram_paceSet (s : State) (g : Nat) (f : DramGroup → DramGroup) : (s.updDram g f).paceSet = s.paceSet := rfl
@[simp] theorem State.updDram_pipes (s : State) (g : Nat) (f : DramGroup → DramGroup) : (s.updDram g f).pipes = s.pipes := rfl
@[simp] theorem State.updDram_scratchBad (s : State) (g : Nat) (f : DramGroup → DramGroup) : (s.updDram g f).scratchBad = s.scratchBad := rfl
@[simp] theorem State.updDram_histOn (s : State) (g : Nat) (f : DramGroup → DramGroup) : (s.updDram g f).histOn = s.histOn := rfl
@[simp] theorem State.updDram_haltWords (s : State) (g : Nat) (f : DramGroup → DramGroup) : (s.updDram g f).haltWords = s.haltWords := rfl
@[simp] theorem State.updDram_dget_reads (s : State) (g : Nat) (f : DramGroup → DramGroup) (x y : Nat) : (s.updDram g f).dget x y = s.dget x y := rfl
@[simp] theorem State.updDram_domByte_reads (s : State) (g : Nat) (f : DramGroup → DramGroup) (x y z : Nat) : (s.updDram g f).domByte x y z = s.domByte x y z := rfl
@[simp] theorem State.updDram_memByte_reads (s : State) (g : Nat) (f : DramGroup → DramGroup) (x : Nat) : (s.updDram g f).memByte x = s.memByte x := rfl
@[simp] theorem State.updDram_winGet_reads (s : State) (g : Nat) (f : DramGroup → DramGroup) (x : Nat) : (s.updDram g f).winGet x = s.winGet x := rfl
@[simp] theorem State.updDram_thr_reads (s : State) (g : Nat) (f : DramGroup → DramGroup) (x : Hart) : (s.updDram g f).thr x = s.thr x := rfl
@[simp] theorem State.updDram_dreg_reads (s : State) (g : Nat) (f : DramGroup → DramGroup) (x : Hart) (y : Reg) : (s.updDram g f).dreg x y = s.dreg x y := rfl
@[simp] theorem State.updDram_areg_reads (s : State) (g : Nat) (f : DramGroup → DramGroup) (x : Hart) (y : Reg) : (s.updDram g f).areg x y = s.areg x y := rfl
@[simp] theorem State.updDram_acc_reads (s : State) (g : Nat) (f : DramGroup → DramGroup) (x : Hart) (y : Fin 4) : (s.updDram g f).acc x y = s.acc x y := rfl
@[simp] theorem State.updDram_creg_reads (s : State) (g : Nat) (f : DramGroup → DramGroup) (x : Hart) (y : CReg) : (s.updDram g f).creg x y = s.creg x y := rfl
@[simp] theorem State.updDram_core_reads (s : State) (g : Nat) (f : DramGroup → DramGroup) (x : CoreId) : (s.updDram g f).core x = s.core x := rfl
@[simp] theorem State.updDram_clus_reads (s : State) (g : Nat) (f : DramGroup → DramGroup) (x : Petal) (y : Cluster) : (s.updDram g f).clus x y = s.clus x y := rfl
@[simp] theorem State.updDram_chan_reads (s : State) (g : Nat) (f : DramGroup → DramGroup) (x : Petal) (y : Nat) : (s.updDram g f).chan x y = s.chan x y := rfl
@[simp] theorem State.updDram_pet_reads (s : State) (g : Nat) (f : DramGroup → DramGroup) (x : Petal) : (s.updDram g f).pet x = s.pet x := rfl
@[simp] theorem State.updDram_q_reads (s : State) (g : Nat) (f : DramGroup → DramGroup) (x : Nat) : (s.updDram g f).q x = s.q x := rfl
@[simp] theorem State.updDram_slot_reads (s : State) (g : Nat) (f : DramGroup → DramGroup) (x : ThreadId) : (s.updDram g f).slot x = s.slot x := rfl
@[simp] theorem State.updDram_coll_reads (s : State) (g : Nat) (f : DramGroup → DramGroup) (x : Collector) : (s.updDram g f).coll x = s.coll x := rfl
@[simp] theorem State.updDram_mbox_reads (s : State) (g : Nat) (f : DramGroup → DramGroup) (x : Nat) : (s.updDram g f).mbox x = s.mbox x := rfl
@[simp] theorem State.updDram_pipe_reads (s : State) (g : Nat) (f : DramGroup → DramGroup) (x : CoreId) : (s.updDram g f).pipe x = s.pipe x := rfl

/-! ### State.updQ changes `petals` -/

@[simp] theorem State.updQ_time (s : State) (g : Nat) (f : QueueSt → QueueSt) : (s.updQ g f).time = s.time := rfl
@[simp] theorem State.updQ_pending (s : State) (g : Nat) (f : QueueSt → QueueSt) : (s.updQ g f).pending = s.pending := rfl
@[simp] theorem State.updQ_dict (s : State) (g : Nat) (f : QueueSt → QueueSt) : (s.updQ g f).dict = s.dict := rfl
@[simp] theorem State.updQ_doms (s : State) (g : Nat) (f : QueueSt → QueueSt) : (s.updQ g f).doms = s.doms := rfl
@[simp] theorem State.updQ_mem (s : State) (g : Nat) (f : QueueSt → QueueSt) : (s.updQ g f).mem = s.mem := rfl
@[simp] theorem State.updQ_poison (s : State) (g : Nat) (f : QueueSt → QueueSt) : (s.updQ g f).poison = s.poison := rfl
@[simp] theorem State.updQ_fresh (s : State) (g : Nat) (f : QueueSt → QueueSt) : (s.updQ g f).fresh = s.fresh := rfl
@[simp] theorem State.updQ_out (s : State) (g : Nat) (f : QueueSt → QueueSt) : (s.updQ g f).out = s.out := rfl
@[simp] theorem State.updQ_win (s : State) (g : Nat) (f : QueueSt → QueueSt) : (s.updQ g f).win = s.win := rfl
@[simp] theorem State.updQ_threads (s : State) (g : Nat) (f : QueueSt → QueueSt) : (s.updQ g f).threads = s.threads := rfl
@[simp] theorem State.updQ_cores (s : State) (g : Nat) (f : QueueSt → QueueSt) : (s.updQ g f).cores = s.cores := rfl
@[simp] theorem State.updQ_clusters (s : State) (g : Nat) (f : QueueSt → QueueSt) : (s.updQ g f).clusters = s.clusters := rfl
@[simp] theorem State.updQ_chans (s : State) (g : Nat) (f : QueueSt → QueueSt) : (s.updQ g f).chans = s.chans := rfl
@[simp] theorem State.updQ_census (s : State) (g : Nat) (f : QueueSt → QueueSt) : (s.updQ g f).census = s.census := rfl
@[simp] theorem State.updQ_colls (s : State) (g : Nat) (f : QueueSt → QueueSt) : (s.updQ g f).colls = s.colls := rfl
@[simp] theorem State.updQ_trans (s : State) (g : Nat) (f : QueueSt → QueueSt) : (s.updQ g f).trans = s.trans := rfl
@[simp] theorem State.updQ_staged (s : State) (g : Nat) (f : QueueSt → QueueSt) : (s.updQ g f).staged = s.staged := rfl
@[simp] theorem State.updQ_snaps (s : State) (g : Nat) (f : QueueSt → QueueSt) : (s.updQ g f).snaps = s.snaps := rfl
@[simp] theorem State.updQ_halts (s : State) (g : Nat) (f : QueueSt → QueueSt) : (s.updQ g f).halts = s.halts := rfl
@[simp] theorem State.updQ_haltDue (s : State) (g : Nat) (f : QueueSt → QueueSt) : (s.updQ g f).haltDue = s.haltDue := rfl
@[simp] theorem State.updQ_msixOpen (s : State) (g : Nat) (f : QueueSt → QueueSt) : (s.updQ g f).msixOpen = s.msixOpen := rfl
@[simp] theorem State.updQ_msixPend (s : State) (g : Nat) (f : QueueSt → QueueSt) : (s.updQ g f).msixPend = s.msixPend := rfl
@[simp] theorem State.updQ_busMaster (s : State) (g : Nat) (f : QueueSt → QueueSt) : (s.updQ g f).busMaster = s.busMaster := rfl
@[simp] theorem State.updQ_holders (s : State) (g : Nat) (f : QueueSt → QueueSt) : (s.updQ g f).holders = s.holders := rfl
@[simp] theorem State.updQ_waiters (s : State) (g : Nat) (f : QueueSt → QueueSt) : (s.updQ g f).waiters = s.waiters := rfl
@[simp] theorem State.updQ_drams (s : State) (g : Nat) (f : QueueSt → QueueSt) : (s.updQ g f).drams = s.drams := rfl
@[simp] theorem State.updQ_sessions (s : State) (g : Nat) (f : QueueSt → QueueSt) : (s.updQ g f).sessions = s.sessions := rfl
@[simp] theorem State.updQ_perst (s : State) (g : Nat) (f : QueueSt → QueueSt) : (s.updQ g f).perst = s.perst := rfl
@[simp] theorem State.updQ_slots (s : State) (g : Nat) (f : QueueSt → QueueSt) : (s.updQ g f).slots = s.slots := rfl
@[simp] theorem State.updQ_tables (s : State) (g : Nat) (f : QueueSt → QueueSt) : (s.updQ g f).tables = s.tables := rfl
@[simp] theorem State.updQ_cow (s : State) (g : Nat) (f : QueueSt → QueueSt) : (s.updQ g f).cow = s.cow := rfl
@[simp] theorem State.updQ_rxPause (s : State) (g : Nat) (f : QueueSt → QueueSt) : (s.updQ g f).rxPause = s.rxPause := rfl
@[simp] theorem State.updQ_stalled (s : State) (g : Nat) (f : QueueSt → QueueSt) : (s.updQ g f).stalled = s.stalled := rfl
@[simp] theorem State.updQ_modes (s : State) (g : Nat) (f : QueueSt → QueueSt) : (s.updQ g f).modes = s.modes := rfl
@[simp] theorem State.updQ_mism (s : State) (g : Nat) (f : QueueSt → QueueSt) : (s.updQ g f).mism = s.mism := rfl
@[simp] theorem State.updQ_sorrel (s : State) (g : Nat) (f : QueueSt → QueueSt) : (s.updQ g f).sorrel = s.sorrel := rfl
@[simp] theorem State.updQ_swaps (s : State) (g : Nat) (f : QueueSt → QueueSt) : (s.updQ g f).swaps = s.swaps := rfl
@[simp] theorem State.updQ_mboxes (s : State) (g : Nat) (f : QueueSt → QueueSt) : (s.updQ g f).mboxes = s.mboxes := rfl
@[simp] theorem State.updQ_requeue (s : State) (g : Nat) (f : QueueSt → QueueSt) : (s.updQ g f).requeue = s.requeue := rfl
@[simp] theorem State.updQ_repairs (s : State) (g : Nat) (f : QueueSt → QueueSt) : (s.updQ g f).repairs = s.repairs := rfl
@[simp] theorem State.updQ_ceTimes (s : State) (g : Nat) (f : QueueSt → QueueSt) : (s.updQ g f).ceTimes = s.ceTimes := rfl
@[simp] theorem State.updQ_ueTimes (s : State) (g : Nat) (f : QueueSt → QueueSt) : (s.updQ g f).ueTimes = s.ueTimes := rfl
@[simp] theorem State.updQ_wearWarned (s : State) (g : Nat) (f : QueueSt → QueueSt) : (s.updQ g f).wearWarned = s.wearWarned := rfl
@[simp] theorem State.updQ_swapLogged (s : State) (g : Nat) (f : QueueSt → QueueSt) : (s.updQ g f).swapLogged = s.swapLogged := rfl
@[simp] theorem State.updQ_cntBase (s : State) (g : Nat) (f : QueueSt → QueueSt) : (s.updQ g f).cntBase = s.cntBase := rfl
@[simp] theorem State.updQ_journal (s : State) (g : Nat) (f : QueueSt → QueueSt) : (s.updQ g f).journal = s.journal := rfl
@[simp] theorem State.updQ_lastHash (s : State) (g : Nat) (f : QueueSt → QueueSt) : (s.updQ g f).lastHash = s.lastHash := rfl
@[simp] theorem State.updQ_heldSeqs (s : State) (g : Nat) (f : QueueSt → QueueSt) : (s.updQ g f).heldSeqs = s.heldSeqs := rfl
@[simp] theorem State.updQ_golneB (s : State) (g : Nat) (f : QueueSt → QueueSt) : (s.updQ g f).golneB = s.golneB := rfl
@[simp] theorem State.updQ_golneDown (s : State) (g : Nat) (f : QueueSt → QueueSt) : (s.updQ g f).golneDown = s.golneDown := rfl
@[simp] theorem State.updQ_act (s : State) (g : Nat) (f : QueueSt → QueueSt) : (s.updQ g f).act = s.act := rfl
@[simp] theorem State.updQ_minStart (s : State) (g : Nat) (f : QueueSt → QueueSt) : (s.updQ g f).minStart = s.minStart := rfl
@[simp] theorem State.updQ_noDram (s : State) (g : Nat) (f : QueueSt → QueueSt) : (s.updQ g f).noDram = s.noDram := rfl
@[simp] theorem State.updQ_nextRaise (s : State) (g : Nat) (f : QueueSt → QueueSt) : (s.updQ g f).nextRaise = s.nextRaise := rfl
@[simp] theorem State.updQ_pseq (s : State) (g : Nat) (f : QueueSt → QueueSt) : (s.updQ g f).pseq = s.pseq := rfl
@[simp] theorem State.updQ_unlockMeas (s : State) (g : Nat) (f : QueueSt → QueueSt) : (s.updQ g f).unlockMeas = s.unlockMeas := rfl
@[simp] theorem State.updQ_unlockEnd (s : State) (g : Nat) (f : QueueSt → QueueSt) : (s.updQ g f).unlockEnd = s.unlockEnd := rfl
@[simp] theorem State.updQ_unlockPetals (s : State) (g : Nat) (f : QueueSt → QueueSt) : (s.updQ g f).unlockPetals = s.unlockPetals := rfl
@[simp] theorem State.updQ_romStuck (s : State) (g : Nat) (f : QueueSt → QueueSt) : (s.updQ g f).romStuck = s.romStuck := rfl
@[simp] theorem State.updQ_minRetry (s : State) (g : Nat) (f : QueueSt → QueueSt) : (s.updQ g f).minRetry = s.minRetry := rfl
@[simp] theorem State.updQ_power (s : State) (g : Nat) (f : QueueSt → QueueSt) : (s.updQ g f).power = s.power := rfl
@[simp] theorem State.updQ_dumps (s : State) (g : Nat) (f : QueueSt → QueueSt) : (s.updQ g f).dumps = s.dumps := rfl
@[simp] theorem State.updQ_rootSyn (s : State) (g : Nat) (f : QueueSt → QueueSt) : (s.updQ g f).rootSyn = s.rootSyn := rfl
@[simp] theorem State.updQ_isoPorts (s : State) (g : Nat) (f : QueueSt → QueueSt) : (s.updQ g f).isoPorts = s.isoPorts := rfl
@[simp] theorem State.updQ_haltTimes (s : State) (g : Nat) (f : QueueSt → QueueSt) : (s.updQ g f).haltTimes = s.haltTimes := rfl
@[simp] theorem State.updQ_restartAsked (s : State) (g : Nat) (f : QueueSt → QueueSt) : (s.updQ g f).restartAsked = s.restartAsked := rfl
@[simp] theorem State.updQ_frozen (s : State) (g : Nat) (f : QueueSt → QueueSt) : (s.updQ g f).frozen = s.frozen := rfl
@[simp] theorem State.updQ_canErr (s : State) (g : Nat) (f : QueueSt → QueueSt) : (s.updQ g f).canErr = s.canErr := rfl
@[simp] theorem State.updQ_capLimit (s : State) (g : Nat) (f : QueueSt → QueueSt) : (s.updQ g f).capLimit = s.capLimit := rfl
@[simp] theorem State.updQ_capParked (s : State) (g : Nat) (f : QueueSt → QueueSt) : (s.updQ g f).capParked = s.capParked := rfl
@[simp] theorem State.updQ_heatLimit (s : State) (g : Nat) (f : QueueSt → QueueSt) : (s.updQ g f).heatLimit = s.heatLimit := rfl
@[simp] theorem State.updQ_railLock (s : State) (g : Nat) (f : QueueSt → QueueSt) : (s.updQ g f).railLock = s.railLock := rfl
@[simp] theorem State.updQ_paceLow (s : State) (g : Nat) (f : QueueSt → QueueSt) : (s.updQ g f).paceLow = s.paceLow := rfl
@[simp] theorem State.updQ_boost (s : State) (g : Nat) (f : QueueSt → QueueSt) : (s.updQ g f).boost = s.boost := rfl
@[simp] theorem State.updQ_bulk (s : State) (g : Nat) (f : QueueSt → QueueSt) : (s.updQ g f).bulk = s.bulk := rfl
@[simp] theorem State.updQ_sdo (s : State) (g : Nat) (f : QueueSt → QueueSt) : (s.updQ g f).sdo = s.sdo := rfl
@[simp] theorem State.updQ_accums (s : State) (g : Nat) (f : QueueSt → QueueSt) : (s.updQ g f).accums = s.accums := rfl
@[simp] theorem State.updQ_eids (s : State) (g : Nat) (f : QueueSt → QueueSt) : (s.updQ g f).eids = s.eids := rfl
@[simp] theorem State.updQ_dbgEnHigh (s : State) (g : Nat) (f : QueueSt → QueueSt) : (s.updQ g f).dbgEnHigh = s.dbgEnHigh := rfl
@[simp] theorem State.updQ_tapIr (s : State) (g : Nat) (f : QueueSt → QueueSt) : (s.updQ g f).tapIr = s.tapIr := rfl
@[simp] theorem State.updQ_tapPins (s : State) (g : Nat) (f : QueueSt → QueueSt) : (s.updQ g f).tapPins = s.tapPins := rfl
@[simp] theorem State.updQ_tapDrive (s : State) (g : Nat) (f : QueueSt → QueueSt) : (s.updQ g f).tapDrive = s.tapDrive := rfl
@[simp] theorem State.updQ_tapDict (s : State) (g : Nat) (f : QueueSt → QueueSt) : (s.updQ g f).tapDict = s.tapDict := rfl
@[simp] theorem State.updQ_tapMem (s : State) (g : Nat) (f : QueueSt → QueueSt) : (s.updQ g f).tapMem = s.tapMem := rfl
@[simp] theorem State.updQ_stem (s : State) (g : Nat) (f : QueueSt → QueueSt) : (s.updQ g f).stem = s.stem := rfl
@[simp] theorem State.updQ_stemRr (s : State) (g : Nat) (f : QueueSt → QueueSt) : (s.updQ g f).stemRr = s.stemRr := rfl
@[simp] theorem State.updQ_cross (s : State) (g : Nat) (f : QueueSt → QueueSt) : (s.updQ g f).cross = s.cross := rfl
@[simp] theorem State.updQ_msixTab (s : State) (g : Nat) (f : QueueSt → QueueSt) : (s.updQ g f).msixTab = s.msixTab := rfl
@[simp] theorem State.updQ_paceSet (s : State) (g : Nat) (f : QueueSt → QueueSt) : (s.updQ g f).paceSet = s.paceSet := rfl
@[simp] theorem State.updQ_pipes (s : State) (g : Nat) (f : QueueSt → QueueSt) : (s.updQ g f).pipes = s.pipes := rfl
@[simp] theorem State.updQ_scratchBad (s : State) (g : Nat) (f : QueueSt → QueueSt) : (s.updQ g f).scratchBad = s.scratchBad := rfl
@[simp] theorem State.updQ_histOn (s : State) (g : Nat) (f : QueueSt → QueueSt) : (s.updQ g f).histOn = s.histOn := rfl
@[simp] theorem State.updQ_haltWords (s : State) (g : Nat) (f : QueueSt → QueueSt) : (s.updQ g f).haltWords = s.haltWords := rfl
@[simp] theorem State.updQ_dget_reads (s : State) (g : Nat) (f : QueueSt → QueueSt) (x y : Nat) : (s.updQ g f).dget x y = s.dget x y := rfl
@[simp] theorem State.updQ_domByte_reads (s : State) (g : Nat) (f : QueueSt → QueueSt) (x y z : Nat) : (s.updQ g f).domByte x y z = s.domByte x y z := rfl
@[simp] theorem State.updQ_memByte_reads (s : State) (g : Nat) (f : QueueSt → QueueSt) (x : Nat) : (s.updQ g f).memByte x = s.memByte x := rfl
@[simp] theorem State.updQ_winGet_reads (s : State) (g : Nat) (f : QueueSt → QueueSt) (x : Nat) : (s.updQ g f).winGet x = s.winGet x := rfl
@[simp] theorem State.updQ_thr_reads (s : State) (g : Nat) (f : QueueSt → QueueSt) (x : Hart) : (s.updQ g f).thr x = s.thr x := rfl
@[simp] theorem State.updQ_dreg_reads (s : State) (g : Nat) (f : QueueSt → QueueSt) (x : Hart) (y : Reg) : (s.updQ g f).dreg x y = s.dreg x y := rfl
@[simp] theorem State.updQ_areg_reads (s : State) (g : Nat) (f : QueueSt → QueueSt) (x : Hart) (y : Reg) : (s.updQ g f).areg x y = s.areg x y := rfl
@[simp] theorem State.updQ_acc_reads (s : State) (g : Nat) (f : QueueSt → QueueSt) (x : Hart) (y : Fin 4) : (s.updQ g f).acc x y = s.acc x y := rfl
@[simp] theorem State.updQ_creg_reads (s : State) (g : Nat) (f : QueueSt → QueueSt) (x : Hart) (y : CReg) : (s.updQ g f).creg x y = s.creg x y := rfl
@[simp] theorem State.updQ_core_reads (s : State) (g : Nat) (f : QueueSt → QueueSt) (x : CoreId) : (s.updQ g f).core x = s.core x := rfl
@[simp] theorem State.updQ_clus_reads (s : State) (g : Nat) (f : QueueSt → QueueSt) (x : Petal) (y : Cluster) : (s.updQ g f).clus x y = s.clus x y := rfl
@[simp] theorem State.updQ_chan_reads (s : State) (g : Nat) (f : QueueSt → QueueSt) (x : Petal) (y : Nat) : (s.updQ g f).chan x y = s.chan x y := rfl
@[simp] theorem State.updQ_slot_reads (s : State) (g : Nat) (f : QueueSt → QueueSt) (x : ThreadId) : (s.updQ g f).slot x = s.slot x := rfl
@[simp] theorem State.updQ_coll_reads (s : State) (g : Nat) (f : QueueSt → QueueSt) (x : Collector) : (s.updQ g f).coll x = s.coll x := rfl
@[simp] theorem State.updQ_dram_reads (s : State) (g : Nat) (f : QueueSt → QueueSt) (x : Nat) : (s.updQ g f).dram x = s.dram x := rfl
@[simp] theorem State.updQ_mbox_reads (s : State) (g : Nat) (f : QueueSt → QueueSt) (x : Nat) : (s.updQ g f).mbox x = s.mbox x := rfl
@[simp] theorem State.updQ_pipe_reads (s : State) (g : Nat) (f : QueueSt → QueueSt) (x : CoreId) : (s.updQ g f).pipe x = s.pipe x := rfl

/-! ### State.updColl changes `colls` -/

@[simp] theorem State.updColl_time (s : State) (c : Collector) (f : Coll → Coll) : (s.updColl c f).time = s.time := rfl
@[simp] theorem State.updColl_pending (s : State) (c : Collector) (f : Coll → Coll) : (s.updColl c f).pending = s.pending := rfl
@[simp] theorem State.updColl_dict (s : State) (c : Collector) (f : Coll → Coll) : (s.updColl c f).dict = s.dict := rfl
@[simp] theorem State.updColl_doms (s : State) (c : Collector) (f : Coll → Coll) : (s.updColl c f).doms = s.doms := rfl
@[simp] theorem State.updColl_mem (s : State) (c : Collector) (f : Coll → Coll) : (s.updColl c f).mem = s.mem := rfl
@[simp] theorem State.updColl_poison (s : State) (c : Collector) (f : Coll → Coll) : (s.updColl c f).poison = s.poison := rfl
@[simp] theorem State.updColl_fresh (s : State) (c : Collector) (f : Coll → Coll) : (s.updColl c f).fresh = s.fresh := rfl
@[simp] theorem State.updColl_out (s : State) (c : Collector) (f : Coll → Coll) : (s.updColl c f).out = s.out := rfl
@[simp] theorem State.updColl_win (s : State) (c : Collector) (f : Coll → Coll) : (s.updColl c f).win = s.win := rfl
@[simp] theorem State.updColl_threads (s : State) (c : Collector) (f : Coll → Coll) : (s.updColl c f).threads = s.threads := rfl
@[simp] theorem State.updColl_cores (s : State) (c : Collector) (f : Coll → Coll) : (s.updColl c f).cores = s.cores := rfl
@[simp] theorem State.updColl_clusters (s : State) (c : Collector) (f : Coll → Coll) : (s.updColl c f).clusters = s.clusters := rfl
@[simp] theorem State.updColl_chans (s : State) (c : Collector) (f : Coll → Coll) : (s.updColl c f).chans = s.chans := rfl
@[simp] theorem State.updColl_census (s : State) (c : Collector) (f : Coll → Coll) : (s.updColl c f).census = s.census := rfl
@[simp] theorem State.updColl_trans (s : State) (c : Collector) (f : Coll → Coll) : (s.updColl c f).trans = s.trans := rfl
@[simp] theorem State.updColl_staged (s : State) (c : Collector) (f : Coll → Coll) : (s.updColl c f).staged = s.staged := rfl
@[simp] theorem State.updColl_snaps (s : State) (c : Collector) (f : Coll → Coll) : (s.updColl c f).snaps = s.snaps := rfl
@[simp] theorem State.updColl_halts (s : State) (c : Collector) (f : Coll → Coll) : (s.updColl c f).halts = s.halts := rfl
@[simp] theorem State.updColl_haltDue (s : State) (c : Collector) (f : Coll → Coll) : (s.updColl c f).haltDue = s.haltDue := rfl
@[simp] theorem State.updColl_msixOpen (s : State) (c : Collector) (f : Coll → Coll) : (s.updColl c f).msixOpen = s.msixOpen := rfl
@[simp] theorem State.updColl_msixPend (s : State) (c : Collector) (f : Coll → Coll) : (s.updColl c f).msixPend = s.msixPend := rfl
@[simp] theorem State.updColl_busMaster (s : State) (c : Collector) (f : Coll → Coll) : (s.updColl c f).busMaster = s.busMaster := rfl
@[simp] theorem State.updColl_holders (s : State) (c : Collector) (f : Coll → Coll) : (s.updColl c f).holders = s.holders := rfl
@[simp] theorem State.updColl_waiters (s : State) (c : Collector) (f : Coll → Coll) : (s.updColl c f).waiters = s.waiters := rfl
@[simp] theorem State.updColl_drams (s : State) (c : Collector) (f : Coll → Coll) : (s.updColl c f).drams = s.drams := rfl
@[simp] theorem State.updColl_sessions (s : State) (c : Collector) (f : Coll → Coll) : (s.updColl c f).sessions = s.sessions := rfl
@[simp] theorem State.updColl_perst (s : State) (c : Collector) (f : Coll → Coll) : (s.updColl c f).perst = s.perst := rfl
@[simp] theorem State.updColl_petals (s : State) (c : Collector) (f : Coll → Coll) : (s.updColl c f).petals = s.petals := rfl
@[simp] theorem State.updColl_slots (s : State) (c : Collector) (f : Coll → Coll) : (s.updColl c f).slots = s.slots := rfl
@[simp] theorem State.updColl_tables (s : State) (c : Collector) (f : Coll → Coll) : (s.updColl c f).tables = s.tables := rfl
@[simp] theorem State.updColl_cow (s : State) (c : Collector) (f : Coll → Coll) : (s.updColl c f).cow = s.cow := rfl
@[simp] theorem State.updColl_rxPause (s : State) (c : Collector) (f : Coll → Coll) : (s.updColl c f).rxPause = s.rxPause := rfl
@[simp] theorem State.updColl_stalled (s : State) (c : Collector) (f : Coll → Coll) : (s.updColl c f).stalled = s.stalled := rfl
@[simp] theorem State.updColl_modes (s : State) (c : Collector) (f : Coll → Coll) : (s.updColl c f).modes = s.modes := rfl
@[simp] theorem State.updColl_mism (s : State) (c : Collector) (f : Coll → Coll) : (s.updColl c f).mism = s.mism := rfl
@[simp] theorem State.updColl_sorrel (s : State) (c : Collector) (f : Coll → Coll) : (s.updColl c f).sorrel = s.sorrel := rfl
@[simp] theorem State.updColl_swaps (s : State) (c : Collector) (f : Coll → Coll) : (s.updColl c f).swaps = s.swaps := rfl
@[simp] theorem State.updColl_mboxes (s : State) (c : Collector) (f : Coll → Coll) : (s.updColl c f).mboxes = s.mboxes := rfl
@[simp] theorem State.updColl_requeue (s : State) (c : Collector) (f : Coll → Coll) : (s.updColl c f).requeue = s.requeue := rfl
@[simp] theorem State.updColl_repairs (s : State) (c : Collector) (f : Coll → Coll) : (s.updColl c f).repairs = s.repairs := rfl
@[simp] theorem State.updColl_ceTimes (s : State) (c : Collector) (f : Coll → Coll) : (s.updColl c f).ceTimes = s.ceTimes := rfl
@[simp] theorem State.updColl_ueTimes (s : State) (c : Collector) (f : Coll → Coll) : (s.updColl c f).ueTimes = s.ueTimes := rfl
@[simp] theorem State.updColl_wearWarned (s : State) (c : Collector) (f : Coll → Coll) : (s.updColl c f).wearWarned = s.wearWarned := rfl
@[simp] theorem State.updColl_swapLogged (s : State) (c : Collector) (f : Coll → Coll) : (s.updColl c f).swapLogged = s.swapLogged := rfl
@[simp] theorem State.updColl_cntBase (s : State) (c : Collector) (f : Coll → Coll) : (s.updColl c f).cntBase = s.cntBase := rfl
@[simp] theorem State.updColl_journal (s : State) (c : Collector) (f : Coll → Coll) : (s.updColl c f).journal = s.journal := rfl
@[simp] theorem State.updColl_lastHash (s : State) (c : Collector) (f : Coll → Coll) : (s.updColl c f).lastHash = s.lastHash := rfl
@[simp] theorem State.updColl_heldSeqs (s : State) (c : Collector) (f : Coll → Coll) : (s.updColl c f).heldSeqs = s.heldSeqs := rfl
@[simp] theorem State.updColl_golneB (s : State) (c : Collector) (f : Coll → Coll) : (s.updColl c f).golneB = s.golneB := rfl
@[simp] theorem State.updColl_golneDown (s : State) (c : Collector) (f : Coll → Coll) : (s.updColl c f).golneDown = s.golneDown := rfl
@[simp] theorem State.updColl_act (s : State) (c : Collector) (f : Coll → Coll) : (s.updColl c f).act = s.act := rfl
@[simp] theorem State.updColl_minStart (s : State) (c : Collector) (f : Coll → Coll) : (s.updColl c f).minStart = s.minStart := rfl
@[simp] theorem State.updColl_noDram (s : State) (c : Collector) (f : Coll → Coll) : (s.updColl c f).noDram = s.noDram := rfl
@[simp] theorem State.updColl_nextRaise (s : State) (c : Collector) (f : Coll → Coll) : (s.updColl c f).nextRaise = s.nextRaise := rfl
@[simp] theorem State.updColl_pseq (s : State) (c : Collector) (f : Coll → Coll) : (s.updColl c f).pseq = s.pseq := rfl
@[simp] theorem State.updColl_unlockMeas (s : State) (c : Collector) (f : Coll → Coll) : (s.updColl c f).unlockMeas = s.unlockMeas := rfl
@[simp] theorem State.updColl_unlockEnd (s : State) (c : Collector) (f : Coll → Coll) : (s.updColl c f).unlockEnd = s.unlockEnd := rfl
@[simp] theorem State.updColl_unlockPetals (s : State) (c : Collector) (f : Coll → Coll) : (s.updColl c f).unlockPetals = s.unlockPetals := rfl
@[simp] theorem State.updColl_romStuck (s : State) (c : Collector) (f : Coll → Coll) : (s.updColl c f).romStuck = s.romStuck := rfl
@[simp] theorem State.updColl_minRetry (s : State) (c : Collector) (f : Coll → Coll) : (s.updColl c f).minRetry = s.minRetry := rfl
@[simp] theorem State.updColl_power (s : State) (c : Collector) (f : Coll → Coll) : (s.updColl c f).power = s.power := rfl
@[simp] theorem State.updColl_dumps (s : State) (c : Collector) (f : Coll → Coll) : (s.updColl c f).dumps = s.dumps := rfl
@[simp] theorem State.updColl_rootSyn (s : State) (c : Collector) (f : Coll → Coll) : (s.updColl c f).rootSyn = s.rootSyn := rfl
@[simp] theorem State.updColl_isoPorts (s : State) (c : Collector) (f : Coll → Coll) : (s.updColl c f).isoPorts = s.isoPorts := rfl
@[simp] theorem State.updColl_haltTimes (s : State) (c : Collector) (f : Coll → Coll) : (s.updColl c f).haltTimes = s.haltTimes := rfl
@[simp] theorem State.updColl_restartAsked (s : State) (c : Collector) (f : Coll → Coll) : (s.updColl c f).restartAsked = s.restartAsked := rfl
@[simp] theorem State.updColl_frozen (s : State) (c : Collector) (f : Coll → Coll) : (s.updColl c f).frozen = s.frozen := rfl
@[simp] theorem State.updColl_canErr (s : State) (c : Collector) (f : Coll → Coll) : (s.updColl c f).canErr = s.canErr := rfl
@[simp] theorem State.updColl_capLimit (s : State) (c : Collector) (f : Coll → Coll) : (s.updColl c f).capLimit = s.capLimit := rfl
@[simp] theorem State.updColl_capParked (s : State) (c : Collector) (f : Coll → Coll) : (s.updColl c f).capParked = s.capParked := rfl
@[simp] theorem State.updColl_heatLimit (s : State) (c : Collector) (f : Coll → Coll) : (s.updColl c f).heatLimit = s.heatLimit := rfl
@[simp] theorem State.updColl_railLock (s : State) (c : Collector) (f : Coll → Coll) : (s.updColl c f).railLock = s.railLock := rfl
@[simp] theorem State.updColl_paceLow (s : State) (c : Collector) (f : Coll → Coll) : (s.updColl c f).paceLow = s.paceLow := rfl
@[simp] theorem State.updColl_boost (s : State) (c : Collector) (f : Coll → Coll) : (s.updColl c f).boost = s.boost := rfl
@[simp] theorem State.updColl_bulk (s : State) (c : Collector) (f : Coll → Coll) : (s.updColl c f).bulk = s.bulk := rfl
@[simp] theorem State.updColl_sdo (s : State) (c : Collector) (f : Coll → Coll) : (s.updColl c f).sdo = s.sdo := rfl
@[simp] theorem State.updColl_accums (s : State) (c : Collector) (f : Coll → Coll) : (s.updColl c f).accums = s.accums := rfl
@[simp] theorem State.updColl_eids (s : State) (c : Collector) (f : Coll → Coll) : (s.updColl c f).eids = s.eids := rfl
@[simp] theorem State.updColl_dbgEnHigh (s : State) (c : Collector) (f : Coll → Coll) : (s.updColl c f).dbgEnHigh = s.dbgEnHigh := rfl
@[simp] theorem State.updColl_tapIr (s : State) (c : Collector) (f : Coll → Coll) : (s.updColl c f).tapIr = s.tapIr := rfl
@[simp] theorem State.updColl_tapPins (s : State) (c : Collector) (f : Coll → Coll) : (s.updColl c f).tapPins = s.tapPins := rfl
@[simp] theorem State.updColl_tapDrive (s : State) (c : Collector) (f : Coll → Coll) : (s.updColl c f).tapDrive = s.tapDrive := rfl
@[simp] theorem State.updColl_tapDict (s : State) (c : Collector) (f : Coll → Coll) : (s.updColl c f).tapDict = s.tapDict := rfl
@[simp] theorem State.updColl_tapMem (s : State) (c : Collector) (f : Coll → Coll) : (s.updColl c f).tapMem = s.tapMem := rfl
@[simp] theorem State.updColl_stem (s : State) (c : Collector) (f : Coll → Coll) : (s.updColl c f).stem = s.stem := rfl
@[simp] theorem State.updColl_stemRr (s : State) (c : Collector) (f : Coll → Coll) : (s.updColl c f).stemRr = s.stemRr := rfl
@[simp] theorem State.updColl_cross (s : State) (c : Collector) (f : Coll → Coll) : (s.updColl c f).cross = s.cross := rfl
@[simp] theorem State.updColl_msixTab (s : State) (c : Collector) (f : Coll → Coll) : (s.updColl c f).msixTab = s.msixTab := rfl
@[simp] theorem State.updColl_paceSet (s : State) (c : Collector) (f : Coll → Coll) : (s.updColl c f).paceSet = s.paceSet := rfl
@[simp] theorem State.updColl_pipes (s : State) (c : Collector) (f : Coll → Coll) : (s.updColl c f).pipes = s.pipes := rfl
@[simp] theorem State.updColl_scratchBad (s : State) (c : Collector) (f : Coll → Coll) : (s.updColl c f).scratchBad = s.scratchBad := rfl
@[simp] theorem State.updColl_histOn (s : State) (c : Collector) (f : Coll → Coll) : (s.updColl c f).histOn = s.histOn := rfl
@[simp] theorem State.updColl_haltWords (s : State) (c : Collector) (f : Coll → Coll) : (s.updColl c f).haltWords = s.haltWords := rfl
@[simp] theorem State.updColl_dget_reads (s : State) (c : Collector) (f : Coll → Coll) (x y : Nat) : (s.updColl c f).dget x y = s.dget x y := rfl
@[simp] theorem State.updColl_domByte_reads (s : State) (c : Collector) (f : Coll → Coll) (x y z : Nat) : (s.updColl c f).domByte x y z = s.domByte x y z := rfl
@[simp] theorem State.updColl_memByte_reads (s : State) (c : Collector) (f : Coll → Coll) (x : Nat) : (s.updColl c f).memByte x = s.memByte x := rfl
@[simp] theorem State.updColl_winGet_reads (s : State) (c : Collector) (f : Coll → Coll) (x : Nat) : (s.updColl c f).winGet x = s.winGet x := rfl
@[simp] theorem State.updColl_thr_reads (s : State) (c : Collector) (f : Coll → Coll) (x : Hart) : (s.updColl c f).thr x = s.thr x := rfl
@[simp] theorem State.updColl_dreg_reads (s : State) (c : Collector) (f : Coll → Coll) (x : Hart) (y : Reg) : (s.updColl c f).dreg x y = s.dreg x y := rfl
@[simp] theorem State.updColl_areg_reads (s : State) (c : Collector) (f : Coll → Coll) (x : Hart) (y : Reg) : (s.updColl c f).areg x y = s.areg x y := rfl
@[simp] theorem State.updColl_acc_reads (s : State) (c : Collector) (f : Coll → Coll) (x : Hart) (y : Fin 4) : (s.updColl c f).acc x y = s.acc x y := rfl
@[simp] theorem State.updColl_creg_reads (s : State) (c : Collector) (f : Coll → Coll) (x : Hart) (y : CReg) : (s.updColl c f).creg x y = s.creg x y := rfl
@[simp] theorem State.updColl_core_reads (s : State) (c : Collector) (f : Coll → Coll) (x : CoreId) : (s.updColl c f).core x = s.core x := rfl
@[simp] theorem State.updColl_clus_reads (s : State) (c : Collector) (f : Coll → Coll) (x : Petal) (y : Cluster) : (s.updColl c f).clus x y = s.clus x y := rfl
@[simp] theorem State.updColl_chan_reads (s : State) (c : Collector) (f : Coll → Coll) (x : Petal) (y : Nat) : (s.updColl c f).chan x y = s.chan x y := rfl
@[simp] theorem State.updColl_pet_reads (s : State) (c : Collector) (f : Coll → Coll) (x : Petal) : (s.updColl c f).pet x = s.pet x := rfl
@[simp] theorem State.updColl_q_reads (s : State) (c : Collector) (f : Coll → Coll) (x : Nat) : (s.updColl c f).q x = s.q x := rfl
@[simp] theorem State.updColl_slot_reads (s : State) (c : Collector) (f : Coll → Coll) (x : ThreadId) : (s.updColl c f).slot x = s.slot x := rfl
@[simp] theorem State.updColl_dram_reads (s : State) (c : Collector) (f : Coll → Coll) (x : Nat) : (s.updColl c f).dram x = s.dram x := rfl
@[simp] theorem State.updColl_mbox_reads (s : State) (c : Collector) (f : Coll → Coll) (x : Nat) : (s.updColl c f).mbox x = s.mbox x := rfl
@[simp] theorem State.updColl_pipe_reads (s : State) (c : Collector) (f : Coll → Coll) (x : CoreId) : (s.updColl c f).pipe x = s.pipe x := rfl

/-! ### State.updCow changes `cow` -/

@[simp] theorem State.updCow_time (s : State) (f : CowSt → CowSt) : (s.updCow f).time = s.time := rfl
@[simp] theorem State.updCow_pending (s : State) (f : CowSt → CowSt) : (s.updCow f).pending = s.pending := rfl
@[simp] theorem State.updCow_dict (s : State) (f : CowSt → CowSt) : (s.updCow f).dict = s.dict := rfl
@[simp] theorem State.updCow_doms (s : State) (f : CowSt → CowSt) : (s.updCow f).doms = s.doms := rfl
@[simp] theorem State.updCow_mem (s : State) (f : CowSt → CowSt) : (s.updCow f).mem = s.mem := rfl
@[simp] theorem State.updCow_poison (s : State) (f : CowSt → CowSt) : (s.updCow f).poison = s.poison := rfl
@[simp] theorem State.updCow_fresh (s : State) (f : CowSt → CowSt) : (s.updCow f).fresh = s.fresh := rfl
@[simp] theorem State.updCow_out (s : State) (f : CowSt → CowSt) : (s.updCow f).out = s.out := rfl
@[simp] theorem State.updCow_win (s : State) (f : CowSt → CowSt) : (s.updCow f).win = s.win := rfl
@[simp] theorem State.updCow_threads (s : State) (f : CowSt → CowSt) : (s.updCow f).threads = s.threads := rfl
@[simp] theorem State.updCow_cores (s : State) (f : CowSt → CowSt) : (s.updCow f).cores = s.cores := rfl
@[simp] theorem State.updCow_clusters (s : State) (f : CowSt → CowSt) : (s.updCow f).clusters = s.clusters := rfl
@[simp] theorem State.updCow_chans (s : State) (f : CowSt → CowSt) : (s.updCow f).chans = s.chans := rfl
@[simp] theorem State.updCow_census (s : State) (f : CowSt → CowSt) : (s.updCow f).census = s.census := rfl
@[simp] theorem State.updCow_colls (s : State) (f : CowSt → CowSt) : (s.updCow f).colls = s.colls := rfl
@[simp] theorem State.updCow_trans (s : State) (f : CowSt → CowSt) : (s.updCow f).trans = s.trans := rfl
@[simp] theorem State.updCow_staged (s : State) (f : CowSt → CowSt) : (s.updCow f).staged = s.staged := rfl
@[simp] theorem State.updCow_snaps (s : State) (f : CowSt → CowSt) : (s.updCow f).snaps = s.snaps := rfl
@[simp] theorem State.updCow_halts (s : State) (f : CowSt → CowSt) : (s.updCow f).halts = s.halts := rfl
@[simp] theorem State.updCow_haltDue (s : State) (f : CowSt → CowSt) : (s.updCow f).haltDue = s.haltDue := rfl
@[simp] theorem State.updCow_msixOpen (s : State) (f : CowSt → CowSt) : (s.updCow f).msixOpen = s.msixOpen := rfl
@[simp] theorem State.updCow_msixPend (s : State) (f : CowSt → CowSt) : (s.updCow f).msixPend = s.msixPend := rfl
@[simp] theorem State.updCow_busMaster (s : State) (f : CowSt → CowSt) : (s.updCow f).busMaster = s.busMaster := rfl
@[simp] theorem State.updCow_holders (s : State) (f : CowSt → CowSt) : (s.updCow f).holders = s.holders := rfl
@[simp] theorem State.updCow_waiters (s : State) (f : CowSt → CowSt) : (s.updCow f).waiters = s.waiters := rfl
@[simp] theorem State.updCow_drams (s : State) (f : CowSt → CowSt) : (s.updCow f).drams = s.drams := rfl
@[simp] theorem State.updCow_sessions (s : State) (f : CowSt → CowSt) : (s.updCow f).sessions = s.sessions := rfl
@[simp] theorem State.updCow_perst (s : State) (f : CowSt → CowSt) : (s.updCow f).perst = s.perst := rfl
@[simp] theorem State.updCow_petals (s : State) (f : CowSt → CowSt) : (s.updCow f).petals = s.petals := rfl
@[simp] theorem State.updCow_slots (s : State) (f : CowSt → CowSt) : (s.updCow f).slots = s.slots := rfl
@[simp] theorem State.updCow_tables (s : State) (f : CowSt → CowSt) : (s.updCow f).tables = s.tables := rfl
@[simp] theorem State.updCow_rxPause (s : State) (f : CowSt → CowSt) : (s.updCow f).rxPause = s.rxPause := rfl
@[simp] theorem State.updCow_stalled (s : State) (f : CowSt → CowSt) : (s.updCow f).stalled = s.stalled := rfl
@[simp] theorem State.updCow_modes (s : State) (f : CowSt → CowSt) : (s.updCow f).modes = s.modes := rfl
@[simp] theorem State.updCow_mism (s : State) (f : CowSt → CowSt) : (s.updCow f).mism = s.mism := rfl
@[simp] theorem State.updCow_sorrel (s : State) (f : CowSt → CowSt) : (s.updCow f).sorrel = s.sorrel := rfl
@[simp] theorem State.updCow_swaps (s : State) (f : CowSt → CowSt) : (s.updCow f).swaps = s.swaps := rfl
@[simp] theorem State.updCow_mboxes (s : State) (f : CowSt → CowSt) : (s.updCow f).mboxes = s.mboxes := rfl
@[simp] theorem State.updCow_requeue (s : State) (f : CowSt → CowSt) : (s.updCow f).requeue = s.requeue := rfl
@[simp] theorem State.updCow_repairs (s : State) (f : CowSt → CowSt) : (s.updCow f).repairs = s.repairs := rfl
@[simp] theorem State.updCow_ceTimes (s : State) (f : CowSt → CowSt) : (s.updCow f).ceTimes = s.ceTimes := rfl
@[simp] theorem State.updCow_ueTimes (s : State) (f : CowSt → CowSt) : (s.updCow f).ueTimes = s.ueTimes := rfl
@[simp] theorem State.updCow_wearWarned (s : State) (f : CowSt → CowSt) : (s.updCow f).wearWarned = s.wearWarned := rfl
@[simp] theorem State.updCow_swapLogged (s : State) (f : CowSt → CowSt) : (s.updCow f).swapLogged = s.swapLogged := rfl
@[simp] theorem State.updCow_cntBase (s : State) (f : CowSt → CowSt) : (s.updCow f).cntBase = s.cntBase := rfl
@[simp] theorem State.updCow_journal (s : State) (f : CowSt → CowSt) : (s.updCow f).journal = s.journal := rfl
@[simp] theorem State.updCow_lastHash (s : State) (f : CowSt → CowSt) : (s.updCow f).lastHash = s.lastHash := rfl
@[simp] theorem State.updCow_heldSeqs (s : State) (f : CowSt → CowSt) : (s.updCow f).heldSeqs = s.heldSeqs := rfl
@[simp] theorem State.updCow_golneB (s : State) (f : CowSt → CowSt) : (s.updCow f).golneB = s.golneB := rfl
@[simp] theorem State.updCow_golneDown (s : State) (f : CowSt → CowSt) : (s.updCow f).golneDown = s.golneDown := rfl
@[simp] theorem State.updCow_act (s : State) (f : CowSt → CowSt) : (s.updCow f).act = s.act := rfl
@[simp] theorem State.updCow_minStart (s : State) (f : CowSt → CowSt) : (s.updCow f).minStart = s.minStart := rfl
@[simp] theorem State.updCow_noDram (s : State) (f : CowSt → CowSt) : (s.updCow f).noDram = s.noDram := rfl
@[simp] theorem State.updCow_nextRaise (s : State) (f : CowSt → CowSt) : (s.updCow f).nextRaise = s.nextRaise := rfl
@[simp] theorem State.updCow_pseq (s : State) (f : CowSt → CowSt) : (s.updCow f).pseq = s.pseq := rfl
@[simp] theorem State.updCow_unlockMeas (s : State) (f : CowSt → CowSt) : (s.updCow f).unlockMeas = s.unlockMeas := rfl
@[simp] theorem State.updCow_unlockEnd (s : State) (f : CowSt → CowSt) : (s.updCow f).unlockEnd = s.unlockEnd := rfl
@[simp] theorem State.updCow_unlockPetals (s : State) (f : CowSt → CowSt) : (s.updCow f).unlockPetals = s.unlockPetals := rfl
@[simp] theorem State.updCow_romStuck (s : State) (f : CowSt → CowSt) : (s.updCow f).romStuck = s.romStuck := rfl
@[simp] theorem State.updCow_minRetry (s : State) (f : CowSt → CowSt) : (s.updCow f).minRetry = s.minRetry := rfl
@[simp] theorem State.updCow_power (s : State) (f : CowSt → CowSt) : (s.updCow f).power = s.power := rfl
@[simp] theorem State.updCow_dumps (s : State) (f : CowSt → CowSt) : (s.updCow f).dumps = s.dumps := rfl
@[simp] theorem State.updCow_rootSyn (s : State) (f : CowSt → CowSt) : (s.updCow f).rootSyn = s.rootSyn := rfl
@[simp] theorem State.updCow_isoPorts (s : State) (f : CowSt → CowSt) : (s.updCow f).isoPorts = s.isoPorts := rfl
@[simp] theorem State.updCow_haltTimes (s : State) (f : CowSt → CowSt) : (s.updCow f).haltTimes = s.haltTimes := rfl
@[simp] theorem State.updCow_restartAsked (s : State) (f : CowSt → CowSt) : (s.updCow f).restartAsked = s.restartAsked := rfl
@[simp] theorem State.updCow_frozen (s : State) (f : CowSt → CowSt) : (s.updCow f).frozen = s.frozen := rfl
@[simp] theorem State.updCow_canErr (s : State) (f : CowSt → CowSt) : (s.updCow f).canErr = s.canErr := rfl
@[simp] theorem State.updCow_capLimit (s : State) (f : CowSt → CowSt) : (s.updCow f).capLimit = s.capLimit := rfl
@[simp] theorem State.updCow_capParked (s : State) (f : CowSt → CowSt) : (s.updCow f).capParked = s.capParked := rfl
@[simp] theorem State.updCow_heatLimit (s : State) (f : CowSt → CowSt) : (s.updCow f).heatLimit = s.heatLimit := rfl
@[simp] theorem State.updCow_railLock (s : State) (f : CowSt → CowSt) : (s.updCow f).railLock = s.railLock := rfl
@[simp] theorem State.updCow_paceLow (s : State) (f : CowSt → CowSt) : (s.updCow f).paceLow = s.paceLow := rfl
@[simp] theorem State.updCow_boost (s : State) (f : CowSt → CowSt) : (s.updCow f).boost = s.boost := rfl
@[simp] theorem State.updCow_bulk (s : State) (f : CowSt → CowSt) : (s.updCow f).bulk = s.bulk := rfl
@[simp] theorem State.updCow_sdo (s : State) (f : CowSt → CowSt) : (s.updCow f).sdo = s.sdo := rfl
@[simp] theorem State.updCow_accums (s : State) (f : CowSt → CowSt) : (s.updCow f).accums = s.accums := rfl
@[simp] theorem State.updCow_eids (s : State) (f : CowSt → CowSt) : (s.updCow f).eids = s.eids := rfl
@[simp] theorem State.updCow_dbgEnHigh (s : State) (f : CowSt → CowSt) : (s.updCow f).dbgEnHigh = s.dbgEnHigh := rfl
@[simp] theorem State.updCow_tapIr (s : State) (f : CowSt → CowSt) : (s.updCow f).tapIr = s.tapIr := rfl
@[simp] theorem State.updCow_tapPins (s : State) (f : CowSt → CowSt) : (s.updCow f).tapPins = s.tapPins := rfl
@[simp] theorem State.updCow_tapDrive (s : State) (f : CowSt → CowSt) : (s.updCow f).tapDrive = s.tapDrive := rfl
@[simp] theorem State.updCow_tapDict (s : State) (f : CowSt → CowSt) : (s.updCow f).tapDict = s.tapDict := rfl
@[simp] theorem State.updCow_tapMem (s : State) (f : CowSt → CowSt) : (s.updCow f).tapMem = s.tapMem := rfl
@[simp] theorem State.updCow_stem (s : State) (f : CowSt → CowSt) : (s.updCow f).stem = s.stem := rfl
@[simp] theorem State.updCow_stemRr (s : State) (f : CowSt → CowSt) : (s.updCow f).stemRr = s.stemRr := rfl
@[simp] theorem State.updCow_cross (s : State) (f : CowSt → CowSt) : (s.updCow f).cross = s.cross := rfl
@[simp] theorem State.updCow_msixTab (s : State) (f : CowSt → CowSt) : (s.updCow f).msixTab = s.msixTab := rfl
@[simp] theorem State.updCow_paceSet (s : State) (f : CowSt → CowSt) : (s.updCow f).paceSet = s.paceSet := rfl
@[simp] theorem State.updCow_pipes (s : State) (f : CowSt → CowSt) : (s.updCow f).pipes = s.pipes := rfl
@[simp] theorem State.updCow_scratchBad (s : State) (f : CowSt → CowSt) : (s.updCow f).scratchBad = s.scratchBad := rfl
@[simp] theorem State.updCow_histOn (s : State) (f : CowSt → CowSt) : (s.updCow f).histOn = s.histOn := rfl
@[simp] theorem State.updCow_haltWords (s : State) (f : CowSt → CowSt) : (s.updCow f).haltWords = s.haltWords := rfl
@[simp] theorem State.updCow_dget_reads (s : State) (f : CowSt → CowSt) (x y : Nat) : (s.updCow f).dget x y = s.dget x y := rfl
@[simp] theorem State.updCow_domByte_reads (s : State) (f : CowSt → CowSt) (x y z : Nat) : (s.updCow f).domByte x y z = s.domByte x y z := rfl
@[simp] theorem State.updCow_memByte_reads (s : State) (f : CowSt → CowSt) (x : Nat) : (s.updCow f).memByte x = s.memByte x := rfl
@[simp] theorem State.updCow_winGet_reads (s : State) (f : CowSt → CowSt) (x : Nat) : (s.updCow f).winGet x = s.winGet x := rfl
@[simp] theorem State.updCow_thr_reads (s : State) (f : CowSt → CowSt) (x : Hart) : (s.updCow f).thr x = s.thr x := rfl
@[simp] theorem State.updCow_dreg_reads (s : State) (f : CowSt → CowSt) (x : Hart) (y : Reg) : (s.updCow f).dreg x y = s.dreg x y := rfl
@[simp] theorem State.updCow_areg_reads (s : State) (f : CowSt → CowSt) (x : Hart) (y : Reg) : (s.updCow f).areg x y = s.areg x y := rfl
@[simp] theorem State.updCow_acc_reads (s : State) (f : CowSt → CowSt) (x : Hart) (y : Fin 4) : (s.updCow f).acc x y = s.acc x y := rfl
@[simp] theorem State.updCow_creg_reads (s : State) (f : CowSt → CowSt) (x : Hart) (y : CReg) : (s.updCow f).creg x y = s.creg x y := rfl
@[simp] theorem State.updCow_core_reads (s : State) (f : CowSt → CowSt) (x : CoreId) : (s.updCow f).core x = s.core x := rfl
@[simp] theorem State.updCow_clus_reads (s : State) (f : CowSt → CowSt) (x : Petal) (y : Cluster) : (s.updCow f).clus x y = s.clus x y := rfl
@[simp] theorem State.updCow_chan_reads (s : State) (f : CowSt → CowSt) (x : Petal) (y : Nat) : (s.updCow f).chan x y = s.chan x y := rfl
@[simp] theorem State.updCow_pet_reads (s : State) (f : CowSt → CowSt) (x : Petal) : (s.updCow f).pet x = s.pet x := rfl
@[simp] theorem State.updCow_q_reads (s : State) (f : CowSt → CowSt) (x : Nat) : (s.updCow f).q x = s.q x := rfl
@[simp] theorem State.updCow_slot_reads (s : State) (f : CowSt → CowSt) (x : ThreadId) : (s.updCow f).slot x = s.slot x := rfl
@[simp] theorem State.updCow_coll_reads (s : State) (f : CowSt → CowSt) (x : Collector) : (s.updCow f).coll x = s.coll x := rfl
@[simp] theorem State.updCow_dram_reads (s : State) (f : CowSt → CowSt) (x : Nat) : (s.updCow f).dram x = s.dram x := rfl
@[simp] theorem State.updCow_mbox_reads (s : State) (f : CowSt → CowSt) (x : Nat) : (s.updCow f).mbox x = s.mbox x := rfl
@[simp] theorem State.updCow_pipe_reads (s : State) (f : CowSt → CowSt) (x : CoreId) : (s.updCow f).pipe x = s.pipe x := rfl

/-! ### State.updTab changes `tables` -/

@[simp] theorem State.updTab_time (s : State) (f : TableSt → TableSt) : (s.updTab f).time = s.time := rfl
@[simp] theorem State.updTab_pending (s : State) (f : TableSt → TableSt) : (s.updTab f).pending = s.pending := rfl
@[simp] theorem State.updTab_dict (s : State) (f : TableSt → TableSt) : (s.updTab f).dict = s.dict := rfl
@[simp] theorem State.updTab_doms (s : State) (f : TableSt → TableSt) : (s.updTab f).doms = s.doms := rfl
@[simp] theorem State.updTab_mem (s : State) (f : TableSt → TableSt) : (s.updTab f).mem = s.mem := rfl
@[simp] theorem State.updTab_poison (s : State) (f : TableSt → TableSt) : (s.updTab f).poison = s.poison := rfl
@[simp] theorem State.updTab_fresh (s : State) (f : TableSt → TableSt) : (s.updTab f).fresh = s.fresh := rfl
@[simp] theorem State.updTab_out (s : State) (f : TableSt → TableSt) : (s.updTab f).out = s.out := rfl
@[simp] theorem State.updTab_win (s : State) (f : TableSt → TableSt) : (s.updTab f).win = s.win := rfl
@[simp] theorem State.updTab_threads (s : State) (f : TableSt → TableSt) : (s.updTab f).threads = s.threads := rfl
@[simp] theorem State.updTab_cores (s : State) (f : TableSt → TableSt) : (s.updTab f).cores = s.cores := rfl
@[simp] theorem State.updTab_clusters (s : State) (f : TableSt → TableSt) : (s.updTab f).clusters = s.clusters := rfl
@[simp] theorem State.updTab_chans (s : State) (f : TableSt → TableSt) : (s.updTab f).chans = s.chans := rfl
@[simp] theorem State.updTab_census (s : State) (f : TableSt → TableSt) : (s.updTab f).census = s.census := rfl
@[simp] theorem State.updTab_colls (s : State) (f : TableSt → TableSt) : (s.updTab f).colls = s.colls := rfl
@[simp] theorem State.updTab_trans (s : State) (f : TableSt → TableSt) : (s.updTab f).trans = s.trans := rfl
@[simp] theorem State.updTab_staged (s : State) (f : TableSt → TableSt) : (s.updTab f).staged = s.staged := rfl
@[simp] theorem State.updTab_snaps (s : State) (f : TableSt → TableSt) : (s.updTab f).snaps = s.snaps := rfl
@[simp] theorem State.updTab_halts (s : State) (f : TableSt → TableSt) : (s.updTab f).halts = s.halts := rfl
@[simp] theorem State.updTab_haltDue (s : State) (f : TableSt → TableSt) : (s.updTab f).haltDue = s.haltDue := rfl
@[simp] theorem State.updTab_msixOpen (s : State) (f : TableSt → TableSt) : (s.updTab f).msixOpen = s.msixOpen := rfl
@[simp] theorem State.updTab_msixPend (s : State) (f : TableSt → TableSt) : (s.updTab f).msixPend = s.msixPend := rfl
@[simp] theorem State.updTab_busMaster (s : State) (f : TableSt → TableSt) : (s.updTab f).busMaster = s.busMaster := rfl
@[simp] theorem State.updTab_holders (s : State) (f : TableSt → TableSt) : (s.updTab f).holders = s.holders := rfl
@[simp] theorem State.updTab_waiters (s : State) (f : TableSt → TableSt) : (s.updTab f).waiters = s.waiters := rfl
@[simp] theorem State.updTab_drams (s : State) (f : TableSt → TableSt) : (s.updTab f).drams = s.drams := rfl
@[simp] theorem State.updTab_sessions (s : State) (f : TableSt → TableSt) : (s.updTab f).sessions = s.sessions := rfl
@[simp] theorem State.updTab_perst (s : State) (f : TableSt → TableSt) : (s.updTab f).perst = s.perst := rfl
@[simp] theorem State.updTab_petals (s : State) (f : TableSt → TableSt) : (s.updTab f).petals = s.petals := rfl
@[simp] theorem State.updTab_slots (s : State) (f : TableSt → TableSt) : (s.updTab f).slots = s.slots := rfl
@[simp] theorem State.updTab_cow (s : State) (f : TableSt → TableSt) : (s.updTab f).cow = s.cow := rfl
@[simp] theorem State.updTab_rxPause (s : State) (f : TableSt → TableSt) : (s.updTab f).rxPause = s.rxPause := rfl
@[simp] theorem State.updTab_stalled (s : State) (f : TableSt → TableSt) : (s.updTab f).stalled = s.stalled := rfl
@[simp] theorem State.updTab_modes (s : State) (f : TableSt → TableSt) : (s.updTab f).modes = s.modes := rfl
@[simp] theorem State.updTab_mism (s : State) (f : TableSt → TableSt) : (s.updTab f).mism = s.mism := rfl
@[simp] theorem State.updTab_sorrel (s : State) (f : TableSt → TableSt) : (s.updTab f).sorrel = s.sorrel := rfl
@[simp] theorem State.updTab_swaps (s : State) (f : TableSt → TableSt) : (s.updTab f).swaps = s.swaps := rfl
@[simp] theorem State.updTab_mboxes (s : State) (f : TableSt → TableSt) : (s.updTab f).mboxes = s.mboxes := rfl
@[simp] theorem State.updTab_requeue (s : State) (f : TableSt → TableSt) : (s.updTab f).requeue = s.requeue := rfl
@[simp] theorem State.updTab_repairs (s : State) (f : TableSt → TableSt) : (s.updTab f).repairs = s.repairs := rfl
@[simp] theorem State.updTab_ceTimes (s : State) (f : TableSt → TableSt) : (s.updTab f).ceTimes = s.ceTimes := rfl
@[simp] theorem State.updTab_ueTimes (s : State) (f : TableSt → TableSt) : (s.updTab f).ueTimes = s.ueTimes := rfl
@[simp] theorem State.updTab_wearWarned (s : State) (f : TableSt → TableSt) : (s.updTab f).wearWarned = s.wearWarned := rfl
@[simp] theorem State.updTab_swapLogged (s : State) (f : TableSt → TableSt) : (s.updTab f).swapLogged = s.swapLogged := rfl
@[simp] theorem State.updTab_cntBase (s : State) (f : TableSt → TableSt) : (s.updTab f).cntBase = s.cntBase := rfl
@[simp] theorem State.updTab_journal (s : State) (f : TableSt → TableSt) : (s.updTab f).journal = s.journal := rfl
@[simp] theorem State.updTab_lastHash (s : State) (f : TableSt → TableSt) : (s.updTab f).lastHash = s.lastHash := rfl
@[simp] theorem State.updTab_heldSeqs (s : State) (f : TableSt → TableSt) : (s.updTab f).heldSeqs = s.heldSeqs := rfl
@[simp] theorem State.updTab_golneB (s : State) (f : TableSt → TableSt) : (s.updTab f).golneB = s.golneB := rfl
@[simp] theorem State.updTab_golneDown (s : State) (f : TableSt → TableSt) : (s.updTab f).golneDown = s.golneDown := rfl
@[simp] theorem State.updTab_act (s : State) (f : TableSt → TableSt) : (s.updTab f).act = s.act := rfl
@[simp] theorem State.updTab_minStart (s : State) (f : TableSt → TableSt) : (s.updTab f).minStart = s.minStart := rfl
@[simp] theorem State.updTab_noDram (s : State) (f : TableSt → TableSt) : (s.updTab f).noDram = s.noDram := rfl
@[simp] theorem State.updTab_nextRaise (s : State) (f : TableSt → TableSt) : (s.updTab f).nextRaise = s.nextRaise := rfl
@[simp] theorem State.updTab_pseq (s : State) (f : TableSt → TableSt) : (s.updTab f).pseq = s.pseq := rfl
@[simp] theorem State.updTab_unlockMeas (s : State) (f : TableSt → TableSt) : (s.updTab f).unlockMeas = s.unlockMeas := rfl
@[simp] theorem State.updTab_unlockEnd (s : State) (f : TableSt → TableSt) : (s.updTab f).unlockEnd = s.unlockEnd := rfl
@[simp] theorem State.updTab_unlockPetals (s : State) (f : TableSt → TableSt) : (s.updTab f).unlockPetals = s.unlockPetals := rfl
@[simp] theorem State.updTab_romStuck (s : State) (f : TableSt → TableSt) : (s.updTab f).romStuck = s.romStuck := rfl
@[simp] theorem State.updTab_minRetry (s : State) (f : TableSt → TableSt) : (s.updTab f).minRetry = s.minRetry := rfl
@[simp] theorem State.updTab_power (s : State) (f : TableSt → TableSt) : (s.updTab f).power = s.power := rfl
@[simp] theorem State.updTab_dumps (s : State) (f : TableSt → TableSt) : (s.updTab f).dumps = s.dumps := rfl
@[simp] theorem State.updTab_rootSyn (s : State) (f : TableSt → TableSt) : (s.updTab f).rootSyn = s.rootSyn := rfl
@[simp] theorem State.updTab_isoPorts (s : State) (f : TableSt → TableSt) : (s.updTab f).isoPorts = s.isoPorts := rfl
@[simp] theorem State.updTab_haltTimes (s : State) (f : TableSt → TableSt) : (s.updTab f).haltTimes = s.haltTimes := rfl
@[simp] theorem State.updTab_restartAsked (s : State) (f : TableSt → TableSt) : (s.updTab f).restartAsked = s.restartAsked := rfl
@[simp] theorem State.updTab_frozen (s : State) (f : TableSt → TableSt) : (s.updTab f).frozen = s.frozen := rfl
@[simp] theorem State.updTab_canErr (s : State) (f : TableSt → TableSt) : (s.updTab f).canErr = s.canErr := rfl
@[simp] theorem State.updTab_capLimit (s : State) (f : TableSt → TableSt) : (s.updTab f).capLimit = s.capLimit := rfl
@[simp] theorem State.updTab_capParked (s : State) (f : TableSt → TableSt) : (s.updTab f).capParked = s.capParked := rfl
@[simp] theorem State.updTab_heatLimit (s : State) (f : TableSt → TableSt) : (s.updTab f).heatLimit = s.heatLimit := rfl
@[simp] theorem State.updTab_railLock (s : State) (f : TableSt → TableSt) : (s.updTab f).railLock = s.railLock := rfl
@[simp] theorem State.updTab_paceLow (s : State) (f : TableSt → TableSt) : (s.updTab f).paceLow = s.paceLow := rfl
@[simp] theorem State.updTab_boost (s : State) (f : TableSt → TableSt) : (s.updTab f).boost = s.boost := rfl
@[simp] theorem State.updTab_bulk (s : State) (f : TableSt → TableSt) : (s.updTab f).bulk = s.bulk := rfl
@[simp] theorem State.updTab_sdo (s : State) (f : TableSt → TableSt) : (s.updTab f).sdo = s.sdo := rfl
@[simp] theorem State.updTab_accums (s : State) (f : TableSt → TableSt) : (s.updTab f).accums = s.accums := rfl
@[simp] theorem State.updTab_eids (s : State) (f : TableSt → TableSt) : (s.updTab f).eids = s.eids := rfl
@[simp] theorem State.updTab_dbgEnHigh (s : State) (f : TableSt → TableSt) : (s.updTab f).dbgEnHigh = s.dbgEnHigh := rfl
@[simp] theorem State.updTab_tapIr (s : State) (f : TableSt → TableSt) : (s.updTab f).tapIr = s.tapIr := rfl
@[simp] theorem State.updTab_tapPins (s : State) (f : TableSt → TableSt) : (s.updTab f).tapPins = s.tapPins := rfl
@[simp] theorem State.updTab_tapDrive (s : State) (f : TableSt → TableSt) : (s.updTab f).tapDrive = s.tapDrive := rfl
@[simp] theorem State.updTab_tapDict (s : State) (f : TableSt → TableSt) : (s.updTab f).tapDict = s.tapDict := rfl
@[simp] theorem State.updTab_tapMem (s : State) (f : TableSt → TableSt) : (s.updTab f).tapMem = s.tapMem := rfl
@[simp] theorem State.updTab_stem (s : State) (f : TableSt → TableSt) : (s.updTab f).stem = s.stem := rfl
@[simp] theorem State.updTab_stemRr (s : State) (f : TableSt → TableSt) : (s.updTab f).stemRr = s.stemRr := rfl
@[simp] theorem State.updTab_cross (s : State) (f : TableSt → TableSt) : (s.updTab f).cross = s.cross := rfl
@[simp] theorem State.updTab_msixTab (s : State) (f : TableSt → TableSt) : (s.updTab f).msixTab = s.msixTab := rfl
@[simp] theorem State.updTab_paceSet (s : State) (f : TableSt → TableSt) : (s.updTab f).paceSet = s.paceSet := rfl
@[simp] theorem State.updTab_pipes (s : State) (f : TableSt → TableSt) : (s.updTab f).pipes = s.pipes := rfl
@[simp] theorem State.updTab_scratchBad (s : State) (f : TableSt → TableSt) : (s.updTab f).scratchBad = s.scratchBad := rfl
@[simp] theorem State.updTab_histOn (s : State) (f : TableSt → TableSt) : (s.updTab f).histOn = s.histOn := rfl
@[simp] theorem State.updTab_haltWords (s : State) (f : TableSt → TableSt) : (s.updTab f).haltWords = s.haltWords := rfl
@[simp] theorem State.updTab_dget_reads (s : State) (f : TableSt → TableSt) (x y : Nat) : (s.updTab f).dget x y = s.dget x y := rfl
@[simp] theorem State.updTab_domByte_reads (s : State) (f : TableSt → TableSt) (x y z : Nat) : (s.updTab f).domByte x y z = s.domByte x y z := rfl
@[simp] theorem State.updTab_memByte_reads (s : State) (f : TableSt → TableSt) (x : Nat) : (s.updTab f).memByte x = s.memByte x := rfl
@[simp] theorem State.updTab_winGet_reads (s : State) (f : TableSt → TableSt) (x : Nat) : (s.updTab f).winGet x = s.winGet x := rfl
@[simp] theorem State.updTab_thr_reads (s : State) (f : TableSt → TableSt) (x : Hart) : (s.updTab f).thr x = s.thr x := rfl
@[simp] theorem State.updTab_dreg_reads (s : State) (f : TableSt → TableSt) (x : Hart) (y : Reg) : (s.updTab f).dreg x y = s.dreg x y := rfl
@[simp] theorem State.updTab_areg_reads (s : State) (f : TableSt → TableSt) (x : Hart) (y : Reg) : (s.updTab f).areg x y = s.areg x y := rfl
@[simp] theorem State.updTab_acc_reads (s : State) (f : TableSt → TableSt) (x : Hart) (y : Fin 4) : (s.updTab f).acc x y = s.acc x y := rfl
@[simp] theorem State.updTab_creg_reads (s : State) (f : TableSt → TableSt) (x : Hart) (y : CReg) : (s.updTab f).creg x y = s.creg x y := rfl
@[simp] theorem State.updTab_core_reads (s : State) (f : TableSt → TableSt) (x : CoreId) : (s.updTab f).core x = s.core x := rfl
@[simp] theorem State.updTab_clus_reads (s : State) (f : TableSt → TableSt) (x : Petal) (y : Cluster) : (s.updTab f).clus x y = s.clus x y := rfl
@[simp] theorem State.updTab_chan_reads (s : State) (f : TableSt → TableSt) (x : Petal) (y : Nat) : (s.updTab f).chan x y = s.chan x y := rfl
@[simp] theorem State.updTab_pet_reads (s : State) (f : TableSt → TableSt) (x : Petal) : (s.updTab f).pet x = s.pet x := rfl
@[simp] theorem State.updTab_q_reads (s : State) (f : TableSt → TableSt) (x : Nat) : (s.updTab f).q x = s.q x := rfl
@[simp] theorem State.updTab_slot_reads (s : State) (f : TableSt → TableSt) (x : ThreadId) : (s.updTab f).slot x = s.slot x := rfl
@[simp] theorem State.updTab_coll_reads (s : State) (f : TableSt → TableSt) (x : Collector) : (s.updTab f).coll x = s.coll x := rfl
@[simp] theorem State.updTab_dram_reads (s : State) (f : TableSt → TableSt) (x : Nat) : (s.updTab f).dram x = s.dram x := rfl
@[simp] theorem State.updTab_mbox_reads (s : State) (f : TableSt → TableSt) (x : Nat) : (s.updTab f).mbox x = s.mbox x := rfl
@[simp] theorem State.updTab_pipe_reads (s : State) (f : TableSt → TableSt) (x : CoreId) : (s.updTab f).pipe x = s.pipe x := rfl

/-! ### State.updSlot changes `slots` -/

@[simp] theorem State.updSlot_time (s : State) (t : ThreadId) (f : Slot → Slot) : (s.updSlot t f).time = s.time := rfl
@[simp] theorem State.updSlot_pending (s : State) (t : ThreadId) (f : Slot → Slot) : (s.updSlot t f).pending = s.pending := rfl
@[simp] theorem State.updSlot_dict (s : State) (t : ThreadId) (f : Slot → Slot) : (s.updSlot t f).dict = s.dict := rfl
@[simp] theorem State.updSlot_doms (s : State) (t : ThreadId) (f : Slot → Slot) : (s.updSlot t f).doms = s.doms := rfl
@[simp] theorem State.updSlot_mem (s : State) (t : ThreadId) (f : Slot → Slot) : (s.updSlot t f).mem = s.mem := rfl
@[simp] theorem State.updSlot_poison (s : State) (t : ThreadId) (f : Slot → Slot) : (s.updSlot t f).poison = s.poison := rfl
@[simp] theorem State.updSlot_fresh (s : State) (t : ThreadId) (f : Slot → Slot) : (s.updSlot t f).fresh = s.fresh := rfl
@[simp] theorem State.updSlot_out (s : State) (t : ThreadId) (f : Slot → Slot) : (s.updSlot t f).out = s.out := rfl
@[simp] theorem State.updSlot_win (s : State) (t : ThreadId) (f : Slot → Slot) : (s.updSlot t f).win = s.win := rfl
@[simp] theorem State.updSlot_threads (s : State) (t : ThreadId) (f : Slot → Slot) : (s.updSlot t f).threads = s.threads := rfl
@[simp] theorem State.updSlot_cores (s : State) (t : ThreadId) (f : Slot → Slot) : (s.updSlot t f).cores = s.cores := rfl
@[simp] theorem State.updSlot_clusters (s : State) (t : ThreadId) (f : Slot → Slot) : (s.updSlot t f).clusters = s.clusters := rfl
@[simp] theorem State.updSlot_chans (s : State) (t : ThreadId) (f : Slot → Slot) : (s.updSlot t f).chans = s.chans := rfl
@[simp] theorem State.updSlot_census (s : State) (t : ThreadId) (f : Slot → Slot) : (s.updSlot t f).census = s.census := rfl
@[simp] theorem State.updSlot_colls (s : State) (t : ThreadId) (f : Slot → Slot) : (s.updSlot t f).colls = s.colls := rfl
@[simp] theorem State.updSlot_trans (s : State) (t : ThreadId) (f : Slot → Slot) : (s.updSlot t f).trans = s.trans := rfl
@[simp] theorem State.updSlot_staged (s : State) (t : ThreadId) (f : Slot → Slot) : (s.updSlot t f).staged = s.staged := rfl
@[simp] theorem State.updSlot_snaps (s : State) (t : ThreadId) (f : Slot → Slot) : (s.updSlot t f).snaps = s.snaps := rfl
@[simp] theorem State.updSlot_halts (s : State) (t : ThreadId) (f : Slot → Slot) : (s.updSlot t f).halts = s.halts := rfl
@[simp] theorem State.updSlot_haltDue (s : State) (t : ThreadId) (f : Slot → Slot) : (s.updSlot t f).haltDue = s.haltDue := rfl
@[simp] theorem State.updSlot_msixOpen (s : State) (t : ThreadId) (f : Slot → Slot) : (s.updSlot t f).msixOpen = s.msixOpen := rfl
@[simp] theorem State.updSlot_msixPend (s : State) (t : ThreadId) (f : Slot → Slot) : (s.updSlot t f).msixPend = s.msixPend := rfl
@[simp] theorem State.updSlot_busMaster (s : State) (t : ThreadId) (f : Slot → Slot) : (s.updSlot t f).busMaster = s.busMaster := rfl
@[simp] theorem State.updSlot_holders (s : State) (t : ThreadId) (f : Slot → Slot) : (s.updSlot t f).holders = s.holders := rfl
@[simp] theorem State.updSlot_waiters (s : State) (t : ThreadId) (f : Slot → Slot) : (s.updSlot t f).waiters = s.waiters := rfl
@[simp] theorem State.updSlot_drams (s : State) (t : ThreadId) (f : Slot → Slot) : (s.updSlot t f).drams = s.drams := rfl
@[simp] theorem State.updSlot_sessions (s : State) (t : ThreadId) (f : Slot → Slot) : (s.updSlot t f).sessions = s.sessions := rfl
@[simp] theorem State.updSlot_perst (s : State) (t : ThreadId) (f : Slot → Slot) : (s.updSlot t f).perst = s.perst := rfl
@[simp] theorem State.updSlot_petals (s : State) (t : ThreadId) (f : Slot → Slot) : (s.updSlot t f).petals = s.petals := rfl
@[simp] theorem State.updSlot_tables (s : State) (t : ThreadId) (f : Slot → Slot) : (s.updSlot t f).tables = s.tables := rfl
@[simp] theorem State.updSlot_cow (s : State) (t : ThreadId) (f : Slot → Slot) : (s.updSlot t f).cow = s.cow := rfl
@[simp] theorem State.updSlot_rxPause (s : State) (t : ThreadId) (f : Slot → Slot) : (s.updSlot t f).rxPause = s.rxPause := rfl
@[simp] theorem State.updSlot_stalled (s : State) (t : ThreadId) (f : Slot → Slot) : (s.updSlot t f).stalled = s.stalled := rfl
@[simp] theorem State.updSlot_modes (s : State) (t : ThreadId) (f : Slot → Slot) : (s.updSlot t f).modes = s.modes := rfl
@[simp] theorem State.updSlot_mism (s : State) (t : ThreadId) (f : Slot → Slot) : (s.updSlot t f).mism = s.mism := rfl
@[simp] theorem State.updSlot_sorrel (s : State) (t : ThreadId) (f : Slot → Slot) : (s.updSlot t f).sorrel = s.sorrel := rfl
@[simp] theorem State.updSlot_swaps (s : State) (t : ThreadId) (f : Slot → Slot) : (s.updSlot t f).swaps = s.swaps := rfl
@[simp] theorem State.updSlot_mboxes (s : State) (t : ThreadId) (f : Slot → Slot) : (s.updSlot t f).mboxes = s.mboxes := rfl
@[simp] theorem State.updSlot_requeue (s : State) (t : ThreadId) (f : Slot → Slot) : (s.updSlot t f).requeue = s.requeue := rfl
@[simp] theorem State.updSlot_repairs (s : State) (t : ThreadId) (f : Slot → Slot) : (s.updSlot t f).repairs = s.repairs := rfl
@[simp] theorem State.updSlot_ceTimes (s : State) (t : ThreadId) (f : Slot → Slot) : (s.updSlot t f).ceTimes = s.ceTimes := rfl
@[simp] theorem State.updSlot_ueTimes (s : State) (t : ThreadId) (f : Slot → Slot) : (s.updSlot t f).ueTimes = s.ueTimes := rfl
@[simp] theorem State.updSlot_wearWarned (s : State) (t : ThreadId) (f : Slot → Slot) : (s.updSlot t f).wearWarned = s.wearWarned := rfl
@[simp] theorem State.updSlot_swapLogged (s : State) (t : ThreadId) (f : Slot → Slot) : (s.updSlot t f).swapLogged = s.swapLogged := rfl
@[simp] theorem State.updSlot_cntBase (s : State) (t : ThreadId) (f : Slot → Slot) : (s.updSlot t f).cntBase = s.cntBase := rfl
@[simp] theorem State.updSlot_journal (s : State) (t : ThreadId) (f : Slot → Slot) : (s.updSlot t f).journal = s.journal := rfl
@[simp] theorem State.updSlot_lastHash (s : State) (t : ThreadId) (f : Slot → Slot) : (s.updSlot t f).lastHash = s.lastHash := rfl
@[simp] theorem State.updSlot_heldSeqs (s : State) (t : ThreadId) (f : Slot → Slot) : (s.updSlot t f).heldSeqs = s.heldSeqs := rfl
@[simp] theorem State.updSlot_golneB (s : State) (t : ThreadId) (f : Slot → Slot) : (s.updSlot t f).golneB = s.golneB := rfl
@[simp] theorem State.updSlot_golneDown (s : State) (t : ThreadId) (f : Slot → Slot) : (s.updSlot t f).golneDown = s.golneDown := rfl
@[simp] theorem State.updSlot_act (s : State) (t : ThreadId) (f : Slot → Slot) : (s.updSlot t f).act = s.act := rfl
@[simp] theorem State.updSlot_minStart (s : State) (t : ThreadId) (f : Slot → Slot) : (s.updSlot t f).minStart = s.minStart := rfl
@[simp] theorem State.updSlot_noDram (s : State) (t : ThreadId) (f : Slot → Slot) : (s.updSlot t f).noDram = s.noDram := rfl
@[simp] theorem State.updSlot_nextRaise (s : State) (t : ThreadId) (f : Slot → Slot) : (s.updSlot t f).nextRaise = s.nextRaise := rfl
@[simp] theorem State.updSlot_pseq (s : State) (t : ThreadId) (f : Slot → Slot) : (s.updSlot t f).pseq = s.pseq := rfl
@[simp] theorem State.updSlot_unlockMeas (s : State) (t : ThreadId) (f : Slot → Slot) : (s.updSlot t f).unlockMeas = s.unlockMeas := rfl
@[simp] theorem State.updSlot_unlockEnd (s : State) (t : ThreadId) (f : Slot → Slot) : (s.updSlot t f).unlockEnd = s.unlockEnd := rfl
@[simp] theorem State.updSlot_unlockPetals (s : State) (t : ThreadId) (f : Slot → Slot) : (s.updSlot t f).unlockPetals = s.unlockPetals := rfl
@[simp] theorem State.updSlot_romStuck (s : State) (t : ThreadId) (f : Slot → Slot) : (s.updSlot t f).romStuck = s.romStuck := rfl
@[simp] theorem State.updSlot_minRetry (s : State) (t : ThreadId) (f : Slot → Slot) : (s.updSlot t f).minRetry = s.minRetry := rfl
@[simp] theorem State.updSlot_power (s : State) (t : ThreadId) (f : Slot → Slot) : (s.updSlot t f).power = s.power := rfl
@[simp] theorem State.updSlot_dumps (s : State) (t : ThreadId) (f : Slot → Slot) : (s.updSlot t f).dumps = s.dumps := rfl
@[simp] theorem State.updSlot_rootSyn (s : State) (t : ThreadId) (f : Slot → Slot) : (s.updSlot t f).rootSyn = s.rootSyn := rfl
@[simp] theorem State.updSlot_isoPorts (s : State) (t : ThreadId) (f : Slot → Slot) : (s.updSlot t f).isoPorts = s.isoPorts := rfl
@[simp] theorem State.updSlot_haltTimes (s : State) (t : ThreadId) (f : Slot → Slot) : (s.updSlot t f).haltTimes = s.haltTimes := rfl
@[simp] theorem State.updSlot_restartAsked (s : State) (t : ThreadId) (f : Slot → Slot) : (s.updSlot t f).restartAsked = s.restartAsked := rfl
@[simp] theorem State.updSlot_frozen (s : State) (t : ThreadId) (f : Slot → Slot) : (s.updSlot t f).frozen = s.frozen := rfl
@[simp] theorem State.updSlot_canErr (s : State) (t : ThreadId) (f : Slot → Slot) : (s.updSlot t f).canErr = s.canErr := rfl
@[simp] theorem State.updSlot_capLimit (s : State) (t : ThreadId) (f : Slot → Slot) : (s.updSlot t f).capLimit = s.capLimit := rfl
@[simp] theorem State.updSlot_capParked (s : State) (t : ThreadId) (f : Slot → Slot) : (s.updSlot t f).capParked = s.capParked := rfl
@[simp] theorem State.updSlot_heatLimit (s : State) (t : ThreadId) (f : Slot → Slot) : (s.updSlot t f).heatLimit = s.heatLimit := rfl
@[simp] theorem State.updSlot_railLock (s : State) (t : ThreadId) (f : Slot → Slot) : (s.updSlot t f).railLock = s.railLock := rfl
@[simp] theorem State.updSlot_paceLow (s : State) (t : ThreadId) (f : Slot → Slot) : (s.updSlot t f).paceLow = s.paceLow := rfl
@[simp] theorem State.updSlot_boost (s : State) (t : ThreadId) (f : Slot → Slot) : (s.updSlot t f).boost = s.boost := rfl
@[simp] theorem State.updSlot_bulk (s : State) (t : ThreadId) (f : Slot → Slot) : (s.updSlot t f).bulk = s.bulk := rfl
@[simp] theorem State.updSlot_sdo (s : State) (t : ThreadId) (f : Slot → Slot) : (s.updSlot t f).sdo = s.sdo := rfl
@[simp] theorem State.updSlot_accums (s : State) (t : ThreadId) (f : Slot → Slot) : (s.updSlot t f).accums = s.accums := rfl
@[simp] theorem State.updSlot_eids (s : State) (t : ThreadId) (f : Slot → Slot) : (s.updSlot t f).eids = s.eids := rfl
@[simp] theorem State.updSlot_dbgEnHigh (s : State) (t : ThreadId) (f : Slot → Slot) : (s.updSlot t f).dbgEnHigh = s.dbgEnHigh := rfl
@[simp] theorem State.updSlot_tapIr (s : State) (t : ThreadId) (f : Slot → Slot) : (s.updSlot t f).tapIr = s.tapIr := rfl
@[simp] theorem State.updSlot_tapPins (s : State) (t : ThreadId) (f : Slot → Slot) : (s.updSlot t f).tapPins = s.tapPins := rfl
@[simp] theorem State.updSlot_tapDrive (s : State) (t : ThreadId) (f : Slot → Slot) : (s.updSlot t f).tapDrive = s.tapDrive := rfl
@[simp] theorem State.updSlot_tapDict (s : State) (t : ThreadId) (f : Slot → Slot) : (s.updSlot t f).tapDict = s.tapDict := rfl
@[simp] theorem State.updSlot_tapMem (s : State) (t : ThreadId) (f : Slot → Slot) : (s.updSlot t f).tapMem = s.tapMem := rfl
@[simp] theorem State.updSlot_stem (s : State) (t : ThreadId) (f : Slot → Slot) : (s.updSlot t f).stem = s.stem := rfl
@[simp] theorem State.updSlot_stemRr (s : State) (t : ThreadId) (f : Slot → Slot) : (s.updSlot t f).stemRr = s.stemRr := rfl
@[simp] theorem State.updSlot_cross (s : State) (t : ThreadId) (f : Slot → Slot) : (s.updSlot t f).cross = s.cross := rfl
@[simp] theorem State.updSlot_msixTab (s : State) (t : ThreadId) (f : Slot → Slot) : (s.updSlot t f).msixTab = s.msixTab := rfl
@[simp] theorem State.updSlot_paceSet (s : State) (t : ThreadId) (f : Slot → Slot) : (s.updSlot t f).paceSet = s.paceSet := rfl
@[simp] theorem State.updSlot_pipes (s : State) (t : ThreadId) (f : Slot → Slot) : (s.updSlot t f).pipes = s.pipes := rfl
@[simp] theorem State.updSlot_scratchBad (s : State) (t : ThreadId) (f : Slot → Slot) : (s.updSlot t f).scratchBad = s.scratchBad := rfl
@[simp] theorem State.updSlot_histOn (s : State) (t : ThreadId) (f : Slot → Slot) : (s.updSlot t f).histOn = s.histOn := rfl
@[simp] theorem State.updSlot_haltWords (s : State) (t : ThreadId) (f : Slot → Slot) : (s.updSlot t f).haltWords = s.haltWords := rfl
@[simp] theorem State.updSlot_dget_reads (s : State) (t : ThreadId) (f : Slot → Slot) (x y : Nat) : (s.updSlot t f).dget x y = s.dget x y := rfl
@[simp] theorem State.updSlot_domByte_reads (s : State) (t : ThreadId) (f : Slot → Slot) (x y z : Nat) : (s.updSlot t f).domByte x y z = s.domByte x y z := rfl
@[simp] theorem State.updSlot_memByte_reads (s : State) (t : ThreadId) (f : Slot → Slot) (x : Nat) : (s.updSlot t f).memByte x = s.memByte x := rfl
@[simp] theorem State.updSlot_winGet_reads (s : State) (t : ThreadId) (f : Slot → Slot) (x : Nat) : (s.updSlot t f).winGet x = s.winGet x := rfl
@[simp] theorem State.updSlot_thr_reads (s : State) (t : ThreadId) (f : Slot → Slot) (x : Hart) : (s.updSlot t f).thr x = s.thr x := rfl
@[simp] theorem State.updSlot_dreg_reads (s : State) (t : ThreadId) (f : Slot → Slot) (x : Hart) (y : Reg) : (s.updSlot t f).dreg x y = s.dreg x y := rfl
@[simp] theorem State.updSlot_areg_reads (s : State) (t : ThreadId) (f : Slot → Slot) (x : Hart) (y : Reg) : (s.updSlot t f).areg x y = s.areg x y := rfl
@[simp] theorem State.updSlot_acc_reads (s : State) (t : ThreadId) (f : Slot → Slot) (x : Hart) (y : Fin 4) : (s.updSlot t f).acc x y = s.acc x y := rfl
@[simp] theorem State.updSlot_creg_reads (s : State) (t : ThreadId) (f : Slot → Slot) (x : Hart) (y : CReg) : (s.updSlot t f).creg x y = s.creg x y := rfl
@[simp] theorem State.updSlot_core_reads (s : State) (t : ThreadId) (f : Slot → Slot) (x : CoreId) : (s.updSlot t f).core x = s.core x := rfl
@[simp] theorem State.updSlot_clus_reads (s : State) (t : ThreadId) (f : Slot → Slot) (x : Petal) (y : Cluster) : (s.updSlot t f).clus x y = s.clus x y := rfl
@[simp] theorem State.updSlot_chan_reads (s : State) (t : ThreadId) (f : Slot → Slot) (x : Petal) (y : Nat) : (s.updSlot t f).chan x y = s.chan x y := rfl
@[simp] theorem State.updSlot_pet_reads (s : State) (t : ThreadId) (f : Slot → Slot) (x : Petal) : (s.updSlot t f).pet x = s.pet x := rfl
@[simp] theorem State.updSlot_q_reads (s : State) (t : ThreadId) (f : Slot → Slot) (x : Nat) : (s.updSlot t f).q x = s.q x := rfl
@[simp] theorem State.updSlot_coll_reads (s : State) (t : ThreadId) (f : Slot → Slot) (x : Collector) : (s.updSlot t f).coll x = s.coll x := rfl
@[simp] theorem State.updSlot_dram_reads (s : State) (t : ThreadId) (f : Slot → Slot) (x : Nat) : (s.updSlot t f).dram x = s.dram x := rfl
@[simp] theorem State.updSlot_mbox_reads (s : State) (t : ThreadId) (f : Slot → Slot) (x : Nat) : (s.updSlot t f).mbox x = s.mbox x := rfl
@[simp] theorem State.updSlot_pipe_reads (s : State) (t : ThreadId) (f : Slot → Slot) (x : CoreId) : (s.updSlot t f).pipe x = s.pipe x := rfl

/-! ### State.setPipe changes `pipes` -/

@[simp] theorem State.setPipe_time (s : State) (k : CoreId) (p : Pipe) : (s.setPipe k p).time = s.time := rfl
@[simp] theorem State.setPipe_pending (s : State) (k : CoreId) (p : Pipe) : (s.setPipe k p).pending = s.pending := rfl
@[simp] theorem State.setPipe_dict (s : State) (k : CoreId) (p : Pipe) : (s.setPipe k p).dict = s.dict := rfl
@[simp] theorem State.setPipe_doms (s : State) (k : CoreId) (p : Pipe) : (s.setPipe k p).doms = s.doms := rfl
@[simp] theorem State.setPipe_mem (s : State) (k : CoreId) (p : Pipe) : (s.setPipe k p).mem = s.mem := rfl
@[simp] theorem State.setPipe_poison (s : State) (k : CoreId) (p : Pipe) : (s.setPipe k p).poison = s.poison := rfl
@[simp] theorem State.setPipe_fresh (s : State) (k : CoreId) (p : Pipe) : (s.setPipe k p).fresh = s.fresh := rfl
@[simp] theorem State.setPipe_out (s : State) (k : CoreId) (p : Pipe) : (s.setPipe k p).out = s.out := rfl
@[simp] theorem State.setPipe_win (s : State) (k : CoreId) (p : Pipe) : (s.setPipe k p).win = s.win := rfl
@[simp] theorem State.setPipe_threads (s : State) (k : CoreId) (p : Pipe) : (s.setPipe k p).threads = s.threads := rfl
@[simp] theorem State.setPipe_cores (s : State) (k : CoreId) (p : Pipe) : (s.setPipe k p).cores = s.cores := rfl
@[simp] theorem State.setPipe_clusters (s : State) (k : CoreId) (p : Pipe) : (s.setPipe k p).clusters = s.clusters := rfl
@[simp] theorem State.setPipe_chans (s : State) (k : CoreId) (p : Pipe) : (s.setPipe k p).chans = s.chans := rfl
@[simp] theorem State.setPipe_census (s : State) (k : CoreId) (p : Pipe) : (s.setPipe k p).census = s.census := rfl
@[simp] theorem State.setPipe_colls (s : State) (k : CoreId) (p : Pipe) : (s.setPipe k p).colls = s.colls := rfl
@[simp] theorem State.setPipe_trans (s : State) (k : CoreId) (p : Pipe) : (s.setPipe k p).trans = s.trans := rfl
@[simp] theorem State.setPipe_staged (s : State) (k : CoreId) (p : Pipe) : (s.setPipe k p).staged = s.staged := rfl
@[simp] theorem State.setPipe_snaps (s : State) (k : CoreId) (p : Pipe) : (s.setPipe k p).snaps = s.snaps := rfl
@[simp] theorem State.setPipe_halts (s : State) (k : CoreId) (p : Pipe) : (s.setPipe k p).halts = s.halts := rfl
@[simp] theorem State.setPipe_haltDue (s : State) (k : CoreId) (p : Pipe) : (s.setPipe k p).haltDue = s.haltDue := rfl
@[simp] theorem State.setPipe_msixOpen (s : State) (k : CoreId) (p : Pipe) : (s.setPipe k p).msixOpen = s.msixOpen := rfl
@[simp] theorem State.setPipe_msixPend (s : State) (k : CoreId) (p : Pipe) : (s.setPipe k p).msixPend = s.msixPend := rfl
@[simp] theorem State.setPipe_busMaster (s : State) (k : CoreId) (p : Pipe) : (s.setPipe k p).busMaster = s.busMaster := rfl
@[simp] theorem State.setPipe_holders (s : State) (k : CoreId) (p : Pipe) : (s.setPipe k p).holders = s.holders := rfl
@[simp] theorem State.setPipe_waiters (s : State) (k : CoreId) (p : Pipe) : (s.setPipe k p).waiters = s.waiters := rfl
@[simp] theorem State.setPipe_drams (s : State) (k : CoreId) (p : Pipe) : (s.setPipe k p).drams = s.drams := rfl
@[simp] theorem State.setPipe_sessions (s : State) (k : CoreId) (p : Pipe) : (s.setPipe k p).sessions = s.sessions := rfl
@[simp] theorem State.setPipe_perst (s : State) (k : CoreId) (p : Pipe) : (s.setPipe k p).perst = s.perst := rfl
@[simp] theorem State.setPipe_petals (s : State) (k : CoreId) (p : Pipe) : (s.setPipe k p).petals = s.petals := rfl
@[simp] theorem State.setPipe_slots (s : State) (k : CoreId) (p : Pipe) : (s.setPipe k p).slots = s.slots := rfl
@[simp] theorem State.setPipe_tables (s : State) (k : CoreId) (p : Pipe) : (s.setPipe k p).tables = s.tables := rfl
@[simp] theorem State.setPipe_cow (s : State) (k : CoreId) (p : Pipe) : (s.setPipe k p).cow = s.cow := rfl
@[simp] theorem State.setPipe_rxPause (s : State) (k : CoreId) (p : Pipe) : (s.setPipe k p).rxPause = s.rxPause := rfl
@[simp] theorem State.setPipe_stalled (s : State) (k : CoreId) (p : Pipe) : (s.setPipe k p).stalled = s.stalled := rfl
@[simp] theorem State.setPipe_modes (s : State) (k : CoreId) (p : Pipe) : (s.setPipe k p).modes = s.modes := rfl
@[simp] theorem State.setPipe_mism (s : State) (k : CoreId) (p : Pipe) : (s.setPipe k p).mism = s.mism := rfl
@[simp] theorem State.setPipe_sorrel (s : State) (k : CoreId) (p : Pipe) : (s.setPipe k p).sorrel = s.sorrel := rfl
@[simp] theorem State.setPipe_swaps (s : State) (k : CoreId) (p : Pipe) : (s.setPipe k p).swaps = s.swaps := rfl
@[simp] theorem State.setPipe_mboxes (s : State) (k : CoreId) (p : Pipe) : (s.setPipe k p).mboxes = s.mboxes := rfl
@[simp] theorem State.setPipe_requeue (s : State) (k : CoreId) (p : Pipe) : (s.setPipe k p).requeue = s.requeue := rfl
@[simp] theorem State.setPipe_repairs (s : State) (k : CoreId) (p : Pipe) : (s.setPipe k p).repairs = s.repairs := rfl
@[simp] theorem State.setPipe_ceTimes (s : State) (k : CoreId) (p : Pipe) : (s.setPipe k p).ceTimes = s.ceTimes := rfl
@[simp] theorem State.setPipe_ueTimes (s : State) (k : CoreId) (p : Pipe) : (s.setPipe k p).ueTimes = s.ueTimes := rfl
@[simp] theorem State.setPipe_wearWarned (s : State) (k : CoreId) (p : Pipe) : (s.setPipe k p).wearWarned = s.wearWarned := rfl
@[simp] theorem State.setPipe_swapLogged (s : State) (k : CoreId) (p : Pipe) : (s.setPipe k p).swapLogged = s.swapLogged := rfl
@[simp] theorem State.setPipe_cntBase (s : State) (k : CoreId) (p : Pipe) : (s.setPipe k p).cntBase = s.cntBase := rfl
@[simp] theorem State.setPipe_journal (s : State) (k : CoreId) (p : Pipe) : (s.setPipe k p).journal = s.journal := rfl
@[simp] theorem State.setPipe_lastHash (s : State) (k : CoreId) (p : Pipe) : (s.setPipe k p).lastHash = s.lastHash := rfl
@[simp] theorem State.setPipe_heldSeqs (s : State) (k : CoreId) (p : Pipe) : (s.setPipe k p).heldSeqs = s.heldSeqs := rfl
@[simp] theorem State.setPipe_golneB (s : State) (k : CoreId) (p : Pipe) : (s.setPipe k p).golneB = s.golneB := rfl
@[simp] theorem State.setPipe_golneDown (s : State) (k : CoreId) (p : Pipe) : (s.setPipe k p).golneDown = s.golneDown := rfl
@[simp] theorem State.setPipe_act (s : State) (k : CoreId) (p : Pipe) : (s.setPipe k p).act = s.act := rfl
@[simp] theorem State.setPipe_minStart (s : State) (k : CoreId) (p : Pipe) : (s.setPipe k p).minStart = s.minStart := rfl
@[simp] theorem State.setPipe_noDram (s : State) (k : CoreId) (p : Pipe) : (s.setPipe k p).noDram = s.noDram := rfl
@[simp] theorem State.setPipe_nextRaise (s : State) (k : CoreId) (p : Pipe) : (s.setPipe k p).nextRaise = s.nextRaise := rfl
@[simp] theorem State.setPipe_pseq (s : State) (k : CoreId) (p : Pipe) : (s.setPipe k p).pseq = s.pseq := rfl
@[simp] theorem State.setPipe_unlockMeas (s : State) (k : CoreId) (p : Pipe) : (s.setPipe k p).unlockMeas = s.unlockMeas := rfl
@[simp] theorem State.setPipe_unlockEnd (s : State) (k : CoreId) (p : Pipe) : (s.setPipe k p).unlockEnd = s.unlockEnd := rfl
@[simp] theorem State.setPipe_unlockPetals (s : State) (k : CoreId) (p : Pipe) : (s.setPipe k p).unlockPetals = s.unlockPetals := rfl
@[simp] theorem State.setPipe_romStuck (s : State) (k : CoreId) (p : Pipe) : (s.setPipe k p).romStuck = s.romStuck := rfl
@[simp] theorem State.setPipe_minRetry (s : State) (k : CoreId) (p : Pipe) : (s.setPipe k p).minRetry = s.minRetry := rfl
@[simp] theorem State.setPipe_power (s : State) (k : CoreId) (p : Pipe) : (s.setPipe k p).power = s.power := rfl
@[simp] theorem State.setPipe_dumps (s : State) (k : CoreId) (p : Pipe) : (s.setPipe k p).dumps = s.dumps := rfl
@[simp] theorem State.setPipe_rootSyn (s : State) (k : CoreId) (p : Pipe) : (s.setPipe k p).rootSyn = s.rootSyn := rfl
@[simp] theorem State.setPipe_isoPorts (s : State) (k : CoreId) (p : Pipe) : (s.setPipe k p).isoPorts = s.isoPorts := rfl
@[simp] theorem State.setPipe_haltTimes (s : State) (k : CoreId) (p : Pipe) : (s.setPipe k p).haltTimes = s.haltTimes := rfl
@[simp] theorem State.setPipe_restartAsked (s : State) (k : CoreId) (p : Pipe) : (s.setPipe k p).restartAsked = s.restartAsked := rfl
@[simp] theorem State.setPipe_frozen (s : State) (k : CoreId) (p : Pipe) : (s.setPipe k p).frozen = s.frozen := rfl
@[simp] theorem State.setPipe_canErr (s : State) (k : CoreId) (p : Pipe) : (s.setPipe k p).canErr = s.canErr := rfl
@[simp] theorem State.setPipe_capLimit (s : State) (k : CoreId) (p : Pipe) : (s.setPipe k p).capLimit = s.capLimit := rfl
@[simp] theorem State.setPipe_capParked (s : State) (k : CoreId) (p : Pipe) : (s.setPipe k p).capParked = s.capParked := rfl
@[simp] theorem State.setPipe_heatLimit (s : State) (k : CoreId) (p : Pipe) : (s.setPipe k p).heatLimit = s.heatLimit := rfl
@[simp] theorem State.setPipe_railLock (s : State) (k : CoreId) (p : Pipe) : (s.setPipe k p).railLock = s.railLock := rfl
@[simp] theorem State.setPipe_paceLow (s : State) (k : CoreId) (p : Pipe) : (s.setPipe k p).paceLow = s.paceLow := rfl
@[simp] theorem State.setPipe_boost (s : State) (k : CoreId) (p : Pipe) : (s.setPipe k p).boost = s.boost := rfl
@[simp] theorem State.setPipe_bulk (s : State) (k : CoreId) (p : Pipe) : (s.setPipe k p).bulk = s.bulk := rfl
@[simp] theorem State.setPipe_sdo (s : State) (k : CoreId) (p : Pipe) : (s.setPipe k p).sdo = s.sdo := rfl
@[simp] theorem State.setPipe_accums (s : State) (k : CoreId) (p : Pipe) : (s.setPipe k p).accums = s.accums := rfl
@[simp] theorem State.setPipe_eids (s : State) (k : CoreId) (p : Pipe) : (s.setPipe k p).eids = s.eids := rfl
@[simp] theorem State.setPipe_dbgEnHigh (s : State) (k : CoreId) (p : Pipe) : (s.setPipe k p).dbgEnHigh = s.dbgEnHigh := rfl
@[simp] theorem State.setPipe_tapIr (s : State) (k : CoreId) (p : Pipe) : (s.setPipe k p).tapIr = s.tapIr := rfl
@[simp] theorem State.setPipe_tapPins (s : State) (k : CoreId) (p : Pipe) : (s.setPipe k p).tapPins = s.tapPins := rfl
@[simp] theorem State.setPipe_tapDrive (s : State) (k : CoreId) (p : Pipe) : (s.setPipe k p).tapDrive = s.tapDrive := rfl
@[simp] theorem State.setPipe_tapDict (s : State) (k : CoreId) (p : Pipe) : (s.setPipe k p).tapDict = s.tapDict := rfl
@[simp] theorem State.setPipe_tapMem (s : State) (k : CoreId) (p : Pipe) : (s.setPipe k p).tapMem = s.tapMem := rfl
@[simp] theorem State.setPipe_stem (s : State) (k : CoreId) (p : Pipe) : (s.setPipe k p).stem = s.stem := rfl
@[simp] theorem State.setPipe_stemRr (s : State) (k : CoreId) (p : Pipe) : (s.setPipe k p).stemRr = s.stemRr := rfl
@[simp] theorem State.setPipe_cross (s : State) (k : CoreId) (p : Pipe) : (s.setPipe k p).cross = s.cross := rfl
@[simp] theorem State.setPipe_msixTab (s : State) (k : CoreId) (p : Pipe) : (s.setPipe k p).msixTab = s.msixTab := rfl
@[simp] theorem State.setPipe_paceSet (s : State) (k : CoreId) (p : Pipe) : (s.setPipe k p).paceSet = s.paceSet := rfl
@[simp] theorem State.setPipe_scratchBad (s : State) (k : CoreId) (p : Pipe) : (s.setPipe k p).scratchBad = s.scratchBad := rfl
@[simp] theorem State.setPipe_histOn (s : State) (k : CoreId) (p : Pipe) : (s.setPipe k p).histOn = s.histOn := rfl
@[simp] theorem State.setPipe_haltWords (s : State) (k : CoreId) (p : Pipe) : (s.setPipe k p).haltWords = s.haltWords := rfl
@[simp] theorem State.setPipe_dget_reads (s : State) (k : CoreId) (p : Pipe) (x y : Nat) : (s.setPipe k p).dget x y = s.dget x y := rfl
@[simp] theorem State.setPipe_domByte_reads (s : State) (k : CoreId) (p : Pipe) (x y z : Nat) : (s.setPipe k p).domByte x y z = s.domByte x y z := rfl
@[simp] theorem State.setPipe_memByte_reads (s : State) (k : CoreId) (p : Pipe) (x : Nat) : (s.setPipe k p).memByte x = s.memByte x := rfl
@[simp] theorem State.setPipe_winGet_reads (s : State) (k : CoreId) (p : Pipe) (x : Nat) : (s.setPipe k p).winGet x = s.winGet x := rfl
@[simp] theorem State.setPipe_thr_reads (s : State) (k : CoreId) (p : Pipe) (x : Hart) : (s.setPipe k p).thr x = s.thr x := rfl
@[simp] theorem State.setPipe_dreg_reads (s : State) (k : CoreId) (p : Pipe) (x : Hart) (y : Reg) : (s.setPipe k p).dreg x y = s.dreg x y := rfl
@[simp] theorem State.setPipe_areg_reads (s : State) (k : CoreId) (p : Pipe) (x : Hart) (y : Reg) : (s.setPipe k p).areg x y = s.areg x y := rfl
@[simp] theorem State.setPipe_acc_reads (s : State) (k : CoreId) (p : Pipe) (x : Hart) (y : Fin 4) : (s.setPipe k p).acc x y = s.acc x y := rfl
@[simp] theorem State.setPipe_creg_reads (s : State) (k : CoreId) (p : Pipe) (x : Hart) (y : CReg) : (s.setPipe k p).creg x y = s.creg x y := rfl
@[simp] theorem State.setPipe_core_reads (s : State) (k : CoreId) (p : Pipe) (x : CoreId) : (s.setPipe k p).core x = s.core x := rfl
@[simp] theorem State.setPipe_clus_reads (s : State) (k : CoreId) (p : Pipe) (x : Petal) (y : Cluster) : (s.setPipe k p).clus x y = s.clus x y := rfl
@[simp] theorem State.setPipe_chan_reads (s : State) (k : CoreId) (p : Pipe) (x : Petal) (y : Nat) : (s.setPipe k p).chan x y = s.chan x y := rfl
@[simp] theorem State.setPipe_pet_reads (s : State) (k : CoreId) (p : Pipe) (x : Petal) : (s.setPipe k p).pet x = s.pet x := rfl
@[simp] theorem State.setPipe_q_reads (s : State) (k : CoreId) (p : Pipe) (x : Nat) : (s.setPipe k p).q x = s.q x := rfl
@[simp] theorem State.setPipe_slot_reads (s : State) (k : CoreId) (p : Pipe) (x : ThreadId) : (s.setPipe k p).slot x = s.slot x := rfl
@[simp] theorem State.setPipe_coll_reads (s : State) (k : CoreId) (p : Pipe) (x : Collector) : (s.setPipe k p).coll x = s.coll x := rfl
@[simp] theorem State.setPipe_dram_reads (s : State) (k : CoreId) (p : Pipe) (x : Nat) : (s.setPipe k p).dram x = s.dram x := rfl
@[simp] theorem State.setPipe_mbox_reads (s : State) (k : CoreId) (p : Pipe) (x : Nat) : (s.setPipe k p).mbox x = s.mbox x := rfl

end Sys2Proof.Machine
end

