-- ==== Sys2Proof/Laws/Ops.lean ====
section
/-!
SUPPORT. Laws/Ops.lean: reading after writing, for each kind of state that Machine/Ops.lean names, and that every operation on
memory keeps its canonical form.
-/
namespace Sys2Proof.Machine

/-! ## Dictionary scalars -/

/-- Two entries share a key only if they are one entry. -/
theorem dk_inj {i j i' j' : Nat} (hj : j < 256) (hj' : j' < 256) (h : dk i j = dk i' j') : i = i' ∧ j = j' := by
  unfold dk at h
  omega

@[simp] theorem State.dget_dset_self (s : State) (i j v : Nat) : (s.dset i j v).dget i j = v := by
  simp [State.dget, State.dset]

theorem State.dget_dset_ne (s : State) {i j i' j' : Nat} (v : Nat) (h : dk i' j' ≠ dk i j) :
    (s.dset i j v).dget i' j' = s.dget i' j' :=
  Tab.get_set_ne _ _ _ v h

@[simp] theorem State.dget_bumpBy_self (s : State) (i j n : Nat) :
    (s.bumpBy i j n).dget i j = (s.dget i j + n) % 2 ^ 64 := State.dget_dset_self ..

@[simp] theorem State.dget_bump_self (s : State) (i j : Nat) : (s.bump i j).dget i j = (s.dget i j + 1) % 2 ^ 64 :=
  State.dget_dset_self ..

theorem State.dget_bumpBy_ne (s : State) {i j i' j' : Nat} (n : Nat) (h : dk i' j' ≠ dk i j) :
    (s.bumpBy i j n).dget i' j' = s.dget i' j' := State.dget_dset_ne s _ h

theorem State.dget_bump_ne (s : State) {i j i' j' : Nat} (h : dk i' j' ≠ dk i j) :
    (s.bump i j).dget i' j' = s.dget i' j' := State.dget_dset_ne s _ h

/-! ## DOMAIN bytes -/

/-- Reading DOMAIN bytes depends on `doms` alone. -/
theorem State.domRead_congr {s t : State} (h : s.doms = t.doms) (i j o n : Nat) : s.domRead i j o n = t.domRead i j o n := by
  induction n generalizing o with
  | zero => rfl
  | succ n ih => simp [State.domRead, State.domByte, h, ih]

theorem State.domNat_congr {s t : State} (h : s.doms = t.doms) (i j o n : Nat) : s.domNat i j o n = t.domNat i j o n := by
  simp [State.domNat, State.domRead_congr h]

/-- A byte outside the range written reads as before. -/
theorem State.domByte_domWrite_out (s : State) {i j o i' j' o' : Nat} (l : List Byte)
    (h : domKey i' j' o' < domKey i j o ∨ domKey i j o + l.length ≤ domKey i' j' o') :
    (s.domWrite i j o l).domByte i' j' o' = s.domByte i' j' o' := by
  induction l generalizing s o with
  | nil => rfl
  | cons b l ih =>
    simp only [List.length_cons, domKey] at h
    rw [State.domWrite, ih]
    · exact Tab.get_set_ne _ _ _ _ (by simp only [domKey]; omega)
    · simp only [domKey]; omega

/-- A byte inside the range written reads as it was written. -/
theorem State.domByte_domWrite_in (s : State) (i j o : Nat) (l : List Byte) (k : Nat) (h : k < l.length) :
    (s.domWrite i j o l).domByte i j (o + k) = l[k] := by
  induction l generalizing s o k with
  | nil => simp at h
  | cons b l ih =>
    rw [State.domWrite]
    cases k with
    | zero =>
      rw [State.domByte_domWrite_out _ l (.inl (by simp only [domKey]; omega))]
      simp [State.domByte]
    | succ k =>
      have := ih { s with doms := Tab.set (domDefault i j o) s.doms (domKey i j o) b } (o + 1) k
        (by simpa using h)
      rw [show o + (k + 1) = o + 1 + k by omega, this]
      rfl

/-- Bytes written read back. -/
theorem State.domRead_domWrite_self (s : State) (i j o : Nat) (l : List Byte) :
    (s.domWrite i j o l).domRead i j o l.length = l := by
  have key : ∀ n k, k + n = l.length → (s.domWrite i j o l).domRead i j (o + k) n = l.drop k := by
    intro n
    induction n with
    | zero => intro k hk; simp [State.domRead, List.drop_of_length_le (show l.length ≤ k by omega)]
    | succ n ih =>
      intro k hk
      have hlt : k < l.length := by omega
      rw [State.domRead, State.domByte_domWrite_in s i j o l k hlt, Nat.add_assoc, ih (k + 1) (by omega)]
      exact (List.drop_eq_getElem_cons hlt).symm
  exact key l.length 0 (by omega)

/-! ## Memory -/

/-- Reading memory depends on `mem` alone. -/
theorem State.memRead_congr {s t : State} (h : s.mem = t.mem) (a n : Nat) : s.memRead a n = t.memRead a n := by
  induction n generalizing a with
  | zero => rfl
  | succ n ih => simp [State.memRead, State.memByte, h, ih]

theorem State.memNat_congr {s t : State} (h : s.mem = t.mem) (a n : Nat) : s.memNat a n = t.memNat a n := by
  simp [State.memNat, State.memRead_congr h]

theorem memPutAll_get_out (m : List Host.Cell) (a : Nat) (l : List Byte) {x : Nat} (h : x < a ∨ a + l.length ≤ x) :
    Tab.get memDefault (memPutAll m a l) x = Tab.get memDefault m x := by
  induction l generalizing m a with
  | nil => rfl
  | cons b l ih =>
    simp only [List.length_cons] at h
    rw [memPutAll, ih _ _ (by omega), memPut]
    exact Tab.get_set_ne _ _ _ _ (by omega)

theorem memPutAll_get_in (m : List Host.Cell) (a : Nat) (l : List Byte) (k : Nat) (h : k < l.length) :
    Tab.get memDefault (memPutAll m a l) (a + k) = l[k] := by
  induction l generalizing m a k with
  | nil => simp at h
  | cons b l ih =>
    rw [memPutAll]
    cases k with
    | zero => rw [memPutAll_get_out _ _ l (.inl (by omega))]; simp [memPut]
    | succ k =>
      rw [show a + (k + 1) = a + 1 + k by omega, ih _ _ _ (by simpa using h)]
      rfl

/-- A byte of memory outside the bytes written reads as before. -/
theorem State.memByte_memWrite_out (s : State) (a : Nat) (l : List Byte) {x : Nat} (h : x < a ∨ a + l.length ≤ x) :
    (s.memWrite a l).memByte x = s.memByte x := memPutAll_get_out s.mem a l h

/-- A byte of memory inside the bytes written reads as it was written. -/
theorem State.memByte_memWrite_in (s : State) (a : Nat) (l : List Byte) (k : Nat) (h : k < l.length) :
    (s.memWrite a l).memByte (a + k) = l[k] := memPutAll_get_in s.mem a l k h

/-- Bytes written to memory read back. -/
theorem State.memRead_memWrite_self (s : State) (a : Nat) (l : List Byte) : (s.memWrite a l).memRead a l.length = l := by
  have key : ∀ n k, k + n = l.length → (s.memWrite a l).memRead (a + k) n = l.drop k := by
    intro n
    induction n with
    | zero => intro k hk; simp [State.memRead, List.drop_of_length_le (show l.length ≤ k by omega)]
    | succ n ih =>
      intro k hk
      have hlt : k < l.length := by omega
      rw [State.memRead, State.memByte_memWrite_in s a l k hlt, Nat.add_assoc, ih (k + 1) (by omega)]
      exact (List.drop_eq_getElem_cons hlt).symm
  exact key l.length 0 (by omega)

theorem memPut_wf (m : List Host.Cell) (a : Nat) (b : Byte) (h : Memory.wf m = true) : Memory.wf (memPut m a b) = true :=
  Tab.wf_set memDefault m a b h

theorem memPutAll_wf (m : List Host.Cell) (a : Nat) (l : List Byte) (h : Memory.wf m = true) :
    Memory.wf (memPutAll m a l) = true := by
  induction l generalizing m a with
  | nil => exact h
  | cons b l ih => exact ih _ _ (memPut_wf m a b h)

theorem memPutPairs_wf (m : List Host.Cell) (l : List (Nat × Byte)) (h : Memory.wf m = true) :
    Memory.wf (memPutPairs m l) = true := by
  induction l generalizing m with
  | nil => exact h
  | cons e l ih => exact ih _ (memPut_wf m e.1 e.2 h)

theorem memClear_wf (m : List Host.Cell) (a n : Nat) (h : Memory.wf m = true) : Memory.wf (Tab.clearRange m a n) = true :=
  Tab.wf_clearRange m a n h

theorem memLay_wf (n : Nat) (a b : List Host.Cell) (ha : Memory.wf a = true) (hb : Memory.wf b = true) :
    Memory.wf (Tab.lay n a b) = true := Tab.wf_lay memDefault n a b ha hb

/-- Writing memory keeps its canonical form. -/
theorem State.memWrite_wf (s : State) (a : Nat) (l : List Byte) (h : Memory.wf s.mem = true) :
    Memory.wf (s.memWrite a l).mem = true := memPutAll_wf s.mem a l h

/-- Clearing memory keeps its canonical form. -/
theorem State.memClear_wf (s : State) (a n : Nat) (h : Memory.wf s.mem = true) : Memory.wf (s.memClear a n).mem = true :=
  Sys2Proof.Machine.memClear_wf s.mem a n h

/-- The memory after reset is in canonical form. -/
theorem State.reset_mem_wf : Memory.wf State.reset.mem = true := rfl

/-! ## Harts and their registers -/

/-- No two threads share a master ID. -/
theorem ThreadId.mid_inj {t u : ThreadId} (h : t.mid = u.mid) : t = u := by
  obtain ⟨⟨p, hp⟩, ⟨c, hc⟩, ⟨k, hk⟩, ⟨n, hn⟩⟩ := t
  obtain ⟨⟨p', hp'⟩, ⟨c', hc'⟩, ⟨k', hk'⟩, ⟨n', hn'⟩⟩ := u
  simp only [ThreadId.mid] at h
  simp only [ThreadId.mk.injEq, Fin.mk.injEq]
  omega

theorem ThreadId.mid_lt (t : ThreadId) : t.mid < 4096 := by
  obtain ⟨⟨p, hp⟩, ⟨c, hc⟩, ⟨k, hk⟩, ⟨n, hn⟩⟩ := t
  simp only [ThreadId.mid]
  omega

/-- No two harts share a key. -/
theorem hartKey_inj {h h' : Hart} (e : hartKey h = hartKey h') : h = h' := by
  cases h <;> cases h' <;> simp only [hartKey] at e
  · rw [ThreadId.mid_inj e]
  · exact absurd e (by have := ThreadId.mid_lt ‹_›; omega)
  · exact absurd e (by have := ThreadId.mid_lt ‹_›; omega)
  · rfl

theorem hartKey_ne {h h' : Hart} (n : h ≠ h') : hartKey h ≠ hartKey h' := fun e => n (hartKey_inj e)

/-- A master ID names the thread that has it. -/
theorem threadOf_mid (t : ThreadId) : threadOf t.mid = some t := by
  obtain ⟨⟨p, hp⟩, ⟨c, hc⟩, ⟨k, hk⟩, ⟨n, hn⟩⟩ := t
  have e : (⟨⟨p, hp⟩, ⟨c, hc⟩, ⟨k, hk⟩, ⟨n, hn⟩⟩ : ThreadId).mid = p * 1024 + c * 128 + k * 16 + n := rfl
  rw [e]
  unfold threadOf
  rw [dif_pos ⟨by omega, by omega, by omega⟩]
  have e1 : (p * 1024 + c * 128 + k * 16 + n) / 1024 = p := by omega
  have e2 : (p * 1024 + c * 128 + k * 16 + n) / 128 % 8 = c := by omega
  have e3 : (p * 1024 + c * 128 + k * 16 + n) / 16 % 8 = k := by omega
  have e4 : (p * 1024 + c * 128 + k * 16 + n) % 8 = n := by omega
  simp only [e1, e2, e3, e4]

@[simp] theorem State.thr_setThr_self (s : State) (h : Hart) (x : Thread) : (s.setThr h x).thr h = x := by
  simp [State.thr, State.setThr]

theorem State.thr_setThr_ne (s : State) {h h' : Hart} (x : Thread) (n : h' ≠ h) : (s.setThr h x).thr h' = s.thr h' :=
  Tab.get_put_ne _ _ _ (hartKey_ne n)

@[simp] theorem State.thr_updThr_self (s : State) (h : Hart) (f : Thread → Thread) : (s.updThr h f).thr h = f (s.thr h) :=
  State.thr_setThr_self ..

theorem State.thr_updThr_ne (s : State) {h h' : Hart} (f : Thread → Thread) (n : h' ≠ h) : (s.updThr h f).thr h' = s.thr h' :=
  State.thr_setThr_ne s _ n

@[simp] theorem State.thr_setD_self (s : State) (h : Hart) (r : Reg) (v : Word) : (s.setD h r v).thr h = (s.thr h).setD r v :=
  State.thr_updThr_self ..

@[simp] theorem State.thr_setA_self (s : State) (h : Hart) (r : Reg) (v : Addr) : (s.setA h r v).thr h = (s.thr h).setA r v :=
  State.thr_updThr_self ..

@[simp] theorem State.thr_setAc_self (s : State) (h : Hart) (r : Fin 4) (v : Acc) :
    (s.setAc h r v).thr h = (s.thr h).setAc r v := State.thr_updThr_self ..

@[simp] theorem State.dreg_setD_self (s : State) (h : Hart) (r : Reg) (v : Word) : (s.setD h r v).dreg h r = v := by
  simp [State.dreg, Thread.setD]

theorem State.dreg_setD_ne (s : State) (h : Hart) {r q : Reg} (v : Word) (n : q ≠ r) : (s.setD h r v).dreg h q = s.dreg h q := by
  simp only [State.dreg, State.thr_setD_self, Thread.setD]
  exact Tab.get_set_ne _ _ _ _ (fun e => n (Fin.ext e))

@[simp] theorem State.areg_setA_self (s : State) (h : Hart) (r : Reg) (v : Addr) : (s.setA h r v).areg h r = v := by
  simp [State.areg, Thread.setA]

theorem State.areg_setA_ne (s : State) (h : Hart) {r q : Reg} (v : Addr) (n : q ≠ r) : (s.setA h r v).areg h q = s.areg h q := by
  simp only [State.areg, State.thr_setA_self, Thread.setA]
  exact Tab.get_set_ne _ _ _ _ (fun e => n (Fin.ext e))

@[simp] theorem State.areg_setD (s : State) (h : Hart) (r q : Reg) (v : Word) : (s.setD h r v).areg h q = s.areg h q := by
  simp [State.areg, Thread.setD]

@[simp] theorem State.dreg_setA (s : State) (h : Hart) (r q : Reg) (v : Addr) : (s.setA h r v).dreg h q = s.dreg h q := by
  simp [State.dreg, Thread.setA]

@[simp] theorem State.acc_setAc_self (s : State) (h : Hart) (n : Fin 4) (v : Acc) : (s.setAc h n v).acc h n = v := by
  simp [State.acc, Thread.setAc]

theorem State.acc_setAc_ne (s : State) (h : Hart) {n m : Fin 4} (v : Acc) (e : m ≠ n) :
    (s.setAc h n v).acc h m = s.acc h m := by
  simp only [State.acc, State.thr_setAc_self, Thread.setAc]
  exact Tab.get_set_ne _ _ _ _ (fun h => e (Fin.ext h))

/-! ## Records by key -/

@[simp] theorem State.core_updCore_self (s : State) (k : CoreId) (f : CoreSt → CoreSt) :
    (s.updCore k f).core k = f (s.core k) := by simp [State.core, State.updCore]

@[simp] theorem State.clus_updClus_self (s : State) (p : Petal) (c : Cluster) (f : ClusterSt → ClusterSt) :
    (s.updClus p c f).clus p c = f (s.clus p c) := by simp [State.clus, State.updClus]

theorem State.clus_updClus_ne (s : State) {p p' : Petal} {c c' : Cluster} (f : ClusterSt → ClusterSt)
    (n : (p', c') ≠ (p, c)) : (s.updClus p c f).clus p' c' = s.clus p' c' := by
  refine Tab.get_put_ne _ _ _ (fun e => n ?_)
  simp only [clKey] at e
  obtain ⟨p, hp⟩ := p; obtain ⟨c, hc⟩ := c; obtain ⟨p', hp'⟩ := p'; obtain ⟨c', hc'⟩ := c'
  simp only [Prod.mk.injEq, Fin.mk.injEq]
  simp only at e
  omega

@[simp] theorem State.pet_updPet_self (s : State) (p : Petal) (f : PetalSt → PetalSt) : (s.updPet p f).pet p = f (s.pet p) := by
  simp [State.pet, State.updPet]

theorem State.pet_updPet_ne (s : State) {p p' : Petal} (f : PetalSt → PetalSt) (n : p' ≠ p) :
    (s.updPet p f).pet p' = s.pet p' := Tab.get_put_ne _ _ _ (fun e => n (Fin.ext e))

@[simp] theorem State.chan_updChan_self (s : State) (p : Petal) (n : Nat) (f : Chan → Chan) :
    (s.updChan p n f).chan p n = f (s.chan p n) := by simp [State.chan, State.updChan]

@[simp] theorem State.dram_updDram_self (s : State) (g : Nat) (f : DramGroup → DramGroup) :
    (s.updDram g f).dram g = f (s.dram g) := by simp [State.dram, State.updDram]

theorem State.dram_updDram_ne (s : State) {g g' : Nat} (f : DramGroup → DramGroup) (n : g' ≠ g) :
    (s.updDram g f).dram g' = s.dram g' := Tab.get_put_ne _ _ _ n

@[simp] theorem State.coll_updColl_self (s : State) (c : Collector) (f : Coll → Coll) :
    (s.updColl c f).coll c = f (s.coll c) := by simp [State.coll, State.updColl]

@[simp] theorem State.slot_updSlot_self (s : State) (t : ThreadId) (f : Slot → Slot) :
    (s.updSlot t f).slot t = f (s.slot t) := by simp [State.slot, State.updSlot]

theorem State.slot_updSlot_ne (s : State) {t u : ThreadId} (f : Slot → Slot) (n : u ≠ t) :
    (s.updSlot t f).slot u = s.slot u := Tab.get_put_ne _ _ _ (fun e => n (ThreadId.mid_inj e))

end Sys2Proof.Machine
end

