-- ==== Sys2Proof/Laws/Threads.lean ====
section
/-!
SUPPORT. Laws/Threads.lean: what issuing and retiring do, said once for each shared operation.
-/
namespace Sys2Proof.Machine

/-! ## Retiring -/

/-- With nothing asked for, nothing happens at a boundary. -/
theorem takeAsked_none (t : ThreadId) (s : State) (hh : (s.thr (.thr t)).haltAsked = 0) (hp : (s.thr (.thr t)).parkAsked = false) :
    takeAsked t s = s := by
  simp [takeAsked, hh, hp]

/-- The deterministic issue slot moves one counter and one field of its thread, and may take a free value. -/
theorem detIssue_eq (t : ThreadId) (f : Nat) (s : State) :
    ∃ fr v due, detIssue t f s = ({ s with fresh := fr }.dset (pipeIdx t.p t.c) 0x0A v).updThr (.thr t) (fun x => { x with due := due }) ∨
      detIssue t f s = s := by
  unfold detIssue
  split
  · dsimp only
    split
    · exact ⟨_, _, _, .inl rfl⟩
    · exact ⟨s.fresh, _, _, .inl rfl⟩
  · exact ⟨0, 0, 0, .inr rfl⟩

/-- A state that an instruction's end has reached from `u` by its deterministic slot at most: nothing else of it differs. -/
structure Slotted (t : ThreadId) (u w : State) : Prop where
  rest : ∃ th di fr, w = { u with threads := th, dict := di, fresh := fr }
  others : ∀ h', h' ≠ .thr t → w.thr h' = u.thr h'
  own : ∃ d, w.thr (.thr t) = { u.thr (.thr t) with due := d }
  dict : ∀ i j, dk i j ≠ dk (pipeIdx t.p t.c) 0x0A → w.dget i j = u.dget i j

theorem detIssue_slotted (t : ThreadId) (f : Nat) (u : State) : Slotted t u (detIssue t f u) := by
  obtain ⟨fr, v, due, e | e⟩ := detIssue_eq t f u
  · rw [e]
    refine ⟨⟨_, _, _, rfl⟩, fun h' n => ?_, ⟨due, ?_⟩, fun i j n => ?_⟩
    · rw [State.thr_updThr_ne _ _ n, State.dset_thr_reads]; rfl
    · rw [State.thr_updThr_self, State.dset_thr_reads]; rfl
    · rw [State.updThr_dget_reads, State.dget_dset_ne _ _ n]; rfl
  · rw [e]
    exact ⟨⟨_, _, _, rfl⟩, fun _ _ => rfl, ⟨_, rfl⟩, fun _ _ _ => rfl⟩

/-- What an instruction of a core thread that retires leaves behind before its place in the pipeline is noted. -/
theorem retireTo_thr (t : ThreadId) (f : Nat) (npc : Addr) (u : State) (hf : fetchOk npc = true)
    (hh : (u.thr (.thr t)).haltAsked = 0) (hp : (u.thr (.thr t)).parkAsked = false) :
    Retired (.thr t) npc ((u.thr (.thr t)).steps + 1) false u (retireTo (.thr t) f npc u) := by
  obtain ⟨⟨_, _, _, hr⟩, ho, ⟨d, hw⟩, hd⟩ := detIssue_slotted t f u
  have e : retireTo (.thr t) f npc u = ((detIssue t f u).bump (pipeIdx t.p t.c) 2).updThr (.thr t) (fun x =>
      { x with pc := npc, steps := x.steps + 1, passBp := false }) := by
    simp only [retireTo, hf, if_true]
    refine takeAsked_none t _ ?_ ?_
    · rw [State.thr_updThr_self, State.bump_thr_reads, hw]; exact hh
    · rw [State.thr_updThr_self, State.bump_thr_reads, hw]; exact hp
  have n2 : dk (pipeIdx t.p t.c) 2 ≠ dk (pipeIdx t.p t.c) 0x0A := fun h => by
    have := (dk_inj (by decide) (by decide) h).2; omega
  have n3 : dk (pipeIdx t.p t.c) 3 ≠ dk (pipeIdx t.p t.c) 0x0A := fun h => by
    have := (dk_inj (by decide) (by decide) h).2; omega
  have n32 : dk (pipeIdx t.p t.c) 3 ≠ dk (pipeIdx t.p t.c) 2 := fun h => by
    have := (dk_inj (by decide) (by decide) h).2; omega
  rw [e]
  refine ⟨?_, ?_, ?_, ?_, ?_, ?_⟩
  · rw [hr]; exact ⟨_, _, _, _, rfl⟩
  · intro h' n; rw [State.thr_updThr_ne _ _ n, State.bump_thr_reads, ho h' n]
  · rw [State.thr_updThr_self, State.bump_thr_reads, hw]
  · rw [State.updThr_dget_reads, State.dget_bump_self, hd _ _ n2]
  · rw [State.updThr_dget_reads, State.dget_bump_ne _ n32, hd _ _ n3]; rfl
  · intro i j a _ c; rw [State.updThr_dget_reads, State.dget_bump_ne _ a, hd i j c]

/-- What an instruction of Golne firmware that retires leaves behind. -/
theorem retireTo_golne (f : Nat) (npc : Addr) (u : State) :
    Retired .golne npc ((u.thr .golne).steps + 1) false u (retireTo .golne f npc u) := by
  refine ⟨⟨_, _, u.pipes, u.fresh, rfl⟩, fun h' n => State.thr_updThr_ne u _ n, ?_, rfl⟩
  simp [retireTo]

/-- The note of an issue in the pipeline: one core's pipeline, and for the second of a pair its count and the thread's steps. -/
theorem recordIssue_eq (t : ThreadId) (w : Nat) (e : Bool) (s u : State) :
    ∃ p, recordIssue t w e s u = if pairs s t w then
      ((u.setPipe t.core p).bump (pipeIdx t.p t.c) 3).updThr (.thr t) (fun x => { x with steps := (s.thr (.thr t)).steps })
      else u.setPipe t.core p := ⟨_, rfl⟩

/-- A retired instruction with its place in the pipeline. -/
theorem retired_record (t : ThreadId) (npc : Addr) (c : Instr) (e : Bool) (s u v : State)
    (h : Retired (.thr t) npc ((u.thr (.thr t)).steps + 1) false u v) :
    Retired (.thr t) npc (countAfter (.thr t) c s u) (Second (.thr t) c s) u (recordIssue t (encodeNat c) e s v) := by
  obtain ⟨⟨_, _, _, _, hr⟩, ho, hw, h2, h3, hd⟩ := h
  have n23 : dk (pipeIdx t.p t.c) 2 ≠ dk (pipeIdx t.p t.c) 3 := fun h => by
    have := (dk_inj (by decide) (by decide) h).2; omega
  obtain ⟨p, e⟩ := recordIssue_eq t (encodeNat c) e s v
  rw [e]
  simp only [countAfter, Second]
  by_cases hp : pairs s t (encodeNat c) = true
  · simp only [hp, if_true]
    refine ⟨?_, ?_, ?_, ?_, ?_, ?_⟩
    · rw [hr]; exact ⟨_, _, _, _, rfl⟩
    · intro h' n; rw [State.thr_updThr_ne _ _ n, State.bump_thr_reads, State.setPipe_thr_reads, ho h' n]
    · rw [State.thr_updThr_self, State.bump_thr_reads, State.setPipe_thr_reads, hw]
    · rw [State.updThr_dget_reads, State.dget_bump_ne _ n23, State.setPipe_dget_reads, h2]
    · rw [State.updThr_dget_reads, State.dget_bump_self, State.setPipe_dget_reads, h3]; rfl
    · intro i j a b c; rw [State.updThr_dget_reads, State.dget_bump_ne _ b, State.setPipe_dget_reads, hd i j a b c]
  · simp only [hp, if_false, Bool.false_eq_true]
    refine ⟨?_, ho, hw, h2, h3, hd⟩
    rw [hr]; exact ⟨_, _, _, _, rfl⟩

/-! ## Issuing -/

/-- A hart that is ready issues an instruction that it has, once the arbiter lets it: its effect runs and it ends. -/
theorem issue_ready (h : Hart) (i : Instr) (d : State → DAcc) (eff : State → State × Done) (s : State) (hr : Ready h s)
    (hg : Granted h i s) (hu : undefinedFor h i = false) (hh : (eff s).2 ≠ .held)
    (hw : ∀ t a n w f, h = .thr t → d s = some (a, n, w) → (eff s).2 = .next f →
      watchHit (finish h i (eff s)) t a n w = false) :
    issue h i d eff s = ended h i s (eff s).1 (eff s).2 := by
  obtain ⟨hc, hr⟩ := hr
  unfold issue
  simp only [hu, hc, Bool.not_true, Bool.false_eq_true, if_false]
  cases h with
  | golne => simp [hh, ended]
  | thr t =>
    obtain ⟨hf, hb, hk, ht, hz, _, _⟩ := hr
    have hbr : (breakHit s t && !(s.thr (.thr t)).passBp) = false := by
      cases hx : breakHit s t with
      | false => rfl
      | true => simp [hk hx]
    have hfr : frozenHold s t (encodeNat i) (d s) = false := by unfold frozenHold; rw [hz]; rfl
    have hws : watchStop t (d s) (eff s).2 (finish (.thr t) i (eff s)) = finish (.thr t) i (eff s) := by
      unfold watchStop
      split
      · next a n w f hd he => rw [if_neg]; rw [hw t a n w f rfl hd he]; decide
      · rfl
    simp [hf, hb, hbr, hg t rfl, hfr, runThread, hh, ht, hws, ended]

/-- As `issue_ready`, for an instruction without a data access. -/
theorem issuePlain_ready (h : Hart) (i : Instr) (eff : State → State × Done) (s : State) (hr : Ready h s) (hg : Granted h i s)
    (hu : undefinedFor h i = false) (hh : (eff s).2 ≠ .held) : issuePlain h i eff s = ended h i s (eff s).1 (eff s).2 :=
  issue_ready h i _ eff s hr hg hu hh (fun _ _ _ _ _ _ hd _ => nomatch hd)

/-- The end of an instruction that retires and goes on at an address. -/
theorem ended_goto (h : Hart) (i : Instr) (s u : State) (f : Nat) (npc : Addr) (hn : Fetchable h npc)
    (hh : ∀ t, h = .thr t → (u.thr h).haltAsked = 0 ∧ (u.thr h).parkAsked = false) :
    Retired h npc (countAfter h i s u) (Second h i s) u (ended h i s u (.goto f npc)) := by
  cases h with
  | golne => exact retireTo_golne f npc u
  | thr t => exact retired_record t npc i _ s u _ (retireTo_thr t f npc u (hn t rfl) (hh t rfl).1 (hh t rfl).2)

/-- The end of an instruction that retires in sequence. -/
theorem ended_next (h : Hart) (i : Instr) (s u : State) (f : Nat) (hn : Fetchable h ((u.thr h).pc + 4))
    (hh : ∀ t, h = .thr t → (u.thr h).haltAsked = 0 ∧ (u.thr h).parkAsked = false) :
    Retired h ((u.thr h).pc + 4) (countAfter h i s u) (Second h i s) u (ended h i s u (.next f)) := by
  have := ended_goto h i s u f _ hn hh
  cases h <;> exact this

/-- An instruction whose effect ends in sequence. -/
theorem issuePlain_next (h : Hart) (i : Instr) (eff : State → State × Done) (s u : State) (f : Nat) (hr : Flows h s)
    (hg : Granted h i s) (hu : undefinedFor h i = false) (he : eff s = (u, .next f)) (hp : (u.thr h).pc = (s.thr h).pc)
    (hh : ∀ t, h = .thr t → (u.thr h).haltAsked = 0 ∧ (u.thr h).parkAsked = false) :
    ∃ t, issuePlain h i eff s = t ∧ Retired h ((s.thr h).pc + 4) (countAfter h i s u) (Second h i s) u t := by
  refine ⟨_, issuePlain_ready h i eff s hr.1 hg hu (by rw [he]; exact nofun), ?_⟩
  rw [he, ← hp]
  exact ended_next h i s u f (by rw [hp]; exact hr.2) hh

/-- An instruction whose effect ends at another address. -/
theorem issuePlain_goto (h : Hart) (i : Instr) (eff : State → State × Done) (s u : State) (f : Nat) (npc : Addr)
    (hr : Ready h s) (hg : Granted h i s) (hn : Fetchable h npc) (hu : undefinedFor h i = false)
    (he : eff s = (u, .goto f npc)) (hh : ∀ t, h = .thr t → (u.thr h).haltAsked = 0 ∧ (u.thr h).parkAsked = false) :
    ∃ t, issuePlain h i eff s = t ∧ Retired h npc (countAfter h i s u) (Second h i s) u t := by
  refine ⟨_, issuePlain_ready h i eff s hr hg hu (by rw [he]; exact nofun), ?_⟩
  rw [he]
  exact ended_goto h i s u f npc hn hh

/-- With nothing asked of a thread that is ready, nothing is asked of it. -/
theorem Ready.quiet {h : Hart} {s : State} (r : Ready h s) (t : ThreadId) (e : h = .thr t) :
    (s.thr h).haltAsked = 0 ∧ (s.thr h).parkAsked = false := by
  subst e
  obtain ⟨_, _, _, _, _, _, a, b⟩ := r
  exact ⟨a, b⟩

/-- An instruction that writes a data register. -/
theorem issueD_flows (h : Hart) (i : Instr) (rd : Reg) (v : State → Word) (s : State) (hr : Flows h s)
    (hg : Granted h i s) (hu : undefinedFor h i = false) :
    ∃ t, issueD h i rd v s = t ∧ Retired h ((s.thr h).pc + 4) (countAfter h i s (s.setD h rd (v s))) (Second h i s)
      (s.setD h rd (v s)) t :=
  issuePlain_next h i _ s _ 1 hr hg hu rfl (by simp [Thread.setD])
    (fun t e => by simpa [Thread.setD] using hr.1.quiet t e)

/-- An instruction that writes an address register. -/
theorem issueA_flows (h : Hart) (i : Instr) (rd : Reg) (v : State → Addr) (s : State) (hr : Flows h s)
    (hg : Granted h i s) (hu : undefinedFor h i = false) :
    ∃ t, issueA h i rd v s = t ∧ Retired h ((s.thr h).pc + 4) (countAfter h i s (s.setA h rd (v s))) (Second h i s)
      (s.setA h rd (v s)) t :=
  issuePlain_next h i _ s _ 1 hr hg hu rfl (by simp [Thread.setA])
    (fun t e => by simpa [Thread.setA] using hr.1.quiet t e)

end Sys2Proof.Machine
end

