-- ==== Sys2Proof/Laws/Events.lean ====
section
/-!
SUPPORT. Laws/Events.lean: what raising an event source can change, said once: the dictionary, DOMAIN bytes, event queues,
window counts, collectors, outputs and pending vectors; a thread that does not wait for an event keeps its record but for its
queue.
-/
namespace Sys2Proof.Machine

/-- `t` is `s` after events have been counted, latched, logged and delivered. -/
structure Delivered (s t : State) : Prop where
  rest : ∃ di dm th wi ou co hd mp fr, t = { s with
    dict := di, doms := dm, threads := th, win := wi, out := ou, colls := co, haltDue := hd, msixPend := mp, fresh := fr }
  thr : ∀ h, (s.thr h).st ≠ .eventWait → ∃ q, t.thr h = { s.thr h with evq := q }

theorem Delivered.refl (s : State) : Delivered s s := ⟨⟨_, _, _, _, _, _, _, _, _, rfl⟩, fun _ _ => ⟨_, rfl⟩⟩

theorem Delivered.trans {s t u : State} (a : Delivered s t) (b : Delivered t u) : Delivered s u := by
  refine ⟨?_, fun h n => ?_⟩
  · obtain ⟨_, _, _, _, _, _, _, _, _, rfl⟩ := a.rest
    obtain ⟨_, _, _, _, _, _, _, _, _, rfl⟩ := b.rest
    exact ⟨_, _, _, _, _, _, _, _, _, rfl⟩
  · obtain ⟨q, e⟩ := a.thr h n
    obtain ⟨q', e'⟩ := b.thr h (by rw [e]; exact n)
    exact ⟨q', by rw [e', e]⟩

/-- An update of the dictionary, of DOMAIN bytes, of counts, of outputs or of collectors is such a change. -/
theorem Delivered.of_rest {s t : State} (h : ∃ di dm wi ou co hd mp fr, t = { s with
    dict := di, doms := dm, win := wi, out := ou, colls := co, haltDue := hd, msixPend := mp, fresh := fr }) :
    Delivered s t := by
  obtain ⟨_, _, _, _, _, _, _, _, rfl⟩ := h
  exact ⟨⟨_, _, _, _, _, _, _, _, _, rfl⟩, fun _ _ => ⟨_, rfl⟩⟩

theorem Delivered.dset (s : State) (i j v : Nat) : Delivered s (s.dset i j v) := .of_rest ⟨_, _, _, _, _, _, _, _, rfl⟩
theorem Delivered.bump (s : State) (i j : Nat) : Delivered s (s.bump i j) := .of_rest ⟨_, _, _, _, _, _, _, _, rfl⟩
theorem Delivered.tick (s : State) : Delivered s s.tick := .of_rest ⟨_, _, _, _, _, _, _, _, rfl⟩
theorem Delivered.emit (s : State) (o : Output) : Delivered s (s.emit o) := .of_rest ⟨_, _, _, _, _, _, _, _, rfl⟩
theorem Delivered.winBump (s : State) (k : Nat) : Delivered s (s.winBump k) := .of_rest ⟨_, _, _, _, _, _, _, _, rfl⟩
theorem Delivered.updColl (s : State) (c : Collector) (f : Coll → Coll) : Delivered s (s.updColl c f) :=
  .of_rest ⟨_, _, _, _, _, _, _, _, rfl⟩
theorem Delivered.domClear (s : State) (i j o n : Nat) : Delivered s (s.domClear i j o n) :=
  .of_rest ⟨_, _, _, _, _, _, _, _, rfl⟩
theorem Delivered.domWrite (s : State) (i j o : Nat) (l : List Byte) : Delivered s (s.domWrite i j o l) := by
  rw [State.domWrite_eq]
  exact .of_rest ⟨_, _, _, _, _, _, _, _, rfl⟩

/-- A hart's record replaced by one that has only another queue. -/
theorem Delivered.setThr (s : State) (h : Hart) (x : Thread) (hx : (s.thr h).st ≠ .eventWait → ∃ q, x = { s.thr h with evq := q }) :
    Delivered s (s.setThr h x) := by
  refine ⟨⟨_, _, _, _, _, _, _, _, _, rfl⟩, fun h' n => ?_⟩
  by_cases e : h' = h
  · subst e
    rw [State.thr_setThr_self]
    exact hx n
  · rw [State.thr_setThr_ne s x e]
    exact ⟨_, rfl⟩

theorem Delivered.ite {s u v : State} {c : Prop} [Decidable c] (a : Delivered s u) (b : Delivered s v) :
    Delivered s (if c then u else v) := by
  split
  · exact a
  · exact b

/-- What completes the instruction of a hart that waits for an event. -/
theorem waitDone_delivered (h : Hart) (s u : State) (hs : (s.thr h).st = .eventWait)
    (hr : ∃ th, u = { s with threads := th }) (ho : ∀ h', h' ≠ h → u.thr h' = s.thr h') : Delivered s (waitDone h u) := by
  have key : (∃ di th fr, waitDone h u = { s with dict := di, threads := th, fresh := fr }) ∧
      ∀ h', h' ≠ h → (waitDone h u).thr h' = u.thr h' := by
    obtain ⟨_, rfl⟩ := hr
    unfold waitDone
    cases h with
    | golne => exact ⟨⟨_, _, _, rfl⟩, fun h' n => State.thr_updThr_ne _ _ n⟩
    | thr t =>
      dsimp only
      split
      · refine ⟨⟨_, _, _, rfl⟩, fun h' n => ?_⟩
        rw [State.tick_thr_reads, State.thr_updThr_ne _ _ n, State.bump_thr_reads, State.thr_updThr_ne _ _ n]
      · refine ⟨⟨_, _, _, rfl⟩, fun h' n => ?_⟩
        rw [State.bump_thr_reads, State.thr_updThr_ne _ _ n]
  obtain ⟨⟨_, _, _, e⟩, k⟩ := key
  refine ⟨⟨_, _, _, _, _, _, _, _, _, e⟩, fun h' n => ⟨(s.thr h').evq, ?_⟩⟩
  have n' : h' ≠ h := fun x => n (by rw [x]; exact hs)
  rw [k h' n', ho h' n']

theorem wakeEvent_delivered (h : Hart) (s : State) : Delivered s (wakeEvent h s) := by
  unfold wakeEvent
  dsimp only
  split
  · next hst _ _ => exact waitDone_delivered h s _ hst ⟨_, rfl⟩ (fun h' n => State.thr_setThr_ne s _ n)
  · exact .refl s

theorem pushEv_delivered (h : Hart) (src syn : Nat) (s : State) : Delivered s (pushEv h src syn s).1 := by
  unfold pushEv
  dsimp only
  split
  · exact .setThr s h _ (fun _ => ⟨_, rfl⟩)
  · split
    · exact .trans (.setThr s h _ (fun _ => ⟨_, rfl⟩)) (wakeEvent_delivered h _)
    · exact .bump s _ _

theorem pushFaultNote_delivered (t : ThreadId) (cause : Nat) (s : State) : Delivered s (pushFaultNote t cause s) :=
  .trans (.setThr s _ _ (fun _ => ⟨_, rfl⟩)) (wakeEvent_delivered _ _)

theorem logEvent_delivered (src syn : Nat) (s : State) : Delivered s (logEvent src syn s) := by
  unfold logEvent
  exact .trans (.domWrite s _ _ _ _) (.bump _ _ _)

theorem countSource_delivered (src : Nat) (s : State) : Delivered s (countSource src s) := .domWrite s _ _ _ _

theorem queueFull_delivered (owner : Nat) (s : State) : Delivered s (queueFull owner s) := by
  unfold queueFull
  dsimp only
  have a : Delivered s (countSource 0x14E (s.winBump 0x14E00000)) :=
    .trans (.winBump s _) (countSource_delivered _ _)
  exact .ite (.refl s) (.trans (.ite (.trans a (logEvent_delivered _ _ _)) a) (pushEv_delivered _ _ _ _))

theorem deliver_delivered (h : Hart) (src syn : Nat) (s : State) : Delivered s (deliver h src syn s) := by
  unfold deliver
  dsimp only
  exact .ite (.trans (pushEv_delivered h src syn s) (queueFull_delivered _ _)) (pushEv_delivered h src syn s)

theorem msix_delivered (fn vec : Nat) (s : State) : Delivered s (msix fn vec s) := by
  unfold msix
  dsimp only
  exact .ite (.emit s _) (.ite (.refl s) (.of_rest ⟨_, _, _, _, _, _, _, _, rfl⟩))

theorem route_delivered (src syn : Nat) (s : State) : Delivered s (route src syn s) := by
  unfold route
  dsimp only
  generalize s.domNat 0x2400 0 (src * 8) 8 = e
  have a1 : Delivered s (if bitOf e 61 = true then logEvent src syn s else s) :=
    .ite (logEvent_delivered _ _ _) (.refl s)
  generalize (if bitOf e 61 = true then logEvent src syn s else s) = s1 at a1 ⊢
  have a2 : Delivered s (if bitOf e 62 = true then deliver .golne src syn s1 else s1) :=
    .ite (.trans a1 (deliver_delivered _ _ _ _)) a1
  generalize (if bitOf e 62 = true then deliver .golne src syn s1 else s1) = s2 at a2 ⊢
  have a3 : Delivered s (match threadOf (e % 2 ^ 16) with
      | some t => deliver (.thr t) src syn s2
      | none => s2) := by
    split
    · exact .trans a2 (deliver_delivered _ _ _ _)
    · exact a2
  have a4 := Delivered.ite (c := bitOf e 63 = true) a3 a2
  exact .ite (.trans a4 (msix_delivered _ _ _)) a4

theorem showLists_delivered (c : Collector) (s : State) : Delivered s (showLists c s) := by
  unfold showLists
  exact .trans (.trans (.domClear s _ _ _ _) (.domWrite _ _ _ _ _)) (.trans (.domClear _ _ _ _ _) (.domWrite _ _ _ _ _))

theorem latchList_delivered (c : Collector) (kind nw : Nat) (own : Bool) (s : State) :
    Delivered s (latchList c kind nw own s).1 := by
  unfold latchList
  dsimp only
  generalize (if kind = 2 then (s.coll c).ucc else (s.coll c).fatal) = l
  split
  · exact .refl s
  · split
    · exact .trans (.updColl s _ _) (showLists_delivered _ _)
    · exact .bump s _ _

theorem latch_delivered (c : Collector) (kind src syn : Nat) (own : Bool) (s : State) :
    Delivered s (latch c kind src syn own s).1 := by
  unfold latch
  dsimp only
  exact .trans (.ite (.trans (.ite (.dset s _ _ _) (.dset s _ _ _)) (.updColl _ _ _)) (.ite (.dset s _ _ _) (.dset s _ _ _)))
    (latchList_delivered _ _ _ _ _)

theorem raiseOne_delivered (src syn : Nat) (org : Option Petal) (detail : List Byte) (s : State) :
    Delivered s (raiseOne src syn org detail s).1 := by
  unfold raiseOne
  dsimp only
  have a : Delivered s ((countSource src s).domWrite 0x2400 5 (src * 16) ((detail ++ List.replicate 16 0).take 16)) :=
    .trans (countSource_delivered src s) (.domWrite _ _ _ _ _)
  generalize (countSource src s).domWrite 0x2400 5 (src * 16) ((detail ++ List.replicate 16 0).take 16) = s1 at a ⊢
  refine .trans ?_ (route_delivered _ _ _)
  split
  · exact a
  · split
    · next p =>
      dsimp only
      have b := a.trans ((latch_delivered (.petal p) (srcKind src) src syn true s1).trans
        (latch_delivered .device (srcKind src) src syn false _))
      exact .ite (.trans b (.of_rest ⟨_, _, _, _, _, _, _, _, rfl⟩)) b
    · exact .trans a (latch_delivered _ _ _ _ _ _)

theorem raiseFatal_delivered (p : Petal) (cause detail : Nat) (s : State) : Delivered s (raiseFatal p cause detail s) :=
  raiseOne_delivered _ _ _ _ s

theorem raiseD_delivered (src syn : Nat) (org : Option Petal) (detail : List Byte) (s : State) :
    Delivered s (raiseD src syn org detail s) := by
  unfold raiseD
  dsimp only
  have a := raiseOne_delivered src syn org detail s
  split
  · exact .ite (.trans a (raiseFatal_delivered _ _ _ _)) a
  · exact a

theorem raise_delivered (src syn : Nat) (org : Option Petal) (s : State) : Delivered s (raise src syn org s) :=
  raiseD_delivered src syn org [] s

theorem raiseAny_delivered (src : Nat) (org : Option Petal) (s : State) : Delivered s (raiseAny src org s) :=
  .trans (.tick s) (raise_delivered _ _ _ _)

theorem raiseOnce_delivered (key src syn : Nat) (org : Option Petal) (detail : List Byte) (s : State) :
    Delivered s (raiseOnce key src syn org detail s) := by
  unfold raiseOnce
  exact .ite (.refl s) (.trans (.winBump s _) (raiseD_delivered _ _ _ _ _))

theorem raiseOnceAny_delivered (key src : Nat) (org : Option Petal) (s : State) : Delivered s (raiseOnceAny key src org s) := by
  unfold raiseOnceAny
  exact .ite (.refl s) (.trans (.winBump s _) (raiseAny_delivered _ _ _))

theorem accessEvent_delivered (m a : Nat) (r : AccessRes) (s : State) : Delivered s (accessEvent m a r s) := by
  unfold accessEvent
  dsimp only
  split
  · exact .refl s
  · exact raise_delivered _ _ _ _
  · exact raiseD_delivered _ _ _ _ _
  · exact raiseD_delivered _ _ _ _ _

theorem faultNotify_delivered (t : ThreadId) (cause : Nat) (s : State) : Delivered s (faultNotify t cause s) := by
  unfold faultNotify
  dsimp only
  exact .ite (.trans (.trans (.bump s _ _) (raise_delivered _ _ _ _)) (deliver_delivered _ _ _ _))
    (.trans (.bump s _ _) (pushFaultNote_delivered _ _ _))

/-! ## Faults of core threads (06 R189) -/

/-- A fault of a core thread: it parks with its record, keeps every register, and the notices go out. -/
theorem faultThread_spec (t : ThreadId) (cause addr : Nat) (tpc tfpc : Addr) (s : State) :
    (∃ q, (faultThread t cause addr tpc tfpc s).thr (.thr t) = { s.thr (.thr t) with
      st := .parkedFault, wait := .none, resv := none, parkAsked := false, haltAsked := 0,
      tcause := faultWord false false cause addr, tpc := tpc, tfpc := tfpc, evq := q }) ∧
    (∃ di dm th wi ou co hd mp fr, faultThread t cause addr tpc tfpc s = { s with
      dict := di, doms := dm, threads := th, win := wi, out := ou, colls := co, haltDue := hd, msixPend := mp, fresh := fr }) := by
  have d := faultNotify_delivered t cause (s.updThr (.thr t) (fun x =>
    { x with st := .parkedFault, wait := .none, resv := none, parkAsked := false, haltAsked := 0,
             tcause := faultWord false false cause addr, tpc := tpc, tfpc := tfpc }))
  constructor
  · obtain ⟨q, e⟩ := d.thr (.thr t) (by rw [State.thr_updThr_self]; exact nofun)
    exact ⟨q, by unfold faultThread; rw [e, State.thr_updThr_self]⟩
  · obtain ⟨_, _, _, _, _, _, _, _, _, e⟩ := d.rest
    exact ⟨_, _, _, _, _, _, _, _, _, by unfold faultThread; rw [e]; rfl⟩

end Sys2Proof.Machine
end

