-- ==== Sys2Proof/Tests/Slice0.lean ====
section
/-!
SUPPORT. Tests/Slice0.lean: tests of the model: terms that WellFormed refuses, one for each check; words, images and results of
the spec's worked examples; and, for each statement with hypotheses, states and operands that meet them.
-/
namespace Sys2Proof.Tests
open Sys2Proof.Machine

-- One theorem at a time: the threads of many at once exceed the memory that the check allows.
set_option Elab.async false

/-! ## Harts, threads and small states -/

/-- Thread 0.0.0.0, the supervisor of its core. -/
def t0 : ThreadId := ⟨0, 0, 0, 0⟩
/-- Thread 0.0.0.1. -/
def t1 : ThreadId := ⟨0, 0, 0, 1⟩
/-- The harts of `t0`, `t1`. -/
def h0 : Hart := .thr t0
/-- See `h0`. -/
def h1 : Hart := .thr t1
/-- `n` equal bytes. -/
def bytes (n : Nat) (b : Byte) : List Byte := List.replicate n b
/-- The state after reset in which a hart runs at the entry of its instruction memory. -/
def on (h : Hart) (f : Thread → Thread) : State :=
  State.reset.updThr h (fun x => f { x with st := .running, pc := 0x001000000000 })

/-! ## Ill-formed terms (WellFormed) -/

theorem test_wf_stem_same_port : (Instr.stemTransfer ⟨0, 0, 0, 0, 8, none, 0, 0, none⟩).wf = false := by decide +kernel
theorem test_wf_undefined_word_decodes : (Instr.undefinedInstruction h1 0).wf = false := by decide +kernel
theorem test_wf_empty_data : (Instr.ruleStoreWrite (.golne 0) 0 0 []).wf = false ∧ (Instr.templateWrite (.golne 0) 0 0 []).wf = false ∧
    (Instr.tableBatchSubmit (.golne 0) 0 []).wf = false ∧ (Instr.pageClassWrite (.golne 0) 0 []).wf = false ∧
    (Instr.channelBindingWrite (.golne 0) 0 0 []).wf = false ∧ (Instr.pinListWrite (.golne 0) 0 []).wf = false ∧
    (Instr.mailboxBindingWrite (.golne 0) 0 []).wf = false ∧ (Instr.queueObjectWrite (.golne 0) 0 0 0 []).wf = false ∧
    (Instr.dictionaryWrite (.golne 0) 0 0 none 0 []).wf = false ∧ (Instr.flashPartitionWrite (.golne 0) 0 0 []).wf = false ∧
    (Instr.counterChainWrite (.golne 0) 0 0 []).wf = false ∧ (Instr.debugThreadStateWrite (.golne 0) t1 0 []).wf = false := by
  decide +kernel
theorem test_wf_empty_access : (Instr.lockWindowAcquire 0 0 0).wf = false ∧ (Instr.lockWindowTry 0 0 0).wf = false ∧
    (Instr.lockWindowPoll 0 0 0).wf = false ∧ (Instr.lockWindowCancel 0 0 0).wf = false ∧ (Instr.lockWindowPeek 0 0 0).wf = false ∧
    (Instr.lockWindowRelease 0 0 0 0).wf = false := by decide +kernel
theorem test_wf_lengths : (Instr.pfcFrameReceive 0 0 []).wf = false ∧ (Instr.hostTxFetch 0 [bytes 31 0] []).wf = false ∧
    (Instr.hostTxFetch 0 [] []).wf = false ∧ (Instr.hostReceiveWrite 0 [bytes 33 0]).wf = false ∧
    (Instr.cxlMemRequest 0 (some [])).wf = false ∧ (Instr.dramWrite 0 0 (bytes 65 0) 0 false).wf = false ∧
    (Instr.dramTemperatureRead 0 [] 0).wf = false ∧ (Instr.bulkRead (.golne 0) []).wf = false ∧
    (Instr.bulkWrite (.golne 0) [] []).wf = false ∧ (Instr.spdmChallenge (.smbus 0) []).wf = false ∧
    (Instr.jtagExtest []).wf = false ∧ (Instr.jtagSamplePreload []).wf = false ∧ (Instr.jtagPermit []).wf = false := by decide +kernel
theorem test_wf_can_length : (Instr.sdoInitiateDownload (bytes 9 0)).wf = false ∧ (Instr.sdoDownloadSegment (bytes 65 0)).wf = false ∧
    (Instr.sdoInitiateUpload (bytes 10 0)).wf = false ∧ (Instr.sdoUploadSegment (bytes 13 0)).wf = false ∧
    (Instr.sdoAbort (bytes 63 0)).wf = false := by decide +kernel
theorem test_wf_function : (Instr.doorbell 0x1008 0 8 0).wf = false ∧ (Instr.functionLevelReset 0x17FF).wf = false ∧
    (Instr.busMasterDisable 0x2000).wf = false ∧ (Instr.msixVectorUnmask 0 0).wf = false := by decide +kernel
theorem test_wf_operands : (Instr.lda h1 3 3 (.postInc 8)).wf = false ∧ (Instr.thres h0 0).wf = false ∧ (Instr.tas h1 0 0).wf = false ∧
    (Instr.tlpm h1 0 31 true).wf = false ∧ (Instr.tctx h1 0 28 false).wf = false ∧ (Instr.tkend .golne).wf = false := by decide +kernel

/-! ## The spec's worked examples -/

/-- 10, worked example: the words of `MVDC`, `TLPM` and `MVCD`. -/
theorem test_words_of_ch10 : encodeNat (.mvdc h1 4 7) = 0xF4807000 ∧ encodeNat (.tlpm h1 5 4 false) = 0xF4A40080 ∧
    encodeNat (.mvcd h1 8 5) = 0xF4A08040 := by decide +kernel
/-- 18, worked example: the UCC word of a register file error of thread 3.1.6.2. -/
theorem test_ucc_word : statusWord 2 0x06F 0x0CE2 1234567000 = 0xA3780CE20012D687 := by decide +kernel
/-- 18, worked example: the master ID of thread 3.1.6.2. -/
theorem test_mid : (⟨3, 1, 6, 2⟩ : ThreadId).mid = 0x0CE2 := by decide +kernel
/-- 10, worked example: CRC of "123456789" by both polynomials. -/
theorem test_crc : crcRun polyC 0xFFFFFFFF [0x31, 0x32, 0x33, 0x34, 0x35, 0x36, 0x37, 0x38, 0x39] = 0xE3069283 ^^^ 0xFFFFFFFF ∧
    crcRun polyE 0xFFFFFFFF [0x31, 0x32, 0x33, 0x34, 0x35, 0x36, 0x37, 0x38, 0x39] = 0xCBF43926 ^^^ 0xFFFFFFFF := by decide +kernel

/-! ## Witnesses: states and operands that meet the statements' hypotheses -/

/-- `Flows` and `Granted` of a thread, as a test. -/
def goes (t : ThreadId) (c : Instr) (s : State) : Bool :=
  canIssue (.thr t) s && fetchOk (s.thr (.thr t)).pc && !blockBad s t (s.thr (.thr t)).pc &&
    (!breakHit s t || (s.thr (.thr t)).passBp) && !tagOn s t.core && !s.frozen.any (fun n => 7 ≤ n && n ≤ 10) &&
    (s.thr (.thr t)).haltAsked == 0 && !(s.thr (.thr t)).parkAsked && fetchOk ((s.thr (.thr t)).pc + 4) &&
    granted s t (encodeNat c)

theorem goes_spec {t : ThreadId} {c : Instr} {s : State} (h : goes t c s = true) : Flows (.thr t) s ∧ Granted (.thr t) c s := by
  simp only [goes, Bool.and_eq_true, Bool.not_eq_true', Bool.or_eq_true, beq_iff_eq] at h
  obtain ⟨⟨⟨⟨⟨⟨⟨⟨⟨h1, h2⟩, h3⟩, h4⟩, h5⟩, h6⟩, h7⟩, h8⟩, h9⟩, h10⟩ := h
  refine ⟨⟨⟨h1, h2, h3, ?_, h5, h6, h7, h8⟩, ?_⟩, ?_⟩
  · intro hb; rcases h4 with h4 | h4
    · simp [hb] at h4
    · exact h4
  · intro u hu; cases hu; exact h9
  · intro u hu; cases hu; exact h10

/-- `Admitted`, as a test. -/
def admits (w : Writer) (idx sub off : Nat) (data : List Byte) (gen : Option Nat) (s : State) : Bool :=
  !windowShut s w && (checkWrite w idx sub off data gen s).isNone

theorem admits_spec {w : Writer} {idx sub off : Nat} {data : List Byte} {gen : Option Nat} {s : State}
    (h : admits w idx sub off data gen s = true) : Admitted w idx sub off data gen s := by
  simp only [admits, Bool.and_eq_true, Bool.not_eq_true', Option.isNone_iff_eq_none] at h
  exact h

/-- `Unwatched` of a thread, as a test. -/
def calm (t : ThreadId) (s : State) : Bool :=
  !bitOf (s.dget (dbgIdx t.core) 7) 63 && !bitOf (s.dget (dbgIdx t.core) 8) 63

theorem calm_spec {t : ThreadId} {s : State} (h : calm t s = true) : Unwatched (.thr t) s := by
  simp only [calm, Bool.and_eq_true, Bool.not_eq_true'] at h
  intro u hu; cases hu; exact h

/-- Thread 0.0.0.0 at the start of its program, and thread 0.0.0.1 likewise. -/
def s0 : State := on h0 id
/-- See `s0`. -/
def s1 : State := on h1 id
/-- Golne firmware at the start of its code. -/
def sg : State := on .golne id

theorem wit_golne : Flows .golne sg ∧ Granted .golne (.add .golne 1 2 3) sg :=
  ⟨⟨⟨by decide +kernel, trivial⟩, fun t h => by cases h⟩, fun t h => by cases h⟩

theorem wit_IntegerResults : (Flows h0 s0 ∧ Granted h0 (.add h0 1 2 3) s0) ∧
    ((s0.setD h0 2 0x0000FFFFFFFFFFFF).dreg h0 2).toNat < 2 ^ 48 ∧ 2 ^ 48 ≤ ((s0.setD h0 2 0x0001000000000000).dreg h0 2).toNat :=
  ⟨goes_spec (by decide +kernel), by decide +kernel⟩
theorem wit_BitResults : Flows h0 s0 ∧ Granted h0 (.bfxi h0 1 2 63 63) s0 := goes_spec (by decide +kernel)
theorem wit_AccumulatorResults : Flows h0 s0 ∧ Granted h0 (.mac h0 3 1 2 false) s0 := goes_spec (by decide +kernel)

/-- The state of `s0` with A2 at an address. -/
def sa (a : Nat) : State := s0.setA h0 2 (BitVec.ofNat 48 a)
/-- A load of 8 bytes of DRAM gives them, one of an unmapped address faults; LDA sees a value below 2^48, and one that is not. -/
theorem wit_LoadResults : (Flows h0 (sa 0x1000) ∧ Granted h0 (.ldd h0 1 2 (.disp 0) false) (sa 0x1000)) ∧
    (let r := loadBytes h0 (effAddr (sa 0x1000) h0 2 (.disp 0)).toNat 8 (sa 0x1000)
     r.2 = .bytes (bytes 8 0) ∧ Kept h0 (sa 0x1000) r.1 ∧ Unwatched h0 r.1) ∧
    (loadBytes h0 (effAddr (sa 0xE00000000) h0 2 (.disp 0)).toNat 8 (sa 0xE00000000)).2 = .fault 4 0xE00000000 ∧
    (let s := (sa 0x1000).memWrite 0x1000 (bytes 8 0xFF)
     (loadBytes h0 0x1000 8 s).2 = .bytes (bytes 8 0xFF) ∧ 2 ^ 48 ≤ leNat (bytes 8 0xFF)) ∧
    undefinedFor h0 (.lda h0 1 2 (.disp 0)) = false :=
  ⟨goes_spec (by decide +kernel), ⟨by decide +kernel, by unfold Kept; decide +kernel, calm_spec (by decide +kernel)⟩,
    by decide +kernel, by decide +kernel, by decide +kernel⟩
theorem wit_StoreResults : (Flows h0 (sa 0x1000) ∧ Granted h0 (.std h0 1 2 (.disp 0) false) (sa 0x1000)) ∧ Unwatched h0 (sa 0x1000) ∧
    misaligned 0x1000 8 = false ∧ ((sa 0x1000).thr h0).sb.length < 4 ∧ region 0x1000 ≠ .ownImem ∧ opWindow 0x1000 = false ∧
    misaligned 0x003000000001 2 = true ∧
    (let r := storeBytes h0 0x1005 (bytes 8 1) (sa 0x1005)
     r.2 = .bytes [] ∧ Kept h0 (sa 0x1005) r.1 ∧ Unwatched h0 r.1) :=
  ⟨goes_spec (by decide +kernel), calm_spec (by decide +kernel), by decide +kernel, by decide +kernel, by decide +kernel, by decide +kernel,
    by decide +kernel, by decide +kernel, by unfold Kept; decide +kernel, calm_spec (by decide +kernel)⟩

/-- Thread 0.0.0.0 with A2 at the first word of its L2 scratch, way 0 of bank 0 in scratch mode, and the store that it last issued there
in its store buffer. -/
def sScr : State :=
  ((sa 0x001000200000).dset (cacheIdx 0 0) 1 1).updThr h0 (fun x =>
    { x with sb := [⟨(bytes 8 7).zipIdx.map (fun e => (0x001000200000 + e.2, e.1)), 0x001000000000⟩] })
theorem wit_ScratchStoresAndLoads : petalHalted sScr 0 = false ∧ region 0x001000200000 = .ownScratch ∧
    checkAccess t0.mid 0x001000200000 true sScr = .ok .ownScratch ∧ (sScr.slot t0).gone = false ∧ (sScr.core t0.core).evict = [] ∧
    (sScr.thr h0).sb = [⟨(bytes 8 7).zipIdx.map (fun e => (0x001000200000 + e.2, e.1)), 0x001000000000⟩] := by
  decide +kernel

/-- `sScr` with its store drained and the reservation of that granule held. -/
def sRes : State := (drainAll t0 sScr).updThr h0 (fun x => { x with resv := some (memKey t0.mid 0x001000200000 sScr / 64) })
theorem wit_AtomicResults : (Flows h0 sScr ∧ Granted h0 (.ldr h0 1 2) sScr) ∧ (Flows h0 sRes ∧ Granted h0 (.stc h0 1 2 3) sRes) ∧
    Unwatched h0 sScr ∧
    (let a := 0x001000200000
     let u := homeLine t0 a (drainAll t0 sScr)
     homeCause t0 a false sScr = none ∧ StillAt h0 sScr u ∧ poisoned u (memKey t0.mid a u) 8 = false ∧
     Kept h0 sScr (homeRead t0 a u).1) ∧
    (let a := 0x001000200000
     let u := homeLine t0 a (drainHome t0 sScr)
     homeCause t0 a true sScr = none ∧ StillAt h0 sScr u ∧ (u.thr h0).resv ≠ some (memKey t0.mid a u / 64)) ∧
    (let a := 0x001000200000
     let u := homeLine t0 a (drainHome t0 sRes)
     homeCause t0 a true sRes = none ∧ StillAt h0 sRes u ∧ (u.thr h0).resv = some (memKey t0.mid a u / 64)) :=
  ⟨goes_spec (by decide +kernel), goes_spec (by decide +kernel), calm_spec (by decide +kernel),
    by unfold StillAt Kept; decide +kernel, by unfold StillAt Kept; decide +kernel, by unfold StillAt Kept; decide +kernel⟩
theorem wit_AtomicResults_golne : region 0x1000 = .dram ∧ checkAccess 0x2000 0x1000 true sg = .ok .dram ∧
    (let r := busAccess 0x2000 0x1000 8 none 0 sg
     r.2 = .data (bytes 8 0) false ∧ (busAccess 0x2000 0x1000 8 (some (leBytes 8 1)) 0 r.1).2 ≠ .fault) ∧ region 0x003000000000 ≠ .dram := by
  decide +kernel
/-- A free lock in DRAM is granted, one that another thread holds makes the requester wait, and the holder releases its own. -/
theorem wit_LockInstructionResults : (Flows h0 (sa 0x1000) ∧ Granted h0 (.lkacq h0 1 2 3) (sa 0x1000)) ∧
    lockCause h0 0x1000 (sa 0x1000) = none ∧ region 0x003000000000 ≠ .dram ∧ region 0x003000000000 ≠ .ownScratch ∧
    (let s := homeLine t0 0x1000 (sa 0x1000)
     let r := lockAcquire 0x1000 t0.mid 0 false (some 1) s
     r.2 = .status 0 ∧ Kept h0 (sa 0x1000) r.1 ∧ (lockAcquire 0x1000 t1.mid 0 false (some 1) r.1).2 = .waits ∧
     Kept h0 (sa 0x1000) (lockRelease 0x1000 t0.mid false 0 false r.1).1) :=
  ⟨goes_spec (by decide +kernel), by unfold Kept; decide +kernel⟩
theorem wit_FenceResults : (Flows h0 sScr ∧ Granted h0 (.fence h0) sScr) ∧ StillAt h0 sScr (cleanTask t0 (drainAll t0 sScr)) ∧
    (s0.thr h0).sb = [] ∧ (s0.thr h0).lines = [] :=
  ⟨goes_spec (by decide +kernel), by unfold StillAt Kept; decide +kernel⟩
/-- A taken branch to the last instruction of instruction memory, and one beyond it, which may not be fetched. -/
theorem wit_BranchResults : (Flows h0 s0 ∧ Granted h0 (.beq h0 1 1 0x3FFF) s0) ∧
    fetchOk ((s0.thr h0).pc + 4 * (0x3FFF : BitVec 15).signExtend 48) = true ∧
    fetchOk ((s0.thr h0).pc + 4 * (0xFFFF : BitVec 26).signExtend 48) = true :=
  ⟨goes_spec (by decide +kernel), by decide +kernel⟩
theorem wit_FetchFaultParks : (Flows h0 s0 ∧ Granted h0 (.j h0 0x10000) s0) ∧
    fetchOk ((s0.thr h0).pc + 4 * (0x10000 : BitVec 26).signExtend 48) = false ∧
    fetchOk ((s0.thr h0).pc + 4 * (0x7FFF : BitVec 15).signExtend 48) = false :=
  ⟨goes_spec (by decide +kernel), by decide +kernel⟩
/-- A thread with task 5 of petal 0 in its slot. -/
def sTask : State := s0.updSlot t0 (fun sl => { sl with cur := some 5 })
theorem wit_TaskSlotResults : (Flows h0 sTask ∧ Granted h0 (.tsldd h0 1 none 0x3F8) sTask) ∧ (0x3F8 : BitVec 10).toNat % 8 = 0 ∧
    (sTask.slot t0).cur ≠ none ∧ (s0.slot t0).cur = none ∧ (0x3F9 : BitVec 10).toNat % 2 ≠ 0 :=
  ⟨goes_spec (by decide +kernel), by decide +kernel⟩
theorem wit_TaskControlResults : (Flows h0 sTask ∧ Granted h0 (.tkrel h0) sTask) ∧ (sTask.slot t0).cur = some 5 ∧
    (sTask.slot t0).rel = false ∧ ((sTask.updSlot t0 (fun sl => { sl with rel := true })).slot t0).rel = true ∧
    (let u := drainHome t0 sTask
     StillAt h0 sTask u ∧ (u.slot t0).cur = some 5 ∧ (u.slot t0).next ≠ some 5 ∧ (u.slot t0).next = (sTask.slot t0).next) :=
  ⟨goes_spec (by decide +kernel), by decide +kernel, by decide +kernel, by decide +kernel, by unfold StillAt Kept; decide +kernel⟩

/-- Channel 3 of petal 0 from thread 0.0.0.0 (slot 0) to thread 0.0.0.1, its number in D2 of the former; `n` messages in its FIFO. -/
def sCh (n : Nat) : State :=
  (((s0.setD h0 2 3).domWrite 0x3341 0 48 ([1, 0, 0, 0, 0, 0, 0, 0, 0, 0, 3] ++ bytes 5 0)).updChan 0 3 (fun c =>
    { c with fifo := List.replicate n [⟨9, false⟩] }))
/-- `sCh` with `k` words staged in thread 0.0.0.0. -/
def sSt (n k : Nat) : State := (sCh n).updThr h0 (fun x => { x with staged := List.replicate k (3, ⟨5, false⟩) })
/-- The receiver's side of `sCh`. -/
def sRx (n : Nat) : State := ((sCh n).updThr h1 (fun x => { x with st := .running, pc := 0x001000000000 })).setD h1 2 3
theorem wit_ChannelResults : (Flows h0 (sSt 3 7) ∧ Granted h0 (.chwr h0 2 1) (sSt 3 7)) ∧
    ((sCh 0).thr h0).discard.contains 3 = false ∧ senderSlot (sCh 0) 0 3 t0.mid = some 0 ∧ ((sCh 0).chan 0 3).holder = none ∧
    senderSlot (sRx 0) 0 3 t1.mid = none ∧ stagedFor ((sCh 0).thr h0) 3 = [] ∧ stagedFor ((sSt 3 7).thr h0) 3 ≠ [] ∧
    ((sSt 3 8).thr h0).staged.length = 8 ∧ ((sSt 4 1).chan 0 3).fifo.length = 4 ∧ nextSender (sSt 3 7) 0 3 = none ∧
    (∀ y, chanRecv (sSt 3 7) 0 3 = some y → ((sSt 3 7).thr (midHart y)).st ≠ .recvWait) :=
  ⟨goes_spec (by decide +kernel), by decide +kernel, by decide +kernel, by decide +kernel, by decide +kernel, by decide +kernel,
    by decide +kernel, by decide +kernel, by decide +kernel, by decide +kernel, fun y hy => by
      have h : chanRecv (sSt 3 7) 0 3 = some 1 := by decide +kernel
      rw [h] at hy; cases hy; decide +kernel⟩
theorem wit_ChannelResults_recv : (Flows h1 (sRx 1) ∧ Granted h1 (.chrcv h1 1 2) (sRx 1)) ∧ chanRecv (sRx 1) 0 3 = some t1.mid ∧
    ((sRx 1).chan 0 3).fifo = [[⟨9, false⟩]] ∧ ((sRx 0).chan 0 3).fifo = [] ∧ ((sRx 1).thr h1).wait = .none ∧
    chanRecv (sRx 1) 0 3 ≠ some t0.mid ∧
    (let s := (sRx 0).updThr h1 (fun x => { x with recvBuf := [⟨9, false⟩, ⟨8, true⟩] })
     (s.thr h1).recvBuf[0]? = some ⟨9, false⟩ ∧ (s.thr h1).recvBuf[1]? = some ⟨8, true⟩ ∧ (s.thr h1).recvBuf[2]? = none) :=
  ⟨goes_spec (by decide +kernel), by decide +kernel⟩
theorem wit_SystemResults : (Flows h0 s0 ∧ Granted h0 (.evwait h0 1) s0) ∧ (s0.thr h0).evq = [] ∧
    ((s0.updThr h0 (fun x => { x with evq := [⟨true, 1, 4⟩] })).thr h0).evq = [⟨true, 1, 4⟩] ∧ debugOn s0 0 0 = false ∧
    debugOn (s0.dset 0x3001 2 32) 0 0 = true ∧ draining s0 0 = false ∧ (s0.thr h0).it = false ∧
    fetchOk (((s0.updThr h0 (fun x => { x with it := true, epc := 0x00100003FFFC })).thr h0).epc.truncate 48) = true :=
  ⟨goes_spec (by decide +kernel), by decide +kernel⟩
theorem wit_SystemRegisterResults : (Flows h0 s0 ∧ Granted h0 (.mfs h0 1 0x37) s0) ∧ t0.t = 0 ∧ t1.t ≠ 0 ∧
    (Flows h1 s1 ∧ Granted h1 (.mfs h1 1 0x20) s1) := ⟨goes_spec (by decide +kernel), rfl, by decide, goes_spec (by decide +kernel)⟩
/-- Thread 0.0.0.0 with thread 0.0.0.1 in a state. -/
def sSup (st : TState) : State := s0.updThr h1 (fun x => { x with st := st })
theorem wit_SupervisorResults : (Flows h0 (sSup .parkedFault) ∧ Granted h0 (.thres h0 1) (sSup .parkedFault)) ∧
    1 ≤ (7 : BitVec 4).toNat ∧ (7 : BitVec 4).toNat ≤ 7 ∧ ((sSup .parkedFault).thr h1).st.parked = true ∧
    Kept h0 (sSup .eventWait) (endWait t1 (sSup .eventWait)) ∧ Kept h0 (sSup .running) (resetThread t1 (sSup .running)) :=
  ⟨goes_spec (by decide +kernel), by decide, by decide, by decide +kernel, by unfold Kept; decide +kernel, by unfold Kept; decide +kernel⟩
theorem wit_BitHelperResults : Flows h0 s0 ∧ Granted h0 (.tpz h0 1 2 3) s0 := goes_spec (by decide +kernel)
/-- A thread with a table operation that is to write C1. -/
def sOp : State := s0.updThr h0 (fun x => { x with tops := [⟨.tl2 h0 1 2, 0x001000000000, 7, none⟩], cBusy := [1] })
theorem wit_CRegisterResults : (Flows h0 sOp ∧ Granted h0 (.mvcd h0 1 2) sOp) ∧ helperRefuses sOp 0 0 = false ∧ helperRefuses sOp 0 1 = false ∧
    (sOp.thr h0).cBusy.contains 1 = true ∧ (sOp.thr h0).cBusy.contains 2 = false ∧ (sOp.thr h0).tops = [⟨.tl2 h0 1 2, 0x001000000000, 7, none⟩] ∧
    helperRefuses (s0.dset 0x3380 1 0b111111111) 0 8 = true ∧ helperRefuses sOp 0 3 = false :=
  ⟨goes_spec (by decide +kernel), by decide +kernel⟩
theorem wit_TableOperationResults : (Flows h0 s0 ∧ Granted h0 (.tadd h0 1 2 3) s0) ∧ (s0.thr h0).tops.length < 8 ∧ clusterOps s0 0 0 < 128 ∧
    (∀ f, f < 9 → helperRefuses s0 0 f = false) ∧ (s0.thr h0).cBusy = [] ∧ undefinedFor h0 (.tlpm h0 1 30 true) = false ∧
    undefinedFor h0 (.tctx h0 1 27 true) = false ∧ StillAt h0 (sa 0x1000) (drainHome t0 (sa 0x1000)) ∧
    tableCause t0 0x1000 true (sa 0x1000) = none ∧ tableCause t0 0x1000 false (sa 0x1000) = none ∧
    (let u := homeLine t0 0x1000 (drainHome t0 (sa 0x1000)); (u.thr h0).c = ((sa 0x1000).thr h0).c) :=
  ⟨goes_spec (by decide +kernel), by decide +kernel, by decide +kernel, by decide +kernel, by decide +kernel, by decide +kernel,
    by decide +kernel, by unfold StillAt Kept; decide +kernel, by decide +kernel, by decide +kernel, by decide +kernel⟩
/-- A bank A whose opcode 0 runs the microprogram UIMM, UEND with its result in D, and whose opcode 1 is undefined; 0x3380.06 is 2. -/
def sCust : State :=
  (((s0.domWrite 0x3382 0 0 (leBytes 8 (1 * 2 ^ 62 + 2 * 2 ^ 58 + 2 * 2 ^ 56 + 2 ^ 55))).domWrite 0x3382 0 0x800
    (leBytes 8 (9 * 2 ^ 58 + 7))).domWrite 0x3382 0 0x808 (leBytes 8 0)).dset 0x3380 6 2
theorem wit_CustomerInstructionResults : (Flows h0 sCust ∧ Granted h0 (.customerInstruction h0 0 1 0 0 0) sCust) ∧
    mapEntry sCust 0 0 0 / 2 ^ 62 % 4 = 1 ∧ (mapEntry sCust 0 0 0).testBit 55 = true ∧ mapEntry sCust 0 0 0 / 2 ^ 60 % 4 = 0 ∧
    mapEntry sCust 0 0 1 / 2 ^ 62 % 4 = 0 ∧
    (let r := microRun t0 0 (fun _ => 0) (sCust.dget 0x3380 6) 0 ⟨[], false⟩ sCust
     r.2 = .result 7 ∧ Kept h0 sCust r.1) ∧ (microRun t0 0 (fun _ => 0) 1 0 ⟨[], false⟩ sCust).2 = .refused :=
  ⟨goes_spec (by decide +kernel), by decide +kernel, by decide +kernel, by decide +kernel, by decide +kernel, by unfold Kept; decide +kernel,
    by decide +kernel⟩
theorem wit_EmulationTrap : (Flows h0 s0 ∧ Granted h0 (.undefinedInstruction h0 0x400) s0) ∧ decodeWord h0 0x400 = none ∧
    (let x := (s0.updThr h0 (fun x => { x with tvec := 0x001000000101 })).thr h0
     x.tvec.getLsbD 0 = true ∧ x.it = false) ∧ (s0.thr h0).tvec.getLsbD 0 = false ∧ (sg.thr .golne).it = false :=
  ⟨goes_spec (by decide +kernel), by decide +kernel⟩
theorem wit_FaultParks : t1.t ≠ 0 ∧ t0.t = 0 ∧ (s0.thr (.thr t1.sup)).st = .running ∧ (s0.thr h1).st ≠ .eventWait ∧
    ((s0.thr h0).evq.any (fun e => e.kind1 && e.src == 1)) = false ∧
    ((s0.updThr h0 (fun x => { x with evq := [⟨true, 1, 4⟩] })).thr h0).evq.any (fun e => e.kind1 && e.src == 1) = true := by
  decide +kernel

/-- Golne firmware as a writer. -/
def gw : Writer := .golne 0
theorem wit_DecodeOfEncode : hartOfInstr (.tlpm h1 5 4 true) = some h1 ∧ (Instr.tlpm h1 5 4 true).wf = true := by decide +kernel
theorem wit_EncodeOfDecode : decodeWord h1 0xFC3FFFFF ≠ none ∧ decodeWord .golne 0x04448000 = some (.add .golne 1 1 2) := by decide +kernel
theorem wit_StepTakesFront : State.reset.pending = [] := rfl
/-- A write of DRAIN to petal 0 passes; one of WITNESS_STRICT alone, and one of a bit that a cluster has not, hold reserved values; one
of DEBUG to a cluster meets the lock. -/
theorem wit_ModeWrites : Admitted gw 0x3000 1 0 (leBytes 4 128) (some 0) State.reset ∧
    (128 &&& ownBits (.petal 0) = 128) ∧ (256 : Nat).testBit 8 = true ∧ (256 : Nat).testBit 3 = false ∧
    Admitted gw 0x3001 1 0 (leBytes 4 32) (some 0) State.reset ∧ unlocked State.reset = false ∧
    checkWrite gw 0x3000 1 0 (leBytes 4 128) (some 1) State.reset = some (0x08000021, false) ∧
    checkWrite (.debugger false) 0x3000 1 0 (leBytes 4 128) (some 0) State.reset ≠ none :=
  ⟨admits_spec (by decide +kernel), by decide, by decide, by decide, admits_spec (by decide +kernel), by decide +kernel, by decide +kernel,
    by decide +kernel⟩
theorem wit_PromptModes : 0 ∈ [0, 3, 5, 8] ∧ State.reset.waiters = [] := by decide
/-- DETERMINISTIC in entry and in exit in a quiet cluster; a cluster held for parking; a drain that nothing holds up. -/
theorem wit_ModeTransitions : transOf State.reset (.cluster 0 0) 1 = none ∧
    transOf (setTrans (.cluster 0 0) 1 (some true) State.reset) (.cluster 0 0) 1 = some true ∧
    transOf (setTrans (.cluster 0 0) 1 (some false) State.reset) (.cluster 0 0) 1 = some false ∧
    clusterQuiet State.reset 0 0 = true ∧ clusterQuiet sTask 0 0 = false ∧
    (let s := holdOn 0 1 3 true State.reset
     (s.clus 0 1).hold = [3] ∧ petalHalted s 0 = false ∧ clusterReleased s 0 1 = true ∧ parkBlocked s 0 1 = false) ∧
    (let s := ((State.reset.dset 0x3000 7 1).dset 0x2100 1 7)
     s.dget (drainIdx (.petal 0)) 7 = 1 ∧ petalDrained s 0 = true ∧ s.dget 0x2100 1 = 7) ∧
    hostUp State.reset 0 = false ∧ hostUp State.reset 1 = false ∧ (State.reset.dset 0x2000 0x0B 5).dget 0x2000 0x0B ≠ 0 ∧
    modeDiff (State.reset.dset 0x2000 1 4) .device ≠ 0 := by decide +kernel
/-- An SPDM session of the owner on SMBus (16 R433). -/
def sOwn : State := { State.reset with sessions := [⟨1, .smbus 8, true, true⟩] }
theorem wit_StartSequence : State.reset.power = 2 ∧ State.reset.minRetry = false ∧ State.reset.romStuck = false ∧
    State.reset.dget 0x2100 1 = 0 ∧ State.reset.journal = [] ∧
    Admitted gw 0x2102 5 0 [1] none State.reset ∧ Admitted (.smbus 8 (some 1)) 0x2100 7 0 (leBytes 4 0xA55A) none sOwn ∧
    minimalOn (State.reset.dset 0x2000 2 16) = true ∧ ((State.reset.dset 0x2000 7 2).dget 0x2000 7 = 2) ∧
    ((State.reset.dset 0x2065 1 0b10001).dget 0x2065 1).testBit 4 = true :=
  ⟨by decide +kernel, by decide +kernel, by decide +kernel, by decide +kernel, rfl, admits_spec (by decide +kernel),
    admits_spec (by decide +kernel), by decide +kernel, by decide +kernel, by decide +kernel⟩
theorem wit_Activations : Admitted gw 0x2130 1 0 (leBytes 8 (3 * 2 ^ 56 + 15)) none State.reset ∧
    Admitted gw 0x2130 1 0 (leBytes 8 (3 * 2 ^ 56 + 16)) none State.reset ∧ State.reset.act = none ∧
    actQuiet State.reset (targetCluster 23).1 (targetCluster 23).2 = true ∧
    ({ State.reset with act := some ⟨2, 0, [], [23], true⟩ }).act = some ⟨2, 0, [], [23], true⟩ :=
  ⟨admits_spec (by decide +kernel), admits_spec (by decide +kernel), rfl, by decide +kernel, rfl⟩
theorem wit_JournalAndBanks : Admitted gw 0x2110 2 0 (leBytes 8 1) none State.reset ∧ Admitted gw 0x2131 1 0 [0] none State.reset ∧
    Admitted gw 0x2131 2 0 [0] none State.reset ∧ Admitted gw 0x3100 1 0 [0] (some 0) State.reset ∧
    (bankCheck State.reset 0 0).1 ≠ 0 ∧ (custCheck State.reset 0 0).1 = 0 ∧ Admitted gw 0x3381 1 0 [1] (some 0) State.reset ∧
    holdFree (State.reset.dset 0x2100 1 4) 0 = true :=
  ⟨admits_spec (by decide +kernel), admits_spec (by decide +kernel), admits_spec (by decide +kernel), admits_spec (by decide +kernel),
    by decide +kernel, by decide +kernel, admits_spec (by decide +kernel), by decide +kernel⟩
/-- A source of each class and the ends of the sources' number range; word 0 of a status word is its exact value at reset. -/
theorem wit_FaultCollectors : srcKind 0 = 0 ∧ srcKind 0x15E ≠ 3 ∧ srcKind 0x0B8 = 1 ∧ srcKind 0x0B9 = 2 ∧ srcKind 0x1FF = 0 ∧
    Admitted gw 0x2200 1 0 (leBytes 8 0) none State.reset ∧ Admitted gw 0x2220 0x0A 0 [12] none State.reset ∧
    Admitted gw 0x2220 7 0 [3] none State.reset ∧
    (∃ t, threadOf 1 = some t ∧ t.p = 0 ∧ (s1.thr (.thr t)).st = .running) ∧
    timerRuns (State.reset.updColl .device (fun r => { r with uccTimer := true })) .device .ucc = true ∧
    ({ State.reset with haltDue := [0] }).haltDue.contains (0 : Petal).val = true ∧ petalHalted State.reset 0 = false :=
  ⟨by decide +kernel, by decide +kernel, by decide +kernel, by decide +kernel, by decide +kernel, admits_spec (by decide +kernel),
    admits_spec (by decide +kernel), admits_spec (by decide +kernel), ⟨t1, by decide +kernel, rfl, by decide +kernel⟩, by decide +kernel,
    by decide +kernel, by decide +kernel⟩
/-- Petal 0 halted at step `n` of 18 R477, with the dump of number 9 unacknowledged in petal 1's slot. -/
def sHalt (n : Nat) : State := { State.reset with halts := [(0, n)], dumps := [(1, 9)] }
theorem wit_DumpsAndRestarts : Tab.get 0 (sHalt 3).halts 0 = 3 ∧ (sHalt 3).golneDown = false ∧ (sHalt 3).restartAsked = [] ∧
    Tab.find (sHalt 3).dumps 0 = none ∧ (Tab.find (sHalt 3).dumps 1).isSome = true ∧ (sHalt 3).noDram = false ∧
    Admitted gw 0x2220 3 0 (leBytes 8 9) none (sHalt 4) ∧ Admitted gw 0x2220 3 0 (leBytes 8 8) none (sHalt 4) ∧
    Admitted gw 0x2220 6 0 [0] none (sHalt 4) ∧ ((sHalt 4).dset 0x2220 5 1).dget 0x2220 5 = 1 ∧ recentHalts (sHalt 4) 0 < 4 ∧
    Tab.get 0 (sHalt 5).halts 0 = 5 ∧ (golneRestart State.reset).golneDown = true ∧ (golneRestart State.reset).bulk = [] :=
  ⟨by decide +kernel, rfl, rfl, by decide +kernel, by decide +kernel, rfl, admits_spec (by decide +kernel), admits_spec (by decide +kernel),
    admits_spec (by decide +kernel), by decide +kernel, by decide +kernel, by decide +kernel, by decide +kernel, by decide +kernel⟩
/-- A state in which unit `u` waits with trigger `t`. -/
def sTrig (u t : Nat) : State := { State.reset with sorrel := [(u, t)] }
/-- A state in which unit `u` swaps from physical unit 0 to `n`. -/
def sSwap (u t n : Nat) : State := { State.reset with swaps := [⟨u, t, 0, n, 0⟩] }
theorem wit_Sparing : servedBy State.reset 0x50000000 = some 900 ∧ (validUnit 0x50000000 = true ∧ unitKind 0x50000000 ∈ [1, 3, 5, 7]) ∧
    servedBy State.reset 0xFFFFFFFF = none ∧ validUnit 0x20000000 = true ∧ unitKind 0x20000000 ∉ [1, 3, 5, 7] ∧
    3 * State.reset.dget 0x2300 5 ≤ 4 * 41 ∧ State.reset.dget 0x2300 5 ≤ 41 ∧ 40 < State.reset.dget 0x2300 5 ∧
    4 * 30 < 3 * State.reset.dget 0x2300 5 ∧ (State.reset.dget 0x2300 1).testBit 1 = true ∧
    Admitted gw 0x2300 2 0 (leBytes 8 (1 * 2 ^ 60 + 0x50000000)) none State.reset ∧
    Admitted gw 0x2300 2 0 (leBytes 8 (2 * 2 ^ 60 + 0x50000000)) none State.reset ∧
    Admitted gw 0x2300 2 0 (leBytes 8 (3 * 2 ^ 60 + 0x50000000)) none State.reset ∧
    Admitted gw 0x2300 2 0 (leBytes 8 (1 * 2 ^ 60 + 2 ^ 32 + 0x50000000)) none State.reset ∧ validUnit 0 = false ∧
    unitRetired State.reset 0x50000000 = false ∧ freeSpare State.reset 0x50000000 = some 916 ∧
    Tab.get 0 State.reset.repairs 0x80000000 < 8 ∧ validUnit 0x80000000 = true ∧
    nextTrigger State.reset = none ∧ nextTrigger (sTrig 0x50000000 3) = some (0x50000000, 3) ∧
    freeSpare (sTrig 0x50000000 3) 0x50000000 = some 916 ∧ servedBy (sTrig 0x50000000 3) 0x50000000 = some 900 ∧
    ((sSwap 0x50000000 3 16).swaps.find? (fun w => w.unit == 0x50000000)).isSome = true ∧ maySettle (sSwap 0x50000000 3 16) 0x50000000 = true :=
  ⟨by decide +kernel, by decide +kernel, by decide +kernel, by decide +kernel, by decide +kernel, by decide +kernel, by decide +kernel,
    by decide +kernel, by decide +kernel, by decide +kernel, admits_spec (by decide +kernel), admits_spec (by decide +kernel),
    admits_spec (by decide +kernel), admits_spec (by decide +kernel), by decide +kernel⟩
/-- Core 0.0.0. -/
def k0 : CoreId := ⟨0, 0, 0⟩
/-- A migration of core 0.0.0 whose thread 0 has a task and whose thread 1 has none; a DETERMINISTIC cluster without an escalation; a
DRAM copy at position 5; a trie bank that fills. -/
theorem wit_Sparing_migration :
    (let s := { sTask with swaps := [⟨coreUnit k0, 3, 0, 8, 0⟩] }
     (∃ x ∈ s.swaps, x.unit = coreUnit k0 ∧ (detOn s k0.p k0.c = false ∨ x.trig = 0)) ∧
     (s.thr (.thr (k0.thread 0))).wait = .none ∧ (s.thr (.thr (k0.thread 0))).st = .running ∧ (s.slot (k0.thread 0)).cur ≠ none ∧
     (s.slot (k0.thread 1)).cur = none) ∧
    (let s := { State.reset.dset 0x3001 2 2 with swaps := [⟨coreUnit k0, 3, 0, 8, 0⟩] }
     ∀ x ∈ s.swaps, x.unit = coreUnit k0 → detOn s k0.p k0.c = true ∧ x.trig ≠ 0) ∧
    (State.reset.dram 0).copy = none ∧ ((State.reset.updDram 0 (fun r => { r with copy := some (5, 9) })).dram 0).copy = some (5, 9) ∧
    ((sSwap 0x30000000 3 8).swaps.find? (fun w => unitKind w.unit == 3 && unitPet w.unit == 0 && bitsOf w.unit 22 16 == 0)).isSome = true := by
  decide +kernel
/-- A state in which debug is unlocked for petals 0 and 2, with cluster 0.0 in DEBUG. -/
def sDbg : State := { (State.reset.dset 0x8000 2 (2 ^ 31)).dset 0x3001 2 32 with unlockPetals := 5, unlockEnd := 100 }
theorem wit_CountersAndUnlock : Admitted gw (ctrIdx 0) 2 0 [0xFF] none State.reset ∧ Admitted gw (ctrIdx 4) 3 0 (leBytes 1 1) none State.reset ∧
    Admitted gw 0x7600 5 0 (leBytes 1 1) none State.reset ∧ Admitted gw 0x763F 5 0 (leBytes 1 0) none State.reset ∧
    Admitted gw 0x8000 1 0 (bytes 256 0) none State.reset ∧ permitCheck State.reset (bytes 256 0) ≠ 0 ∧
    unlocked State.reset = false ∧ unlocked sDbg = true ∧ sDbg.waiters = [] ∧ Admitted gw 0x8000 3 0 (leBytes 1 1) none sDbg ∧
    Admitted gw 0x8200 1 0 (leBytes 2 0x2000) none sDbg ∧ sDbg.unlockPetals.testBit (0x2000 / 4096 % 4) = true ∧
    Admitted gw 0x8200 16 0 (leBytes 2 0x3000) none sDbg ∧ sDbg.unlockPetals.testBit (0x3000 / 4096 % 4) = false :=
  ⟨admits_spec (by decide +kernel), admits_spec (by decide +kernel), admits_spec (by decide +kernel), admits_spec (by decide +kernel),
    admits_spec (by decide +kernel), by decide +kernel, by decide +kernel, by decide +kernel, by decide +kernel,
    admits_spec (by decide +kernel), admits_spec (by decide +kernel), by decide +kernel, admits_spec (by decide +kernel), by decide +kernel⟩
/-- The debugger, inside the window it has under unlock. -/
def dw : Writer := .debugger false
/-- `sDbg` with thread 0.0.0.0 in a state. -/
def sDbgAt (st : TState) : State := sDbg.updThr h0 (fun x => { x with st := st, pc := 0x001000000000 })
theorem wit_DebugCommands : Admitted dw (dbgIdx t0.core) 1 0 (leBytes 8 (1 * 2 ^ 60)) none (sDbgAt .running) ∧
    Admitted dw (dbgIdx t0.core) 1 0 (leBytes 8 (2 * 2 ^ 60)) none (sDbgAt .halted) ∧
    Admitted dw (dbgIdx t0.core) 1 0 (leBytes 8 (3 * 2 ^ 60)) none (sDbgAt .halted) ∧
    Admitted dw (dbgIdx t0.core) 1 0 (leBytes 8 (4 * 2 ^ 60)) none (sDbgAt .running) ∧
    Admitted dw (dbgIdx t0.core) 0x10 0 (bytes 312 0) none (sDbgAt .halted) ∧
    Admitted dw (dbgIdx t0.core) 0x10 304 (bytes 8 0) none (sDbgAt .running) ∧
    ((sDbgAt .halted).thr h0).st = .halted ∧ ((sDbgAt .halted).thr h0).haltFrom = .running ∧ ((sDbgAt .halted).thr h0).parkAsked = false ∧
    ((sDbgAt .parkedFault).thr h0).st.parked = true ∧ migrating (sDbgAt .running) t0 = false ∧ detOn sDbg 0 0 = false ∧
    detOn (sDbg.dset 0x3001 2 34) 0 0 = true ∧ migrating ({ sDbg with swaps := [⟨coreUnit k0, 3, 0, 8, 0⟩] }) t0 = true ∧
    ((sDbgAt .sparing).thr h0).haltAsked = 0 :=
  ⟨admits_spec (by decide +kernel), admits_spec (by decide +kernel), admits_spec (by decide +kernel), admits_spec (by decide +kernel),
    admits_spec (by decide +kernel), admits_spec (by decide +kernel), by decide +kernel⟩
/-- `sDbgAt .halted` after a step command: thread 0.0.0.0 can issue its next instruction. -/
def sStepped : State := (sDbgAt .halted).updThr h0 (fun y => { y with st := .running, haltCause := 0, passBp := true, haltAsked := 5 })
theorem wit_DebugCommands_step : canIssue h0 sStepped = true ∧ fetchOk (sStepped.thr h0).pc = true ∧ fetchOk ((sStepped.thr h0).pc + 4) = true ∧
    blockBad sStepped t0 (sStepped.thr h0).pc = false ∧ tagOn sStepped t0.core = false ∧ migrating sStepped t0 = false ∧
    sStepped.frozen = [] ∧ Granted h0 (.nop h0) sStepped :=
  ⟨by decide +kernel, by decide +kernel, by decide +kernel, by decide +kernel, by decide +kernel, by decide +kernel, by decide +kernel,
    fun _ hu => by cases hu; decide +kernel⟩
theorem wit_ClocksAndStem : 13 ∉ State.reset.frozen ∧ 13 ∈ ({ State.reset with frozen := [13] }).frozen ∧
    crossHeld State.reset 13 = [] ∧ (State.reset.dram 0).held = [] ∧ (∀ w ∈ State.reset.stem, portDomain w.x.dst.val ≠ some 13) ∧
    (∀ c : Cluster, (State.reset.clus 0 c).parked.contains 2 = true → (ecoChosen State.reset 0).contains c = true) ∧
    portIssues 0 1 = true ∧ portIssues 1 1 = false ∧ validMid 1 = true ∧ stemRoom State.reset 8 (creditClass 1) = true ∧
    outReady State.reset 8 = true ∧ outReady { State.reset with frozen := [5] } 8 = false := by decide +kernel
/-- A permit of 60 s by the Craviril key, for this chip. Its serial number and its signature are free values (assumption 1), so its
last check is a hypothesis on the latter. -/
def permit0 : List Byte := [1, 0, 0, 0, 7, 0xFF, 0, 0] ++ leBytes 8 Config.serial.toNat ++ leBytes 8 1 ++ leBytes 4 60 ++ bytes 228 0
theorem permit0_length : permit0.length = 256 := by decide +kernel
theorem leNat_leBytes (n : Nat) : ∀ x, x < 256 ^ n → leNat (leBytes n x) = x := by
  induction n with
  | zero => intro x h; simp [leBytes, leNat] at *; omega
  | succ n ih => intro x h; simp only [leBytes, leNat, BitVec.toNat_ofNat]; rw [ih _ (by rw [Nat.pow_succ] at h; omega)]; omega
theorem leBytes_eight_length (n : Nat) : (leBytes 8 n).length = 8 := rfl
theorem permit0_fields : sliceNat permit0 0 4 = 1 ∧ sliceNat permit0 4 1 = 7 ∧ sliceNat permit0 5 1 = 0xFF ∧ sliceNat permit0 24 4 = 60 ∧
    sliceNat permit0 28 1 = 0 ∧ sliceNat permit0 16 8 = 1 ∧ zeroSlice permit0 6 2 = true ∧ zeroSlice permit0 29 51 = true ∧
    zeroSlice permit0 176 80 = true := by decide +kernel
theorem permit0_serial : sliceNat permit0 8 8 = Config.serial.toNat := by
  have hp : permit0 = [1, 0, 0, 0, 7, 0xFF, 0, 0] ++ (leBytes 8 Config.serial.toNat ++ (leBytes 8 1 ++ (leBytes 4 60 ++ bytes 228 0))) := by
    simp only [permit0, List.append_assoc]
  rw [sliceNat, hp, List.drop_left' (i := 8) rfl, List.take_left' (leBytes_eight_length _)]
  exact leNat_leBytes 8 _ (Config.serial.isLt)
theorem wit_CountersAndUnlock_permit (h : Config.sigOk Config.cravirilKey (permit0.take 80) ((permit0.drop 80).take 96) = true) :
    permitCheck State.reset permit0 = 0 := by
  obtain ⟨a, b, c, d, e, f, g, i, j⟩ := permit0_fields
  have h4 : lastPseq State.reset = 0 := by decide +kernel
  have k : signerKey State.reset 0xFF = some Config.cravirilKey := rfl
  simp only [permitCheck, a, b, c, d, e, f, g, i, j, permit0_length, permit0_serial, h4, k, h]
  simp only [ne_eq, not_true_eq_false, ite_false]
  decide
/-! ### The packet path -/

/-- A packet of the host (queue 0) or of port 0 that nothing has marked. -/
def pk0 : Pkt :=
  { task := 0, seq := 0, dom := 1, pstat := 0, gen := 0, tstamp := 0, len := 64, src := 0, cls := 0, rule := 0xFFFF, flags := 0,
    buf := 0xFFFFFFFF, hq := 0, hash := 1, lenIn := 64, vec := [], cow := [], edits := [], ts := none, copied := false, home := 0, key := [] }
/-- A formed task with number `id` that lacks the operands outside `mask`. -/
def tk0 (id mask : Nat) : Task :=
  { id := id, order := id, pkt := { pk0 with task := id }, mask := mask, late := 0, looks := ⟨none, none, none, 0⟩, route := 0, l2 := 0,
    ctx := 0, ctxIdx := none, held := false, cowOp := false, thr := none, pref := false, ended := false, early := false,
    strictDrop := false, readyAt := 0, dq := 0, disp := 0, formAt := 0, dispAt := 0 }
/-- A packet in a queue. -/
def qp0 : QPkt := { seq := 0, pkt := pk0, spill := none, cow := false, doomed := 0, witness := false, prot := false }
/-- Petal 0 with a change. -/
def sPet (f : PetalSt → PetalSt) : State := State.reset.updPet 0 f
/-- Port 0 up and petal 0's parser open, with a frame of 64 bytes that waits. -/
def sRcv : State := (State.reset.dset (portIdx 0) 2 2).updPet 0 (fun r => { r with parseOn := true, rx := [⟨0, bytes 64 0, 0, 0⟩] })
theorem wit_ReceivePath : portUp sRcv 0 = true ∧ sRcv.frozen.contains 1 = false ∧ portUp State.reset 0 = false ∧
    64 ≤ (bytes 64 0).length ∧ (bytes 64 0).length ≤ sRcv.dget (portIdx 0) 5 ∧ sRcv.dget (portIdx 0) 5 < (bytes 9217 0).length ∧
    beNat (slice (bytes 64 0) 12 2) ≠ 0x8808 ∧ petalHalted sRcv 0 = false ∧
    petalHalted ({ sRcv with halts := [(0, 1)] }) 0 = true ∧
    beNat (slice (bytes 12 0 ++ [0x88, 0x08, 0x01, 0x01] ++ bytes 48 0) 12 2) = 0x8808 ∧
    beNat (slice (bytes 12 0 ++ [0x88, 0x08, 0x01, 0x01] ++ bytes 48 0) 14 2) = 0x0101 ∧
    sRcv.dget (portIdx 0) 0x12 = 1 ∧ (sRcv.dset (portIdx 0) 0x12 0).dget (portIdx 0) 0x12 ≠ 1 ∧
    ((sPet (fun r => { r with paused := [3] })).pet 0).paused.contains 3 = true ∧
    (sRcv.pet 0).rx = [⟨0, bytes 64 0, 0, 0⟩] ∧ (sRcv.pet 0).copies = [] ∧ (sRcv.pet 0).parseOn = true ∧
    (allocBufs 0 (refillReserve (sRcv.updPet 0 (fun r => { r with rx := [] })) 0) 64 (sRcv.updPet 0 (fun r => { r with rx := [] }))).2 = none := by
  decide +kernel
/-- `sRcv` with one free buffer of 16,384 bytes in petal 0's pool 4, whose parse graph is empty. -/
def sRcv1 : State :=
  let s := sRcv.updPet 0 (fun r => { r with pools := [(0, ⟨1, some 0, [], [], false⟩)] })
  s.memWrite (bufAddr s 0 0 0) (leBytes 8 (freeLink 0 0 none))
theorem wit_ReceivePath_walk :
    (let s1 := sRcv1.updPet 0 (fun r => { r with rx := [] })
     let a := allocBufs 0 (refillReserve s1 0) 64 s1
     a.2 = some [0] ∧
     (let w := writePkt 0 [0] (bytes 64 0) a.1
      let o := walkFrame w.1 0 (w.1.dget (pix 0x3100 0) 2) ((bytes 64 0).take 60)
      modeOn w.1 (.petal 0) 3 = false ∧ (topFail o.fails).isSome = true)) := by decide +kernel
/-- `sRcv1` with a graph of one node, a terminal header of 14 bytes. -/
def sRcv2 : State := sRcv1.domWrite 0x3101 0 0 (leBytes 8 (1 * 2 ^ 56 + 2 * 2 ^ 54 + 2 ^ 48) ++ leBytes 8 (14 * 2 ^ 56))
theorem wit_ReceivePath_accept :
    (let s1 := sRcv2.updPet 0 (fun r => { r with rx := [] })
     let a := allocBufs 0 (refillReserve s1 0) 64 s1
     a.2 = some [0] ∧
     (let w := writePkt 0 [0] (bytes 64 0) a.1
      let o := walkFrame w.1 0 (w.1.dget (pix 0x3100 0) 2) ((bytes 64 0).take 60)
      let t := genSnap w.1 (genInUse w.1 0)
      o.fails = [] ∧ minimalOn (countWalk 0 o w.1) = false ∧ classify t 0 (classKey t 0 o.vec ⟨0, o.status, o.deepest, o.vlan0, o.mpls0⟩) = none ∧
      listWords (t.bytes (pix 0x3108 0) 0 (72 * t.get (pix 0x3106 0) 1) 72) = (0, []))) := by decide +kernel
theorem wit_Tasks :
    nextForm (sPet (fun r => { r with form := [(pk0, false)] })) 0 = some ((pk0, false), 0) ∧
    (let s := sPet (fun r => { r with form := [(pk0, false)] })
     refusedIngress s 0 pk0 = none ∧ freeId s 0 = some 0 ∧ (s.pet 0).copies = [] ∧ petalHalted s 0 = false ∧ minimalOn s = false) ∧
    nextForm (sPet (fun r => { r with form := [(pk0, true)] })) 0 = some ((pk0, true), 0) ∧
    (let s := (sPet (fun r => { r with form := [(pk0, true), (pk0, false)] })).dset 0x3200 2 0
     nextForm s 0 = some ((pk0, false), 1) ∧ nextForm (s.updPet 0 (fun r => { r with form := [(pk0, true)] })) 0 = none) ∧
    nextForm State.reset 0 = none ∧
    (let s := (State.reset.dset 0x3200 2 16384)
     ingressClosed s 0 = false ∧ 16384 - s.dget 0x3200 2 ≤ ingressCount s 0 ∧ refusedIngress s 0 pk0 = some 0x41 ∧
     refusedIngress (s.dset 0x3203 0x30 1) 0 pk0 = some 0x39) ∧
    taskOf State.reset 0 5 = none ∧
    (let s := sPet (fun r => { r with tasks := [tk0 5 11], lateOps := [(5, 3)] })
     taskOf s 0 5 = some (tk0 5 11) ∧ (s.pet 0).lateOps.contains (5, 3) = true ∧ (s.pet 0).lateOps.contains (5, 2) = false ∧
     bitOf (tk0 5 11).mask 2 = false ∧ bitOf (tk0 5 11).mask 3 = true ∧ bitOf (tk0 5 13).mask 1 = false ∧ bitOf (tk0 5 13).late 1 = false ∧
     (∀ y ∈ (s.pet 0).tasks, bitOf y.late 1 = true → bitOf y.mask 1 = true)) := by decide +kernel
/-- Petal 0's core 0.0.0 may start work: a ready task waits. -/
def sDisp : State := sPet (fun r => { r with tasks := [tk0 5 15] })
/-- `sDisp` with thread 0.0.0.0 started, running its program. -/
def sDisp1 : State := (sDisp.dset 0x2100 1 7).updThr h0 (fun x => { x with st := .running, pc := 0x001000000000 })
theorem wit_Tasks_dispatch :
    (servedCores sDisp1 0).findSome? (fun k => (pickTask sDisp1 0 k.lc).map (fun r => (k, r))) = some (k0, tk0 5 15, true) ∧
    petalHalted sDisp1 0 = false ∧ (servedCores State.reset 0).findSome? (fun k => (pickTask State.reset 0 k.lc).map (fun r => (k, r))) = none ∧
    petalHalted ({ sDisp1 with halts := [(0, 1)] }) 0 = true := by decide +kernel
/-- Petal 0 with a task of thread 0.0.0.0 that has ended, or not. -/
def sEnd (e : Bool) : State := sPet (fun r => { r with tasks := [{ tk0 5 15 with ended := e, thr := some 0 }] })
theorem wit_Tasks_release : taskOf (sEnd true) 0 5 = some { tk0 5 15 with ended := true, thr := some 0 } ∧
    mayRelease (sEnd true) 0 { tk0 5 15 with ended := true, thr := some 0 } = true ∧ petalHalted (sEnd true) 0 = false ∧
    ((sEnd true).pet 0).copies = [] ∧ ((some 0 : Option Nat).bind threadOf).any (pendFrozen (sEnd true)) = false ∧
    (some 0 : Option Nat).bind threadOf = some t0 ∧ ((sEnd false).dset 0x3200 4 0).dget 0x3200 4 = 0 ∧ (sEnd false).dget 0x3200 4 ≠ 0 := by
  decide +kernel
/-- A rule record of mask 0 that is valid, and one with a reserved bit set. -/
def rule0 (b : Byte) : List Byte := bytes 84 0 ++ [b] ++ bytes 11 0
/-- A batch of one command: L2_SET of MAC address 0, or another operation. -/
def batch0 (op : Byte) : List Byte := [1, 0, 0, 0, 7, 0, 0, 0, op] ++ bytes 31 0
theorem wit_Tables : Admitted gw 0x3107 0 0 (rule0 1) none State.reset ∧ ruleReserved (rule0 1) = false ∧ (rule0 1).length = 96 ∧
    Admitted gw 0x3109 0 0 (bytes 128 0) none State.reset ∧ Admitted gw 0x3109 0 0 (97 :: bytes 127 0) none State.reset ∧
    Admitted gw 0x5000 0x10 0 (batch0 5) none State.reset ∧
    (batchCheck 0 (batch0 5) State.reset.tables.accepted).isRight = true ∧ batchCheck 0 (batch0 8) State.reset.tables.accepted = .inl (2, 0) ∧
    batchCheck 0 (bytes 8 0) State.reset.tables.accepted = .inl (1, 0) ∧
    minimalOn State.reset = false ∧ State.reset.tables.queue = [] ∧ petalBehind State.reset 0 = false ∧
    (liveGens State.reset 0 State.reset.tables.applied).length ≤ 4 ∧ State.reset.tables.learn = [] :=
  ⟨admits_spec (by decide +kernel), by decide +kernel, by decide +kernel, admits_spec (by decide +kernel), admits_spec (by decide +kernel),
    admits_spec (by decide +kernel), by decide +kernel⟩
/-- One commit that waits; five live generations in petal 0; a learn event; an entry. -/
theorem wit_Tables_engine :
    (let s := State.reset.updTab (fun t => { t with queue := [⟨1, TabSnap.reset, [], []⟩] })
     s.isoPorts.contains 12 = false ∧ (∀ x : Petal, petalBehind s x = false) ∧ commitFits s TabSnap.reset = true) ∧
    petalBehind ((State.reset.dset 0x2100 1 7).updTab (fun t => { t with applied := 1 })) 0 = true ∧
    (let s := (sPet (fun r => { r with tasks := [tk0 0 15, { tk0 1 15 with pkt := { pk0 with gen := 1 } },
        { tk0 2 15 with pkt := { pk0 with gen := 2 } }, { tk0 3 15 with pkt := { pk0 with gen := 3 } }] })).updTab (fun t => { t with applied := 4 })
     4 < (liveGens s 0 s.tables.applied).length ∧ petalBehind s 0 = true) ∧
    (let s := State.reset.updTab (fun t => { t with learn := [⟨4096, 3, 0⟩] })
     l2Get s.tables.accepted 4096 = none ∧ (putL2 ⟨4096, 3, 0, false, 0, false⟩ s.tables.accepted.l2).isSome = true) ∧
    (State.reset.dset 0x5300 4 7).dget 0x5300 4 ≠ 0 ∧ (State.reset.dset 0x5300 4 0).dget 0x5300 4 = 0 ∧
    (let e : L2Ent := ⟨4096, 3, 0, false, 0, false⟩
     let s := (State.reset.dset 0x5200 3 5).updTab (fun t =>
       { t with ticks := 9, stamps := [(4096 * 4, 0)], accepted := { t.accepted with l2 := [e] } })
     ageLimit s ≠ 0 ∧ e.static = false ∧ ageLimit s < l2Age s e.key ∧ (Tab.find s.tables.stamps (e.key * 4)).isSome = true) := by
  decide +kernel
/-- Petal 0 with one buffer in its pool 0, at the head of an intact list, or not at its head and in a state. -/
def sPool (head : Option Nat) (st : Nat) (rebuild : Bool) : State :=
  let s := sPet (fun r => { r with pools := [(0, ⟨1, head, [(0, st)], [], rebuild⟩)] })
  s.memWrite (bufAddr s 0 0 0) (leBytes 8 (freeLink 0 0 none))
theorem wit_BuffersAndSpill : writerOf 0x2000 = some gw ∧ windowShut (sPool (some 0) 0 false) gw = false ∧ writerOf 0x5000 = none ∧
    mayAllocate 0x2000 = true ∧ mayAllocate 0x1000 = false ∧ (writerOf 0x1000).isSome = true ∧ threadOf 0x2000 = none ∧
    Admitted gw 0x33A4 6 0 (leBytes 4 0) none (sPool none 1 false) ∧ Admitted gw 0x33A4 6 0 (leBytes 4 0xFFFFFFFF) none (sPool none 1 false) ∧
    (let s := sPool (some 0) 0 false
     (poolOf s 0 0).head = some 0 ∧ (poolOf s 0 0).rebuild = false ∧
     bitsOf (s.memNat (bufAddr s 0 0 0) 8) 31 16 = bufTag 0 0 ∧ bufState s 0 0 0 ≠ 1 ∧ poisoned s (bufAddr s 0 0 0) 8 = false) ∧
    bufState (sPool (some 0) 1 false) 0 0 0 = 1 ∧ (poolOf (sPool none 0 true) 0 0).rebuild = true ∧ (poolOf (sPool none 0 false) 0 0).head = none ∧
    bufName (sPool none 1 false) 0 0 = some (0, 0) ∧ bufName (sPool none 1 false) 0 1 = none ∧ bufState (sPool none 0 false) 0 0 0 = 0 ∧
    bufState (sPool none 2 false) 0 0 0 = 2 ∧ 0 ∉ (poolOf (sPool none 1 false) 0 0).bad ∧
    (∃ y, writerOf 0x0000 = some y ∧ windowShut { State.reset with isoPorts := [11] } y = true) :=
  ⟨by decide +kernel, by decide +kernel, by decide +kernel, by decide +kernel, by decide +kernel, by decide +kernel, by decide +kernel,
    admits_spec (by decide +kernel), admits_spec (by decide +kernel), by decide +kernel, by decide +kernel, by decide +kernel, by decide +kernel,
    by decide +kernel, by decide +kernel, by decide +kernel, by decide +kernel, by decide +kernel, ⟨.core t0, by decide +kernel, by decide +kernel⟩⟩
/-- Queue 0 on, to port 0, with packets; petal 0's spill area has one slot, or none. -/
def sQ (pk : List QPkt) : State := (State.reset.domWrite (qIdx 0) (qSub 0) 0 (leBytes 8 (2 ^ 63 + 2 ^ 60))).updQ 0 (fun k => { k with pk := pk })
theorem wit_BuffersAndSpill_spill :
    (State.reset.pet 0).spillRun = false ∧ slotCount State.reset 0 = 0 ∧ (State.reset.pet 0).spill = none ∧ refillNext State.reset 0 = none ∧
    slotCount ((State.reset.dset 0x33A5 1 0).dset 0x33A5 2 1) 0 = 986895 ∧
    (let s := sPet (fun r => { r with spill := some ⟨0, 0, [0]⟩ })
     (s.pet 0).spill = some ⟨0, 0, [0]⟩ ∧ (withAhead (s.q 0).pk).find? (fun e => e.2.seq == 0) = none) ∧
    (let s := (sQ [qp0]).updPet 0 (fun r => { r with spill := some ⟨0, 0, [0]⟩ })
     ((withAhead (s.q 0).pk).find? (fun e => e.2.seq == 0)).isSome = true) ∧
    Admitted gw 0x33A6 3 0 [1] none State.reset ∧ Admitted gw 0x33A6 3 0 [0] none State.reset ∧
    ((sPet (fun r => { r with fcnt := [(0, (1, 64))] })).pet 0).fcnt = [(0, (1, 64))] :=
  ⟨by decide +kernel, by decide +kernel, by decide +kernel, by decide +kernel, by decide +kernel, by decide +kernel, by decide +kernel,
    admits_spec (by decide +kernel), admits_spec (by decide +kernel), by decide +kernel⟩
/-- A state with one Cowslip operation. -/
def sCow (f : CowOp → CowOp) (srv : CowFor) : State := State.reset.updCow (fun c => { c with ops := [f (CowOp.fresh 1 0 srv 0)] })
/-- The parameter block of an ingress MACsec SA. -/
def sa0 : List Byte := 1 :: bytes 127 0
/-- SA 0 resident, draining or not; the library at 0, its record 0 sealed. -/
def sSa (d : Bool) : State :=
  (State.reset.dset 0x4C02 1 0).updCow (fun c => { c with sas := [(0, ⟨sa0, [], 0, [], 0, false, d, false⟩)], seals := [(0, (bytes 128 0, []))] })
/-- `sSa` without its SA. -/
def sLib : State := (sSa false).updCow (fun c => { c with sas := [] })
theorem wit_Cowslip : minimalOn State.reset = false ∧ minimalOn (State.reset.dset 0x2000 2 16) = true ∧ State.reset.act = none ∧
    State.reset.cow.ops = [] ∧ ((List.range 4).map (fun n => State.reset.dget 0x4C01 (1 + n))).sum ≤ 16 ∧
    (laneWork (sCow (fun o => { o with left := 52 }) (.ingress 5 0)) 0 52).isSome = true ∧
    laneWork (sCow (fun o => { o with left := 53 }) (.ingress 5 0)) 0 52 = none ∧
    ((sCow (fun o => { o with left := 64, lane := some 15 }) (.ingress 5 0)).cow.ops.find? (fun o => o.lane == some 15)).isSome = true ∧
    windowShut State.reset gw = false ∧ sa0.length = 128 ∧
    (∀ n : Fin 4, checkWrite gw 0x4C10 0 0 (leBytes 4 (n.val + 1) ++ leBytes 4 0 ++ sa0) none State.reset = none) ∧
    libBase State.reset = none ∧ libBase sLib = some 0 ∧ saReserved sa0 = false ∧ leNat (slice sa0 120 4) < 1048576 ∧
    Tab.find (sSa false).cow.sas 0 = some ⟨sa0, [], 0, [], 0, false, false, false⟩ ∧ saFind (sSa false) (saKey sa0) ≠ none ∧
    Tab.find (sSa false).cow.sas 1 = none ∧ saFind sLib (saKey sa0) = none ∧ sLib.cow.sas = [] ∧ libRead sLib 0 0 = some (0, 0, []) ∧
    (bytes 128 0).all (· == 0) = true ∧ sa0.all (· == 0) = false ∧ saBusy (sSa true) 0 = false ∧
    saBusy ((sSa true).updCow (fun c => { c with ops := [{ CowOp.fresh 1 0 (.ingress 5 0) 0 with sa := some 0 }] })) 0 = true ∧
    ((sa0.getD 0 0).toNat ∈ [1, 2, 3]) := by decide +kernel
/-- A commit of an ingress operation whose task waits for it, and of one whose task is gone; a job that may be submitted; a job
that is due. -/
theorem wit_Cowslip_commit :
    (let s := (sCow id (.ingress 5 5)).updPet 0 (fun r => { r with tasks := [tk0 5 7] })
     taskOf s 0 5 = some (tk0 5 7) ∧ (tk0 5 7).order = 5 ∧ bitOf (tk0 5 7).mask 3 = false ∧
     ¬ (∃ x ∈ s.cow.ops, x.id < 1)) ∧ taskOf (sCow id (.ingress 5 5)) 0 5 = none ∧
    writerOf 0x5000 = none ∧ writerOf 0x2000 = some gw ∧
    checkWrite gw 0x4C20 1 0 (leBytes 8 0x1000) none State.reset = none ∧ inGeneral State.reset 0x1000 64 = true ∧
    inGeneral State.reset 0xE00000000 64 = false ∧
    (let s := sCow (fun o => { o with owner := 4, status := 4 }) (.job 0x2000 0x1000)
     (s.cow.ops.find? (fun o => o.owner == 4 && o.jobOf.isSome)).isSome = true ∧
     bitOf (leNat (slice (s.memRead 0x1000 64) 1 1)) 0 = false) := by decide +kernel
theorem wit_Egress : Admitted gw (qIdx 0) (qSub 0) 0 (bytes 8 0 ++ leBytes 8 (2 ^ 32 + 2 ^ 16 + 1) ++ bytes 32 0) none State.reset ∧ qReserved State.reset 0 (fun k => if k = 1 then 2 ^ 32 + 2 ^ 16 + 1 else 0) = false ∧
    Admitted gw (qIdx 0) (qSub 0) 0 (bytes 48 0xFF) none State.reset ∧ qReserved State.reset 0 (fun _ => 2 ^ 64 - 1) = true ∧
    qOn (sQ [qp0]) 0 = true ∧
    (let s := (sQ [qp0]).dset (portIdx 0) 2 2
     s.frozen.contains 1 = false ∧ s.dget (portIdx 0) 2 = 2 ∧ (pickQueue 0 s).2 = some 0 ∧ (s.q 0).pk.head? = some qp0 ∧ qp0.doomed = 0 ∧
     pktPoison s (pktHome pk0) pk0.buf = false ∧ (pktBytes s (pktHome pk0) pk0.buf).length ≤ s.dget (portIdx 0) 5 ∧
     ((qLive s (portPetal 0)).filter (fun g => qKind s g == 1 && qPort s g == 0 && (s.q g).pk ≠ [])) = [0]) ∧
    (pickQueue 0 (State.reset.dset (portIdx 0) 2 2)).2 = none ∧ ({ State.reset with frozen := [5] }).frozen.contains 5 = true ∧
    Admitted gw 0x4300 2 0 (leBytes 8 0) none State.reset ∧ (State.reset.time : Int) + (0 : BitVec 64).toInt = 0 ∧
    (-1 : BitVec 64).toInt < 0 ∧ Admitted gw 0x4300 2 0 (leBytes 8 (2 ^ 64 - 1)) none State.reset ∧ 13 ∉ State.reset.frozen ∧
    ((State.reset.dset 0x4300 5 1).dget 0x4300 5 = 1) :=
  ⟨admits_spec (by decide +kernel), by decide +kernel, admits_spec (by decide +kernel), by decide +kernel, by decide +kernel,
    by decide +kernel, by decide +kernel, by decide +kernel, admits_spec (by decide +kernel), by decide +kernel, by decide +kernel,
    admits_spec (by decide +kernel), by decide +kernel⟩
/-- A line of DRAM in an L1, clean or dirty. -/
def line0 (d : Bool) : Line := { addr := 0x1000, way := 0, data := bytes 64 1, dirty := d, poison := false, owner := 0 }
/-- Core 0.0.0 with a change. -/
def sCore (f : CoreSt → CoreSt) : State := State.reset.updCore k0 f
theorem wit_Caches : petalHalted State.reset 0 = false ∧ petalHalted ({ State.reset with halts := [(0, 1)] }) 0 = true ∧
    (State.reset.core k0).merge = [] ∧
    (let s := sCore (fun c => { c with merge := [⟨0x1000, [(0, 1)], [0], 0, false⟩] })
     (s.core k0).merge = [⟨0x1000, [(0, 1)], [0], 0, false⟩] ∧ dramFrozen s 0x1000 = false ∧
     dramFrozen { s with frozen := [7, 8, 9, 10] } 0x1000 = true) ∧
    (t0 ∈ threadsOf k0 ∧ fetchServes (s0.thr h0) = true ∧ (s0.clus 0 0).parked = [] ∧ (s0.core k0).isolated = false ∧
      (∀ y ∈ threadsOf k0, fetchServes (s0.thr (.thr y)) = true → y = t0) ∧ fetchHeld (s0.thr h0) = [] ∧ (s0.thr h0).st = .running) ∧
    (∀ y ∈ threadsOf k0, fetchServes (State.reset.thr (.thr y)) = false) ∧
    Passes gw 0x2030 0 0 (bytes 8 0) State.reset ∧ (pageWrite 0 (bytes 8 0) (Unstaged gw 0x2030 0 State.reset)).isOk = true ∧
    Passes (.core t0) (pix 0x3330 0) 1 0 (leBytes 8 (0 * 2 ^ 60 + 0 * 2 ^ 58 + 0 * 2 ^ 56 + 0 * 2 ^ 48 + 0x1000)) State.reset ∧
    cacheReserved 0 0 0 0 0x1000 = false ∧ cacheReserved 0 3 3 0 1 = true ∧ detOn State.reset 0 0 = false ∧
    (let s := sCore (fun c => { c with l1 := [line0 true] })
     (∀ e ∈ (s.core k0).evict, e.addr ≠ lineOf 0x1000) ∧ (s.core k0).l1.filter (fun y => y.addr == lineOf 0x1000) = [line0 true] ∧
     inDram (coreKey k0 (lineOf 0x1000) s) = true) ∧
    Passes gw (cacheIdx 0 0) 1 0 (leBytes 4 2) State.reset ∧
    (let s := sCore (fun c => { c with side := [line0 false] })
     (s.core k0).side.any (fun x => x.addr == lineOf 0x1000) = true) ∧
    (let s := sCore (fun c => { c with evict := [line0 true] })
     (s.core k0).evict = [line0 true] ∧ dramFrozen s (coreKey k0 0x1000 s) = false ∧ inDram (coreKey k0 0x1000 s) = true) :=
  ⟨by decide +kernel, by decide +kernel, by decide +kernel, by decide +kernel, by decide +kernel, by decide +kernel,
    by unfold Passes; decide +kernel, by decide +kernel, by unfold Passes; decide +kernel, by decide +kernel, by decide +kernel, by decide +kernel,
    by decide +kernel, by unfold Passes; decide +kernel, by decide +kernel, by decide +kernel⟩
/-- Queue 0 of a kind of host ring (2 receive, 3 transmit) for function 0, enabled, with 4 descriptors posted; and its packets. -/
def sRing (kind : Nat) (pk : List QPkt) : State :=
  (({ State.reset with busMaster := [0x1000] }.domWrite (qIdx 0) (qSub 0) 0
    (leBytes 8 (2 ^ 63 + kind * 2 ^ 60) ++ leBytes 8 (2 ^ 32 + 2 ^ 16 + 1) ++ bytes 24 0 ++ leBytes 8 (6 * 2 ^ 59 + 6 * 2 ^ 54 + 2 ^ 30) ++
      leBytes 8 (4 * 2 ^ 16))).updQ 0 (fun k => { k with pk := pk, started := true }))
/-- A descriptor of 256 bytes at 0x10000, with or without EOP; and a malformed one. -/
def desc0 (eop : Bool) : List Byte := leBytes 8 0x10000 ++ leBytes 2 256 ++ [if eop then 1 else 0, 0] ++ bytes 20 0
theorem wit_HostInterface :
    (let s := sRing 3 []
     qKind s 0 = 3 ∧ qOn s 0 = true ∧ qFn s 0 = 0x1000 ∧ (5 + fnHost s 0x1000) ∉ s.frozen ∧ ringReady s 0 = true ∧ posted s 0 = 4 ∧
     (let w6 := qWord s 0 6
      let d := fun a b => (a + 65536 - b) % 65536
      d 5 (w6 % 65536) ≤ 2 ^ bitsOf (qWord s 0 5) 63 59 ∧ d (bitsOf w6 31 16) (w6 % 65536) ≤ d 5 (w6 % 65536) ∧
      d 0 (bitsOf w6 63 48) ≤ d (bitsOf w6 47 32) (bitsOf w6 63 48) ∧ ¬ d 65 (w6 % 65536) ≤ 2 ^ bitsOf (qWord s 0 5) 63 59) ∧
     modeOn s .device 0 = false ∧ draining s 0 = false ∧ petalHalted s 0 = false ∧
     ¬ s.dget 0x3200 2 ≤ hostCount s 0 + ((s.pet 0).form.filter Prod.snd).length ∧
     txDescOk (desc0 true) = true ∧ txEop (desc0 true) = true ∧ txEop (desc0 false) = false ∧ txDescOk (bytes 32 0) = false) ∧
    (let s := sRing 2 [qp0]
     qKind s 0 = 2 ∧ ringReady s 0 = true ∧ posted s 0 ≠ 0 ∧ (s.q 0).pk.head? = some qp0 ∧ (s.q 0).started = true ∧
     [desc0 false].take (posted s 0) = [desc0 false] ∧ rxDescOk (desc0 true) = false ∧
     rxDescOk (desc0 false) = true ∧ bitOf (qWord s 0 5) 30 = true ∧
     ((s.updQ 0 (fun k => { k with irqDue := true })).q 0).irqDue = true) ∧
    ({ State.reset with frozen := [5] }).frozen.contains 5 = true ∧ (0x1007 : BitVec 16).toNat / 4096 = 1 ∧ (0x2000 : BitVec 16).toNat / 4096 ≠ 1 ∧
    pfsOfLink State.reset 0 0 ≠ [] ∧ 0 ∉ State.reset.perst ∧ State.reset.dget (hostIdx 0) 1 ≠ 0 ∧
    0x1000 * 2048 ∈ ({ State.reset with msixPend := [0x1000 * 2048] }).msixPend := by decide +kernel
/-- The export of 1 GiB of DRAM from 0 on, over a trained CXL link. -/
def sCxl : State := ((State.reset.dset 0x4500 1 1).dset (hostIdx 1) 2 3).dset (hostIdx 1) 4 8
/-- Group 2 with one read that waits. -/
def sRead : State := State.reset.updDram 2 (fun d => { d with reads := [⟨1, 0x1000, 0, false, false, 0⟩] })
theorem wit_Dram : 6 ∉ State.reset.frozen ∧ 9 ∉ State.reset.isoPorts ∧ (cxlExport State.reset).2 ≤ 0 ∧
    dramGroupOf State.reset 0x1000 = 2 ∧ inDram 0x1000 = true ∧ inDram 0xE00000000 = false ∧
    checkAccess 1 0x1000 false State.reset = .ok .dram ∧ checkAccess 1 0x1000 true State.reset = .ok .dram ∧
    checkAccess 1 0xDC0000000 true State.reset = .refused ∧ inDram 0xDC0000000 = true ∧ checkAccess 0x1400 0x1000 true sCxl = .ok .dram ∧
    cxlExport sCxl = (0, 2 ^ 30) ∧
    groupServes State.reset 2 = true ∧ queueAdmits (State.reset.dram 2).reads 1 = true ∧ 9 ∉ State.reset.frozen ∧
    groupServes { State.reset with frozen := [9] } 2 = false ∧
    nextRead (sRead.dram 2).reads = some ⟨1, 0x1000, 0, false, false, 0⟩ ∧ nextRead (State.reset.dram 2).reads = none ∧
    firstAged sRead (sRead.dram 2).reads = some ⟨1, 0x1000, 0, false, false, 0⟩ ∧ firstAged State.reset [] = none ∧
    poisoned State.reset 0x1000 32 = false ∧ poisoned (setPoison 0x1000 32 State.reset) 0x1000 32 = true ∧
    bitOf (ownModes State.reset .device) 2 = false ∧ bitOf (ownModes (setOwn .device 4 State.reset) .device) 2 = true := by
  decide +kernel
theorem wit_ThreadAndChannelCommands : Admitted gw (coreIdx 0 0) 0x0B 0 (leBytes 8 (1 * 2 ^ 60)) none (sSup .parkedFault) ∧
    Admitted gw (coreIdx 0 0) 0x0B 0 (leBytes 8 (2 * 2 ^ 60 + 0x001000000000)) none (sSup .parkedFault) ∧
    Admitted gw (coreIdx 0 0) 0x0B 0 (leBytes 8 (3 * 2 ^ 60 + 2 ^ 56)) none (sSup .halted) ∧
    Admitted gw (coreIdx 0 0) 0x0B 0 (leBytes 8 (4 * 2 ^ 60 + 2 ^ 56)) none (sSup .sparing) ∧
    Admitted gw (coreIdx 0 0) 1 0 (leBytes 8 0) none s0 ∧ Admitted gw (coreIdx 0 0) 9 0 (leBytes 2 0) none s0 ∧
    floorsFit (plainScalar (coreIdx 0 0) 1 (leBytes 8 0) s0) k0 = true ∧
    Admitted gw 0x3341 0 0 (bytes 16 0) none s0 ∧ bindReserved 0 (bytes 16 0) = false ∧ bindReserved 0 (bytes 16 0xFF) = true ∧
    chanIdle s0 0 0 = true ∧ chanIdle (sCh 1) 0 3 = false ∧ Admitted gw 0x3342 1 0 (leBytes 8 (2 ^ 60 + 3)) none (sSt 3 7) ∧
    Admitted gw 0x3342 1 0 (leBytes 8 (2 * 2 ^ 60 + 3)) none (sCh 3) ∧ ((sCh 3).chan 0 3).holder = none ∧
    threadOf 0 = some t0 ∧ threadOf 0x2000 = none ∧
    (let s := (sSt 3 7).updThr h0 (fun x => { x with st := .halted })
     (s.thr h0).st = .halted ∧ stagedFor (s.thr h0) 3 ≠ [] ∧ 0 ∉ (s.chan 0 3).waiting) ∧
    Admitted gw 0x3342 2 0 (leBytes 8 (1 * 2 ^ 16 + 3) ++ leBytes 8 7) none (sCh 3) ∧ chanExt (sCh 3) 0 3 = false ∧
    (let s := ((sCh 3).domWrite 0x3341 0 58 [0x20])
     chanExt s 0 3 = true ∧ (s.chan 0 3).fifo.length < 4 ∧ chanRecv s 0 3 = none) ∧
    Admitted gw (coreIdx 0 0) 0x0A 0 (leBytes 1 6) none s0 ∧ s0.dget (coreIdx 0 0) 0x0A ≠ 6 ∧ Admitted gw 0x2040 1 0 (leBytes 1 1) none s0 :=
  ⟨admits_spec (by decide +kernel), admits_spec (by decide +kernel), admits_spec (by decide +kernel), admits_spec (by decide +kernel),
    admits_spec (by decide +kernel), admits_spec (by decide +kernel), by decide +kernel, admits_spec (by decide +kernel), by decide +kernel,
    by decide +kernel, by decide +kernel, by decide +kernel, admits_spec (by decide +kernel), admits_spec (by decide +kernel), by decide +kernel,
    by decide +kernel, by decide +kernel, by decide +kernel, admits_spec (by decide +kernel), by decide +kernel, by decide +kernel,
    admits_spec (by decide +kernel), by decide +kernel, admits_spec (by decide +kernel)⟩
/-- A hold whose holder is parked; a wait group of the one thread 0.0.0.1, which waits to receive from a channel that nobody sends to. -/
theorem wit_ThreadAndChannelCommands_waits :
    (let s := (sSup .parkedFault).updChan 0 3 (fun c => { c with holder := some 1 })
     (s.chan 0 3).holder.bind threadOf = some t1 ∧ (s.chan 0 3).raised = false ∧ (s.thr h1).st.parked = true) ∧
    (let m := (List.range 8).foldl (fun u i => u.dset (coreIdx 0 i) 0x0A (if i = 0 then 2 else 0)) (sSup .recvWait)
     let s := m.updThr h1 (fun x => { x with wait := .recv 1 3 })
     waitGroup s 0 0 = (0, [t1]) ∧ stuck s 0 [t1] t1 = true ∧ Tab.get 0 s.census 0 ≠ 1 + (s.thr h1).waits ∧ petalHalted s 0 = false) ∧
    ∃ y ∈ (waitGroup s0 0 0).2, stuck s0 0 (waitGroup s0 0 0).2 y = false :=
  ⟨by decide +kernel, by decide +kernel, ⟨t1, by decide +kernel, by decide +kernel⟩⟩
/-- The lock region at 0, with lock 0 held by a master, and its waiters. -/
def sLock (h : Option Nat) (ws : List Waiter) : State :=
  { State.reset.dset 0x9000 1 0 with holders := (h.map (fun m => (0, (⟨m, 3, false⟩ : Holder)))).toList, waiters := ws }
theorem wit_LockWindows : (0 : BitVec 30).toNat % 8 = 0 ∧ (sLock none []).dget 0x9000 1 ≠ 0xFF ∧ (sLock none []).noDram = false ∧
    State.reset.dget 0x9000 1 = 0xFF ∧ (∀ op : Fin 4, ∀ b : Bool, checkAccess 0x1000 (0x004000000000 + op.val * 2 ^ 30) b (sLock none []) = .ok .lockWin) ∧
    0x1000 / 4096 ≠ 3 ∧ pinned (sLock none []) 0 = false ∧ mayPin 0x1000 = false ∧
    pinned ((sLock none []).domWrite 0x9000 4 0 (leBytes 8 (2 ^ 63))) 0 = true ∧ Tab.find (sLock none []).holders 0 = none ∧
    holdersOf (sLock none []) 0 < 4096 ∧ (∃ h, Tab.find (sLock (some 1) []).holders 0 = some h ∧ h.mid ≠ 0x1000) ∧
    (∃ h, Tab.find (sLock (some 0x1000) []).holders 0 = some h ∧ h.mid = 0x1000) ∧ waitersOf (sLock (some 1) []) 0 < 4096 ∧
    (∃ x ∈ (sLock (some 1) [⟨0, 0x1000, 0, none, 0⟩]).waiters, x.key = 0 ∧ x.mid = 0x1000 ∧ x.rd = none) ∧
    firstWaiter (sLock (some 0x1000) []) 0 = none ∧ (firstWaiter (sLock (some 0x1000) [⟨0, 1, 0, none, 0⟩]) 0).isSome = true ∧
    bitOf (2 ^ 32 + 5) 32 = true ∧ Admitted gw 0x9000 4 0 (leBytes 8 (2 ^ 63)) none (sLock none []) ∧
    Admitted gw 0x9000 4 0 (leBytes 8 (2 ^ 48)) none (sLock none []) ∧ (∃ h ∈ (sLock (some 0x1000) []).holders, lockAddr h.1 = 0 ∧ mayPin h.2.mid = false) ∧
    Admitted gw 0x9000 3 0 (leBytes 8 0) none (sLock (some 1) []) ∧ heldAt (sLock (some 1) []) 0 = [0] ∧ heldAt (sLock none []) 0 = [] :=
  ⟨by decide +kernel, by decide +kernel, by decide +kernel, by decide +kernel, by decide +kernel, by decide +kernel, by decide +kernel,
    by decide +kernel, by decide +kernel, by decide +kernel, by decide +kernel, ⟨⟨1, 3, false⟩, by decide +kernel⟩,
    ⟨⟨0x1000, 3, false⟩, by decide +kernel⟩, by decide +kernel, by decide +kernel, by decide +kernel, by decide +kernel, by decide +kernel,
    admits_spec (by decide +kernel), admits_spec (by decide +kernel), by decide +kernel, admits_spec (by decide +kernel), by decide +kernel⟩
/-- Mailbox 0 from master 0x0001 to master 0x1000, full or not, with its timer running. -/
def sMbox (full : Bool) : State :=
  updMbox 0 (fun y => { y with full := full, timer := full }) (State.reset.domWrite 0x9010 0 0 (leBytes 8 (2 ^ 32 + 0x1000 * 2 ^ 16 + 1)))
theorem wit_Mailboxes : Admitted gw 0x9010 0 0 (leBytes 8 (2 ^ 32 + 0x1000 * 2 ^ 16 + 1)) none State.reset ∧ State.reset.dget 0x9011 1 ≠ 1 ∧
    (State.reset.dset 0x9011 1 1).dget 0x9011 1 = 1 ∧ mboxParty 1 = true ∧ mboxParty 0x1000 = true ∧ mboxParty 0x5000 = false ∧
    mboxSend (sMbox false) 0 = some 1 ∧ mboxRecv (sMbox false) 0 = some 0x1000 ∧ 1 / 4096 ≠ 3 ∧ threadOf 1 = some t1 ∧ threadOf 0x1000 = none ∧
    (∀ o ∈ [0x40, 0x44, 0, 60], checkAccess 1 (0x005000000000 + o) true (sMbox false) = .ok .mailbox) ∧
    checkAccess 0x1000 (0x005000000000 + 0x40) true (sMbox true) = .ok .mailbox ∧
    ((sMbox true).mbox 0).full = true ∧ ((sMbox true).mbox 0).timer = true ∧ ((sMbox true).mbox 0).seq = 0 ∧ ((sMbox false).mbox 0).full = false :=
  ⟨admits_spec (by decide +kernel), by decide +kernel⟩
/-- The window of physical function 0. -/
def bw : Writer := .bar2 0
theorem wit_DictionaryWindow : windowShut { State.reset with isoPorts := [11] } bw = true ∧ windowShut State.reset bw = false ∧
    checkWrite bw 0x9000 3 0 (bytes 8 0) none State.reset ≠ none ∧ checkWrite bw 0x9000 2 0 [5] none State.reset = none ∧
    (dictEffect bw 0x9000 2 0 [5] State.reset).2 = none ∧ (dictEffect gw 0x4300 2 0 (leBytes 8 (2 ^ 63)) State.reset).2 ≠ none ∧
    onWindow bw = true ∧ onWindow .can = false ∧ Passes bw 0x9000 2 0 [5] State.reset ∧
    checkAdmit gw 0x3000 1 [] State.reset = none ∧ genEntry 0x3000 1 ≠ none ∧ genEntry 0x9000 2 = none ∧ checkAdmit gw 0x9000 2 [] State.reset = none ∧
    Tab.find ({ State.reset with snaps := [(stageKey bw.mid 0x4300 1, bytes 10 0)] }).snaps (stageKey bw.mid 0x4300 1) = some (bytes 10 0) ∧
    Admitted bw 0x1E30 1 0 (leBytes 8 0) none State.reset ∧ ({ State.reset with golneDown := true }).golneDown = true ∧
    (({ State.reset with bulk := List.replicate 64 ⟨bw, [], []⟩ } : State).bulk.filter (fun y => bulkOwner y.w == bulkOwner bw)).length = 64 ∧
    (dictRead bw 0x1017 0 0 0 State.reset).2.isOk = true ∧ (dictRead bw 0x1017 9 0 0 State.reset).2.isOk = false :=
  ⟨by decide +kernel, by decide +kernel, by decide +kernel, by decide +kernel, by decide +kernel, by decide +kernel, by decide +kernel,
    by decide +kernel, by unfold Passes; decide +kernel, by decide +kernel, by decide +kernel, by decide +kernel, by decide +kernel,
    by decide +kernel, admits_spec (by decide +kernel), by decide +kernel⟩
/-- A classic SDO frame. -/
def can8 (cs : Nat) (l : List Byte) : List Byte := fit 8 (leBytes 1 cs ++ l)
/-- A transfer that is open, downward or upward, of 8 bytes. -/
def sSdo (down : Bool) : State := { State.reset with sdo := some ⟨down, 0x9000, 2, false, 8, if down then [] else bytes 8 0, false⟩ }
theorem wit_SdoOverCan : canServed State.reset = true ∧ canServed { State.reset with frozen := [11] } = false ∧ (bytes 9 0).length ≠ 8 ∧
    (can8 0x2F []).length = 8 ∧ 0x2F / 32 = 1 ∧ bitOf 0x2F 4 = false ∧ bitOf 0x2F 1 = true ∧
    (sdoApply 0x1017 0 [1, 0] (sdoEnd State.reset)).2 = 0 ∧ (sdoApply 0x1018 0 [1] (sdoEnd State.reset)).2 ≠ 0 ∧
    (∀ b ∈ (can8 0x40 [0x17, 0x10]).drop 4, b = (0 : Byte)) ∧ isDom 0x1017 0 = false ∧ (dictRead .can 0x1017 0 0 0 (sdoEnd State.reset)).2.isOk = true ∧
    (dictRead .can 0x1017 9 0 0 (sdoEnd State.reset)).2.isOk = false ∧ (sSdo true).sdo.isSome = true ∧
    leNat (slice (can8 0x00 []) 0 1) / 32 = 0 ∧ leNat (slice (can8 0x60 []) 0 1) / 32 = 3 ∧ leNat (slice (can8 0x60 []) 0 1) % 16 = 0 ∧
    leNat (slice (can8 0x80 []) 0 1) = 0x80 ∧ 4 < leNat (slice (can8 0xFF []) 0 1) / 32 ∧ ({ State.reset with frozen := [11] }).frozen.contains 11 = true ∧
    State.reset.dget 0x1017 0 ≠ 0 ∧ (State.reset.dset 0x1017 0 0).dget 0x1017 0 = 0 := by decide +kernel
theorem wit_MctpEndpoints : mctpServed State.reset (.pf 0) = true ∧ (∃ s, mctpServed s (.pf 0) = false) ∧ mctpEnd gw = none ∧
    mctpEnd (.smbus 8 none) = some (.smbus 8, none) ∧ mctpEnd (.smbus 8 (some 1)) = some (.smbus 8, some 1) ∧
    sessionOpen sOwn 1 (.smbus 8) = true ∧ sessionOpen State.reset 1 (.smbus 8) = false ∧
    (let msg := [1, 0] ++ leBytes 2 0x1017 ++ bytes 8 0 ++ leBytes 2 2 ++ bytes 2 0
     msg.length = 16 ∧ leNat (slice msg 0 1) = 1 ∧ msg.drop 16 = [] ∧ leNat (slice msg 12 2) = 2) ∧
    (let msg := [2, 0] ++ leBytes 2 0x1017 ++ [0, 2] ++ bytes 6 0 ++ leBytes 2 2 ++ bytes 2 0 ++ [1, 0]
     leNat (slice msg 5 1) = 2 ∧ bitOf 2 1 = true ∧ (msg.drop 16).length = leNat (slice msg 12 2)) ∧
    (let x : Accum := ⟨.smbus 8, 0x1017, 0, 0, [1]⟩
     (({ State.reset with accums := [x] } : State).accums.find? (fun y => y.ep == .smbus 8)) = some x ∧ x.off + x.data.length = 1) :=
  ⟨by decide +kernel, ⟨{ State.reset with perst := [0] , isoPorts := [8], frozen := [5] }, by decide +kernel⟩, by decide +kernel⟩
theorem wit_SpdmSessions : mctpServed State.reset (.smbus 8) = true ∧ (measBlock State.reset 10).isSome = true ∧ State.reset.sessions.length < 4 ∧
    4 ≤ ({ State.reset with sessions := List.replicate 4 ⟨1, .smbus 8, true, true⟩ }).sessions.length ∧
    (∀ i : Fin 4, rootValid State.reset i = false) ∧ rootValid (State.reset.domWrite 0x2120 3 0 [1]) 0 = true ∧
    ownSession sOwn (.smbus 8) 1 = some ⟨1, .smbus 8, true, true⟩ ∧ ownSession State.reset (.smbus 8) 1 = none ∧
    (let s := { State.reset with sessions := [⟨1, .smbus 8, true, false⟩] }
     ∃ x, ownSession s (.smbus 8) 1 = some x ∧ x.finished = false) ∧ sessionOpen sOwn 1 (.smbus 8) = true ∧ sessionOpen sOwn 2 (.smbus 8) = false :=
  ⟨by decide +kernel, by decide +kernel, by decide +kernel, by decide +kernel, by decide +kernel, by decide +kernel, by decide +kernel,
    by decide +kernel, ⟨⟨1, .smbus 8, true, false⟩, by decide +kernel⟩, by decide +kernel⟩
theorem wit_DebugPorts : windowShut sDbg gw = false ∧ (dictRead gw 0x8010 2 0 0 sDbg).2.isOk = true ∧ (dictRead gw 0x8010 2 0 0 State.reset).2.isOk = false ∧
    checkWrite gw 0x8010 2 0 (leBytes 8 0) none sDbg = none ∧ sDbg.dget 0x8010 1 % 8 = 0 ∧ sDbg.dget 0x8010 1 < 2 ^ 48 ∧
    (sDbg.dset 0x8010 1 1).dget 0x8010 1 % 8 ≠ 0 ∧ checkAccess (debugMid gw) 0 true sDbg = .ok .dram ∧ tapAlive State.reset = true ∧
    tapAlive { State.reset with frozen := [16] } = false ∧ State.reset.dbgEnHigh = false ∧ unlocked sDbg = true ∧ unlocked State.reset = false ∧
    (dictRead (.debugger false) 0x1017 0 0 0 sDbg).2.isOk = true ∧
    (pathWrite (.debugger false) 0x8010 1 0 (leBytes 8 0) none sDbg).2 = 0 ∧ (0x1F : BitVec 8).toNat < 0x20 := by decide +kernel
theorem wit_PowerAndHotPlug : ({ State.reset with power := 0 }).power = 0 ∧ State.reset.power = 2 ∧ ({ State.reset with power := 1 }).power = 1 ∧
    causeOn State.reset 0 = false ∧ causeOn (setCause 0 true State.reset) 0 = true ∧
    9300 ≤ ((setCause 0 true State.reset).dset 0x2061 1 9300).dget 0x2061 1 ∧
    ¬ (∀ r, r < 5 → railTarget State.reset r ≤ 0x0320) ∧
    (∀ r, r < 5 → railTarget { State.reset with capLimit := [(0, 0x320), (1, 0x320), (2, 0x320), (3, 0x320), (4, 0x320)] } r ≤ 0x0320) ∧
    (capOrder.find? (fun y => !State.reset.capParked.contains (6 * y.1.val + y.2.val) && !passedOver State.reset y.1 y.2)).isSome = true ∧
    100 * State.reset.dget 0x2060 4 ≤ 95 * effCap State.reset ∧ 95 * effCap State.reset < 100 * (State.reset.dset 0x2060 4 1000).dget 0x2060 4 ∧
    (∀ g : Fin 4, (State.reset.dram g).hot = 0) ∧ bitOf ((State.reset.dset 0x2065 1 1).dget 0x2065 1) 0 = true ∧ State.reset.railLock = false ∧
    (State.reset.dset 0x2000 7 2).dget 0x2000 7 = 2 ∧ State.reset.dget 0x2000 7 ≠ 2 ∧ Admitted gw 0x2064 5 0 (leBytes 1 1) none State.reset ∧
    bitOf ((State.reset.dset 0x2064 1 4).dget 0x2064 1) 2 = true :=
  ⟨by decide +kernel, by decide +kernel, by decide +kernel, by decide +kernel, by decide +kernel, by decide +kernel, by decide +kernel,
    by decide +kernel, by decide +kernel, by decide +kernel, by decide +kernel, by decide +kernel, by decide +kernel, by decide +kernel,
    by decide +kernel, by decide +kernel, admits_spec (by decide +kernel), by decide +kernel⟩
theorem wit_MemoryStaysCanonical : Memory.wf State.reset.mem = true := by decide +kernel
/-! ## The spec's worked examples: what its tables give -/

/-- 03: the entries of the level-1 IPv4 header and of the VNI in a descriptor. -/
theorem test_vector_form : (vecForm [.hdr ⟨0x02, 1, 46, 20, 0, 1, 1⟩, .field ⟨24, [0x00, 0x3A, 0x2F], 0, 24⟩]).take 9 =
    [0x50, 0x02, 0x2E, 0x00, 0x82, 0x18, 0x00, 0x3A, 0x2F] := by decide +kernel
/-- 12: BUF 0x2000_0025, and the two link words of the chain. -/
theorem test_buffer_words : bufWord 1 37 = 0x20000025 ∧ usedLink (some (bufWord 1 38)) 888 136 = 0x2000002680DE0088 ∧
    usedLink none 612 8 = 0x0000000000990008 ∧ bufAddr State.reset 1 1 37 = 0x002082809400 := by decide +kernel
/-- 13: weights 6, 4, 4 and 2 give the slot map 0x0213_0210_0213_0210. -/
theorem test_slot_map : slotMap ((((State.reset.dset 0x4C01 1 6).dset 0x4C01 2 4).dset 0x4C01 3 4).dset 0x4C01 4 2) = 0x0213021002130210 := by
  decide +kernel
/-- 13: a packet with A = 28 and D = 1,470 takes 95 blocks. -/
theorem test_blocks : aeadBlocks 28 1470 = 95 := by decide
/-- 15: position, offset and row of 0x000D_A1C7_0980. -/
theorem test_dram_map : dramMap State.reset 0x000DA1C70980 = (31, 1829648512) ∧ dramRow State.reset 0x000DA1C70980 = 1021009 := by
  decide +kernel
/-- Lock word 0x412 of 11's example held by thread 2.4.1.5, with a waiter of priority 20. -/
def exLock (ws : List Waiter) : State :=
  { (State.reset.dset 0x9000 1 48).memWrite 0x000C00002090 (leBytes 4 7) with holders := [(0x000C00002090, ⟨0x0A15, 6, false⟩)], waiters := ws }
/-- 11: the images at 0 and at 400 ns. -/
theorem test_lock_images : lockImage (exLock []) 0x000C00002090 = 0x80060A1500000007 ∧
    lockImage (exLock [⟨0x000C00002090, 0x1003, 20, none, 0⟩]) 0x000C00002090 = 0x94060A1500000007 := by decide +kernel
/-- 16: the upload of 0x3800.03 is answered 4B 00 38 03 41 00 00 00. -/
theorem test_sdo_upload : (match execSdoInitiateUpload [0x40, 0x00, 0x38, 0x03, 0, 0, 0, 0] ((State.reset.dset 0x1E10 1 0x20).dset 0x3800 3 0x41) with
    | .next u => u.out.head? | _ => none) = some (.can 0x5A0 [0x4B, 0x00, 0x38, 0x03, 0x41, 0x00, 0x00, 0x00]) := by decide +kernel
/-- Thread 0.0.0.0 of 07's example on the store buffer: its two stores wait, and the byte behind them is 0x77. -/
def exStore : State :=
  ((sa 0x04001000).memWrite 0x04001000 [0, 0, 0, 0, 0x77, 0, 0, 0]).updThr h0 (fun x => { x with sb :=
    [⟨[(0x04001000, 0xD4), (0x04001001, 0xC3), (0x04001002, 0xB2), (0x04001003, 0xA1)], 0⟩, ⟨[(0x04001005, 0x5E)], 4⟩] })
/-- 07, before R212: the results of the example's four loads, LDW, LDB, LDH and LDD. -/
theorem test_store_forwarding : (loadBytes h0 0x04001000 4 exStore).2 = .bytes (leBytes 4 0xA1B2C3D4) ∧
    (loadBytes h0 0x04001005 1 exStore).2 = .bytes [0x5E] ∧ (loadBytes h0 0x04001004 2 exStore).2 = .bytes (leBytes 2 0x5E77) ∧
    (loadBytes h0 0x04001000 8 exStore).2 = .bytes (leBytes 8 0x00005E77A1B2C3D4) := by decide +kernel
/-- 06, worked example: the sums that the three CSA leave, and the fold. -/
theorem test_checksum : csaSum 0x0040461C54000045 8 = 0xA19A ∧ csaSum 0x0040461C54000045 8 + csaSum 0x0930420AC8A50640 8 = 0x1C1B3 ∧
    csaSum 0x0040461C54000045 8 + csaSum 0x0930420AC8A50640 8 + csaSum 0x0934420A 4 = 0x1FFFE ∧ accPart 0x1FFFE 3 = 0xFFFF := by
  decide +kernel
/-- 06, worked example: the words of its program. -/
theorem test_words_of_ch06 : encodeNat (.ldd h1 1 3 (.disp 0) false) = 0x404F0000 ∧ encodeNat (.ldd h1 2 3 (.disp 8) false) = 0x408F0008 ∧
    encodeNat (.csa h1 0 1 7 true) = 0x18040127 ∧ encodeNat (.csa h1 0 2 7 false) = 0x18080107 ∧ encodeNat (.csa h1 0 3 3 false) = 0x180C0103 ∧
    encodeNat (.xori h1 5 4 0xFFFF) = 0x0953FFFF := by decide +kernel

end Sys2Proof.Tests
end

/-! # Control transfers and traps (06 R162, R176, R177, R188)

What a transfer of control, its refused fetch and an emulation trap do to a hart, each said once, and the three obligations of
family 06 that follow. -/

namespace Sys2Proof.Machine

/-! ## What a branch may count (07 R204, 10 R273) -/

/-- An entry of the dictionary that is none of the counts of a core thread's mispredictions and squashed helper instructions. -/
def UncountedEntry (h : Hart) (i j : Nat) : Prop :=
  ∀ t, h = .thr t → dk i j ≠ dk (pipeIdx t.p t.c) 4 ∧ dk i j ≠ dk (0x3388 + 0x400 * t.p.val + t.c.val) 2 ∧
    dk i j ≠ dk (pix 0x3380 t.p) 8

/-- `u` is `s` but for free values and for the counts of a core thread's mispredictions and squashed helper instructions. -/
structure Counted (h : Hart) (s u : State) : Prop where
  rest : ∃ di fr, u = { s with dict := di, fresh := fr }
  dict : ∀ i j, UncountedEntry h i j → u.dget i j = s.dget i j

theorem Counted.refl (h : Hart) (s : State) : Counted h s s := ⟨⟨_, _, rfl⟩, fun _ _ _ => rfl⟩

theorem Counted.trans {h : Hart} {s u v : State} (a : Counted h s u) (b : Counted h u v) : Counted h s v := by
  obtain ⟨⟨_, _, ea⟩, da⟩ := a
  obtain ⟨⟨_, _, eb⟩, db⟩ := b
  exact ⟨⟨_, _, by rw [eb, ea]⟩, fun i j n => (db i j n).trans (da i j n)⟩

theorem Counted.thr {h : Hart} {s u : State} (a : Counted h s u) (g : Hart) : u.thr g = s.thr g := by
  obtain ⟨⟨_, _, e⟩, _⟩ := a
  rw [e]; rfl

theorem Counted.mem {h : Hart} {s u : State} (a : Counted h s u) : u.mem = s.mem := by
  obtain ⟨⟨_, _, e⟩, _⟩ := a
  rw [e]

/-- A misprediction is counted. -/
theorem bump_mispredicted_counted (t : ThreadId) (s : State) : Counted (.thr t) s (s.bump (pipeIdx t.p t.c) 4) :=
  ⟨⟨_, _, rfl⟩, fun _ _ n => State.dget_bump_ne s (n t rfl).1⟩

/-- Discarding what a thread has issued moves only the counts of squashed helper instructions. -/
theorem squash_counted (t : ThreadId) (a : Addr) (s : State) : Counted (.thr t) s (squash t a s) := by
  unfold squash
  dsimp only
  split
  · exact .refl _ s
  · refine ⟨⟨_, _, rfl⟩, fun i j n => ?_⟩
    obtain ⟨_, hTable, hCustomer⟩ := n t rfl
    rw [State.dget_bumpBy_ne _ _ hCustomer, State.dget_bumpBy_ne _ _ hTable]
    rfl

/-- The predictor moves its own core's counters beside what a misprediction counts. -/
theorem predict_counted (t : ThreadId) (taken : Bool) (a : Addr) (s : State) :
    ∃ co, Counted (.thr t) { s with cores := co } (predict t taken a s) := by
  have train : ∀ (on : Bool) (f : CoreSt → CoreSt), ∃ co, (if on then s.updCore t.core f else s) = { s with cores := co } := by
    intro on f
    cases on
    · exact ⟨s.cores, rfl⟩
    · exact ⟨_, rfl⟩
  unfold predict
  dsimp only
  obtain ⟨co, e⟩ := train (predOn s t) _
  rw [e]
  refine ⟨co, ?_⟩
  split
  · exact .trans (bump_mispredicted_counted t _) (squash_counted t _ _)
  · exact .refl _ _

/-! ## The return stack (07 R204) -/

/-- Two states alike but for how their thread table is written down: every hart's record reads the same. -/
structure Alike (u v : State) : Prop where
  rest : ∃ th, v = { u with threads := th }
  thr : ∀ g, v.thr g = u.thr g

theorem Alike.refl (u : State) : Alike u u := ⟨⟨_, rfl⟩, fun _ => rfl⟩

theorem Alike.updThr {u v : State} (a : Alike u v) (h : Hart) (f : Thread → Thread) : Alike (u.updThr h f) (v.updThr h f) := by
  obtain ⟨⟨_, e⟩, ht⟩ := a
  refine ⟨⟨_, by rw [e]; rfl⟩, fun g => ?_⟩
  by_cases hg : g = h
  · subst hg; simp only [State.thr_updThr_self, ht]
  · simp only [State.thr_updThr_ne _ _ hg, ht]

/-- Writing a hart's return stack back as it stands. -/
theorem alike_rstack_self (h : Hart) (s : State) : Alike (s.updThr h (fun x => { x with rstack := (s.thr h).rstack })) s := by
  refine ⟨⟨s.threads, rfl⟩, fun g => ?_⟩
  by_cases hg : g = h
  · subst hg; rw [State.thr_updThr_self]
  · rw [State.thr_updThr_ne _ _ hg]

/-- A call changes its hart's return stack alone. -/
theorem pushReturn_alike (h : Hart) (s : State) : ∃ rs, Alike (s.updThr h (fun x => { x with rstack := rs })) (pushReturn h s) := by
  have none_pushed := alike_rstack_self h s
  cases h with
  | golne => exact ⟨_, none_pushed⟩
  | thr t =>
    simp only [pushReturn]
    split
    · exact ⟨_, .refl _⟩
    · exact ⟨_, none_pushed⟩

/-- A return changes its hart's return stack, and counts where it was mispredicted. -/
theorem popReturn_counted (h : Hart) (ra : Reg) (s : State) :
    ∃ rs w, Alike (s.updThr h (fun x => { x with rstack := rs })) w ∧ Counted h w (popReturn h ra s) := by
  have none_popped := alike_rstack_self h s
  cases h with
  | golne => exact ⟨_, s, none_popped, .refl _ s⟩
  | thr t =>
    simp only [popReturn]
    split
    · exact ⟨_, s, none_popped, .refl _ s⟩
    · split
      · exact ⟨_, s, none_popped, .refl _ s⟩
      · next q _ =>
        refine ⟨q, _, .refl _, ?_⟩
        split
        · exact .refl _ _
        · exact .trans (bump_mispredicted_counted t _) (squash_counted t _ _)

/-- A return in one update: its counts, its free values and its hart's return stack. -/
theorem popReturn_alike (h : Hart) (ra : Reg) (s : State) :
    ∃ di fr rs, Counted h s { s with dict := di, fresh := fr } ∧
      Alike (({ s with dict := di, fresh := fr } : State).updThr h (fun x => { x with rstack := rs })) (popReturn h ra s) := by
  obtain ⟨rs, w, ⟨⟨_, ew⟩, hw⟩, c⟩ := popReturn_counted h ra s
  have ht := c.thr
  obtain ⟨⟨di, fr, e⟩, hd⟩ := c
  refine ⟨di, fr, rs, ⟨⟨_, _, rfl⟩, fun i j n => ?_⟩, ⟨⟨_, by rw [e, ew]; rfl⟩, fun g => ?_⟩⟩
  · have := hd i j n
    rw [e, ew] at this
    exact this
  · rw [ht g, hw g]; rfl

/-! ## Parking with a fault's record (06 R189) -/

/-- A core thread that kept its registers on the way from `u` has parked in `v` with the record of a fault at `pc`. -/
structure ParkedWith (t : ThreadId) (cause addr : Nat) (pc : Addr) (u v : State) : Prop where
  own : ∃ q p n b d, v.thr (.thr t) = { u.thr (.thr t) with
    st := .parkedFault, wait := .none, resv := none, parkAsked := false, haltAsked := 0,
    tcause := faultWord false false cause addr, tpc := pc, tfpc := pc, evq := q, pc := p, steps := n, passBp := b, due := d }
  mem : v.mem = u.mem

/-- A fault parks its thread with its record, wherever the thread's PC and counts have gone since `u`. -/
theorem faultThread_parks (t : ThreadId) (cause addr : Nat) (pc : Addr) (u w : State)
    (hw : ∃ p n b d, w.thr (.thr t) = { u.thr (.thr t) with pc := p, steps := n, passBp := b, due := d }) (hm : w.mem = u.mem) :
    ParkedWith t cause addr pc u (faultThread t cause addr pc pc w) := by
  obtain ⟨_, _, _, _, ew⟩ := hw
  obtain ⟨⟨q, e⟩, ⟨_, _, _, _, _, _, _, _, _, er⟩⟩ := faultThread_spec t cause addr pc pc w
  exact ⟨⟨q, _, _, _, _, by rw [e, ew]⟩, by rw [er]; exact hm⟩

/-- The place in the pipeline that is noted after the fault leaves its record. -/
theorem ParkedWith.record {t : ThreadId} {cause addr : Nat} {pc : Addr} {u v : State} (p : ParkedWith t cause addr pc u v)
    (w : Nat) (ends : Bool) (s : State) : ParkedWith t cause addr pc u (recordIssue t w ends s v) := by
  obtain ⟨⟨_, _, _, _, _, ho⟩, hm⟩ := p
  obtain ⟨_, e⟩ := recordIssue_eq t w ends s v
  rw [e]
  split
  · exact ⟨⟨_, _, _, _, _, by rw [State.thr_updThr_self, State.bump_thr_reads, State.setPipe_thr_reads, ho]⟩, hm⟩
  · exact ⟨⟨_, _, _, _, _, ho⟩, hm⟩

/-! ## Retiring at a target that may not be fetched (06 R177) -/

theorem retireTo_unfetchable (t : ThreadId) (f : Nat) (npc : Addr) (u : State) (hf : fetchOk npc = false) :
    ParkedWith t 8 npc.toNat npc u (retireTo (.thr t) f npc u) := by
  obtain ⟨⟨_, _, _, hr⟩, _, ⟨_, hw⟩, _⟩ := detIssue_slotted t f u
  simp only [retireTo, hf, Bool.false_eq_true, if_false]
  refine faultThread_parks t 8 npc.toNat npc u _ ?_ ?_
  · rw [State.thr_updThr_self, State.bump_thr_reads, hw]
    exact ⟨_, _, _, _, rfl⟩
  · rw [State.updThr_mem, State.bump_mem, hr]

theorem ended_goto_unfetchable (t : ThreadId) (i : Instr) (s u : State) (f : Nat) (npc : Addr) (hf : fetchOk npc = false) :
    ParkedWith t 8 npc.toNat npc u (ended (.thr t) i s u (.goto f npc)) :=
  (retireTo_unfetchable t f npc u hf).record _ _ _

/-- Retiring in sequence is going on at the next word. -/
theorem ended_next_eq_goto (h : Hart) (i : Instr) (s u : State) (f : Nat) :
    ended h i s u (.next f) = ended h i s u (.goto f ((u.thr h).pc + 4)) := by
  cases h <;> rfl

/-! ## Instructions that choose where their hart goes on -/

/-- The command, where the arbiter lets it issue, retires to `npc` after an effect that left `u`. -/
def Transfers (i : Instr) (h : Hart) (s u : State) (npc : Addr) : Prop :=
  Granted h i s → ∃ f, exec i s = .next (ended h i s u (.goto f npc))

/-- A plain instruction of a ready hart whose effect names where it goes on. -/
theorem transfers_of_goto {h : Hart} {i : Instr} {eff : State → State × Done} {s u : State} {f : Nat} {npc : Addr} (hr : Ready h s)
    (hx : exec i s = .next (issuePlain h i eff s)) (hu : undefinedFor h i = false) (he : eff s = (u, .goto f npc)) :
    Transfers i h s u npc := by
  intro hg
  refine ⟨f, ?_⟩
  rw [hx, issuePlain_ready h i eff s hr hg hu (by rw [he]; exact nofun), he]

/-- A plain instruction of a ready hart whose effect ends in sequence. -/
theorem transfers_of_next {h : Hart} {i : Instr} {eff : State → State × Done} {s u : State} {f : Nat} (hr : Ready h s)
    (hx : exec i s = .next (issuePlain h i eff s)) (hu : undefinedFor h i = false) (he : eff s = (u, .next f)) :
    Transfers i h s u ((u.thr h).pc + 4) := by
  intro hg
  refine ⟨f, ?_⟩
  rw [hx, issuePlain_ready h i eff s hr hg hu (by rw [he]; exact nofun), he, ended_next_eq_goto]

/-- What retirement leaves is told alike of states that read alike. -/
theorem Retired.of_alike {h : Hart} {npc : Addr} {n : Word} {two : Bool} {u v t : State} (a : Alike u v)
    (r : Retired h npc n two v t) : Retired h npc n two u t := by
  obtain ⟨⟨_, e⟩, ht⟩ := a
  obtain ⟨⟨_, _, _, _, hr⟩, ho, hw, hd⟩ := r
  subst e
  exact ⟨⟨_, _, _, _, hr⟩, fun g n => (ho g n).trans (ht g), by rw [← ht h]; exact hw, hd⟩

/-- A transfer to an address that may be fetched. -/
theorem Transfers.jumps {i : Instr} {h : Hart} {s u v : State} {npc : Addr} (x : Transfers i h s v npc) (a : Alike u v)
    (hq : ∀ t, h = .thr t → (v.thr h).haltAsked = 0 ∧ (v.thr h).parkAsked = false) (hn : Fetchable h npc) :
    JumpsTo i h npc s u := by
  intro hg
  obtain ⟨f, e⟩ := x hg
  refine ⟨_, e, .of_alike a ?_⟩
  have hc : countAfter h i s u = countAfter h i s v := by rw [countAfter, countAfter, a.thr h]
  rw [hc]
  exact ended_goto h i s v f npc hn hq

/-- The command, where the arbiter lets it issue and `npc` may not be fetched, parks its thread with FETCH on the way to `npc`, with
`a14` in its link register. -/
def FetchParks (i : Instr) (t : ThreadId) (s : State) (npc a14 : Addr) : Prop :=
  fetchOk npc = false → Granted (.thr t) i s → ∃ u, exec i s = .next u ∧ (u.thr (.thr t)).st = .parkedFault ∧
    (u.thr (.thr t)).tpc = npc ∧ (u.thr (.thr t)).tfpc = npc ∧
    (u.thr (.thr t)).tcause = BitVec.ofNat 64 (2 ^ 63 + 8 * 2 ^ 48 + npc.toNat) ∧ u.areg (.thr t) 14 = a14 ∧
    (∀ r, u.dreg (.thr t) r = s.dreg (.thr t) r) ∧ u.mem = s.mem

/-- A transfer of a core thread to an address that may not be fetched. -/
theorem Transfers.parks {i : Instr} {t : ThreadId} {s v : State} {npc a14 : Addr} (x : Transfers i (.thr t) s v npc)
    (hd : (v.thr (.thr t)).d = (s.thr (.thr t)).d) (ha : v.areg (.thr t) 14 = a14) (hm : v.mem = s.mem) :
    FetchParks i t s npc a14 := by
  intro hf hg
  obtain ⟨f, e⟩ := x hg
  obtain ⟨⟨_, _, _, _, _, ho⟩, hv⟩ := ended_goto_unfetchable t i s v f npc hf
  have hword : faultWord false false 8 npc.toNat = BitVec.ofNat 64 (2 ^ 63 + 8 * 2 ^ 48 + npc.toNat) := by
    rw [faultWord, Nat.mod_eq_of_lt npc.isLt]
    simp only [b2n, Bool.false_eq_true, if_false, Nat.zero_mul, Nat.add_zero, Nat.reduceMod]
  refine ⟨_, e, by rw [ho], by rw [ho], by rw [ho], by rw [ho, hword], ?_, fun r => ?_, hv.trans hm⟩
  · rw [← ha]; simp only [State.areg, ho]
  · simp only [State.dreg, ho, hd]

/-! ## The control transfers of 06 R176 -/

/-- What a conditional branch leaves before it retires: the predictor has seen it. -/
def branchSeen (h : Hart) (taken : Bool) (to_ : Addr) (s : State) : State :=
  match h with
  | .thr t => predict t taken to_ s
  | .golne => s

theorem branchSeen_counted (h : Hart) (taken : Bool) (a : Addr) (s : State) :
    ∃ co, Counted h { s with cores := co } (branchSeen h taken a s) := by
  cases h with
  | golne => exact ⟨_, .refl _ s⟩
  | thr t => exact predict_counted t taken a s

theorem branchSeen_thr (h g : Hart) (taken : Bool) (a : Addr) (s : State) : (branchSeen h taken a s).thr g = s.thr g := by
  obtain ⟨_, c⟩ := branchSeen_counted h taken a s
  rw [c.thr g]; rfl

theorem branchSeen_mem (h : Hart) (taken : Bool) (a : Addr) (s : State) : (branchSeen h taken a s).mem = s.mem := by
  obtain ⟨_, c⟩ := branchSeen_counted h taken a s
  exact c.mem

/-- A target counts words from the instruction itself. -/
theorem target_eq {n : Nat} (s : State) (h : Hart) (off : BitVec n) : target s h off = (s.thr h).pc + 4 * off.signExtend 48 := by
  rw [target, BitVec.mul_comm]

/-- A conditional branch goes to its target or to the next word. -/
theorem branch_transfers {h : Hart} {i : Instr} {off : BitVec 15} {cond : State → Bool} {s : State} (hr : Ready h s)
    (hu : undefinedFor h i = false) (hx : exec i s = .next (branch h i off cond s)) :
    Transfers i h s (branchSeen h (cond s) (target s h off) s)
      (if cond s then (s.thr h).pc + 4 * off.signExtend 48 else (s.thr h).pc + 4) := by
  have hpc := branchSeen_thr h h (cond s) (target s h off) s
  cases hc : cond s with
  | true =>
    rw [if_pos rfl, ← target_eq]
    refine transfers_of_goto (f := 2) hr hx hu ?_
    simp only [hc]
    cases h <;> rfl
  | false =>
    rw [hc] at hpc
    rw [if_neg Bool.false_ne_true, ← hpc]
    refine transfers_of_next (f := 2) hr hx hu ?_
    simp only [hc]
    cases h <;> rfl

theorem j_transfers {h : Hart} {s : State} (off : BitVec 26) (hr : Ready h s) :
    Transfers (.j h off) h s s ((s.thr h).pc + 4 * off.signExtend 48) := by
  rw [← target_eq]
  exact transfers_of_goto hr rfl rfl rfl

theorem jal_transfers {h : Hart} {s : State} (off : BitVec 26) (hr : Ready h s) :
    Transfers (.jal h off) h s ((pushReturn h s).setA h 14 ((s.thr h).pc + 4)) ((s.thr h).pc + 4 * off.signExtend 48) := by
  rw [← target_eq]
  exact transfers_of_goto hr rfl rfl rfl

theorem jr_transfers {h : Hart} {s : State} (ra : Reg) (hr : Ready h s) :
    Transfers (.jr h ra) h s (popReturn h ra s) (s.areg h ra) := transfers_of_goto hr rfl rfl rfl

theorem jalr_transfers {h : Hart} {s : State} (ra : Reg) (hr : Ready h s) :
    Transfers (.jalr h ra) h s ((pushReturn h s).setA h 14 ((s.thr h).pc + 4)) (s.areg h ra) := transfers_of_goto hr rfl rfl rfl

theorem nop_transfers {h : Hart} {s : State} (hr : Ready h s) : Transfers (.nop h) h s s ((s.thr h).pc + 4) :=
  transfers_of_next hr rfl rfl rfl

/-! ## The conditions of the branches (06 R176) -/

theorem Cond.eq_holds_iff (a b : Word) : Cond.eq.holds a b = true ↔ a = b := beq_iff_eq

theorem Cond.ne_holds_iff (a b : Word) : Cond.ne.holds a b = true ↔ a ≠ b := bne_iff_ne

theorem Cond.lt_holds_iff (a b : Word) : Cond.lt.holds a b = true ↔ a.toInt < b.toInt := BitVec.slt_iff_toInt_lt

theorem Cond.ge_holds_iff (a b : Word) : Cond.ge.holds a b = true ↔ b.toInt ≤ a.toInt := by
  rw [Cond.holds, Bool.not_eq_true', ← Bool.not_eq_true, BitVec.slt_iff_toInt_lt, Int.not_lt]

theorem Cond.ltu_holds_iff (a b : Word) : Cond.ltu.holds a b = true ↔ a.toNat < b.toNat := BitVec.ult_iff_lt

theorem Cond.geu_holds_iff (a b : Word) : Cond.geu.holds a b = true ↔ b.toNat ≤ a.toNat := by
  rw [Cond.holds, Bool.not_eq_true', ← Bool.not_eq_true, BitVec.ult_iff_lt, BitVec.lt_def, Nat.not_lt]

/-! ## Branches and jumps to addresses that may be fetched -/

/-- A conditional branch as the statement of 06 R176 tells it. -/
theorem branch_goes {h : Hart} {i : Instr} {off : BitVec 15} {cond : State → Bool} {s : State} {taken : Prop} (hr : Ready h s)
    (hu : undefinedFor h i = false) (hx : exec i s = .next (branch h i off cond s)) (hc : cond s = true ↔ taken) :
    ∃ di co fr, let u : State := { s with dict := di, cores := co, fresh := fr }
      (∀ a b, UncountedEntry h a b → u.dget a b = s.dget a b) ∧
      (taken → Fetchable h ((s.thr h).pc + 4 * off.signExtend 48) → JumpsTo i h ((s.thr h).pc + 4 * off.signExtend 48) s u) ∧
      (¬ taken → Fetchable h ((s.thr h).pc + 4) → JumpsTo i h ((s.thr h).pc + 4) s u) := by
  have hgo := branch_transfers hr hu hx
  have hthr := branchSeen_thr h h (cond s) (target s h off) s
  obtain ⟨co, ⟨di, fr, e⟩, hd⟩ := branchSeen_counted h (cond s) (target s h off) s
  have hq : ∀ t, h = .thr t → ((branchSeen h (cond s) (target s h off) s).thr h).haltAsked = 0 ∧
      ((branchSeen h (cond s) (target s h off) s).thr h).parkAsked = false := by
    rw [hthr]; exact hr.quiet
  rw [e] at hgo hd hq
  refine ⟨di, co, fr, hd, fun ht => ?_, fun ht => ?_⟩
  · rw [if_pos (hc.2 ht)] at hgo
    exact hgo.jumps (.refl _) hq
  · rw [if_neg (fun c => ht (hc.1 c))] at hgo
    exact hgo.jumps (.refl _) hq

/-- The effect of a call on its hart: the return stack and the link register. -/
theorem call_alike (h : Hart) (s : State) (link : Addr) :
    ∃ rs, Alike ((s.updThr h (fun x => { x with rstack := rs })).setA h 14 link) ((pushReturn h s).setA h 14 link) := by
  obtain ⟨rs, a⟩ := pushReturn_alike h s
  exact ⟨rs, a.updThr h _⟩

/-- A call leaves its hart's requests as they are. -/
theorem call_quiet {h : Hart} {s : State} (hr : Ready h s) (link : Addr) (t : ThreadId) (e : h = .thr t) :
    (((pushReturn h s).setA h 14 link).thr h).haltAsked = 0 ∧ (((pushReturn h s).setA h 14 link).thr h).parkAsked = false := by
  obtain ⟨rs, a⟩ := call_alike h s link
  rw [a.thr h, State.thr_setA_self, State.thr_updThr_self]
  exact hr.quiet t e

/-- A return leaves its hart's requests as they are. -/
theorem popReturn_quiet {h : Hart} {s : State} (hr : Ready h s) (ra : Reg) (t : ThreadId) (e : h = .thr t) :
    ((popReturn h ra s).thr h).haltAsked = 0 ∧ ((popReturn h ra s).thr h).parkAsked = false := by
  obtain ⟨_, _, _, _, a⟩ := popReturn_alike h ra s
  rw [a.thr h, State.thr_updThr_self]
  exact hr.quiet t e

/-- A call through `Transfers` goes to a target that may be fetched. -/
theorem call_jumps {h : Hart} {i : Instr} {s : State} {npc link : Addr} (hr : Ready h s)
    (x : Transfers i h s ((pushReturn h s).setA h 14 link) npc) (hn : Fetchable h npc) :
    ∃ rs, JumpsTo i h npc s ((s.updThr h (fun y => { y with rstack := rs })).setA h 14 link) := by
  obtain ⟨rs, a⟩ := call_alike h s link
  exact ⟨rs, x.jumps a (call_quiet hr link) hn⟩

/-- A return goes to its register's address, if that may be fetched. -/
theorem jr_jumps {h : Hart} {s : State} (ra : Reg) (hr : Ready h s) (hn : Fetchable h (s.areg h ra)) :
    ∃ di fr rs, let u : State := { s with dict := di, fresh := fr }
      (∀ i j, UncountedEntry h i j → u.dget i j = s.dget i j) ∧
      JumpsTo (.jr h ra) h (s.areg h ra) s (u.updThr h (fun x => { x with rstack := rs })) := by
  obtain ⟨di, fr, rs, c, a⟩ := popReturn_alike h ra s
  exact ⟨di, fr, rs, c.dict, (jr_transfers ra hr).jumps a (popReturn_quiet hr ra) hn⟩

/-- The word of a register form whose address register and function alone are given. -/
theorem encReg_ra (maj ra f : Nat) : encReg maj 0 ra 0 0 f = maj * 2 ^ 26 + ra * 2 ^ 18 + f := by
  unfold encReg
  omega

theorem encodeNat_jr (h : Hart) (ra : Reg) : encodeNat (.jr h ra) = 0x1B * 2 ^ 26 + ra.val * 2 ^ 18 :=
  (encReg_ra 0x1B ra.val 0).trans (Nat.add_zero _)

theorem encodeNat_jalr (h : Hart) (ra : Reg) : encodeNat (.jalr h ra) = 0x1B * 2 ^ 26 + ra.val * 2 ^ 18 + 1 :=
  encReg_ra 0x1B ra.val 1

/-- Settles O10: each transfer retires to the address of its row (`branch_transfers` and its companions), with the predictor's
counts for a branch and the return stack for calls and returns. -/
theorem branchResults : Obligations.BranchResults := by
  unfold Obligations.BranchResults
  intro h s ra rb off joff hr
  refine ⟨branch_goes hr rfl rfl (Cond.eq_holds_iff _ _), branch_goes hr rfl rfl (Cond.ne_holds_iff _ _),
    branch_goes hr rfl rfl (Cond.lt_holds_iff _ _), branch_goes hr rfl rfl (Cond.ge_holds_iff _ _),
    branch_goes hr rfl rfl (Cond.ltu_holds_iff _ _), branch_goes hr rfl rfl (Cond.geu_holds_iff _ _),
    branch_goes hr rfl rfl beq_iff_eq, branch_goes hr rfl rfl bne_iff_ne, ?encodings, ?direct, ?indirect⟩
  case encodings => exact ⟨rfl, rfl, rfl, rfl, rfl, rfl, rfl, rfl, rfl, rfl, encodeNat_jr h ra, encodeNat_jalr h ra⟩
  case direct =>
    exact ⟨(j_transfers joff hr).jumps (.refl s) hr.quiet, call_jumps hr (jal_transfers joff hr)⟩
  case indirect => exact ⟨jr_jumps ra hr, call_jumps hr (jalr_transfers ra hr)⟩

/-! ## Transfers to addresses that may not be fetched (06 R177) -/

/-- The addresses of a cluster's instruction memory (06 R177; 07 R197). -/
theorem fetchOk_iff (a : Addr) :
    fetchOk a = true ↔ (0x001000000000 ≤ a.toNat ∧ a.toNat ≤ 0x00100003FFFF ∧ a.toNat % 4 = 0) := by
  have hsize : imemSize = 0x40000 := rfl
  simp only [fetchOk, Bool.and_eq_true, decide_eq_true_eq, beq_iff_eq]
  omega

theorem branch_parks {t : ThreadId} {i : Instr} {off : BitVec 15} {cond : State → Bool} {s : State} {taken : Prop}
    [Decidable taken] (hr : Ready (.thr t) s) (hu : undefinedFor (.thr t) i = false)
    (hx : exec i s = .next (branch (.thr t) i off cond s)) (hc : cond s = true ↔ taken) :
    FetchParks i t s (if taken then (s.thr (.thr t)).pc + 4 * off.signExtend 48 else (s.thr (.thr t)).pc + 4) (s.areg (.thr t) 14) := by
  have hgo := branch_transfers hr hu hx
  simp only [hc] at hgo
  have ht := branchSeen_thr (.thr t) (.thr t) (cond s) (target s (.thr t) off) s
  exact hgo.parks (by rw [ht]) (by rw [State.areg, ht]; rfl) (branchSeen_mem _ _ _ _)

/-- A call whose target may not be fetched has written its link. -/
theorem call_parks {t : ThreadId} {i : Instr} {s : State} {npc link : Addr}
    (x : Transfers i (.thr t) s ((pushReturn (.thr t) s).setA (.thr t) 14 link) npc) : FetchParks i t s npc link := by
  obtain ⟨rs, a⟩ := call_alike (.thr t) s link
  have ht := a.thr (.thr t)
  obtain ⟨_, e⟩ := a.rest
  refine x.parks ?_ (State.areg_setA_self _ _ _ _) (by rw [e]; rfl)
  rw [ht, State.thr_setA_self, State.thr_updThr_self]
  rfl

theorem jr_parks {t : ThreadId} {s : State} (ra : Reg) (hr : Ready (.thr t) s) :
    FetchParks (.jr (.thr t) ra) t s (s.areg (.thr t) ra) (s.areg (.thr t) 14) := by
  obtain ⟨_, _, _, _, a⟩ := popReturn_alike (.thr t) ra s
  have ht := a.thr (.thr t)
  rw [State.thr_updThr_self] at ht
  obtain ⟨_, e⟩ := a.rest
  exact (jr_transfers ra hr).parks (by rw [ht]; rfl) (by rw [State.areg, ht]; rfl) (by rw [e]; rfl)

/-- Settles O11: a transfer whose target may not be fetched retires, link included, into the fault of `retireTo_unfetchable`. -/
theorem fetchFaultParks : Obligations.FetchFaultParks := by
  unfold Obligations.FetchFaultParks
  intro t s ra rb off b hr
  refine ⟨(j_transfers off hr).parks rfl rfl rfl, call_parks (jal_transfers off hr), jr_parks ra hr,
    call_parks (jalr_transfers ra hr), (nop_transfers hr).parks rfl rfl rfl, ?branches, fetchOk_iff⟩
  case branches =>
    exact ⟨branch_parks hr rfl rfl (Cond.eq_holds_iff _ _), branch_parks hr rfl rfl (Cond.ne_holds_iff _ _),
      branch_parks hr rfl rfl (Cond.lt_holds_iff _ _), branch_parks hr rfl rfl (Cond.ge_holds_iff _ _),
      branch_parks hr rfl rfl (Cond.ltu_holds_iff _ _), branch_parks hr rfl rfl (Cond.geu_holds_iff _ _),
      branch_parks hr rfl rfl beq_iff_eq, branch_parks hr rfl rfl bne_iff_ne⟩

/-! ## Emulation traps (06 R188, R194) -/

/-- TVEC.EN. -/
theorem bitOf_tvec (x : Thread) : bitOf x.tvec.toNat 0 = x.tvec.getLsbD 0 := by
  rw [bitOf, Nat.pow_zero, Nat.div_one, BitVec.getLsbD, Nat.testBit_zero]
  rfl

/-- With TVEC.EN 0 a trap is a fault with its own cause. -/
theorem takeTrap_disabled (t : ThreadId) (c : Nat) (j : Instr) (s : State) (he : (s.thr (.thr t)).tvec.getLsbD 0 = false) :
    takeTrap (.thr t) c j s = faultThread t c 0 (s.thr (.thr t)).pc (s.thr (.thr t)).pc s := by
  simp only [takeTrap, bitOf_tvec, he, Bool.not_false, if_true]

/-- A trap within a trap is the fault DOUBLE. -/
theorem takeTrap_double (t : ThreadId) (c : Nat) (j : Instr) (s : State) (he : (s.thr (.thr t)).tvec.getLsbD 0 = true)
    (hi : (s.thr (.thr t)).it = true) :
    takeTrap (.thr t) c j s = faultThread t 0x0A 0 (s.thr (.thr t)).pc (s.thr (.thr t)).pc s := by
  simp only [takeTrap, bitOf_tvec, he, hi, Bool.not_true, Bool.false_eq_true, if_false, if_true]

/-- The address of a hart's trap vector. -/
def trapVec (x : Thread) : Addr := BitVec.ofNat 48 ((x.tvec.toNat % 2 ^ 48) / 4 * 4)

/-- A hart's record once a trap of a cause and a word has been taken. -/
def Thread.trapped (cause word : Word) (x : Thread) : Thread :=
  { x with epc := x.pc.zeroExtend 64, ecause := cause, einst := word, it := true, pc := trapVec x, resv := none, passBp := false }

/-- With TVEC.EN 1 and IT 0 a trap is taken and counted. -/
theorem takeTrap_taken (t : ThreadId) (c : Nat) (j : Instr) (s : State) (he : (s.thr (.thr t)).tvec.getLsbD 0 = true)
    (hi : (s.thr (.thr t)).it = false) (hh : (s.thr (.thr t)).haltAsked = 0) (hp : (s.thr (.thr t)).parkAsked = false) :
    takeTrap (.thr t) c j s =
      (s.setThr (.thr t) ((s.thr (.thr t)).trapped (BitVec.ofNat 64 c) ((encodeWord j).zeroExtend 64))).bump (pix 0x3300 t.p) c := by
  simp only [takeTrap, bitOf_tvec, he, hi, Bool.not_true, Bool.false_eq_true, if_false]
  refine takeAsked_none t _ ?_ ?_
  · rw [State.bump_thr_reads, State.thr_setThr_self]; exact hh
  · rw [State.bump_thr_reads, State.thr_setThr_self]; exact hp

/-- Golne firmware vectors with IT 0. -/
theorem takeTrap_golne (c : Nat) (j : Instr) (s : State) (hi : (s.thr .golne).it = false) :
    takeTrap .golne c j s = s.setThr .golne { s.thr .golne with
      epc := (s.thr .golne).pc.zeroExtend 64, ecause := BitVec.ofNat 64 c, einst := (encodeWord j).zeroExtend 64, it := true,
      pc := trapVec (s.thr .golne), resv := none } := by
  simp only [takeTrap, golneFault, hi, trapVec, Bool.false_eq_true, if_false]

/-- Golne firmware restarts with IT 1. -/
theorem takeTrap_golne_restart (c : Nat) (j : Instr) (s : State) (hi : (s.thr .golne).it = true) :
    takeTrap .golne c j s = golneRestart s := by
  simp only [takeTrap, golneFault, hi, if_true]

/-! ## What comes before and after a trap of a core thread (07 R207, R209, R215) -/

/-- `w` is `u` but for the thread's due step, free values and counts, of which that of emulation traps stands. -/
structure Discarded (t : ThreadId) (u w : State) : Prop where
  rest : ∃ th di fr, w = { u with threads := th, dict := di, fresh := fr }
  others : ∀ g, g ≠ .thr t → w.thr g = u.thr g
  own : ∃ d, w.thr (.thr t) = { u.thr (.thr t) with due := d }
  traps : w.dget (pix 0x3300 t.p) 1 = u.dget (pix 0x3300 t.p) 1

theorem discardYounger_discarded (t : ThreadId) (s : State) : Discarded t s (discardYounger (.thr t) s) := by
  obtain ⟨⟨_, _, _, hr⟩, ho, ⟨d, hw⟩, hd⟩ := detIssue_slotted t 0 s
  have sub_ne : ∀ {i i' j : Nat}, j < 256 → 1 ≠ j → dk i 1 ≠ dk i' j := fun hj n e => n (dk_inj (by decide) hj e).2
  have c := squash_counted t ((s.thr (.thr t)).pc + 4) (detIssue t 0 s)
  refine ⟨?_, fun g n => (c.thr g).trans (ho g n), ⟨d, (c.thr _).trans hw⟩, ?_⟩
  · obtain ⟨_, _, e⟩ := c.rest
    exact ⟨_, _, _, by rw [discardYounger, e, hr]⟩
  · have untouched := c.dict (pix 0x3300 t.p) 1 fun u _ =>
      ⟨sub_ne (by decide) (by decide), sub_ne (by decide) (by decide), sub_ne (by decide) (by decide)⟩
    exact untouched.trans (hd _ _ (sub_ne (by decide) (by decide)))

/-- The place in the pipeline that is noted at the end of an instruction that has not counted as a step. -/
theorem recordIssue_unstepped (t : ThreadId) (w : Nat) (ends : Bool) (s v : State)
    (hs : (v.thr (.thr t)).steps = (s.thr (.thr t)).steps) :
    (∃ th di pi, recordIssue t w ends s v = { v with threads := th, dict := di, pipes := pi }) ∧
    (∀ g, (recordIssue t w ends s v).thr g = v.thr g) ∧
    (recordIssue t w ends s v).dget (pix 0x3300 t.p) 1 = v.dget (pix 0x3300 t.p) 1 := by
  obtain ⟨p, e⟩ := recordIssue_eq t w ends s v
  have sub_ne : dk (pix 0x3300 t.p) 1 ≠ dk (pipeIdx t.p t.c) 3 := fun e => absurd (dk_inj (by decide) (by decide) e).2 (by decide)
  rw [e]
  split
  · refine ⟨⟨_, _, _, rfl⟩, fun g => ?_, ?_⟩
    · by_cases hg : g = .thr t
      · rw [hg, State.thr_updThr_self, State.bump_thr_reads, State.setPipe_thr_reads, ← hs]
      · rw [State.thr_updThr_ne _ _ hg, State.bump_thr_reads, State.setPipe_thr_reads]
    · rw [State.updThr_dget_reads, State.dget_bump_ne _ sub_ne, State.setPipe_dget_reads]
  · exact ⟨⟨_, _, _, rfl⟩, fun _ => rfl, rfl⟩

/-! ## Undefined words (06 R162) -/

/-- No watchpoint stops an instruction that traps. -/
theorem watchStop_trap (t : ThreadId) (d : DAcc) (c : Nat) (s : State) : watchStop t d (.trap c) s = s := by
  cases d <;> rfl

/-- A hart that is ready issues an instruction that it lacks, once the arbiter lets it: the trap UNDEF. -/
theorem issue_undefined {h : Hart} {i : Instr} {d : State → DAcc} {eff : State → State × Done} {s : State} (hr : Ready h s)
    (hg : Granted h i s) (hu : undefinedFor h i = true) : issue h i d eff s = ended h i s s (.trap 1) := by
  obtain ⟨hIssue, hr⟩ := hr
  unfold issue
  simp only [hu, hIssue, Bool.not_true, Bool.false_eq_true, if_false, if_true]
  cases h with
  | golne => rfl
  | thr t =>
    obtain ⟨hFetch, hBlock, hBreak, hTag, hFrozen, _, _⟩ := hr
    have hPass : (breakHit s t && !(s.thr (.thr t)).passBp) = false := by
      cases hx : breakHit s t with
      | false => rfl
      | true => rw [hBreak hx]; rfl
    have hHold : frozenHold s t (encodeNat i) (d s) = false := by unfold frozenHold; rw [hFrozen]; rfl
    have hGrant : granted s t (encodeNat i) = true := hg t rfl
    simp only [hFetch, hBlock, hGrant, hHold, hPass, hTag, runThread, watchStop_trap, Bool.not_true, Bool.not_false, Bool.or_self,
      Bool.false_eq_true, reduceCtorEq, if_false, if_true]
    rfl

/-- A word that decodes to nothing ends its instruction with the trap UNDEF. -/
theorem undefinedInstruction_ends {h : Hart} {s : State} {w : BitVec 32} (hr : Ready h s) (hw : decodeWord h w = none) :
    EndsIn (.undefinedInstruction h w) h s s (.trap 1) := by
  intro hg
  have hx : exec (.undefinedInstruction h w) s = execUndefinedInstruction h w s := rfl
  rw [hx, execUndefinedInstruction, hw, Option.isSome_none, if_neg Bool.false_ne_true]
  exact congrArg Host.Outcome.next (issue_undefined hr hg rfl)

theorem encodeWord_undefinedInstruction (h : Hart) (w : BitVec 32) : encodeWord (.undefinedInstruction h w) = w :=
  (BitVec.ofNat_toNat 32 w).trans (BitVec.setWidth_eq w)

/-- The end of an undefined instruction on a core thread that may trap (06 R188): the thread alone goes on at its vector, and the
trap is counted. -/
theorem ended_trap_taken {t : ThreadId} {s : State} {i : Instr} (hr : Ready (.thr t) s)
    (he : (s.thr (.thr t)).tvec.getLsbD 0 = true) (hi : (s.thr (.thr t)).it = false) :
    let u := ended (.thr t) i s s (.trap 1)
    (∃ d, u.thr (.thr t) = { (s.thr (.thr t)).trapped 1 ((encodeWord i).zeroExtend 64) with due := d }) ∧
    (∀ g, g ≠ .thr t → u.thr g = s.thr g) ∧ u.dget (pix 0x3300 t.p) 1 = (s.dget (pix 0x3300 t.p) 1 + 1) % 2 ^ 64 ∧
    (∃ th di pi fr, u = { s with threads := th, dict := di, pipes := pi, fresh := fr }) := by
  obtain ⟨hh, hp⟩ := hr.quiet t rfl
  obtain ⟨⟨_, _, _, hw⟩, ho, ⟨d, hown⟩, htraps⟩ := discardYounger_discarded t s
  have hTake := takeTrap_taken t 1 i (discardYounger (.thr t) s) (by rw [hown]; exact he) (by rw [hown]; exact hi)
    (by rw [hown]; exact hh) (by rw [hown]; exact hp)
  obtain ⟨⟨_, _, _, hrest⟩, hthr, hcount⟩ := recordIssue_unstepped t (encodeNat i) true s
    (takeTrap (.thr t) 1 i (discardYounger (.thr t) s))
    (by rw [hTake, State.bump_thr_reads, State.thr_setThr_self, hown]; rfl)
  have hEnd : ended (.thr t) i s s (.trap 1) =
      recordIssue t (encodeNat i) true s (takeTrap (.thr t) 1 i (discardYounger (.thr t) s)) := rfl
  rw [hEnd]
  refine ⟨⟨d, ?_⟩, fun g n => ?_, ?_, ?_⟩
  · rw [hthr, hTake, State.bump_thr_reads, State.thr_setThr_self, hown]
    rfl
  · rw [hthr, hTake, State.bump_thr_reads, State.thr_setThr_ne _ _ n, ho g n]
  · rw [hcount, hTake, State.dget_bump_self, State.setThr_dget_reads, htraps]
  · rw [hrest, hTake, hw]
    exact ⟨_, _, _, _, rfl⟩

/-- The end of an undefined instruction on a core thread that may not trap: it parks, with UNDEF where traps are off and with DOUBLE
within a trap. -/
theorem ended_trap_parks {t : ThreadId} {s : State} {i : Instr}
    (hx : (s.thr (.thr t)).tvec.getLsbD 0 = false ∨ (s.thr (.thr t)).it = true) :
    ParkedWith t (if (s.thr (.thr t)).tvec.getLsbD 0 then 0x0A else 1) 0 (s.thr (.thr t)).pc s
      (ended (.thr t) i s s (.trap 1)) := by
  obtain ⟨⟨_, _, _, hw⟩, _, ⟨d, hown⟩, _⟩ := discardYounger_discarded t s
  have hpc : ((discardYounger (.thr t) s).thr (.thr t)).pc = (s.thr (.thr t)).pc := by rw [hown]
  have parks : ∀ c, ParkedWith t c 0 (s.thr (.thr t)).pc s
      (faultThread t c 0 (s.thr (.thr t)).pc (s.thr (.thr t)).pc (discardYounger (.thr t) s)) := fun c =>
    faultThread_parks t c 0 _ s _ ⟨_, _, _, _, hown⟩ (by rw [hw])
  refine ParkedWith.record (v := takeTrap (.thr t) 1 i (discardYounger (.thr t) s)) ?_ _ _ _
  cases he : (s.thr (.thr t)).tvec.getLsbD 0 with
  | false =>
    rw [takeTrap_disabled t 1 i _ (by rw [hown]; exact he), hpc]
    exact parks 1
  | true =>
    have hi := hx.resolve_left (fun hf => Bool.noConfusion (he.symm.trans hf))
    rw [takeTrap_double t 1 i _ (by rw [hown]; exact he) (by rw [hown]; exact hi), hpc]
    exact parks 0x0A

/-- Settles O22: an undefined word ends in `takeTrap`, which takes the trap, parks the thread or vectors Golne firmware by
TVEC.EN and IT. -/
theorem emulationTrap : Obligations.EmulationTrap := by
  unfold Obligations.EmulationTrap
  intro h s w hr hw
  have hends := undefinedInstruction_ends hr hw
  refine ⟨?thread, hends, ?otherTraps, ?golne⟩
  case thread =>
    rintro t rfl hg
    rw [hends hg]
    refine ⟨fun he hi => ?_, fun hx => ?_⟩
    · obtain ⟨⟨d, hown⟩, hothers, hcount, hrest⟩ := ended_trap_taken (i := .undefinedInstruction (.thr t) w) hr he hi
      rw [encodeWord_undefinedInstruction] at hown
      exact ⟨_, d, rfl, hown, hothers, hcount, hrest⟩
    · obtain ⟨⟨_, _, _, _, _, hown⟩, hmem⟩ := ended_trap_parks (i := .undefinedInstruction (.thr t) w) hx
      refine ⟨_, rfl, by rw [hown], ?_, by rw [hown], by rw [hown], by rw [hown], hmem⟩
      rw [hown]
      cases (s.thr (.thr t)).tvec.getLsbD 0 <;> rfl
  case otherTraps =>
    rintro t c j rfl hh hp
    refine ⟨fun he hi => ?_, takeTrap_disabled t c j s, takeTrap_double t c j s⟩
    rw [takeTrap_taken t c j s he hi hh hp, State.bump_thr_reads, State.thr_setThr_self]
    rfl
  case golne =>
    rintro rfl
    have hend : ended .golne (.undefinedInstruction .golne w) s s (.trap 1) =
        takeTrap .golne 1 (.undefinedInstruction .golne w) s := rfl
    have hexec := hends nofun
    rw [hend] at hexec
    refine ⟨fun hi => ?_, fun hi => ?_⟩
    · rw [hexec, takeTrap_golne _ _ _ hi, encodeWord_undefinedInstruction]
      rfl
    · rw [hexec, takeTrap_golne_restart _ _ _ hi]

end Sys2Proof.Machine

/-! # Thread and channel commands (06 R189; 09 R248 to R266)

A write of an entry as a command of its own, said once; what the lock unit, the channels and the events leave of a thread; and
the obligation of family 09 that follows. -/

namespace Sys2Proof.Machine

/-! ## Writes of an entry as commands of their own (16 R424) -/

section EntryWrite

variable {c : Instr} {w : Writer} {i j off : Nat} {data : List Byte} {gen : Option Nat} {eff : State → Except Abort State}
  {s u : State} {a : Abort}

/-- A command that only writes an entry is refused as the checks say. -/
theorem checked_of_dictCmd (hx : exec c s = .next (dictCmd w i j off data gen eff s)) : Checked c w i j off data gen s := by
  intro a n hopen hcheck
  simp only [Refused, hx, dictCmd, dictDo, hopen, hcheck, Bool.false_eq_true, if_false]
  cases eff s with
  | ok u => exact .inl rfl
  | error e =>
    by_cases h : a = 0x08000022 ∧ e = 0x06090030
    · obtain ⟨rfl, rfl⟩ := h
      exact .inr ⟨rfl, rfl⟩
    · simp only [stepOrder, Bool.and_eq_true, decide_eq_true_eq, if_neg h]
      exact .inl trivial

/-- An admitted write that the entry's chapter accepts has its effect. -/
theorem exec_of_accepted (hx : exec c s = .next (dictCmd w i j off data gen eff s)) (ha : Admitted w i j off data gen s)
    (he : eff s = .ok u) : exec c s = .next u := by
  obtain ⟨hopen, hcheck⟩ := ha
  simp only [hx, dictCmd, dictDo, hopen, hcheck, he, Bool.false_eq_true, if_false]

/-- An admitted write that the entry's chapter does not accept is refused with its code. -/
theorem refused_of_error (hx : exec c s = .next (dictCmd w i j off data gen eff s)) (ha : Admitted w i j off data gen s)
    (he : eff s = .error a) : Refused c w i j a false s := by
  obtain ⟨hopen, hcheck⟩ := ha
  simp only [Refused, hx, dictCmd, dictDo, hopen, hcheck, he, Bool.false_eq_true, if_false]

end EntryWrite

/-! ## Little-endian data and its fields -/

theorem leNat_leBytes_of_lt (n : Nat) {v : Nat} (h : v < 256 ^ n) : leNat (leBytes n v) = v := by
  induction n generalizing v with
  | zero => simp only [Nat.pow_zero] at h; simp only [leBytes, leNat]; omega
  | succ n ih =>
    have hq : v / 256 < 256 ^ n := Nat.div_lt_of_lt_mul (by rwa [Nat.pow_succ'] at h)
    simp only [leBytes, leNat, ih hq, BitVec.toNat_ofNat]
    omega

theorem length_leBytes (n v : Nat) : (leBytes n v).length = n := by
  induction n generalizing v with
  | zero => rfl
  | succ n ih => rw [leBytes, List.length_cons, ih]

/-- A word's eight bytes spell it. -/
theorem leNat_leBytes_word (v : BitVec 64) : leNat (leBytes 8 v.toNat) = v.toNat := leNat_leBytes_of_lt 8 v.isLt

theorem leNat_leBytes_byte (v : BitVec 8) : leNat (leBytes 1 v.toNat) = v.toNat := leNat_leBytes_of_lt 1 v.isLt

/-- The words of a message are read back from its bytes. -/
theorem words64_leBytes (ws : List Word) : words64 (ws.flatMap (fun y => leBytes 8 y.toNat)) = ws := by
  induction ws with
  | nil => rfl
  | cons y ws ih =>
    have hy : BitVec.ofNat 64 (leNat (leBytes 8 y.toNat)) = y := by rw [leNat_leBytes_word, BitVec.ofNat_toNat, BitVec.setWidth_eq]
    have hcons : words64 ((y :: ws).flatMap (fun y => leBytes 8 y.toNat)) =
        BitVec.ofNat 64 (leNat (leBytes 8 y.toNat)) :: words64 (ws.flatMap (fun y => leBytes 8 y.toNat)) := rfl
    rw [hcons, hy, ih]

theorem length_flatMap_leBytes (ws : List Word) : (ws.flatMap (fun y => leBytes 8 y.toNat)).length = 8 * ws.length := by
  induction ws with
  | nil => rfl
  | cons y ws ih => rw [List.flatMap_cons, List.length_append, length_leBytes, ih, List.length_cons]; omega

/-! ## The end of a wait (07 R209) -/

/-- `u` is `s` but for threads, counts and free values. -/
def Ticked (s u : State) : Prop := ∃ di th fr, u = { s with dict := di, threads := th, fresh := fr }

theorem Ticked.trans {s u v : State} (a : Ticked s u) (b : Ticked u v) : Ticked s v := by
  obtain ⟨_, _, _, rfl⟩ := a
  obtain ⟨_, _, _, rfl⟩ := b
  exact ⟨_, _, _, rfl⟩

theorem updThr_ticked (h : Hart) (f : Thread → Thread) (s : State) : Ticked s (s.updThr h f) := ⟨_, _, _, rfl⟩

theorem bump_ticked (i j : Nat) (s : State) : Ticked s (s.bump i j) := ⟨_, _, _, rfl⟩

theorem tick_ticked (s : State) : Ticked s s.tick := ⟨_, _, _, rfl⟩

theorem waitDone_ticked (h : Hart) (s : State) : Ticked s (waitDone h s) := by
  cases h with
  | golne => exact updThr_ticked _ _ s
  | thr t =>
    have counted := (updThr_ticked (.thr t) Thread.doneWait s).trans (bump_ticked (pipeIdx t.p t.c) 2 _)
    simp only [waitDone]
    split
    · exact (counted.trans (updThr_ticked _ _ _)).trans (tick_ticked _)
    · exact counted

/-- Completing a hart's instruction leaves every other hart. -/
theorem waitDone_thr_ne {h g : Hart} (s : State) (n : g ≠ h) : (waitDone h s).thr g = s.thr g := by
  cases h with
  | golne => exact State.thr_updThr_ne s _ n
  | thr t =>
    simp only [waitDone]
    split
    · rw [State.tick_thr_reads, State.thr_updThr_ne _ _ n, State.bump_thr_reads, State.thr_updThr_ne _ _ n]
    · rw [State.bump_thr_reads, State.thr_updThr_ne _ _ n]

/-- A hart whose instruction completes has left its wait. -/
theorem waitDone_thr_self (h : Hart) (s : State) : ∃ d, (waitDone h s).thr h = { (s.thr h).doneWait with due := d } := by
  cases h with
  | golne => exact ⟨_, State.thr_updThr_self s _ _⟩
  | thr t =>
    simp only [waitDone]
    split
    · exact ⟨_, by rw [State.tick_thr_reads, State.thr_updThr_self, State.bump_thr_reads, State.thr_updThr_self]⟩
    · exact ⟨_, by rw [State.bump_thr_reads, State.thr_updThr_self]⟩

/-- `u` is `s` but for counts, DOMAIN bytes and free values. -/
def Measured (s u : State) : Prop := ∃ di dm fr, u = { s with dict := di, doms := dm, fresh := fr }

theorem Measured.refl (s : State) : Measured s s := ⟨_, _, _, rfl⟩

theorem Measured.trans {s u v : State} (a : Measured s u) (b : Measured u v) : Measured s v := by
  obtain ⟨_, _, _, rfl⟩ := a
  obtain ⟨_, _, _, rfl⟩ := b
  exact ⟨_, _, _, rfl⟩

theorem tick_measured (s : State) : Measured s s.tick := ⟨_, _, _, rfl⟩

theorem dset_measured (i j v : Nat) (s : State) : Measured s (s.dset i j v) := ⟨_, _, _, rfl⟩

theorem domWrite_measured (i j o : Nat) (l : List Byte) (s : State) : Measured s (s.domWrite i j o l) := by
  rw [State.domWrite_eq]
  exact ⟨_, _, _, rfl⟩

theorem histAdd_measured (p : Petal) (src : Nat) (val : Option Nat) (since : Nat) (s : State) :
    Measured s (histAdd p src val since s) := by
  unfold histAdd
  refine List.foldlRecOn (motive := Measured s) _ _ (.refl s) (fun u a n _ => a.trans ?_)
  have filtered : Measured u (if val.isNone = true then u.tick else u) := by
    split
    · exact tick_measured u
    · exact .refl u
  dsimp only
  generalize (if val.isNone = true then u.tick else u) = v at filtered ⊢
  generalize (bitOf (u.dget _ 2) 31 || _) = pass
  split
  · split
    · exact (filtered.trans (domWrite_measured _ _ _ _ v)).trans (dset_measured _ _ _ _)
    · exact filtered
  · exact .refl u

/-- The hart that a master ID names has that ID. -/
theorem mid_of_threadOf {m : Nat} {t : ThreadId} (h : threadOf m = some t) : m = t.mid := by
  unfold threadOf at h
  split at h
  · next hm =>
    cases h
    simp only [ThreadId.mid]
    omega
  · exact nomatch h

theorem mid_of_hartOf {m : Nat} {t : ThreadId} (h : hartOf m = some (.thr t)) : m = t.mid := by
  unfold hartOf at h
  split at h
  · next u hu => cases h; exact mid_of_threadOf hu
  · split at h
    · exact nomatch h
    · exact nomatch h

/-- No other master ID names a core thread. -/
theorem midHart_ne {m : Nat} {t : ThreadId} (n : m ≠ t.mid) : midHart m ≠ .thr t := by
  unfold midHart
  intro e
  cases h : hartOf m with
  | none => rw [h] at e; exact nomatch e
  | some g => rw [h] at e; exact n (mid_of_hartOf (h.trans (congrArg some e)))

theorem midHart_of_threadOf {m : Nat} {t : ThreadId} (h : threadOf m = some t) : midHart m = .thr t := by
  rw [midHart, hartOf, h, Option.getD_some]

/-! ## The lock unit (11 R292 to R300) -/

/-- Reading a table that has been changed entry by entry. -/
theorem Tab.find_map {α : Type} (f : Nat × α → Nat × α) (hf : ∀ e, (f e).1 = e.1) (t : Tab α) (i : Nat) :
    Tab.find (t.map f) i = (Tab.find t i).map (fun v => (f (i, v)).2) := by
  induction t with
  | nil => rfl
  | cons e t ih =>
    obtain ⟨k, v⟩ := e
    have hkey : f (k, v) = (k, (f (k, v)).2) := Prod.ext (hf (k, v)) rfl
    rw [List.map_cons, hkey, Tab.find_cons, Tab.find_cons, ih]
    split
    · next h => rw [h]; rfl
    · rfl

/-- `u` is `s` after the lock unit has written images and passed priorities on: every thread keeps its record but for what it
inherits and reserves, and nobody makes a new request. -/
structure Inherited (s u : State) : Prop where
  rest : ∃ me po sb di th wa, u = { s with mem := me, poison := po, scratchBad := sb, dict := di, threads := th, waiters := wa }
  thr : ∀ h, ∃ n r, u.thr h = { s.thr h with inh := n, resv := r }
  waiters : ∀ x ∈ u.waiters, ∃ y ∈ s.waiters, y.mid = x.mid

theorem Inherited.refl (s : State) : Inherited s s := ⟨⟨_, _, _, _, _, _, rfl⟩, fun _ => ⟨_, _, rfl⟩, fun x hx => ⟨x, hx, rfl⟩⟩

theorem Inherited.trans {s u v : State} (a : Inherited s u) (b : Inherited u v) : Inherited s v := by
  obtain ⟨⟨_, _, _, _, _, _, ea⟩, ta, wa⟩ := a
  obtain ⟨⟨_, _, _, _, _, _, eb⟩, tb, wb⟩ := b
  refine ⟨⟨_, _, _, _, _, _, by rw [eb, ea]⟩, fun h => ?_, fun x hx => ?_⟩
  · obtain ⟨_, _, ha⟩ := ta h
    obtain ⟨_, _, hb⟩ := tb h
    exact ⟨_, _, by rw [hb, ha]⟩
  · obtain ⟨y, hy, e⟩ := wb x hx
    obtain ⟨z, hz, e'⟩ := wa y hy
    exact ⟨z, hz, e'.trans e⟩

theorem Inherited.clusters {s u : State} (a : Inherited s u) : u.clusters = s.clusters := by
  obtain ⟨_, _, _, _, _, _, e⟩ := a.rest
  rw [e]

/-- Ending reservations changes reservations alone. -/
theorem endResvs_inherited (a n : Nat) (s : State) : Inherited s (endResvs a n s) := by
  refine ⟨⟨_, _, _, _, _, _, rfl⟩, fun h => ?_, fun x hx => ⟨x, hx, rfl⟩⟩
  rw [State.thr, State.thr, Tab.get, Tab.get, endResvs, Tab.find_map]
  · cases Tab.find s.threads (hartKey h) with
    | none => exact ⟨_, _, rfl⟩
    | some x =>
      simp only [Option.map_some, Option.getD_some]
      split
      · split
        · exact ⟨_, _, rfl⟩
        · exact ⟨_, _, rfl⟩
      · exact ⟨_, _, rfl⟩
  · intro e
    split
    · split
      · rfl
      · rfl
    · rfl

theorem writeImage_inherited (key : Nat) (aban : Bool) (s : State) : Inherited s (writeImage key aban s) := by
  have written : ∀ a l, Inherited s (cleanRange a l.length (s.memWrite a l)) := fun _ _ =>
    ⟨⟨_, _, _, _, _, _, rfl⟩, fun _ => ⟨_, _, rfl⟩, fun x hx => ⟨x, hx, rfl⟩⟩
  exact .trans (written _ _) (endResvs_inherited _ _ _)

/-- A new inherited priority of one thread. -/
theorem updThr_inh_inherited (h : Hart) (n : Nat) (s : State) : Inherited s (s.updThr h (fun x => { x with inh := n })) := by
  refine ⟨⟨_, _, _, _, _, _, rfl⟩, fun g => ?_, fun x hx => ⟨x, hx, rfl⟩⟩
  by_cases hg : g = h
  · subst hg; exact ⟨_, _, State.thr_updThr_self s _ _⟩
  · exact ⟨_, _, State.thr_updThr_ne s _ hg⟩

/-- A raised priority of waiting requests. -/
theorem waiters_prio_inherited (w : Waiter) (p : Nat) (s : State) :
    Inherited s { s with waiters := s.waiters.map (fun x => if x = w then { x with prio := p } else x) } := by
  refine ⟨⟨_, _, _, _, _, _, rfl⟩, fun _ => ⟨_, _, rfl⟩, fun x hx => ?_⟩
  obtain ⟨y, hy, rfl⟩ := List.mem_map.mp hx
  refine ⟨y, hy, ?_⟩
  split <;> rfl

theorem inherit_inherited (n key : Nat) (s : State) : Inherited s (inherit n key s) := by
  induction n generalizing key s with
  | zero => exact ⟨⟨_, _, _, _, _, _, rfl⟩, fun _ => ⟨_, _, rfl⟩, fun x hx => ⟨x, hx, rfl⟩⟩
  | succ n ih =>
    rw [inherit]
    split
    · exact .refl s
    · next hd _ =>
      have image := writeImage_inherited key hd.aban s
      generalize writeImage key hd.aban s = u at image ⊢
      dsimp only
      split
      · exact image
      · next t _ =>
        have raised := fun m => image.trans (updThr_inh_inherited (.thr t) m u)
        generalize List.foldl max 0 _ = m
        have raised := raised m
        generalize u.updThr (.thr t) _ = v at raised ⊢
        split
        · exact raised
        · exact (raised.trans (waiters_prio_inherited _ _ v)).trans (ih _ _)

/-- Withdrawing requests leaves every thread in its wait. -/
theorem withdrawSel_inherited (sel : Waiter → Bool) (s : State) :
    Inherited { s with waiters := s.waiters.filter (fun w => !sel w) } (withdrawSel sel s) := by
  unfold withdrawSel
  exact List.foldlRecOn (motive := Inherited _) _ _ (.refl _) (fun _ a _ _ => a.trans (inherit_inherited _ _ _))

/-- A thread has no request at a lock unit. -/
def Unqueued (t : ThreadId) (s : State) : Prop := ∀ w ∈ s.waiters, w.mid ≠ t.mid

theorem Inherited.unqueued {t : ThreadId} {s u : State} (a : Inherited s u) (n : Unqueued t s) : Unqueued t u := by
  intro x hx e
  obtain ⟨y, hy, ey⟩ := a.waiters x hx
  exact n y hy (ey.trans e)

theorem withdraw_unqueued (t : ThreadId) (s : State) : Unqueued t (withdraw t.mid s) := by
  refine (withdrawSel_inherited _ s).unqueued (fun x hx => ?_)
  have hsel := (List.mem_filter.mp hx).2
  simpa using hsel

/-- Between `s` and `u`, a core thread that waits neither for an event nor for a lock keeps its record but for what it inherits,
what it reserves and its event queue, and makes no request. -/
structure Bystander (t : ThreadId) (s u : State) : Prop where
  keeps : (s.thr (.thr t)).st ≠ .eventWait → Unqueued t s →
    (∃ n r q, u.thr (.thr t) = { s.thr (.thr t) with inh := n, resv := r, evq := q }) ∧ Unqueued t u

section Bystander

variable {t : ThreadId} {s u v : State}

theorem Bystander.refl : Bystander t s s := ⟨fun _ n => ⟨⟨_, _, _, rfl⟩, n⟩⟩

theorem Bystander.trans (a : Bystander t s u) (b : Bystander t u v) : Bystander t s v := by
  refine ⟨fun hst n => ?_⟩
  obtain ⟨⟨_, _, _, ea⟩, na⟩ := a.keeps hst n
  obtain ⟨⟨_, _, _, eb⟩, nb⟩ := b.keeps (by rw [ea]; exact hst) na
  exact ⟨⟨_, _, _, by rw [eb, ea]⟩, nb⟩

/-- Only a thread without a request is told of. -/
theorem Bystander.of_unqueued (h : Unqueued t s → Bystander t s u) : Bystander t s u := ⟨fun hst n => (h n).keeps hst n⟩

theorem Inherited.bystander (a : Inherited s u) : Bystander t s u := by
  refine ⟨fun _ n => ?_⟩
  obtain ⟨_, _, e⟩ := a.thr (.thr t)
  exact ⟨⟨_, _, _, e⟩, a.unqueued n⟩

theorem Delivered.bystander (a : Delivered s u) : Bystander t s u := by
  refine ⟨fun hst n => ?_⟩
  obtain ⟨_, e⟩ := a.thr _ hst
  obtain ⟨_, _, _, _, _, _, _, _, _, er⟩ := a.rest
  exact ⟨⟨_, _, _, e⟩, by rw [Unqueued, er]; exact n⟩

/-- A change that leaves the threads and makes no request. -/
theorem bystander_of_threads (ht : u.threads = s.threads) (hw : ∀ x ∈ u.waiters, x ∈ s.waiters) : Bystander t s u :=
  ⟨fun _ n => ⟨⟨_, _, _, by rw [State.thr, ht]; rfl⟩, fun x hx => n x (hw x hx)⟩⟩

theorem Bystander.foldl {α : Type} (l : List α) (f : State → α → State) (hf : ∀ u x, Bystander t u (f u x)) :
    Bystander t s (l.foldl f s) :=
  List.foldlRecOn (motive := Bystander t s) _ _ .refl (fun _ a x _ => a.trans (hf _ x))

/-- A grant wakes the requester alone. -/
theorem wakeWaiter_bystander (w : Waiter) (res : Nat) (s : State) (hw : w.mid ≠ t.mid) : Bystander t s (wakeWaiter w res s) := by
  unfold wakeWaiter
  split
  · split
    · next h hh =>
      have hne : Hart.thr t ≠ h := fun e => hw (mid_of_hartOf (hh.trans (congrArg some e.symm)))
      refine ⟨fun _ n => ⟨⟨_, _, _, by rw [waitDone_thr_ne _ hne, State.thr_updThr_ne _ _ hne]⟩, ?_⟩⟩
      obtain ⟨_, _, _, e⟩ := waitDone_ticked h (s.updThr h (fun t => t.setD _ (BitVec.ofNat 64 res)))
      rw [Unqueued, e]
      exact n
    · exact .refl
  · split
    · exact (msix_delivered _ _ _).bystander
    · exact .refl

theorem histAdd_bystander (p : Petal) (src : Nat) (val : Option Nat) (since : Nat) (s : State) :
    Bystander t s (histAdd p src val since s) := by
  obtain ⟨_, _, _, e⟩ := histAdd_measured p src val since s
  exact bystander_of_threads (by rw [e]) (by rw [e]; exact fun _ h => h)

/-- A lock that is passed on wakes its first waiter alone. -/
theorem passOn_bystander (key : Nat) (aban : Bool) (s : State) : Bystander t s (passOn key aban s) := by
  unfold passOn
  split
  · refine .trans ?_ (writeImage_inherited _ _ _).bystander
    exact bystander_of_threads rfl (fun _ h => h)
  · next w hw =>
    refine .of_unqueued fun n => ?_
    have hmid : w.mid ≠ t.mid := n w (List.mem_of_find?_eq_some hw)
    refine .trans (.trans (.trans (.trans ?_ (histAdd_bystander _ _ _ _ _)) (writeImage_inherited _ _ _).bystander)
      (wakeWaiter_bystander w _ _ hmid)) (inherit_inherited _ _ _).bystander
    exact bystander_of_threads rfl (fun x hx => List.mem_of_mem_erase hx)

theorem reInherit_inherited (mid : Nat) (s : State) : Inherited s (reInherit mid s) := by
  unfold reInherit
  split
  · exact .refl s
  · exact updThr_inh_inherited _ _ _

theorem lockAbandon_bystander (key : Nat) (s : State) : Bystander t s (lockAbandon key s) := by
  unfold lockAbandon
  split
  · exact .refl
  · refine .trans (.trans ?_ (passOn_bystander _ _ _)) (reInherit_inherited _ _).bystander
    exact bystander_of_threads rfl (fun _ h => h)

end Bystander

/-- A holder reset of a thread that does not wait for an event leaves the thread's record but for what it inherits, what it
reserves and its event queue. -/
theorem holderReset_thr (t : ThreadId) (s : State) (hst : (s.thr (.thr t)).st ≠ .eventWait) :
    ∃ n r q, (holderReset t.mid s).thr (.thr t) = { s.thr (.thr t) with inh := n, resv := r, evq := q } := by
  obtain ⟨n, r, withdrawn⟩ := (withdrawSel_inherited (fun w => w.mid == t.mid) s).thr (.thr t)
  have own : (withdraw t.mid s).thr (.thr t) = { s.thr (.thr t) with inh := n, resv := r } := withdrawn
  have abandoned : Bystander t (withdraw t.mid s) (holderReset t.mid s) := by
    refine .trans (.foldl _ _ (fun u k => lockAbandon_bystander k u)) (.foldl _ _ (fun u p => ?_))
    dsimp only
    split
    · exact .refl
    · refine .trans ?_ (raiseD_delivered _ _ _ _ _).bystander
      exact bystander_of_threads rfl (fun _ h => h)
  obtain ⟨⟨_, _, _, kept⟩, _⟩ := abandoned.keeps (by rw [own]; exact hst) (withdraw_unqueued t s)
  exact ⟨_, _, _, by rw [kept, own]⟩

/-! ## Channels (09 R255 to R260) -/

/-- `u` is `s` after staging, messages and holds have moved and waits have ended: channels, threads, counts, histograms and free
values alone. -/
def Messaged (s u : State) : Prop :=
  ∃ ch di dm th fr, u = { s with chans := ch, dict := di, doms := dm, threads := th, fresh := fr }

theorem Messaged.refl (s : State) : Messaged s s := ⟨_, _, _, _, _, rfl⟩

theorem Messaged.trans {s u v : State} (a : Messaged s u) (b : Messaged u v) : Messaged s v := by
  obtain ⟨_, _, _, _, _, rfl⟩ := a
  obtain ⟨_, _, _, _, _, rfl⟩ := b
  exact ⟨_, _, _, _, _, rfl⟩

theorem Messaged.mem {s u : State} (a : Messaged s u) : u.mem = s.mem := by
  obtain ⟨_, _, _, _, _, rfl⟩ := a
  rfl

theorem Messaged.clusters {s u : State} (a : Messaged s u) : u.clusters = s.clusters := by
  obtain ⟨_, _, _, _, _, rfl⟩ := a
  rfl

theorem updThr_messaged (h : Hart) (f : Thread → Thread) (s : State) : Messaged s (s.updThr h f) := ⟨_, _, _, _, _, rfl⟩

theorem updChan_messaged (p : Petal) (ch : Nat) (f : Chan → Chan) (s : State) : Messaged s (s.updChan p ch f) := ⟨_, _, _, _, _, rfl⟩

theorem bump_messaged (i j : Nat) (s : State) : Messaged s (s.bump i j) := ⟨_, _, _, _, _, rfl⟩

theorem waitDone_messaged (h : Hart) (s : State) : Messaged s (waitDone h s) := by
  obtain ⟨_, _, _, e⟩ := waitDone_ticked h s
  exact ⟨_, _, _, _, _, e⟩

theorem histAdd_messaged (p : Petal) (src : Nat) (val : Option Nat) (since : Nat) (s : State) :
    Messaged s (histAdd p src val since s) := by
  obtain ⟨_, _, _, e⟩ := histAdd_measured p src val since s
  exact ⟨_, _, _, _, _, e⟩

/-- What a release of a hold does: it ends the hold, or it gives it to a sender that waits, whose `CHWR` then completes. -/
theorem releaseHold_cases (p : Petal) (ch : Nat) (s : State) :
    (∃ f : Chan → Chan, (∀ c, (f c).fifo = c.fifo) ∧ releaseHold p ch s = s.updChan p ch f) ∨
    ∃ m c' w, ∃ f : Chan → Chan, m ∈ (s.chan p ch).waiting ∧ (∀ c, (f c).fifo = c.fifo) ∧
      (s.thr (midHart m)).wait = .sendWord c' w ∧
      releaseHold p ch s = waitDone (midHart m) (stageWord (midHart m) ch w (s.updChan p ch f)) := by
  unfold releaseHold
  split
  · exact .inl ⟨_, fun _ => by rfl, rfl⟩
  · next m hm =>
    have hmem : m ∈ (s.chan p ch).waiting := by
      obtain ⟨_, _, hfind⟩ := List.exists_of_findSome?_eq_some hm
      exact List.mem_of_find?_eq_some hfind
    dsimp only
    split
    · next c' w hw => exact .inr ⟨m, c', w, _, hmem, fun _ => by rfl, hw, rfl⟩
    · exact .inl ⟨_, fun _ => by rfl, rfl⟩

theorem releaseHold_messaged (p : Petal) (ch : Nat) (s : State) : Messaged s (releaseHold p ch s) := by
  obtain ⟨f, _, e⟩ | ⟨m, _, w, f, _, _, _, e⟩ := releaseHold_cases p ch s
  · rw [e]; exact updChan_messaged _ _ _ _
  · rw [e]; exact ((updChan_messaged p ch f s).trans (updThr_messaged _ _ _)).trans (waitDone_messaged _ _)

/-- A release of a hold leaves the messages. -/
theorem releaseHold_fifo (p : Petal) (ch : Nat) (s : State) : ((releaseHold p ch s).chan p ch).fifo = (s.chan p ch).fifo := by
  obtain ⟨f, hf, e⟩ | ⟨m, _, w, f, _, hf, _, e⟩ := releaseHold_cases p ch s
  · rw [e, State.chan_updChan_self, hf]
  · have staged : ((stageWord (midHart m) ch w (s.updChan p ch f)).chan p ch).fifo = (s.chan p ch).fifo := by
      rw [stageWord, State.updThr_chan_reads, State.chan_updChan_self, hf]
    obtain ⟨_, _, _, ew⟩ := waitDone_ticked (midHart m) (stageWord (midHart m) ch w (s.updChan p ch f))
    rw [e, ew]
    exact staged

/-- A release of a hold leaves every hart but a sender that waits for the hold in `CHWR`. -/
theorem releaseHold_thr {p : Petal} {ch : Nat} {s : State} {h : Hart}
    (hq : (∀ m ∈ (s.chan p ch).waiting, midHart m ≠ h) ∨ ∀ c w, (s.thr h).wait ≠ .sendWord c w) :
    (releaseHold p ch s).thr h = s.thr h := by
  obtain ⟨_, _, e⟩ | ⟨m, c, w, f, hmem, _, hwait, e⟩ := releaseHold_cases p ch s
  · rw [e]; rfl
  · have hne : h ≠ midHart m := by
      rintro rfl
      exact hq.elim (fun hn => hn m hmem rfl) (fun hn => hn c w hwait)
    rw [e, waitDone_thr_ne _ hne, stageWord, State.thr_updThr_ne _ _ hne, State.updChan_thr_reads]

theorem takeMsg_messaged (p : Petal) (ch : Nat) (h : Hart) (rd : Reg) (s : State) : Messaged s (takeMsg p ch h rd s) := by
  unfold takeMsg
  split
  · exact .refl s
  · exact (((updChan_messaged _ _ _ _).trans (updThr_messaged _ _ _)).trans (bump_messaged _ _ _)).trans (histAdd_messaged _ _ _ _ _)

theorem wakeRecv_messaged (p : Petal) (ch : Nat) (s : State) : Messaged s (wakeRecv p ch s) := by
  unfold wakeRecv
  split
  · exact .refl s
  · dsimp only
    split
    · split
      · exact (takeMsg_messaged _ _ _ _ _).trans (waitDone_messaged _ _)
      · exact .refl s
    · exact .refl s

/-- A message finds no receiver that waits. -/
theorem wakeRecv_eq_self {p : Petal} {ch : Nat} {s : State} (h : ∀ m, chanRecv s p ch = some m → (s.thr (midHart m)).st ≠ .recvWait) :
    wakeRecv p ch s = s := by
  unfold wakeRecv
  split
  · rfl
  · next m hm =>
    dsimp only
    split
    · next hst _ => exact absurd hst (h m hm)
    · rfl

theorem appendStaged_messaged (p : Petal) (ch : Nat) (h : Hart) (s : State) : Messaged s (appendStaged p ch h s) :=
  (((updThr_messaged _ _ _).trans (updChan_messaged _ _ _ _)).trans (wakeRecv_messaged _ _ _)).trans (releaseHold_messaged _ _ _)

theorem slotFreed_messaged (p : Petal) (ch : Nat) (s : State) : Messaged s (slotFreed p ch s) := by
  unfold slotFreed
  split
  · exact .refl s
  · dsimp only
    split
    · split
      · exact (appendStaged_messaged _ _ _ _).trans (waitDone_messaged _ _)
      · exact appendStaged_messaged _ _ _ _
    · exact .refl s

/-- A channel that nobody holds has no staged END to take. -/
theorem slotFreed_of_unheld {p : Petal} {ch : Nat} {s : State} (h : (s.chan p ch).holder = none) : slotFreed p ch s = s := by
  rw [slotFreed, h]

/-- A thread's record without its staging for a channel. -/
def Thread.unstaged (ch : Nat) (x : Thread) : Thread :=
  { x with staged := x.staged.filter (fun e => e.1 != ch), stagedEnd := x.stagedEnd.filter (· != ch) }

theorem stagedFor_unstaged (ch : Nat) (x : Thread) : stagedFor (x.unstaged ch) ch = [] := by
  simp [stagedFor, Thread.unstaged, List.filter_filter]

theorem stagedEnd_unstaged (ch : Nat) (x : Thread) : ch ∉ (x.unstaged ch).stagedEnd := by
  simp [Thread.unstaged]

theorem discardStaging_messaged (p : Petal) (ch m : Nat) (s : State) : Messaged s (discardStaging p ch m s) := by
  unfold discardStaging
  dsimp only
  split
  · exact (updThr_messaged _ _ _).trans (releaseHold_messaged _ _ _)
  · exact updThr_messaged _ _ _

/-- A discard empties the thread's staging for the channel and leaves the messages. -/
theorem discardStaging_spec {p : Petal} {ch m : Nat} {t : ThreadId} {s : State} (ht : threadOf m = some t)
    (hw : m ∉ (s.chan p ch).waiting) :
    (discardStaging p ch m s).thr (.thr t) = (s.thr (.thr t)).unstaged ch ∧
      ((discardStaging p ch m s).chan p ch).fifo = (s.chan p ch).fifo := by
  have emptied : (s.updThr (.thr t) (Thread.unstaged ch)).thr (.thr t) = (s.thr (.thr t)).unstaged ch := State.thr_updThr_self ..
  have others : ∀ y ∈ ((s.updThr (.thr t) (Thread.unstaged ch)).chan p ch).waiting, midHart y ≠ .thr t := by
    intro y hy
    refine midHart_ne fun e => hw ?_
    rw [mid_of_threadOf ht, ← e]
    exact hy
  have he : discardStaging p ch m s = (if (s.chan p ch).holder = some m then
      releaseHold p ch (s.updThr (.thr t) (Thread.unstaged ch)) else s.updThr (.thr t) (Thread.unstaged ch)) := by
    rw [discardStaging, midHart_of_threadOf ht]
    rfl
  rw [he]
  split
  · exact ⟨(releaseHold_thr (.inl others)).trans emptied, releaseHold_fifo _ _ _⟩
  · exact ⟨emptied, rfl⟩

/-! ## The end of a wait without effect (09 R249; 11 R296) -/

/-- `u` is `s` after a thread's wait has ended without effect. -/
structure WaitEnded (t : ThreadId) (s u : State) : Prop where
  own : ∃ e n r, u.thr (.thr t) = { s.thr (.thr t) with wait := .none, stagedEnd := e, inh := n, resv := r }
  clusters : u.clusters = s.clusters
  /-- Only the withdrawal of a lock request reaches memory and other harts. -/
  unlocked : (∀ a b e, (s.thr (.thr t)).wait ≠ .lock a b e) →
    Messaged s u ∧ u.census = s.census ∧ ∀ h, h ≠ .thr t → u.thr h = s.thr h

/-- What ends the wait, before the thread is marked as waiting no more. -/
theorem waitEnded_of_updThr {t : ThreadId} {s v : State}
    (own : ∃ e n r, v.thr (.thr t) = { s.thr (.thr t) with stagedEnd := e, inh := n, resv := r }) (clusters : v.clusters = s.clusters)
    (unlocked : (∀ a b e, (s.thr (.thr t)).wait ≠ .lock a b e) →
      Messaged s v ∧ v.census = s.census ∧ ∀ h, h ≠ .thr t → v.thr h = s.thr h) :
    WaitEnded t s (v.updThr (.thr t) (fun y => { y with wait := .none })) := by
  obtain ⟨_, _, _, e⟩ := own
  refine ⟨⟨_, _, _, by rw [State.thr_updThr_self, e]⟩, clusters, fun hlock => ?_⟩
  obtain ⟨messaged, census, others⟩ := unlocked hlock
  exact ⟨messaged.trans (updThr_messaged _ _ _), census, fun h hne => (State.thr_updThr_ne _ _ hne).trans (others h hne)⟩

theorem endWait_ended (t : ThreadId) (s : State) : WaitEnded t s (endWait t s) := by
  unfold endWait
  dsimp only
  split
  · exact waitEnded_of_updThr ⟨_, _, _, rfl⟩ rfl fun _ => ⟨updChan_messaged _ _ _ _, rfl, fun _ _ => rfl⟩
  · exact waitEnded_of_updThr ⟨_, _, _, State.thr_updThr_self _ _ _⟩ rfl fun _ =>
      ⟨updThr_messaged _ _ _, rfl, fun _ hne => State.thr_updThr_ne _ _ hne⟩
  · next hw =>
    have withdrawn := withdrawSel_inherited (fun w => w.mid == t.mid && w.rd.isSome) s
    obtain ⟨n, r, own⟩ := withdrawn.thr (.thr t)
    exact waitEnded_of_updThr ⟨_, n, r, own⟩ withdrawn.clusters fun hlock => absurd hw (hlock _ _ _)
  · exact waitEnded_of_updThr ⟨_, _, _, rfl⟩ rfl fun _ => ⟨.refl s, rfl, fun _ _ => rfl⟩

/-! ## Thread command 3: a park (09 R249) -/

theorem TState.parked_iff (x : TState) : x.parked = true ↔ x = .parkedFault ∨ x = .parkedSup := by
  cases x <;> decide

theorem parkThread_of_parked {t : ThreadId} {s : State} (h : (s.thr (.thr t)).st.parked = true) : parkThread t s = s := by
  rcases (TState.parked_iff _).mp h with h | h
  · simp only [parkThread, h]
  · simp only [parkThread, h]

/-- A stopped thread parks when it leaves its state. -/
theorem parkThread_of_stopped {t : ThreadId} {s : State} (h : (s.thr (.thr t)).st = .halted ∨ (s.thr (.thr t)).st = .sparing) :
    parkThread t s = s.updThr (.thr t) (fun y => { y with parkAsked := true }) := by
  rcases h with h | h
  · simp only [parkThread, h]
  · simp only [parkThread, h]

/-- Any other thread parks now, after what it has issued is discarded or its wait has ended. -/
theorem parkThread_of_active {t : ThreadId} {s : State} (hp : (s.thr (.thr t)).st.parked = false)
    (hh : (s.thr (.thr t)).st ≠ .halted) (hs : (s.thr (.thr t)).st ≠ .sparing) :
    ∃ v : State, parkThread t s = v.updThr (.thr t) Thread.park ∧
      (∃ w e n r, v.thr (.thr t) = { s.thr (.thr t) with wait := w, stagedEnd := e, inh := n, resv := r }) ∧
      ((∀ a b e, (s.thr (.thr t)).wait ≠ .lock a b e) → v.mem = s.mem) := by
  unfold parkThread
  dsimp only
  split
  · next h => rw [h] at hp; exact nomatch hp
  · next h => rw [h] at hp; exact nomatch hp
  · exact ⟨s, rfl, ⟨_, _, _, _, rfl⟩, fun _ => rfl⟩
  · next h => exact absurd h hh
  · next h => exact absurd h hs
  · have c := squash_counted t (s.thr (.thr t)).pc s
    exact ⟨_, rfl, ⟨_, _, _, _, c.thr _⟩, fun _ => c.mem⟩
  · obtain ⟨⟨_, _, _, own⟩, _, unlocked⟩ := endWait_ended t s
    exact ⟨_, rfl, ⟨_, _, _, _, own⟩, fun hlock => (unlocked hlock).1.mem⟩

/-! ## Thread command 4: a reset (06 R166, R189) -/

/-- What an operation on the way of a thread's reset leaves: the thread's record and the clusters. -/
structure Intact (t : ThreadId) (s u : State) : Prop where
  thr : u.thr (.thr t) = s.thr (.thr t)
  clusters : u.clusters = s.clusters

theorem Intact.refl (t : ThreadId) (s : State) : Intact t s s := ⟨rfl, rfl⟩

theorem Intact.trans {t : ThreadId} {s u v : State} (a : Intact t s u) (b : Intact t u v) : Intact t s v :=
  ⟨b.thr.trans a.thr, b.clusters.trans a.clusters⟩

theorem dropTops_intact (t : ThreadId) (s : State) : Intact t s (dropTops t s) := by
  unfold dropTops
  refine List.foldlRecOn (motive := Intact t s) _ _ (.refl t s) (fun u a o _ => a.trans ?_)
  split
  · exact ⟨rfl, rfl⟩
  · exact .refl t u

theorem squash_intact (t : ThreadId) (a : Addr) (s : State) : Intact t s (squash t a s) := by
  have c := squash_counted t a s
  obtain ⟨_, _, e⟩ := c.rest
  exact ⟨c.thr _, by rw [e]⟩

theorem returnPrefetch_intact (t : ThreadId) (s : State) : Intact t s (returnPrefetch t s) := by
  unfold returnPrefetch
  split
  · exact .refl t s
  · exact ⟨rfl, rfl⟩

theorem dropCurrent_intact (t : ThreadId) (s : State) : Intact t s (dropCurrent t s) := by
  unfold dropCurrent
  split
  · exact .refl t s
  · dsimp only
    split
    · exact ⟨rfl, rfl⟩
    · exact ⟨rfl, rfl⟩

/-- Discarding a thread's staging: the holds that it gives up wake other threads alone. -/
theorem dropStaging_spec {t : ThreadId} {s : State} (hw : (s.thr (.thr t)).wait = .none) :
    (dropStaging t s).thr (.thr t) = { s.thr (.thr t) with staged := [], stagedEnd := [] } ∧
      (dropStaging t s).clusters = s.clusters := by
  have emptied := State.thr_updThr_self s (.thr t) (fun x => { x with staged := [], stagedEnd := [] })
  unfold dropStaging
  dsimp only
  generalize hu : s.updThr (.thr t) (fun x => { x with staged := [], stagedEnd := [] }) = u at emptied ⊢
  have released : Intact t u ((holds u t).foldl (fun s ch => releaseHold t.p ch s) u) := by
    refine List.foldlRecOn (motive := Intact t u) _ _ (.refl t u) (fun v a ch _ => a.trans ?_)
    refine ⟨releaseHold_thr (.inr fun c w => ?_), (releaseHold_messaged _ _ _).clusters⟩
    rw [a.thr, emptied, hw]
    exact nofun
  exact ⟨released.thr.trans emptied, released.clusters.trans (by rw [← hu]; rfl)⟩

/-- A thread's own part of a reset: its record is cleared, and it starts as its state and its cluster say. -/
theorem clearThread_thr (t : ThreadId) (s : State) :
    ∃ (y : Thread) (bank : Nat), (clearThread t s).thr (.thr t) = y.cleared (startState s t) (s.clus t.p t.c).entry bank ∧
      y.steps = (s.thr (.thr t)).steps ∧ y.tpc = (s.thr (.thr t)).tpc := by
  obtain ⟨⟨_, _, _, ended⟩, clusters, _⟩ := endWait_ended t s
  unfold clearThread
  dsimp only
  have issued := (dropTops_intact t (endWait t s)).trans (squash_intact t ((dropTops t (endWait t s)).thr (.thr t)).pc _)
  generalize squash t _ _ = u at issued ⊢
  have piped : Intact t (endWait t s) (u.setPipe t.core ((u.pipe t.core).drop t.t.val)) := issued.trans ⟨rfl, rfl⟩
  have dropped := (piped.trans (returnPrefetch_intact t _)).trans (dropCurrent_intact t _)
  generalize dropCurrent t _ = v at dropped ⊢
  have own := dropped.thr.trans ended
  obtain ⟨emptied, kept⟩ := dropStaging_spec (t := t) (s := v) (by rw [own])
  rw [own] at emptied
  have clus : (dropStaging t v).clus t.p t.c = s.clus t.p t.c := by
    rw [State.clus, kept, dropped.clusters, clusters, State.clus]
  have starts : startState (dropStaging t v) t = startState s t := by rw [startState, startState, clus, emptied]
  rw [State.thr_updThr_self, starts, clus]
  exact ⟨(dropStaging t v).thr (.thr t), _, rfl, by rw [emptied], by rw [emptied]⟩

/-- A thread reset (06 R166, R189): the record that it leaves. -/
theorem resetThread_thr (t : ThreadId) (s : State) :
    ∃ (y : Thread) (bank : Nat) (n : Nat) (r : Option Nat) (q : List EvRec), (resetThread t s).thr (.thr t) =
        { y.cleared (startState s t) (s.clus t.p t.c).entry bank with inh := n, resv := r, evq := q } ∧
      y.steps = (s.thr (.thr t)).steps ∧ y.tpc = (s.thr (.thr t)).tpc := by
  obtain ⟨y, bank, e, steps, tpc⟩ := clearThread_thr t s
  have awake : ((clearThread t s).thr (.thr t)).st ≠ .eventWait := by
    rw [e]
    simp only [Thread.cleared, startState]
    split
    · exact nofun
    · split
      · exact nofun
      · exact nofun
  obtain ⟨n, r, q, e'⟩ := holderReset_thr t (clearThread t s) awake
  exact ⟨y, bank, n, r, q, by rw [resetThread, e', e], steps, tpc⟩

/-! ## Thread commands as dictionary writes (09 R248) -/

/-- The word of a thread command: operation, thread and address (09 R248). -/
def threadCmdWord (t : ThreadId) (op addr : Nat) : Nat := op * 2 ^ 60 + t.t.val * 2 ^ 56 + addr

theorem threadCmd_eq_dictCmd (w : Writer) (t : ThreadId) (op : Nat) {addr : Nat} (s : State) (h : addr < 2 ^ 48) :
    threadCmd w t op addr s = dictCmd w (coreIdx t.p t.lc) 0x0B 0 (leBytes 8 (threadCmdWord t op addr)) none
      (effThreadCmd t.core (leBytes 8 (threadCmdWord t op addr))) s := by
  rw [threadCmd, Nat.mod_eq_of_lt h]
  rfl

/-- The fields of a thread command's word read back. -/
theorem threadCmdWord_fields (t : ThreadId) {op addr : Nat} (ho : op ≤ 4) (ha : addr < 2 ^ 48) :
    leNat (leBytes 8 (threadCmdWord t op addr)) = threadCmdWord t op addr ∧ bitsOf (threadCmdWord t op addr) 63 60 = op ∧
      bitsOf (threadCmdWord t op addr) 58 56 = t.t.val ∧ bitsOf (threadCmdWord t op addr) 47 0 = addr ∧
      BitVec.ofNat 48 (threadCmdWord t op addr) = BitVec.ofNat 48 addr := by
  have ht := t.t.isLt
  simp only [threadCmdWord, bitsOf]
  refine ⟨leNat_leBytes_of_lt 8 (by omega), by omega, by omega, by omega, BitVec.eq_of_toNat_eq ?_⟩
  simp only [BitVec.toNat_ofNat]
  omega

/-- What a thread command does, by its operation (09 R248). -/
def threadCmdEffect (t : ThreadId) (a : Addr) (s : State) : Nat → State
  | 1 => resumeThread t none s
  | 2 => resumeThread t (some a) s
  | 3 => parkThread t s
  | _ => resetThread t s

theorem effThreadCmd_eq (t : ThreadId) {op addr : Nat} (s : State) (h1 : 1 ≤ op) (h4 : op ≤ 4) (ha : addr < 2 ^ 48)
    (h2 : op ≠ 2 → addr = 0) :
    effThreadCmd t.core (leBytes 8 (threadCmdWord t op addr)) s = .ok (threadCmdEffect t (BitVec.ofNat 48 addr) s op) := by
  obtain ⟨hword, hop, hthr, haddr, hpc⟩ := threadCmdWord_fields t h4 ha
  have hcore : t.core.thread ⟨t.t.val % 8, Nat.mod_lt _ (by decide)⟩ = t := by
    obtain ⟨p, c, k, n⟩ := t
    simp only [ThreadId.core, CoreId.thread, Nat.mod_eq_of_lt n.isLt]
  have hgood : (decide (op = 0) || decide (4 < op) || (decide (op ≠ 2) && decide (addr ≠ 0))) = false := by
    by_cases e : op = 2
    · subst e; rfl
    · simp only [h2 e, Bool.or_eq_false_iff, Bool.and_eq_false_iff, decide_eq_false_iff_not]
      omega
  simp only [effThreadCmd, hword, hop, hthr, haddr, hpc, hcore, hgood, Bool.false_eq_true, if_false]
  rfl

/-- A resume of a parked thread. -/
theorem resumeThread_of_parked {t : ThreadId} {s : State} (a : Option Addr) (h : (s.thr (.thr t)).st.parked = true) :
    resumeThread t a s = s.updThr (.thr t) (fun y => { y with
      st := if (s.clus t.p t.c).started then .running else .notStarted, pc := a.getD (s.thr (.thr t)).tpc,
      tcause := y.tcause &&& BitVec.ofNat 64 (2 ^ 63 - 1) }) := by
  simp only [resumeThread, h, if_true]
  rfl

theorem resumeThread_of_unparked {t : ThreadId} {s : State} (a : Option Addr) (h : (s.thr (.thr t)).st.parked = false) :
    resumeThread t a s = s := by
  simp only [resumeThread, h, Bool.false_eq_true, if_false]

/-! ## Share words (09 R251) -/

/-- A share word is written whole or refused. -/
theorem effShare_whole (k : CoreId) (sub : Nat) (data : List Byte) (s : State) :
    effShare k sub data s = .ok (plainScalar (coreIdx k.p k.lc) sub data s) ∨ effShare k sub data s = .error 0x06090030 := by
  unfold effShare
  dsimp only
  generalize (_ || !floorsFit _ k) = b
  cases b
  · exact .inl rfl
  · exact .inr rfl

/-- Whether a thread's share word names a ceiling below its floor or more than its core has (09 R250, R251). -/
def shareBad (v : Nat) : Bool :=
  [0, 1, 2].any (fun r => (shareOf v r).2 < (shareOf v r).1) || 16 < (shareOf v 1).2 || 16 < (shareOf v 1).1 ||
    8 < (shareOf v 2).2 || 8 < (shareOf v 2).1

theorem effShare_of_thread {k : CoreId} {sub : Nat} {data : List Byte} {s : State} (hn : sub ≠ 9) :
    effShare k sub data s = (if (shareBad (leNat data) || !floorsFit (plainScalar (coreIdx k.p k.lc) sub data s) k) = true
      then .error 0x06090030 else .ok (plainScalar (coreIdx k.p k.lc) sub data s)) := by
  simp only [effShare, if_neg hn, Bool.decide_eq_true, shareBad]
  rfl

theorem shareBad_of_floor_above_ceiling {v : Nat} (h : (shareOf v 0).2 < (shareOf v 0).1) : shareBad v = true := by
  simp only [shareBad, List.any_cons, h, decide_true, Bool.true_or]

theorem shareBad_of_good {v : Nat} (hle : ∀ q, q < 3 → (shareOf v q).1 ≤ (shareOf v q).2) (h1 : (shareOf v 1).2 ≤ 16)
    (h2 : (shareOf v 2).2 ≤ 8) : shareBad v = false := by
  have a0 := hle 0 (by decide)
  have a1 := hle 1 (by decide)
  have a2 := hle 2 (by decide)
  simp only [shareBad, List.any_cons, List.any_nil, Bool.or_false, Bool.or_eq_false_iff, decide_eq_false_iff_not]
  omega

theorem effShare_of_floor_above_ceiling {k : CoreId} {sub : Nat} {data : List Byte} {s : State} (hn : sub ≠ 9)
    (h : (shareOf (leNat data) 0).2 < (shareOf (leNat data) 0).1) : effShare k sub data s = .error 0x06090030 := by
  rw [effShare_of_thread hn, shareBad_of_floor_above_ceiling h]
  rfl

theorem effShare_of_good {k : CoreId} {sub : Nat} {data : List Byte} {s : State} (hn : sub ≠ 9)
    (hle : ∀ q, q < 3 → (shareOf (leNat data) q).1 ≤ (shareOf (leNat data) q).2) (h1 : (shareOf (leNat data) 1).2 ≤ 16)
    (h2 : (shareOf (leNat data) 2).2 ≤ 8) (hf : floorsFit (plainScalar (coreIdx k.p k.lc) sub data s) k = true) :
    effShare k sub data s = .ok (plainScalar (coreIdx k.p k.lc) sub data s) := by
  rw [effShare_of_thread hn, shareBad_of_good hle h1 h2, hf]
  rfl

theorem effShare_of_unfit {k : CoreId} {sub : Nat} {data : List Byte} {s : State}
    (h : floorsFit (plainScalar (coreIdx k.p k.lc) sub data s) k = false) : effShare k sub data s = .error 0x06090030 := by
  unfold effShare
  dsimp only
  rw [h, Bool.not_false, Bool.or_true, if_pos rfl]

/-! ## Channel bindings (09 R253, R254) -/

section Binding

variable {p : Petal} {off : Nat} {data : List Byte} {s : State}

/-- Record `j` of the bytes written to a binding table. -/
def bindRec (data : List Byte) (j : Nat) : List Byte := (data.drop (16 * j)).take 16

/-- The records of a write to a binding table, each with its channel. -/
def bindRecs (off : Nat) (data : List Byte) : List (Nat × List Byte) :=
  (List.range (data.length / 16)).map (fun j => (off / 16 + j, bindRec data j))

theorem any_bindRecs_iff (f : Nat × List Byte → Bool) :
    (bindRecs off data).any f = true ↔ ∃ j, j < data.length / 16 ∧ f (off / 16 + j, bindRec data j) = true := by
  simp only [bindRecs, List.any_map, List.any_eq_true, List.mem_range, Function.comp_apply]

theorem effBinding_eq_ite : effBinding p off data s =
    if (bindRecs off data).any (fun r => bindReserved p r.2) = true then .error 0x06090030
    else if (bindRecs off data).any (fun r => s.domRead (pix 0x3341 p) 0 (16 * r.1) 16 ≠ r.2 && !chanIdle s p r.1) = true
      then .error 0x08000022
    else .ok (s.domWrite (pix 0x3341 p) 0 off data) := rfl

theorem effBinding_of_reserved (h : ∃ j, j < data.length / 16 ∧ bindReserved p (bindRec data j) = true) :
    effBinding p off data s = .error 0x06090030 := by
  rw [effBinding_eq_ite, if_pos ((any_bindRecs_iff _).mpr h)]

/-- The channels that a write would bind anew, and that are not idle, decide an unreserved one. -/
theorem effBinding_of_unreserved (h : ∀ j, j < data.length / 16 → bindReserved p (bindRec data j) = false) :
    ((∃ j, j < data.length / 16 ∧ s.domRead (pix 0x3341 p) 0 (16 * (off / 16 + j)) 16 ≠ bindRec data j ∧
        chanIdle s p (off / 16 + j) = false) → effBinding p off data s = .error 0x08000022) ∧
    ((∀ j, j < data.length / 16 → s.domRead (pix 0x3341 p) 0 (16 * (off / 16 + j)) 16 = bindRec data j ∨
        chanIdle s p (off / 16 + j) = true) → effBinding p off data s = .ok (s.domWrite (pix 0x3341 p) 0 off data)) := by
  have hfree : ¬ (bindRecs off data).any (fun r => bindReserved p r.2) = true := by
    rw [any_bindRecs_iff]
    rintro ⟨j, hj, e⟩
    exact Bool.noConfusion ((h j hj).symm.trans e)
  rw [effBinding_eq_ite, if_neg hfree]
  refine ⟨fun ⟨j, hj, hne, hbusy⟩ => if_pos ((any_bindRecs_iff _).mpr ⟨j, hj, ?_⟩), fun hok => if_neg ?_⟩
  · simp only [hne, hbusy, ne_eq, not_false_eq_true, decide_true, Bool.not_false, Bool.and_self]
  · rw [any_bindRecs_iff]
    rintro ⟨j, hj, e⟩
    simp only [Bool.and_eq_true, decide_eq_true_eq, Bool.not_eq_true'] at e
    obtain ⟨hne, hbusy⟩ := e
    exact (hok j hj).elim hne (fun hidle => Bool.noConfusion (hbusy.symm.trans hidle))

end Binding

/-! ## Holds that last (09 R259) -/

/-- A hold of a thread that stays stopped is reported; the channel keeps its holder and its messages. -/
theorem execChannelHoldExpiry_reports {p : Petal} {ch : BitVec 12} {s : State} {t : ThreadId}
    (ht : (s.chan p ch.toNat).holder.bind threadOf = some t) (hr : (s.chan p ch.toNat).raised = false)
    (hst : (s.thr (.thr t)).st.parked = true ∨ (s.thr (.thr t)).st = .halted) :
    ∃ u, execChannelHoldExpiry p ch s = .next u ∧ u.chan p ch.toNat = { s.chan p ch.toNat with raised := true } ∧ u.mem = s.mem := by
  have hstop : (!(s.chan p ch.toNat).raised && ((s.thr (.thr t)).st.parked || (s.thr (.thr t)).st == .halted)) = true := by
    simpa only [hr, Bool.not_false, Bool.true_and, Bool.or_eq_true, beq_iff_eq] using hst
  unfold execChannelHoldExpiry
  dsimp only
  rw [ht]
  dsimp only
  rw [if_pos hstop]
  have marked := State.chan_updChan_self s p ch.toNat (fun c => { c with raised := true })
  generalize hu : s.updChan p ch.toNat (fun c => { c with raised := true }) = u at marked ⊢
  refine ⟨_, rfl, ?_⟩
  have told : ∀ i j v syn, Delivered u (deliver (.thr t.sup) (0x048 + p.val) syn (raise (0x048 + p.val) syn (some p)
      ((u.bump i j).dset i 0x0A v))) := fun i j v syn =>
    ((Delivered.bump u i j).trans (.dset _ _ _ _)).trans ((raise_delivered _ _ _ _).trans (deliver_delivered _ _ _ _))
  obtain ⟨_, _, _, _, _, _, _, _, _, e⟩ := (told (pix 0x3340 p) 5 _ _).rest
  rw [e]
  exact ⟨marked, by rw [← hu]; rfl⟩

theorem execChannelHoldExpiry_quiet {p : Petal} {ch : BitVec 12} {s : State}
    (h : (s.chan p ch.toNat).holder.bind threadOf = none ∨ (s.chan p ch.toNat).raised = true) :
    execChannelHoldExpiry p ch s = .next s := by
  unfold execChannelHoldExpiry
  dsimp only
  split
  · rfl
  · next t ht =>
    have hr := h.resolve_left (by rw [ht]; exact nofun)
    rw [hr, Bool.not_true, Bool.false_and, if_neg Bool.false_ne_true]

/-! ## Channel commands (09 R260) -/

section ChannelCommand

variable {p : Petal} {s : State} {m n : Nat}

/-- The fields of a discard command's word read back. -/
theorem discardWord_fields (hm : m < 2 ^ 16) (hn : n < 2 ^ 12) :
    leNat (leBytes 8 (2 ^ 60 + m * 2 ^ 32 + n)) = 2 ^ 60 + m * 2 ^ 32 + n ∧ bitsOf (2 ^ 60 + m * 2 ^ 32 + n) 63 60 = 1 ∧
      bitsOf (2 ^ 60 + m * 2 ^ 32 + n) 47 32 = m ∧ bitsOf (2 ^ 60 + m * 2 ^ 32 + n) 11 0 = n := by
  simp only [bitsOf]
  exact ⟨leNat_leBytes_of_lt 8 (by omega), by omega, by omega, by omega⟩

/-- The fields of a flush command's word read back. -/
theorem flushWord_fields (hn : n < 2 ^ 12) : leNat (leBytes 8 (2 * 2 ^ 60 + n)) = 2 * 2 ^ 60 + n ∧
    bitsOf (2 * 2 ^ 60 + n) 63 60 = 2 ∧ bitsOf (2 * 2 ^ 60 + n) 47 32 = 0 ∧ bitsOf (2 * 2 ^ 60 + n) 11 0 = n := by
  simp only [bitsOf]
  exact ⟨leNat_leBytes_of_lt 8 (by omega), by omega, by omega, by omega⟩

/-- Whether the staging of a thread for a channel may be discarded: the thread is of the petal, is stopped and has staged for it. -/
def MayDiscard (s : State) (p : Petal) (t : ThreadId) (n : Nat) : Prop :=
  t.p = p ∧ ((s.thr (.thr t)).st.parked = true ∨ (s.thr (.thr t)).st = .halted) ∧
    (n ∈ (s.thr (.thr t)).stagedEnd ∨ stagedFor (s.thr (.thr t)) n ≠ [])

/-- The state after an accepted discard: the staging goes, the thread is marked and the discard is counted. -/
def discarded (p : Petal) (n m : Nat) (t : ThreadId) (s : State) : State :=
  ((discardStaging p n m s).updThr (.thr t) (fun y => { y with discard := y.discard.filter (· != n) ++ [n] })).bump (pix 0x3340 p) 6

theorem effChannelCmd_discard_unnamed (hm : m < 2 ^ 16) (hn : n < 2 ^ 12) (ht : threadOf m = none) :
    effChannelCmd p (leBytes 8 (2 ^ 60 + m * 2 ^ 32 + n)) s = .error 0x08000022 := by
  obtain ⟨hword, hop, hmid, _⟩ := discardWord_fields hm hn
  rw [effChannelCmd, hword, hop, hmid, ht]
  rfl

theorem effChannelCmd_discard_named {t : ThreadId} (hm : m < 2 ^ 16) (hn : n < 2 ^ 12) (ht : threadOf m = some t) :
    (MayDiscard s p t n → effChannelCmd p (leBytes 8 (2 ^ 60 + m * 2 ^ 32 + n)) s = .ok (discarded p n m t s)) ∧
    (¬ MayDiscard s p t n → effChannelCmd p (leBytes 8 (2 ^ 60 + m * 2 ^ 32 + n)) s = .error 0x08000022) := by
  obtain ⟨hword, hop, hmid, hch⟩ := discardWord_fields hm hn
  have hcond : (t.p = p && ((s.thr (.thr t)).st.parked || (s.thr (.thr t)).st == .halted) &&
      ((s.thr (.thr t)).stagedEnd.contains n || !(stagedFor (s.thr (.thr t)) n).isEmpty)) = true ↔ MayDiscard s p t n := by
    simp only [MayDiscard, Bool.and_eq_true, Bool.or_eq_true, decide_eq_true_eq, beq_iff_eq, List.contains_eq_mem, Bool.not_eq_true',
      List.isEmpty_eq_false_iff, ne_eq, and_assoc]
  rw [effChannelCmd, hword, hop, hmid, hch, ht]
  exact ⟨fun h => if_pos (hcond.mpr h), fun h => if_neg (fun e => h (hcond.mp e))⟩

theorem effChannelCmd_flush (hn : n < 2 ^ 12) : effChannelCmd p (leBytes 8 (2 * 2 ^ 60 + n)) s =
    .ok (slotFreed p n (s.updChan p n (fun c => { c with fifo := [], times := [] }))) := by
  obtain ⟨hword, hop, hmid, hch⟩ := flushWord_fields hn
  rw [effChannelCmd, hword, hop, hmid, hch]
  rfl

/-- What an accepted discard leaves. -/
theorem discarded_spec {t : ThreadId} (ht : threadOf m = some t) (hw : m ∉ (s.chan p n).waiting) :
    stagedFor ((discarded p n m t s).thr (.thr t)) n = [] ∧ n ∉ ((discarded p n m t s).thr (.thr t)).stagedEnd ∧
      n ∈ ((discarded p n m t s).thr (.thr t)).discard ∧ ((discarded p n m t s).chan p n).fifo = (s.chan p n).fifo ∧
      (discarded p n m t s).mem = s.mem := by
  obtain ⟨own, fifo⟩ := discardStaging_spec ht hw
  have hthr : (discarded p n m t s).thr (.thr t) = { (s.thr (.thr t)).unstaged n with
      discard := (s.thr (.thr t)).discard.filter (· != n) ++ [n] } := by
    rw [discarded, State.bump_thr_reads, State.thr_updThr_self, own]
    rfl
  rw [hthr]
  refine ⟨stagedFor_unstaged n (s.thr (.thr t)), stagedEnd_unstaged n (s.thr (.thr t)), ?_, fifo, (discardStaging_messaged p n m s).mem⟩
  exact List.mem_append_right _ (List.mem_singleton_self n)

end ChannelCommand

/-! ## Posts (09 R261) -/

section Post

variable {p : Petal} {s : State} {hdr : Word} {words : List Word}

/-- The bytes of a post: its header and the words of its message. -/
def postData (hdr : Word) (words : List Word) : List Byte := leBytes 8 hdr.toNat ++ words.flatMap (fun y => leBytes 8 y.toNat)

/-- Whether a post names a message of 1 to 8 words and holds it. -/
def PostFormed (hdr : Word) (words : List Word) : Prop :=
  bitsOf hdr.toNat 15 12 = 0 ∧ bitsOf hdr.toNat 63 20 = 0 ∧ 1 ≤ bitsOf hdr.toNat 19 16 ∧ bitsOf hdr.toNat 19 16 ≤ 8 ∧
    words.length = bitsOf hdr.toNat 19 16

theorem effPost_eq_ite (p : Petal) (s : State) (hdr : Word) (words : List Word) : effPost p (postData hdr words) s =
    if (bitsOf hdr.toNat 15 12 ≠ 0 || bitsOf hdr.toNat 63 20 ≠ 0 || bitsOf hdr.toNat 19 16 = 0 || 8 < bitsOf hdr.toNat 19 16 ||
      (postData hdr words).length ≠ 8 + 8 * bitsOf hdr.toNat 19 16) = true then .error 0x06090030
    else if (!chanExt s p (bitsOf hdr.toNat 11 0)) = true then .error 0x06010000
    else if 4 ≤ (s.chan p (bitsOf hdr.toNat 11 0)).fifo.length then .error 0x08000024
    else .ok (wakeRecv p (bitsOf hdr.toNat 11 0) (s.updChan p (bitsOf hdr.toNat 11 0) (fun c =>
      { c with fifo := c.fifo ++ [words.map (fun w => ⟨w, false⟩)], times := c.times ++ [s.time] }))) := by
  have hhead : leNat ((postData hdr words).take 8) = hdr.toNat := by
    rw [postData, List.take_left' (length_leBytes 8 _), leNat_leBytes_word]
  have hwords : words64 ((postData hdr words).drop 8) = words := by
    rw [postData, List.drop_left' (length_leBytes 8 _), words64_leBytes]
  rw [effPost, hhead, hwords]

theorem postFormed_iff (hdr : Word) (words : List Word) : PostFormed hdr words ↔
    (bitsOf hdr.toNat 15 12 ≠ 0 || bitsOf hdr.toNat 63 20 ≠ 0 || bitsOf hdr.toNat 19 16 = 0 || 8 < bitsOf hdr.toNat 19 16 ||
      (postData hdr words).length ≠ 8 + 8 * bitsOf hdr.toNat 19 16) = false := by
  simp only [PostFormed, postData, List.length_append, length_leBytes, length_flatMap_leBytes, Bool.or_eq_false_iff,
    decide_eq_false_iff_not]
  omega

theorem effPost_of_malformed (h : ¬ PostFormed hdr words) : effPost p (postData hdr words) s = .error 0x06090030 := by
  rw [effPost_eq_ite, if_pos]
  rwa [postFormed_iff, Bool.not_eq_false] at h

/-- A well-formed post goes to a channel that is open to it and has a free slot. -/
theorem effPost_of_formed (h : PostFormed hdr words) : effPost p (postData hdr words) s =
    if (!chanExt s p (bitsOf hdr.toNat 11 0)) = true then .error 0x06010000
    else if 4 ≤ (s.chan p (bitsOf hdr.toNat 11 0)).fifo.length then .error 0x08000024
    else .ok (wakeRecv p (bitsOf hdr.toNat 11 0) (s.updChan p (bitsOf hdr.toNat 11 0) (fun c =>
      { c with fifo := c.fifo ++ [words.map (fun w => ⟨w, false⟩)], times := c.times ++ [s.time] }))) := by
  rw [effPost_eq_ite, if_neg]
  rw [(postFormed_iff hdr words).mp h]
  exact Bool.false_ne_true

end Post

/-! ## The wait census (09 R263 to R266) -/

/-- A thread that may be part of a wait cycle waits in a channel. -/
theorem stuck_waits {s : State} {p : Petal} {l : List ThreadId} {t : ThreadId} (h : stuck s p l t = true) :
    (s.thr (.thr t)).st.chanWait = true ∧
      ((s.thr (.thr t)).st = .sendWait → ∀ a b e, (s.thr (.thr t)).wait ≠ .lock a b e) := by
  unfold stuck at h
  dsimp only at h
  split at h
  · next hst hw => rw [hst, hw]; exact ⟨rfl, fun _ _ _ _ => nofun⟩
  · next hst hw => rw [hst, hw]; exact ⟨rfl, fun _ _ _ _ => nofun⟩
  · next hst hw => rw [hst, hw]; exact ⟨rfl, fun _ _ _ _ => nofun⟩
  · exact nomatch h

/-- A wait that Golne firmware can end by a post is no part of a wait cycle. -/
theorem stuck_of_ext {s : State} {p : Petal} {l : List ThreadId} {t : ThreadId} {rd : Reg} {ch : Nat}
    (hst : (s.thr (.thr t)).st = .recvWait) (hw : (s.thr (.thr t)).wait = .recv rd ch) (he : chanExt s p ch = true) :
    stuck s p l t = false := by
  simp only [stuck, hst, hw, he, Bool.not_true, Bool.and_false, Bool.false_and]

/-- What a declaration's answer to one thread leaves. -/
structure CycleAnswered (t : ThreadId) (s u : State) : Prop where
  mem : u.mem = s.mem
  census : u.census = s.census
  others : ∀ h, h ≠ .thr t → (s.thr h).st ≠ .eventWait → ∃ q, u.thr h = { s.thr h with evq := q }
  own : u.thr (.thr t) = s.thr (.thr t) ∨ (u.thr (.thr t)).st = .running ∨ (u.thr (.thr t)).st = .parkedFault

/-- A fault of a thread leaves every other hart but for its event queue. -/
theorem faultThread_others {t : ThreadId} {h : Hart} {s : State} (cause addr : Nat) (tpc tfpc : Addr) (hne : h ≠ .thr t)
    (hst : (s.thr h).st ≠ .eventWait) : ∃ q, (faultThread t cause addr tpc tfpc s).thr h = { s.thr h with evq := q } := by
  obtain ⟨f, hf⟩ : ∃ f, faultThread t cause addr tpc tfpc s = faultNotify t cause (s.updThr (.thr t) f) := ⟨_, rfl⟩
  have kept := State.thr_updThr_ne s f hne
  obtain ⟨q, e⟩ := (faultNotify_delivered t cause (s.updThr (.thr t) f)).thr h (by rw [kept]; exact hst)
  exact ⟨q, by rw [hf, e, kept]⟩

theorem cycleSup_answered {t : ThreadId} {s : State}
    (hlock : (s.thr (.thr t)).st = .sendWait → ∀ a b e, (s.thr (.thr t)).wait ≠ .lock a b e) : CycleAnswered t s (cycleSup t s) := by
  unfold cycleSup
  dsimp only
  split
  · next rd _ hst _ =>
    obtain ⟨_, _, _, e⟩ := waitDone_ticked (.thr t) (s.setD (.thr t) rd 0x10)
    obtain ⟨_, own⟩ := waitDone_thr_self (.thr t) (s.setD (.thr t) rd 0x10)
    refine ⟨by rw [e]; rfl, by rw [e]; rfl, fun h hne _ => ⟨(s.thr h).evq, ?_⟩, .inr (.inl ?_)⟩
    · rw [waitDone_thr_ne _ hne, State.setD, State.thr_updThr_ne _ _ hne]
    · rw [own, State.thr_setD_self]
      simp only [Thread.doneWait, Thread.setD, hst]
      rfl
  · next hst =>
    obtain ⟨messaged, census, others⟩ := (endWait_ended t s).unlocked (hlock hst)
    obtain ⟨⟨_, own⟩, ⟨_, _, _, _, _, _, _, _, _, e⟩⟩ := faultThread_spec t 9 (waitChan (s.thr (.thr t))) (s.thr (.thr t)).pc
      (s.thr (.thr t)).pc (endWait t s)
    refine ⟨by rw [e]; exact messaged.mem, by rw [e]; exact census, fun h hne hev => ?_, .inr (.inr (by rw [own]))⟩
    rw [← others h hne] at hev ⊢
    exact faultThread_others _ _ _ _ hne hev
  · exact ⟨rfl, rfl, fun _ _ _ => ⟨_, rfl⟩, .inl rfl⟩

/-- While a declaration answers the threads `ts` of a group: memory and the group's stamp stand, none of them waits for an event
or sends under a lock request, and all but the supervisors are in the state in which `s` had them. -/
structure Declaring (s : State) (ts : List ThreadId) (stamps : Tab Nat) (u : State) : Prop where
  mem : u.mem = s.mem
  census : u.census = stamps
  awake : ∀ t ∈ ts, (u.thr (.thr t)).st ≠ .eventWait
  unlocked : ∀ t ∈ ts, (u.thr (.thr t)).st = .sendWait → ∀ a b e, (u.thr (.thr t)).wait ≠ .lock a b e
  states : ∀ t ∈ ts, t.t ≠ 0 → (u.thr (.thr t)).st = (s.thr (.thr t)).st

theorem Declaring.delivered {s u v : State} {ts : List ThreadId} {stamps : Tab Nat} (a : Declaring s ts stamps u) (d : Delivered u v) :
    Declaring s ts stamps v := by
  obtain ⟨_, _, _, _, _, _, _, _, _, e⟩ := d.rest
  have kept : ∀ t ∈ ts, ∃ q, v.thr (.thr t) = { u.thr (.thr t) with evq := q } := fun t ht => d.thr _ (a.awake t ht)
  refine ⟨by rw [e]; exact a.mem, by rw [e]; exact a.census, fun t ht => ?_, fun t ht => ?_, fun t ht => ?_⟩
  all_goals obtain ⟨_, et⟩ := kept t ht; rw [et]
  · exact a.awake t ht
  · exact a.unlocked t ht
  · exact a.states t ht

/-- Answering a supervisor of the group. -/
theorem Declaring.cycleSup {s u : State} {ts : List ThreadId} {stamps : Tab Nat} (a : Declaring s ts stamps u) {t : ThreadId}
    (ht : t ∈ ts) (h0 : t.t = 0) : Declaring s ts stamps (cycleSup t u) := by
  obtain ⟨mem, census, others, own⟩ := cycleSup_answered (a.unlocked t ht)
  have kept : ∀ x ∈ ts, x ≠ t → ∃ q, (Machine.cycleSup t u).thr (.thr x) = { u.thr (.thr x) with evq := q } := fun x hx hne =>
    others _ (fun e => hne (Hart.thr.inj e)) (a.awake x hx)
  refine ⟨mem.trans a.mem, census.trans a.census, fun x hx => ?_, fun x hx => ?_, fun x hx hx0 => ?_⟩
  · by_cases e : x = t
    · subst e
      obtain own | own | own := own
      · rw [own]; exact a.awake x hx
      · rw [own]; exact nofun
      · rw [own]; exact nofun
    · obtain ⟨_, ex⟩ := kept x hx e
      rw [ex]; exact a.awake x hx
  · by_cases e : x = t
    · subst e
      obtain own | own | own := own
      · rw [own]; exact a.unlocked x hx
      · rw [own]; exact nofun
      · rw [own]; exact nofun
    · obtain ⟨_, ex⟩ := kept x hx e
      rw [ex]; exact a.unlocked x hx
  · obtain ⟨_, ex⟩ := kept x hx (fun e => hx0 (e ▸ h0))
    rw [ex]; exact a.states x hx hx0

/-- How many channel waits the threads of a group have entered, by which one declaration is told from the next (09 R266). -/
def waitStamp (s : State) (ts : List ThreadId) : Nat := 1 + (ts.map (fun t => (s.thr (.thr t)).waits)).sum

section Census

variable {p : Petal} {cl : Cluster} {s : State} {g : Nat} {ts : List ThreadId}

/-- A census that finds nothing new changes nothing. -/
theorem execWaitCensusEvaluation_quiet (hg : waitGroup s p cl = (g, ts))
    (h : petalHalted s p = true ∨ ts = [] ∨ Tab.get 0 s.census (8 * p.val + g) = waitStamp s ts ∨ ∃ y ∈ ts, stuck s p ts y = false) :
    execWaitCensusEvaluation p cl s = .next s := by
  unfold execWaitCensusEvaluation
  rw [hg]
  dsimp only
  split
  · rfl
  · next hhalt =>
    split
    · rfl
    · next first rest =>
      refine if_pos ?_
      rw [Bool.or_eq_true, decide_eq_true_eq, Bool.not_eq_true', List.all_eq_false]
      obtain h | h | h | ⟨y, hy, h⟩ := h
      · exact absurd h hhalt
      · exact nomatch h
      · exact .inl h
      · exact .inr ⟨y, hy, by rw [h]; exact Bool.false_ne_true⟩

/-- A census that finds every participating thread of a group stuck declares a wait cycle. -/
theorem execWaitCensusEvaluation_declares (hg : waitGroup s p cl = (g, ts)) (hhalt : petalHalted s p = false) (hne : ts ≠ [])
    (hstamp : Tab.get 0 s.census (8 * p.val + g) ≠ waitStamp s ts) (hstuck : ∀ y ∈ ts, stuck s p ts y = true) :
    ∃ u, execWaitCensusEvaluation p cl s = .next u ∧
      Declaring s ts (Tab.put s.census (8 * p.val + g) (waitStamp s ts)) u := by
  obtain ⟨first, rest, rfl⟩ := List.exists_cons_of_ne_nil hne
  have hcond : ¬ (decide (Tab.get 0 s.census (8 * p.val + g) = waitStamp s (first :: rest)) ||
      !(first :: rest).all (stuck s p (first :: rest))) = true := by
    rw [Bool.or_eq_true, decide_eq_true_eq, Bool.not_eq_true', List.all_eq_false]
    rintro (h | ⟨y, hy, h⟩)
    · exact hstamp h
    · exact h (hstuck y hy)
  have begun : Declaring s (first :: rest) (Tab.put s.census (8 * p.val + g) (waitStamp s (first :: rest)))
      { s with census := Tab.put s.census (8 * p.val + g) (waitStamp s (first :: rest)) } := by
    refine ⟨rfl, rfl, fun t ht e => ?_, fun t ht => (stuck_waits (hstuck t ht)).2, fun _ _ _ => rfl⟩
    have hwait := (stuck_waits (hstuck t ht)).1
    rw [show (s.thr (.thr t)).st = .eventWait from e] at hwait
    exact nomatch hwait
  unfold execWaitCensusEvaluation
  rw [hg, if_neg (by rw [hhalt]; exact Bool.false_ne_true)]
  dsimp only
  refine ⟨_, if_neg hcond, ?_⟩
  refine List.foldlRecOn (motive := Declaring s (first :: rest) _) _ _ ?_ (fun u a t ht => ?_)
  · refine List.foldlRecOn (motive := Declaring s (first :: rest) _) _ _ ?_ (fun u a t _ => a.delivered (deliver_delivered _ _ _ _))
    exact begun.delivered (((Delivered.bump _ _ _).trans (.dset _ _ _ _)).trans (raise_delivered _ _ _ _))
  · obtain ⟨hmem, h0⟩ := List.mem_filter.mp ht
    exact a.cycleSup hmem (Fin.ext (beq_iff_eq.mp h0))

end Census

/-! ## Participation masks and the scope of wait groups (09 R263, R266) -/

/-- A write of a scalar whose bits are all writable and whose unit has no generation. -/
theorem plainScalar_eq_dset {i j : Nat} {data : List Byte} (s : State) (hg : genEntry i j = none) (hm : writeMask i j = 2 ^ 64 - 1)
    (hd : leNat data < 2 ^ 64) : plainScalar i j data s = s.dset i j (leNat data) := by
  rw [plainScalar, bumpGen, hg, hm, Nat.and_two_pow_sub_one_of_lt_two_pow hd]

theorem plainScalar_mask (q : Petal) (lc : Fin 48) (b : BitVec 8) (s : State) :
    plainScalar (coreIdx q lc.val) 0x0A (leBytes 1 b.toNat) s = s.dset (coreIdx q lc.val) 0x0A b.toNat := by
  have hb : leNat (leBytes 1 b.toNat) = b.toNat := leNat_leBytes_byte b
  have hq := q.isLt
  have hl := lc.isLt
  have hgen : genEntry (coreIdx q lc.val) 0x0A = none := by
    have h1 : coreIdx q lc.val ≠ 0x2100 := by simp only [coreIdx]; omega
    have h2 : coreIdx q lc.val ≠ 0x4800 := by simp only [coreIdx]; omega
    rw [genEntry, if_neg h1, if_neg h2, if_pos (by decide)]
  have hmask : writeMask (coreIdx q lc.val) 0x0A = 2 ^ 64 - 1 := by
    have hpetal : 0x3000 ≤ coreIdx q lc.val ∧ coreIdx q lc.val < 0x4000 := by simp only [coreIdx]; omega
    simp only [writeMask, if_pos hpetal, Nat.reduceEqDiff, decide_false, Bool.and_false, Bool.false_eq_true, Nat.reduceLeDiff,
      and_false, if_false]
  rw [plainScalar_eq_dset s hgen hmask (by rw [hb]; have := b.isLt; omega), hb]

theorem plainScalar_scope (b : BitVec 8) (s : State) : plainScalar 0x2040 1 (leBytes 1 b.toNat) s = s.dset 0x2040 1 b.toNat := by
  have hb : leNat (leBytes 1 b.toNat) = b.toNat := leNat_leBytes_byte b
  rw [plainScalar_eq_dset s (by decide) (by decide) (by rw [hb]; have := b.isLt; omega), hb]

/-- The stamps of a petal's groups that a core's threads may be in: its cluster's and the petal-wide one. -/
def groupKeys (q : Petal) (lc : Fin 48) (k : Nat) : Bool := k == 8 * q.val + lc.val / 8 || k == 8 * q.val + 7

theorem effPart_eq (q : Petal) (lc : Fin 48) (b : BitVec 8) (s : State) :
    effPart q (coreIdx q lc.val) (leBytes 1 b.toNat) s = .ok (if b.toNat = s.dget (coreIdx q lc.val) 0x0A
      then s.dset (coreIdx q lc.val) 0x0A b.toNat
      else { s.dset (coreIdx q lc.val) 0x0A b.toNat with census := s.census.filter (fun e => !groupKeys q lc e.1) }) := by
  have hlc : coreIdx q lc.val - coreIdx q 0 = lc.val := by simp only [coreIdx]; omega
  rw [effPart, plainScalar_mask, State.dget_dset_self, hlc]
  rfl

theorem effScope_eq (b : BitVec 8) (s : State) : effScope (leBytes 1 b.toNat) s = .ok (if b.toNat = s.dget 0x2040 1
    then s.dset 0x2040 1 b.toNat else { s.dset 0x2040 1 b.toNat with census := [] }) := by
  rw [effScope, plainScalar_scope, State.dget_dset_self]

/-- Reading a table from which keys have been dropped. -/
theorem Tab.get_filter_keys {α : Type} (d : α) (f : Nat → Bool) (t : Tab α) (i : Nat) :
    Tab.get d (t.filter (fun e => f e.1)) i = if f i = true then Tab.get d t i else d := by
  induction t with
  | nil => rw [List.filter_nil, Tab.get_nil, ite_self]
  | cons e t ih =>
    obtain ⟨k, v⟩ := e
    simp only [Tab.get] at ih ⊢
    by_cases hk : f k = true
    · rw [List.filter_cons, if_pos hk, Tab.find_cons, Tab.find_cons]
      by_cases hi : k = i
      · subst hi; rw [if_pos rfl, if_pos hk, if_pos rfl]
      · rw [if_neg hi, if_neg hi, ih]
    · rw [List.filter_cons, if_neg hk, ih, Tab.find_cons]
      by_cases hi : k = i
      · subst hi; rw [if_neg hk, if_neg hk]
      · rw [if_neg hi]

/-! ## The commands of family 09 -/

/-- A thread command is checked as a write of its entry and, once admitted, has its operation's effect. -/
theorem threadCommand_spec {c : Instr} {w : Writer} {t : ThreadId} {op addr : Nat} {s : State}
    (hx : exec c s = .next (threadCmd w t op addr s)) (h1 : 1 ≤ op) (h4 : op ≤ 4) (ha : addr < 2 ^ 48) (h2 : op ≠ 2 → addr = 0) :
    Checked c w (coreIdx t.p t.lc) 0x0B 0 (leBytes 8 (threadCmdWord t op addr)) none s ∧
    (Admitted w (coreIdx t.p t.lc) 0x0B 0 (leBytes 8 (threadCmdWord t op addr)) none s →
      exec c s = .next (threadCmdEffect t (BitVec.ofNat 48 addr) s op)) := by
  rw [threadCmd_eq_dictCmd w t op s ha] at hx
  exact ⟨checked_of_dictCmd hx, fun hadm => exec_of_accepted hx hadm (effThreadCmd_eq t s h1 h4 ha h2)⟩

/-- The record that a park of an active thread leaves (09 R249). -/
theorem parkThread_leaves {t : ThreadId} {s : State} (hp : (s.thr (.thr t)).st.parked = false) (hh : (s.thr (.thr t)).st ≠ .halted)
    (hs : (s.thr (.thr t)).st ≠ .sparing) :
    let y := (parkThread t s).thr (.thr t)
    y.st = .parkedSup ∧ y.wait = .none ∧ y.tpc = (s.thr (.thr t)).pc ∧ y.tcause = BitVec.ofNat 64 (2 ^ 63 + 2 ^ 60) ∧
      y.resv = none ∧ y.staged = (s.thr (.thr t)).staged ∧ y.d = (s.thr (.thr t)).d ∧
      ((∀ a b e, (s.thr (.thr t)).wait ≠ .lock a b e) → (parkThread t s).mem = s.mem) := by
  obtain ⟨u, e, ⟨_, _, _, _, own⟩, mem⟩ := parkThread_of_active hp hh hs
  rw [e]
  dsimp only
  rw [State.thr_updThr_self, own]
  exact ⟨rfl, rfl, rfl, rfl, rfl, rfl, rfl, mem⟩

/-- The record that a thread reset leaves (06 R166, R189). -/
theorem resetThread_leaves (t : ThreadId) (s : State) :
    let u := resetThread t s
    (u.thr (.thr t)).st = (if (s.thr (.thr t)).st = .sparing then .sparing
      else if (s.clus t.p t.c).started then .running else .notStarted) ∧
      (u.thr (.thr t)).pc = (s.clus t.p t.c).entry ∧ (∀ g, u.dreg (.thr t) g = 0) ∧ (u.thr (.thr t)).staged = [] ∧
      (u.thr (.thr t)).sb = [] ∧ (u.thr (.thr t)).steps = (s.thr (.thr t)).steps ∧ (u.thr (.thr t)).tpc = (s.thr (.thr t)).tpc := by
  obtain ⟨_, _, _, _, _, e, steps, tpc⟩ := resetThread_thr t s
  dsimp only
  simp only [State.dreg, e]
  refine ⟨?_, rfl, fun _ => rfl, rfl, rfl, steps, tpc⟩
  simp only [Thread.cleared, startState, beq_iff_eq]

/-- A write of a participation mask that stands changes the mask alone; one that changes it ends the suppression of the groups that
the core's threads may be in (09 R266). -/
theorem participationMask_leaves (q : Petal) (lc : Fin 48) (b : BitVec 8) (s : State) :
    ∃ u, effPart q (coreIdx q lc.val) (leBytes 1 b.toNat) s = .ok u ∧ u.dget (coreIdx q lc.val) 0x0A = b.toNat ∧
      (s.dget (coreIdx q lc.val) 0x0A = b.toNat → u.census = s.census) ∧
      (s.dget (coreIdx q lc.val) 0x0A ≠ b.toNat → ∀ g, g = 7 ∨ g = lc.val / 8 → Tab.get 0 u.census (8 * q.val + g) = 0) ∧
      (∀ g, g < 7 → g ≠ lc.val / 8 → Tab.get 0 u.census (8 * q.val + g) = Tab.get 0 s.census (8 * q.val + g)) ∧ u.mem = s.mem := by
  refine ⟨_, effPart_eq q lc b s, ?_⟩
  have written := State.dget_dset_self s (coreIdx q lc.val) 0x0A b.toNat
  by_cases h : b.toNat = s.dget (coreIdx q lc.val) 0x0A
  · rw [if_pos h]
    exact ⟨written, fun _ => rfl, fun hne => absurd h.symm hne, fun _ _ _ => rfl, rfl⟩
  · rw [if_neg h]
    refine ⟨written, fun e => absurd e.symm h, fun _ g hg => ?_, fun g h7 hg => ?_, rfl⟩
    · have hmine : (!groupKeys q lc (8 * q.val + g)) = false := by
        simp only [groupKeys, Bool.not_eq_false', Bool.or_eq_true, beq_iff_eq]
        omega
      dsimp only
      rw [Tab.get_filter_keys 0 (fun k => !groupKeys q lc k), hmine, if_neg Bool.false_ne_true]
    · have hother : (!groupKeys q lc (8 * q.val + g)) = true := by
        simp only [groupKeys, Bool.not_eq_true', Bool.or_eq_false_iff, beq_eq_false_iff_ne]
        omega
      dsimp only
      rw [Tab.get_filter_keys 0 (fun k => !groupKeys q lc k), if_pos hother]

theorem waitGroupScope_leaves (b : BitVec 8) (s : State) :
    ∃ u, effScope (leBytes 1 b.toNat) s = .ok u ∧ u.dget 0x2040 1 = b.toNat ∧
      u.census = (if s.dget 0x2040 1 = b.toNat then s.census else []) ∧ u.mem = s.mem := by
  refine ⟨_, effScope_eq b s, ?_⟩
  have written := State.dget_dset_self s 0x2040 1 b.toNat
  by_cases h : b.toNat = s.dget 0x2040 1
  · rw [if_pos h, if_pos h.symm]
    exact ⟨written, rfl, rfl⟩
  · rw [if_neg h, if_neg (fun e => h e.symm)]
    exact ⟨written, rfl, rfl⟩

/-- Settles O50: each command is a dictionary write or an evaluation whose effect one of the lemmas above states. -/
theorem threadAndChannelCommands : Obligations.ThreadAndChannelCommands := by
  unfold Obligations.ThreadAndChannelCommands
  intro w t addr k sub v hdr p off data ch m words cl x s
  refine ⟨?threads, ?shares, ?bindings, ?holds, ?commands, ?posts, ?census, ?masks⟩
  case threads =>
    obtain ⟨checkedResume, resume⟩ := threadCommand_spec (c := .threadCommandResume w t) (s := s) (op := 1) (addr := 0) rfl
      (by decide) (by decide) (by decide) (fun _ => rfl)
    obtain ⟨checkedAt, resumeAt⟩ := threadCommand_spec (c := .threadCommandResumeAt w t addr) (s := s) (op := 2) rfl
      (by decide) (by decide) addr.isLt (fun h => absurd rfl h)
    obtain ⟨checkedPark, park⟩ := threadCommand_spec (c := .threadCommandPark w t) (s := s) (op := 3) (addr := 0) rfl
      (by decide) (by decide) (by decide) (fun _ => rfl)
    obtain ⟨checkedReset, reset⟩ := threadCommand_spec (c := .threadCommandReset w t) (s := s) (op := 4) (addr := 0) rfl
      (by decide) (by decide) (by decide) (fun _ => rfl)
    rw [BitVec.ofNat_toNat, BitVec.setWidth_eq] at resumeAt
    refine ⟨checkedResume, checkedAt, checkedPark, checkedReset, fun ha => ⟨fun hp => ?_, fun hp => ?_⟩,
      fun ha => ⟨fun hp => ?_, fun hp => ?_⟩, fun ha => ⟨fun hp => ?_, fun hs => ?_, fun hp hh hs => ?_⟩,
      fun ha => ⟨_, reset ha, resetThread_leaves t s⟩⟩
    · exact (resume ha).trans (congrArg _ (resumeThread_of_parked none hp))
    · exact (resume ha).trans (congrArg _ (resumeThread_of_unparked none hp))
    · exact (resumeAt ha).trans (congrArg _ (resumeThread_of_parked (some addr) hp))
    · exact (resumeAt ha).trans (congrArg _ (resumeThread_of_unparked (some addr) hp))
    · exact (park ha).trans (congrArg _ (parkThread_of_parked hp))
    · exact (park ha).trans (congrArg _ (parkThread_of_stopped hs))
    · exact ⟨_, park ha, parkThread_leaves hp hh hs⟩
  case shares =>
    intro n i d c
    have hx : exec c s = .next (dictCmd w i n 0 d none (effShare k n d) s) := rfl
    have hword : n < 9 → leNat d = v.toNat := fun hn => by
      simp only [d, if_neg (Nat.ne_of_lt hn), leNat_leBytes_word]
    refine ⟨checked_of_dictCmd hx, fun ha => ⟨fun hn hlt => ?_, fun hf => ?_, ?_, fun hn hle h16 h8 hf => ?_⟩⟩
    · rw [← hword hn] at hlt
      exact refused_of_error hx ha (effShare_of_floor_above_ceiling (Nat.ne_of_lt hn) hlt)
    · exact refused_of_error hx ha (effShare_of_unfit hf)
    · exact (effShare_whole k n d s).imp (exec_of_accepted hx ha) (refused_of_error hx ha)
    · rw [← hword hn] at hle h16 h8
      exact exec_of_accepted hx ha (effShare_of_good (Nat.ne_of_lt hn) hle h16 h8 hf)
  case bindings =>
    intro i c n rec_
    have hx : exec c s = .next (dictCmd w i 0 off data none (effBinding p off data) s) := rfl
    refine ⟨checked_of_dictCmd hx, fun ha => ⟨fun hr => refused_of_error hx ha (effBinding_of_reserved hr), fun hfree => ?_⟩⟩
    obtain ⟨busy, free⟩ := effBinding_of_unreserved (s := s) hfree
    exact ⟨fun h => refused_of_error hx ha (busy h), fun h => exec_of_accepted hx ha (free h)⟩
  case holds =>
    intro c e
    refine ⟨fun y hy hr hst => ?_, execChannelHoldExpiry_quiet⟩
    obtain ⟨u, hu, hchan, hmem⟩ := execChannelHoldExpiry_reports hy hr hst
    exact ⟨u, hu, by rw [hchan], by rw [hchan], by rw [hchan], hmem⟩
  case commands =>
    intro i n d1 d2 c1 c2
    have hx1 : exec c1 s = .next (dictCmd w i 1 0 d1 none (effChannelCmd p d1) s) := rfl
    have hx2 : exec c2 s = .next (dictCmd w i 1 0 d2 none (effChannelCmd p d2) s) := rfl
    refine ⟨checked_of_dictCmd hx1, checked_of_dictCmd hx2, fun ha => ⟨fun hm => ?_, fun y hy => ?_⟩, fun ha => ?_⟩
    · exact refused_of_error hx1 ha (effChannelCmd_discard_unnamed m.isLt ch.isLt hm)
    · obtain ⟨accepted, denied⟩ := effChannelCmd_discard_named (p := p) (s := s) m.isLt ch.isLt hy
      exact ⟨fun h => refused_of_error hx1 ha (denied h), fun h hw =>
        ⟨_, exec_of_accepted hx1 ha (accepted h), discarded_spec hy hw⟩⟩
    · refine ⟨_, exec_of_accepted hx2 ha (effChannelCmd_flush ch.isLt),
        ((updChan_messaged _ _ _ _).trans (slotFreed_messaged _ _ _)).mem, fun hfree => ?_⟩
      have flushed := State.chan_updChan_self s p n (fun c => { c with fifo := [], times := [] })
      rw [slotFreed_of_unheld (by rw [flushed]; exact hfree), flushed]
  case posts =>
    intro i n g d c ok
    have hx : exec c s = .next (dictCmd w i 2 0 d none (effPost p d) s) := rfl
    refine ⟨checked_of_dictCmd hx, fun ha => ⟨fun h => refused_of_error hx ha (effPost_of_malformed h), fun h he => ?_,
      fun h he hfull => ?_, fun h he hroom hidle => ?_⟩, fun y rd n' hst hw he l => stuck_of_ext hst hw he⟩
    · exact refused_of_error hx ha ((effPost_of_formed h).trans (if_pos (by rw [he]; rfl)))
    · exact refused_of_error hx ha ((effPost_of_formed h).trans ((if_neg (by rw [he]; exact Bool.false_ne_true)).trans (if_pos hfull)))
    · refine exec_of_accepted hx ha ((effPost_of_formed h).trans ((if_neg (by rw [he]; exact Bool.false_ne_true)).trans
        ((if_neg (Nat.not_le.mpr hroom)).trans (congrArg _ (wakeRecv_eq_self hidle)))))
  case census =>
    intro g key stamp e
    refine ⟨execWaitCensusEvaluation_quiet rfl, fun hhalt hne hstamp hstuck => ?_⟩
    obtain ⟨u, hu, declared⟩ := execWaitCensusEvaluation_declares rfl hhalt hne hstamp hstuck
    exact ⟨u, hu, by rw [declared.census]; exact Tab.get_put_self _ _ _ _, declared.mem, declared.states⟩
  case masks =>
    cases x with
    | mask q lc b =>
      have hx : exec (.participationMaskWrite w (.mask q lc b)) s = .next (dictCmd w (coreIdx q lc.val) 0x0A 0 (leBytes 1 b.toNat) none
        (effPart q (coreIdx q lc.val) (leBytes 1 b.toNat)) s) := rfl
      obtain ⟨u, he, leaves⟩ := participationMask_leaves q lc b s
      exact ⟨checked_of_dictCmd hx, fun ha => ⟨u, exec_of_accepted hx ha he, leaves⟩⟩
    | scope b =>
      have hx : exec (.participationMaskWrite w (.scope b)) s = .next (dictCmd w 0x2040 1 0 (leBytes 1 b.toNat) none
        (effScope (leBytes 1 b.toNat)) s) := rfl
      obtain ⟨u, he, leaves⟩ := waitGroupScope_leaves b s
      exact ⟨checked_of_dictCmd hx, fun ha => ⟨u, exec_of_accepted hx ha he, leaves⟩⟩

end Sys2Proof.Machine

/-! # SDO over CAN FD (16 R425, R428 to R431, R436)

Each request frame goes to the handler of its command specifier; what each handler answers is said once, and the obligation of
family 16 follows. -/

namespace Sys2Proof.Machine

/-! ## The end of a transfer and the server's abort (16 R429, R430) -/

/-- A transfer that ends is forgotten; the end of a DOMAIN transfer also puts its offset and length back at 0. -/
theorem sdoEnd_cases (s : State) : sdoEnd s = { s with sdo := none } ∨
    sdoEnd s = (({ s with sdo := none } : State).dset 0x1E10 4 0).dset 0x1E10 5 0 := by
  unfold sdoEnd
  split
  next h =>
    cases s
    cases h
    exact .inl rfl
  next => split <;> simp

@[simp] theorem sdoEnd_sdo (s : State) : (sdoEnd s).sdo = none := by
  obtain h | h := sdoEnd_cases s <;> simp only [h, State.dset_sdo]

@[simp] theorem sdoEnd_mem (s : State) : (sdoEnd s).mem = s.mem := by
  obtain h | h := sdoEnd_cases s <;> simp only [h, State.dset_mem]

@[simp] theorem sdoEnd_out (s : State) : (sdoEnd s).out = s.out := by
  obtain h | h := sdoEnd_cases s <;> simp only [h, State.dset_out]

/-- The end of a transfer changes no entry but the offset and length of a DOMAIN transfer. -/
theorem sdoEnd_dget (s : State) {i j : Nat} (h4 : dk i j ≠ dk 0x1E10 4) (h5 : dk i j ≠ dk 0x1E10 5) :
    (sdoEnd s).dget i j = s.dget i j := by
  obtain h | h := sdoEnd_cases s <;> rw [h]
  · rfl
  · rw [State.dget_dset_ne _ _ h5, State.dget_dset_ne _ _ h4]
    rfl

/-- An abort is counted at 0x1E10.07. -/
theorem sdoAbort_count (big : Bool) (i j : Nat) (c : Abort) (s : State) :
    (sdoAbort big i j c s).dget 0x1E10 7 = (s.dget 0x1E10 7 + 1) % 2 ^ 64 := by
  rw [sdoAbort, sdoEnd_dget _ (by decide) (by decide), State.dget_bump_self]
  rfl

/-- An abort answers the client with its frame. -/
theorem sdoAbort_answers (big : Bool) (i j : Nat) (c : Abort) (s : State) :
    Output.can (0x580 + s.dget 0x1E10 1) (fit (if big then 64 else 8) (sdoHead 0x80 i j ++ leBytes 4 c.toNat)) ∈
      (sdoAbort big i j c s).out := by
  rw [sdoAbort, sdoEnd_out]
  exact List.mem_cons_self

/-! ## From a frame to its handler (16 R428, R429) -/

/-- The five commands of a request frame all hand it to the server. -/
theorem exec_sdoRequest {c : Instr} {f : List Byte} {s u : State}
    (hc : c ∈ [Instr.sdoInitiateDownload f, .sdoDownloadSegment f, .sdoInitiateUpload f, .sdoUploadSegment f, .sdoAbort f])
    (hu : sdoFrame f s = u) : exec c s = .next u := by
  subst hu
  simp only [List.mem_cons, List.not_mem_nil, or_false] at hc
  obtain rfl | rfl | rfl | rfl | rfl := hc <;> rfl

theorem sdoFrame_unserved {f : List Byte} {s : State} (h : canServed s = false) : sdoFrame f s = s := by
  simp [sdoFrame, h]

theorem sdoFrame_badLength {f : List Byte} {s : State} (hserved : canServed s = true) (h8 : f.length ≠ 8) (h64 : f.length ≠ 64)
    (hclosed : s.sdo = none) : sdoFrame f s = sdoAbort false 0 0 0x05040001 (s.bump 0x1E10 8) := by
  simp [sdoFrame, hserved, h8, h64, hclosed]

section Handler

variable {big : Bool} {f : List Byte} {s : State} (hserved : canServed s = true) (hlen : f.length = if big then 64 else 8)

include hlen in
/-- A frame of either length is not refused for it, and the length tells the segment form. -/
theorem sdoLength_good : (f.length ≠ 8 && f.length ≠ 64) = false ∧ (f.length == 64) = big := by
  cases big <;> simp [hlen]

include hserved hlen

/-- The first four command specifiers name the segments and the initiations of the two directions; the handler's state is the next. -/
theorem exec_sdoRequest_handled :
    (∀ {u}, leNat (slice f 0 1) / 32 = 0 → sdoSegDown big f s = u → exec (.sdoDownloadSegment f) s = .next u) ∧
    (∀ {u}, leNat (slice f 0 1) / 32 = 1 → sdoInitDown big f s = u → exec (.sdoInitiateDownload f) s = .next u) ∧
    (∀ {u}, leNat (slice f 0 1) / 32 = 2 → sdoInitUp big f s = u → exec (.sdoInitiateUpload f) s = .next u) ∧
    (∀ {u}, leNat (slice f 0 1) / 32 = 3 → sdoSegUp big f s = u → exec (.sdoUploadSegment f) s = .next u) := by
  obtain ⟨good, form⟩ := sdoLength_good hlen
  refine ⟨fun h hu => exec_sdoRequest (f := f) (by simp) ?_, fun h hu => exec_sdoRequest (f := f) (by simp) ?_,
    fun h hu => exec_sdoRequest (f := f) (by simp) ?_, fun h hu => exec_sdoRequest (f := f) (by simp) ?_⟩ <;>
  simp only [sdoFrame, hserved, good, form, h, hu, Bool.not_true, Bool.false_eq_true, if_false]

/-- The client's abort ends the transfer (16 R430). -/
theorem sdoFrame_clientAbort (h : leNat (slice f 0 1) = 0x80) : sdoFrame f s = sdoEnd s := by
  obtain ⟨good, -⟩ := sdoLength_good hlen
  simp only [sdoFrame, hserved, good, h, Bool.not_true, Bool.false_eq_true, if_false, if_true]

/-- A command specifier that names no request is aborted. -/
theorem sdoFrame_unknown (h : 4 < leNat (slice f 0 1) / 32 ∨ (leNat (slice f 0 1) / 32 = 4 ∧ leNat (slice f 0 1) ≠ 0x80)) :
    sdoFrame f s = sdoAbort big (leNat (slice f 1 2)) (leNat (slice f 3 1)) 0x05040001 s := by
  obtain ⟨good, form⟩ := sdoLength_good hlen
  simp only [sdoFrame, hserved, good, form, Bool.not_true, Bool.false_eq_true, if_false]
  obtain beyond | ⟨four, other⟩ := h
  · obtain ⟨k, hk⟩ : ∃ k, leNat (slice f 0 1) / 32 = k + 5 := ⟨_, (Nat.sub_add_cancel beyond).symm⟩
    rw [hk]
    rfl
  · rw [four]
    exact if_neg other

end Handler

/-! ## Unused bytes of a frame -/

/-- The bytes of a frame from the `k`th on are 0. -/
def ZeroFrom (f : List Byte) (k : Nat) : Prop := ∀ b ∈ f.drop k, b = (0 : Byte)

theorem any_nonzero_of_zeroFrom {f : List Byte} {k : Nat} (h : ZeroFrom f k) : (f.drop k).any (· ≠ 0) = false := by
  simpa [ZeroFrom] using h

theorem any_nonzero_of_not_zeroFrom {f : List Byte} {k : Nat} (h : ¬ ZeroFrom f k) : (f.drop k).any (· ≠ 0) = true := by
  simpa [ZeroFrom] using h

/-! ## Initiate download (16 R429) -/

section InitiateDownload

variable {big : Bool} {f : List Byte} {s u : State} {c : Abort}

theorem sdoInitDown_expedited_padded (ht : bitOf (leNat (slice f 0 1)) 4 = false) (he : bitOf (leNat (slice f 0 1)) 1 = true)
    (hz : ¬ ZeroFrom f (8 - bitsOf (leNat (slice f 0 1)) 3 2)) :
    sdoInitDown big f s = sdoAbort big (leNat (slice f 1 2)) (leNat (slice f 3 1)) 0x05040001 (sdoEnd s) := by
  simp only [sdoInitDown, ht, he, if_true, any_nonzero_of_not_zeroFrom hz, Bool.or_true]

theorem sdoInitDown_segmented_padded (hcs : leNat (slice f 0 1) = 0x21) (hz : ¬ ZeroFrom f 8) :
    sdoInitDown big f s = sdoAbort big (leNat (slice f 1 2)) (leNat (slice f 3 1)) 0x05040001 (sdoEnd s) := by
  have segmented : bitOf 0x21 1 = false := rfl
  simp only [sdoInitDown, hcs, segmented, Bool.false_eq_true, if_false, any_nonzero_of_not_zeroFrom hz, Bool.or_true, if_true]

/-- A segmented download opens the transfer with its declared size. -/
theorem sdoInitDown_segmented (hcs : leNat (slice f 0 1) = 0x21) (hz : ZeroFrom f 8) :
    sdoInitDown big f s = sdoReply (s.dget 0x1E10 1) big (sdoHead 0x60 (leNat (slice f 1 2)) (leNat (slice f 3 1)))
      { sdoEnd s with
        sdo := some ⟨true, leNat (slice f 1 2), leNat (slice f 3 1), big, leNat (slice f 4 4), [], false⟩ } := by
  have segmented : bitOf 0x21 1 = false ∧ bitOf 0x21 4 = false ∧ bitOf 0x21 0 = true ∧ bitsOf 0x21 3 2 = 0 := by decide
  obtain ⟨e, t, sized, n⟩ := segmented
  simp only [sdoInitDown, hcs, e, t, sized, n, any_nonzero_of_zeroFrom hz, Bool.false_eq_true, if_false, Bool.not_true, Bool.not_false,
    Bool.or_false, Bool.true_and, ne_eq, not_true_eq_false, decide_false]

section Expedited

variable (ht : bitOf (leNat (slice f 0 1)) 4 = false) (he : bitOf (leNat (slice f 0 1)) 1 = true)
  (hz : ZeroFrom f (8 - bitsOf (leNat (slice f 0 1)) 3 2))

include ht he hz

theorem sdoInitDown_expedited_applied
    (ha : sdoApply (leNat (slice f 1 2)) (leNat (slice f 3 1)) (slice f 4 (4 - bitsOf (leNat (slice f 0 1)) 3 2)) (sdoEnd s) =
      (u, 0)) :
    sdoInitDown big f s = sdoReply (s.dget 0x1E10 1) big (sdoHead 0x60 (leNat (slice f 1 2)) (leNat (slice f 3 1)))
      (sdoReset (leNat (slice f 1 2)) (leNat (slice f 3 1)) (u.bump 0x1E10 6)) := by
  simp only [sdoInitDown, ht, he, if_true, any_nonzero_of_zeroFrom hz, ha, Bool.false_eq_true, if_false, Bool.not_true, Bool.false_and,
    Bool.or_false]
  rfl

theorem sdoInitDown_expedited_failed
    (ha : sdoApply (leNat (slice f 1 2)) (leNat (slice f 3 1)) (slice f 4 (4 - bitsOf (leNat (slice f 0 1)) 3 2)) (sdoEnd s) =
      (u, c)) (hc : c ≠ 0) :
    sdoInitDown big f s = sdoReset (leNat (slice f 1 2)) (leNat (slice f 3 1))
      (sdoAbort big (leNat (slice f 1 2)) (leNat (slice f 3 1)) c u) := by
  simp only [sdoInitDown, ht, he, if_true, any_nonzero_of_zeroFrom hz, ha, Bool.false_eq_true, if_false, Bool.not_true, Bool.false_and,
    Bool.or_false]
  split
  next h => exact absurd (congrArg Prod.snd h) hc
  next h => cases h; rfl

end Expedited

/-- The end of an expedited download puts only the offset and length of a DOMAIN transfer back. -/
theorem sdoReset_leaves (i j : Nat) (s : State) : (sdoReset i j s).sdo = none ∧ (sdoReset i j s).mem = s.mem ∧
    (sdoReset i j s).dget 0x1E10 6 = s.dget 0x1E10 6 := by
  refine ⟨sdoEnd_sdo _, sdoEnd_mem _, ?_⟩
  rw [sdoReset, sdoEnd_dget _ (by decide) (by decide)]
  rfl

end InitiateDownload

/-! ## Download segments (16 R429, R430) -/

/-- A segment of either direction needs an open transfer. -/
theorem sdoSeg_closed (big : Bool) (f : List Byte) {s : State} (h : s.sdo = none) :
    sdoSegDown big f s = sdoAbort big 0 0 0x05040001 s ∧ sdoSegUp big f s = sdoAbort big 0 0 0x05040001 s := by
  simp only [sdoSegDown, sdoSegUp, h, and_self]

/-- How many data bytes a download segment carries: a long one fills its frame, or at the last ends the declared size. -/
def segLen (big : Bool) (x : Sdo) (cs : Nat) : Nat :=
  if big then (if bitOf cs 0 then x.size - x.data.length else 63) else 7 - bitsOf cs 3 1

section DownloadSegment

variable {big : Bool} {f : List Byte} {s u : State} {x : Sdo} {c : Abort}
variable (hx : s.sdo = some x) (hbig : x.big = big) (hdown : x.down = true)

include hx hbig hdown

theorem sdoSegDown_wrongToggle (ht : bitOf (leNat (slice f 0 1)) 4 ≠ x.toggle) :
    sdoSegDown big f s = sdoAbort big x.idx x.sub 0x05030000 s := by
  simp only [sdoSegDown, hx, hdown, hbig, ne_eq, ht, not_true_eq_false, decide_false, Bool.not_true, Bool.or_self, Bool.false_eq_true,
    if_false, not_false_eq_true, if_true]

variable (ht : bitOf (leNat (slice f 0 1)) 4 = x.toggle)

include ht

theorem sdoSegDown_padded (hshort : big = false) (hz : ¬ ZeroFrom f (1 + segLen big x (leNat (slice f 0 1)))) :
    sdoSegDown big f s = sdoAbort big x.idx x.sub 0x05040001 s := by
  subst hshort
  have room : ¬ 7 < 7 - bitsOf (leNat (slice f 0 1)) 3 1 := by omega
  simp only [segLen, Bool.false_eq_true, if_false] at hz
  simp only [sdoSegDown, hx, hdown, hbig, ht, ne_eq, not_true_eq_false, decide_false, Bool.not_true, Bool.or_self, Bool.false_eq_true,
    if_false, Bool.false_and, room, any_nonzero_of_not_zeroFrom hz, if_true]

variable (hform : big = true → bitsOf (leNat (slice f 0 1)) 3 1 = 0)
  (hroom : segLen big x (leNat (slice f 0 1)) ≤ if big then 63 else 7) (hz : ZeroFrom f (1 + segLen big x (leNat (slice f 0 1))))

include hform hroom hz

/-- A well-formed segment is collected; one that does not keep to the declared size is aborted; the last has the download applied. -/
theorem sdoSegDown_taken :
    let last := bitOf (leNat (slice f 0 1)) 0
    let all := x.data ++ slice f 1 (segLen big x (leNat (slice f 0 1)))
    let reply := sdoReply (s.dget 0x1E10 1) big (leBytes 1 (0x20 + 16 * b2n (bitOf (leNat (slice f 0 1)) 4)))
    (last = false → all.length ≤ x.size →
      sdoSegDown big f s = reply { s with sdo := some { x with data := all, toggle := !x.toggle } }) ∧
    ((x.size < all.length ∨ (last = true ∧ all.length ≠ x.size)) →
      sdoSegDown big f s = sdoAbort big x.idx x.sub 0x06070010 s) ∧
    (last = true → all.length = x.size →
      (∀ u, sdoApply x.idx x.sub all s = (u, 0) → sdoSegDown big f s = sdoEnd (reply (u.bump 0x1E10 6))) ∧
      (∀ u c, sdoApply x.idx x.sub all s = (u, c) → c ≠ 0 → sdoSegDown big f s = sdoAbort big x.idx x.sub c u)) := by
  have noPad : (big && decide (bitsOf (leNat (slice f 0 1)) 3 1 ≠ 0)) = false := by
    cases big
    · rfl
    · simp only [hform rfl, ne_eq, not_true_eq_false, decide_false, Bool.and_false]
  have carried : (if big = true then if bitOf (leNat (slice f 0 1)) 0 = true then x.size - x.data.length else 63
      else 7 - bitsOf (leNat (slice f 0 1)) 3 1) = segLen big x (leNat (slice f 0 1)) := rfl
  simp only [sdoSegDown, hx, hdown, hbig, ht, carried, noPad, Nat.not_lt.mpr hroom, any_nonzero_of_zeroFrom hz, ne_eq, not_true_eq_false,
    decide_false, Bool.not_true, Bool.or_self, Bool.false_eq_true, if_false]
  generalize x.data ++ slice f 1 (segLen big x (leNat (slice f 0 1))) = all
  refine ⟨fun hlast hsize => ?more, fun hsize => ?unsized, fun hlast hsize => ⟨fun u ha => ?applied, fun u c ha hc => ?failed⟩⟩
  case more => simp only [hlast, Nat.not_lt.mpr hsize, decide_false, Bool.false_and, Bool.or_self, Bool.false_eq_true, if_false]
  case unsized => exact if_pos (by simpa using hsize)
  case applied =>
    simp only [hlast, hsize, ha, Nat.lt_irrefl, not_true_eq_false, decide_false, Bool.and_false, Bool.or_self, Bool.false_eq_true, if_false,
      if_true]
    rfl
  case failed =>
    simp only [hlast, hsize, ha, Nat.lt_irrefl, not_true_eq_false, decide_false, Bool.and_false, Bool.or_self, Bool.false_eq_true, if_false,
      if_true]
    split
    next h => exact absurd (congrArg Prod.snd h) hc
    next h => cases h; rfl

end DownloadSegment

/-! ## Initiate upload (16 R429) -/

section InitiateUpload

variable {big : Bool} {f : List Byte} {s u : State} {c : Abort} {l : List Byte} {e : Scal}

theorem sdoInitUp_malformed (h : ¬ (leNat (slice f 0 1) = 0x40 ∧ ZeroFrom f 4)) :
    sdoInitUp big f s = sdoAbort big (leNat (slice f 1 2)) (leNat (slice f 3 1)) 0x05040001 (sdoEnd s) := by
  refine if_pos ?_
  by_cases hcs : leNat (slice f 0 1) = 0x40
  · rw [any_nonzero_of_not_zeroFrom (fun hz => h ⟨hcs, hz⟩), Bool.or_true]
  · rw [decide_eq_true hcs, Bool.true_or]

variable (hcs : leNat (slice f 0 1) = 0x40) (hz : ZeroFrom f 4) (hdom : isDom (leNat (slice f 1 2)) (leNat (slice f 3 1)) = false)

include hcs hz hdom

theorem sdoInitUp_unread (hr : dictRead .can (leNat (slice f 1 2)) (leNat (slice f 3 1)) 0 0 (sdoEnd s) = (u, .error c)) :
    sdoInitUp big f s = sdoReset (leNat (slice f 1 2)) (leNat (slice f 3 1))
      (sdoAbort big (leNat (slice f 1 2)) (leNat (slice f 3 1)) c u) := by
  simp only [sdoInitUp, hcs, any_nonzero_of_zeroFrom hz, hdom, hr, ne_eq, not_true_eq_false, decide_false, Bool.or_self,
    Bool.false_eq_true, if_false]

variable (hr : dictRead .can (leNat (slice f 1 2)) (leNat (slice f 3 1)) 0 0 (sdoEnd s) = (u, .ok l))
  (hty : (entrySpec (leNat (slice f 1 2)) (leNat (slice f 3 1))).map EntrySpec.ty = some (.scal e))

include hr hty

theorem sdoInitUp_expedited (hsize : e.size ≤ 4) :
    sdoInitUp big f s = sdoReply (s.dget 0x1E10 1) big
      (sdoHead (0x43 + 4 * (4 - l.length)) (leNat (slice f 1 2)) (leNat (slice f 3 1)) ++ l) (u.bump 0x1E10 6) := by
  simp only [sdoInitUp, hcs, any_nonzero_of_zeroFrom hz, hdom, hr, hty, hsize, ne_eq, not_true_eq_false, decide_false, decide_true,
    Bool.or_self, Bool.false_eq_true, if_false, if_true]

/-- An upload in segments opens the transfer with the bytes to be sent. -/
theorem sdoInitUp_segmented (hsize : 4 < e.size) :
    sdoInitUp big f s = sdoReply (s.dget 0x1E10 1) big
      (sdoHead 0x41 (leNat (slice f 1 2)) (leNat (slice f 3 1)) ++ leBytes 4 l.length)
      { u with sdo := some ⟨false, leNat (slice f 1 2), leNat (slice f 3 1), big, l.length, l, false⟩ } := by
  simp only [sdoInitUp, hcs, any_nonzero_of_zeroFrom hz, hdom, hr, hty, Nat.not_le.mpr hsize, ne_eq, not_true_eq_false, decide_false,
    Bool.or_self, Bool.false_eq_true, if_false]

end InitiateUpload

/-! ## Upload segments (16 R429, R430) -/

section UploadSegment

variable {big : Bool} {f : List Byte} {s : State} {x : Sdo}
variable (hx : s.sdo = some x)

include hx

theorem sdoSegUp_padded (hz : ¬ ZeroFrom f 1) : sdoSegUp big f s = sdoAbort big x.idx x.sub 0x05040001 s := by
  simp only [sdoSegUp, hx, any_nonzero_of_not_zeroFrom hz, Bool.or_true, if_true]

variable (hbig : x.big = big) (hup : x.down = false) (hcs : leNat (slice f 0 1) % 16 = 0) (hz : ZeroFrom f 1)

include hbig hup hcs hz

theorem sdoSegUp_wrongToggle (ht : bitOf (leNat (slice f 0 1)) 4 ≠ x.toggle) :
    sdoSegUp big f s = sdoAbort big x.idx x.sub 0x05030000 s := by
  simp only [sdoSegUp, hx, hbig, hup, hcs, ht, any_nonzero_of_zeroFrom hz, ne_eq, not_true_eq_false, not_false_eq_true, decide_false,
    Bool.or_self, Bool.false_eq_true, if_false, if_true]

/-- A segment sends what its frame has room for; the transfer ends with the one that leaves nothing. -/
theorem sdoSegUp_sent (ht : bitOf (leNat (slice f 0 1)) 4 = x.toggle) :
    let room := if big then 63 else 7
    let seg := x.data.take room
    let rest := x.data.drop room
    let reply := sdoReply (s.dget 0x1E10 1) big (leBytes 1 (16 * b2n (bitOf (leNat (slice f 0 1)) 4) +
      (if big then 0 else 2 * (7 - seg.length)) + b2n rest.isEmpty) ++ seg)
    (rest = [] → sdoSegUp big f s = sdoEnd (reply (s.bump 0x1E10 6))) ∧
    (rest ≠ [] → sdoSegUp big f s = reply { s with sdo := some { x with data := rest, toggle := !x.toggle } }) := by
  simp only [sdoSegUp, hx, hbig, hup, hcs, ht, any_nonzero_of_zeroFrom hz, ne_eq, not_true_eq_false, decide_false, Bool.or_self,
    Bool.false_eq_true, if_false]
  exact ⟨fun h => if_pos (List.isEmpty_iff.mpr h), fun h => if_neg (fun he => h (List.isEmpty_iff.mp he))⟩

end UploadSegment

/-! ## The commands of the CAN controller -/

/-- NMT commands are only counted, and a stopped controller hears none (16 R428). -/
theorem execNmtCommand_spec (cob : BitVec 11) (f : List Byte) (s : State) :
    (s.frozen.contains 11 = true → execNmtCommand cob f s = .next s) ∧
    (s.frozen.contains 11 = false → cob = 0 → execNmtCommand cob f s = .next (s.bump 0x1E10 8)) ∧
    (s.frozen.contains 11 = false → cob ≠ 0 → cob.toNat ≠ 0x600 + s.dget 0x1E10 1 → execNmtCommand cob f s = .next s) := by
  unfold execNmtCommand
  refine ⟨fun h => if_pos h, fun h h0 => ?_, fun h h0 hn => ?_⟩
  · rw [if_neg (Bool.eq_false_iff.mp h), if_pos h0]
  · rw [if_neg (Bool.eq_false_iff.mp h), if_neg h0, if_neg hn]

theorem execCanHeartbeat_spec (s : State) :
    ((s.dget 0x1017 0 = 0 ∨ s.frozen.contains 11 = true) → execCanHeartbeat s = .next s) ∧
    (s.dget 0x1017 0 ≠ 0 → s.frozen.contains 11 = false →
      execCanHeartbeat s = .next (s.emit (.can (0x700 + s.dget 0x1E10 1) [5]))) := by
  unfold execCanHeartbeat
  refine ⟨fun h => if_pos ?_, fun h0 hd => if_neg ?_⟩
  · rwa [Bool.or_eq_true, decide_eq_true_eq]
  · rw [decide_eq_false h0, hd]
    exact Bool.false_ne_true

/-- A segment timeout aborts an open transfer (16 R430). -/
theorem execSdoSegmentTimeout_spec (s : State) :
    (s.sdo = none → execSdoSegmentTimeout s = .next s) ∧
    (∀ x, s.sdo = some x → canServed s = true →
      execSdoSegmentTimeout s = .next (sdoAbort x.big x.idx x.sub 0x05040000 s)) := by
  refine ⟨fun h => ?_, fun x h hserved => ?_⟩
  · simp only [execSdoSegmentTimeout, h]
  · simp only [execSdoSegmentTimeout, h, hserved, if_true]

/-- The write grant counts down to 0 and no other entry changes (16 R425). -/
theorem execCanGrantTick_spec (s : State) : ∃ u, execCanGrantTick s = .next u ∧ u.dget 0x1E00 3 = s.dget 0x1E00 3 - 1 ∧
    (∀ a b, b < 256 → (a ≠ 0x1E00 ∨ b ≠ 3) → u.dget a b = s.dget a b) ∧ u.mem = s.mem := by
  refine ⟨_, rfl, State.dget_dset_self .., fun a b hb hne => State.dget_dset_ne _ _ fun hk => ?_, rfl⟩
  obtain ⟨ha, hb⟩ := dk_inj hb (by decide) hk
  exact hne.elim (· ha) (· hb)

/-! ## SDO over CAN FD and the CAN controller -/

/-- Settles O54: a frame goes to the handler of its command specifier, and each handler's answer is one of the lemmas above. -/
theorem sdoOverCan : Obligations.SdoOverCan := by
  unfold Obligations.SdoOverCan
  intro f big on cob s node cs idx sub n t zeroFrom s0 reply frames
  refine ⟨fun h c hc => exec_sdoRequest hc (sdoFrame_unserved h),
    fun hserved h8 h64 hclosed c hc => exec_sdoRequest hc (sdoFrame_badLength hserved h8 h64 hclosed), fun x c i j => ?abort,
    fun hserved hlen => ?served, (execSdoSegmentTimeout_spec s).1, (execSdoSegmentTimeout_spec s).2, ?controller,
    execCanGrantTick_spec s, rfl⟩
  case abort => exact ⟨_, rfl, sdoEnd_sdo _, sdoEnd_mem _, sdoAbort_count .., sdoAbort_answers ..⟩
  case controller =>
    obtain ⟨stopped, counted, other⟩ := execNmtCommand_spec cob f s
    obtain ⟨silent, beat⟩ := execCanHeartbeat_spec s
    exact ⟨stopped, counted, other, silent, beat⟩
  case served =>
    obtain ⟨segDown, initDown, initUp, segUp⟩ := exec_sdoRequest_handled hserved hlen
    refine ⟨fun hcs ht he hz => ⟨fun u ha => ?expedited, fun u c ha hc => ?expeditedFailed⟩, fun hcs hz => ?segmented,
      fun hclosed => ?closed, fun x hx hbig => ⟨fun hcs hdown => ⟨fun ht => ?wrongToggleDown, fun ht => ?download⟩,
        fun hcs hup hmod hz => ⟨fun ht => ?wrongToggleUp, fun ht => ?upload⟩⟩,
      fun hcs hz hdom => ⟨fun u c hr => ?unread, fun u l e hr hty => ⟨fun hsize => ?uploadExpedited,
        fun hsize => ?uploadSegmented⟩⟩,
      fun hunknown c hc => exec_sdoRequest hc (sdoFrame_unknown hserved hlen hunknown), fun hcs ht hpadded => ?downloadPadded,
      fun hcs hbad => ?uploadMalformed, fun x hx _ _ hcs hz => ?segUpPadded, fun x hx hshort hbig hdown hcs ht hz => ?segDownPadded,
      fun hcs => ?clientAbort⟩
    case expedited =>
      obtain ⟨closed, mem, count⟩ := sdoReset_leaves idx sub (u.bump 0x1E10 6)
      exact ⟨_, initDown hcs (sdoInitDown_expedited_applied ht he hz ha), count.trans (State.dget_bump_self ..), mem, closed⟩
    case expeditedFailed => exact initDown hcs (sdoInitDown_expedited_failed ht he hz ha hc)
    case segmented => exact initDown (congrArg (· / 32) hcs) (sdoInitDown_segmented hcs hz)
    case closed =>
      obtain ⟨down, up⟩ := sdoSeg_closed big f hclosed
      exact ⟨fun hcs => segDown hcs down, fun hcs => segUp hcs up⟩
    case wrongToggleDown => exact segDown hcs (sdoSegDown_wrongToggle hx hbig hdown ht)
    case download =>
      intro last m k all hform hroom hz
      obtain ⟨more, unsized, complete⟩ := sdoSegDown_taken hx hbig hdown ht hform hroom hz
      refine ⟨fun hl hs => segDown hcs (more hl hs), fun hs => segDown hcs (unsized hs), fun hl hs => ?_⟩
      obtain ⟨applied, failed⟩ := complete hl hs
      exact ⟨fun u ha => segDown hcs (applied u ha), fun u c ha hc => segDown hcs (failed u c ha hc)⟩
    case wrongToggleUp => exact segUp hcs (sdoSegUp_wrongToggle hx hbig hup hmod hz ht)
    case upload =>
      obtain ⟨final, more⟩ := sdoSegUp_sent hx hbig hup hmod hz ht
      exact ⟨fun h => segUp hcs (final h), fun h => segUp hcs (more h)⟩
    case unread => exact initUp (congrArg (· / 32) hcs) (sdoInitUp_unread hcs hz hdom hr)
    case uploadExpedited => exact initUp (congrArg (· / 32) hcs) (sdoInitUp_expedited hcs hz hdom hr hty hsize)
    case uploadSegmented => exact initUp (congrArg (· / 32) hcs) (sdoInitUp_segmented hcs hz hdom hr hty hsize)
    case downloadPadded =>
      refine initDown hcs ?_
      obtain ⟨he, hz⟩ | ⟨h21, hz⟩ := hpadded
      · exact sdoInitDown_expedited_padded ht he hz
      · exact sdoInitDown_segmented_padded h21 hz
    case uploadMalformed => exact initUp hcs (sdoInitUp_malformed hbad)
    case segUpPadded => exact segUp hcs (sdoSegUp_padded hx hz)
    case segDownPadded =>
      have used : 1 + segLen big x cs = 8 - bitsOf cs 3 1 := by
        have hn : bitsOf cs 3 1 < 8 := Nat.mod_lt _ (by decide)
        rw [segLen, hshort, if_neg Bool.false_ne_true]
        omega
      rw [← used] at hz
      exact segDown hcs (sdoSegDown_padded hx (hbig.trans hshort.symm) hdown ht hshort hz)
    case clientAbort => exact exec_sdoRequest (f := f) (by simp) (sdoFrame_clientAbort hserved hlen hcs)

end Sys2Proof.Machine

/-! # Fault collectors, isolated ports and petal halts (18 R464 to R482)

What the delivery of a raise leaves of the dictionary; what the work that a halt or an isolated port sets off leaves of the halts;
the word that a raise latches; the clearing of a word; and the obligation of family 18 that follows. -/

namespace Sys2Proof.Machine

/-! ## What a delivery leaves of the dictionary (18 R474 to R476) -/

/-- An index that is neither the event log's (18, 0x2400) nor that of a petal's entry. -/
abbrev OffLog (i : Nat) : Prop := i < 0x2400 ∨ 0x4000 ≤ i

/-- `u` is `s` after records have been logged, delivered and counted: of the dictionary only the event log's counts (18) and the
pipelines' (07) have changed, and no further petal is due to halt. -/
structure Posted (s u : State) : Prop where
  haltDue : u.haltDue = s.haltDue
  dget : ∀ i j, j < 256 → OffLog i → u.dget i j = s.dget i j

theorem Posted.refl (s : State) : Posted s s := ⟨rfl, fun _ _ _ _ => rfl⟩

theorem Posted.trans {s u v : State} (a : Posted s u) (b : Posted u v) : Posted s v :=
  ⟨b.haltDue.trans a.haltDue, fun i j hj hi => (b.dget i j hj hi).trans (a.dget i j hj hi)⟩

theorem Posted.ite {s u v : State} {c : Prop} [Decidable c] (a : Posted s u) (b : Posted s v) : Posted s (if c then u else v) := by
  split
  · exact a
  · exact b

theorem posted_of_dict {s u : State} (hh : u.haltDue = s.haltDue) (hd : u.dict = s.dict) : Posted s u :=
  ⟨hh, fun i j _ _ => by rw [State.dget, hd, State.dget]⟩

/-- A change beside the dictionary, and then a delivery. -/
theorem Posted.after {s v u : State} (a : Posted v u) (hh : v.haltDue = s.haltDue) (hd : v.dict = s.dict) : Posted s u :=
  (posted_of_dict hh hd).trans a

theorem domWrite_posted (i j o : Nat) (l : List Byte) (s : State) : Posted s (s.domWrite i j o l) :=
  posted_of_dict (State.domWrite_haltDue ..) (State.domWrite_dict ..)

/-- A count of the event log or of a petal's entry. -/
theorem bump_posted {i j : Nat} (s : State) (hi : 0x2400 ≤ i ∧ i < 0x4000) (hj : j < 256) : Posted s (s.bump i j) :=
  ⟨rfl, fun _ _ ha hout => State.dget_bump_ne s fun h => by have := (dk_inj ha hj h).1; omega⟩

theorem pipeIdx_bounds (p : Petal) (c : Cluster) : 0x2400 ≤ pipeIdx p c ∧ pipeIdx p c < 0x4000 := by
  have := p.isLt
  have := c.isLt
  unfold pipeIdx
  omega

theorem waitDone_posted (h : Hart) (s : State) : Posted s (waitDone h s) := by
  cases h with
  | golne => exact posted_of_dict rfl rfl
  | thr t =>
    have counted : Posted s ((s.updThr (.thr t) Thread.doneWait).bump (pipeIdx t.p t.c) 2) :=
      (bump_posted _ (pipeIdx_bounds t.p t.c) (by decide)).after rfl rfl
    exact .ite (counted.trans (posted_of_dict rfl rfl)) counted

theorem wakeEvent_posted (h : Hart) (s : State) : Posted s (wakeEvent h s) := by
  unfold wakeEvent
  dsimp only
  split
  · exact (waitDone_posted h _).after rfl rfl
  · exact .refl s

theorem pushEv_posted (h : Hart) (src syn : Nat) (s : State) : Posted s (pushEv h src syn s).1 := by
  unfold pushEv
  dsimp only
  split
  · exact posted_of_dict rfl rfl
  · split
    · exact (wakeEvent_posted h _).after rfl rfl
    · exact bump_posted s (by decide) (by decide)

theorem pushFaultNote_posted (t : ThreadId) (cause : Nat) (s : State) : Posted s (pushFaultNote t cause s) :=
  (wakeEvent_posted _ _).after rfl rfl

theorem logEvent_posted (src syn : Nat) (s : State) : Posted s (logEvent src syn s) :=
  (domWrite_posted _ _ _ _ s).trans (bump_posted _ (by decide) (by decide))

theorem queueFull_posted (owner : Nat) (s : State) : Posted s (queueFull owner s) := by
  have counted : Posted s (countSource 0x14E (s.winBump 0x14E00000)) := (domWrite_posted _ _ _ _ _).after rfl rfl
  unfold queueFull
  dsimp only
  exact .ite (.refl s) ((Posted.ite (counted.trans (logEvent_posted _ _ _)) counted).trans (pushEv_posted _ _ _ _))

theorem deliver_posted (h : Hart) (src syn : Nat) (s : State) : Posted s (deliver h src syn s) :=
  .ite ((pushEv_posted h src syn s).trans (queueFull_posted _ _)) (pushEv_posted h src syn s)

theorem msix_posted (fn vec : Nat) (s : State) : Posted s (msix fn vec s) :=
  .ite (posted_of_dict rfl rfl) (.ite (.refl s) (posted_of_dict rfl rfl))

theorem route_posted (src syn : Nat) (s : State) : Posted s (route src syn s) := by
  unfold route
  dsimp only
  generalize s.domNat 0x2400 0 (src * 8) 8 = e
  have logged : Posted s (if bitOf e 61 = true then logEvent src syn s else s) := .ite (logEvent_posted _ _ _) (.refl s)
  generalize (if bitOf e 61 = true then logEvent src syn s else s) = a at logged ⊢
  have told : Posted s (if bitOf e 62 = true then deliver .golne src syn a else a) := .ite (logged.trans (deliver_posted _ _ _ _)) logged
  generalize (if bitOf e 62 = true then deliver .golne src syn a else a) = b at told ⊢
  have owned : Posted s (if bitOf e 63 = true then
      match threadOf (e % 2 ^ 16) with
      | some t => deliver (.thr t) src syn b
      | none => b
    else b) := by
    split
    · split
      · exact told.trans (deliver_posted _ _ _ _)
      · exact told
    · exact told
  exact .ite (owned.trans (msix_posted _ _ _)) owned

/-! ## What a collector latches (18 R465 to R470) -/

theorem showLists_posted (c : Collector) (s : State) : Posted s (showLists c s) := by
  have shown : ∀ j n l u, Posted u ((u.domClear (collIdx c) j 0 n).domWrite (collIdx c) j 0 l) := fun _ _ _ _ =>
    (domWrite_posted _ _ _ _ _).after rfl rfl
  unfold showLists
  exact .trans (shown _ _ _ _) (shown _ _ _ _)

/-- Listing a word counts at most a lost entry (sub 0x0A). -/
theorem latchList_cases (c : Collector) (kind nw : Nat) (own : Bool) (s : State) :
    Posted s (latchList c kind nw own s).1 ∨ (latchList c kind nw own s).1 = s.bump (collIdx c) 0x0A := by
  unfold latchList
  dsimp only
  generalize (if kind = 2 then (s.coll c).ucc else (s.coll c).fatal) = l
  split
  · exact .inl (.refl s)
  · split
    · exact .inl ((showLists_posted _ _).after rfl rfl)
    · exact .inr rfl

/-- A class's status word after a raise: a valid one is marked as overflowed (18 R466, R467). -/
def latchedWord (w kind src syn time : Nat) : Nat := if bitOf w 63 then w ||| 2 ^ 62 else statusWord kind src syn time

/-- A latch writes its class's word, and then changes timers and lists and counts at most a lost entry. -/
theorem latch_cases (c : Collector) (kind src syn : Nat) (own : Bool) (s : State) :
    ∃ u, Posted (s.dset (collIdx c) kind (latchedWord (s.dget (collIdx c) kind) kind src syn s.time)) u ∧
      ((latch c kind src syn own s).1 = u ∨ (latch c kind src syn own s).1 = u.bump (collIdx c) 0x0A) := by
  unfold latch latchedWord
  dsimp only
  rw [apply_ite (s.dset (collIdx c) kind)]
  generalize (if bitOf (s.dget (collIdx c) kind) 63 = true then _ else _ : State) = v
  generalize (c != Collector.device && _ || _ : Bool) = starts
  have timed : Posted v (if starts = true then startTimer c kind v else v) := .ite (posted_of_dict rfl rfl) (.refl v)
  obtain listed | lost := latchList_cases c kind (statusWord kind src syn s.time) own (if starts = true then startTimer c kind v else v)
  · exact ⟨_, timed.trans listed, .inl rfl⟩
  · exact ⟨_, timed, .inr lost⟩

theorem collIdx_lt (c : Collector) : collIdx c < 0x2400 := by
  cases c with
  | device => decide
  | petal p => have := p.isLt; simp only [collIdx]; omega

theorem latch_haltDue (c : Collector) (kind src syn : Nat) (own : Bool) (s : State) :
    (latch c kind src syn own s).1.haltDue = s.haltDue := by
  obtain ⟨u, posted, e | e⟩ := latch_cases c kind src syn own s
  · rw [e, posted.haltDue, State.dset_haltDue]
  · rw [e, State.bump_haltDue, posted.haltDue, State.dset_haltDue]

/-- A latch leaves the words of other classes and of other collectors. -/
theorem latch_dget_ne {c : Collector} {kind i j : Nat} (src syn : Nat) (own : Bool) (s : State) (hkind : kind < 4) (hj : j < 256)
    (hi : OffLog i) (hc : i = collIdx c → j ≠ kind ∧ j ≠ 0x0A) :
    (latch c kind src syn own s).1.dget i j = s.dget i j := by
  obtain ⟨u, posted, cases⟩ := latch_cases c kind src syn own s
  have word : u.dget i j = s.dget i j := by
    rw [posted.dget i j hj hi, State.dget_dset_ne]
    intro h
    obtain ⟨index, sub⟩ := dk_inj hj (by omega) h
    exact (hc index).1 sub
  obtain e | e := cases
  · rw [e, word]
  · rw [e, State.dget_bump_ne, word]
    intro h
    obtain ⟨index, sub⟩ := dk_inj hj (by omega) h
    exact (hc index).2 sub

/-- A latch writes the word of its class. -/
theorem latch_dget_self (c : Collector) {kind : Nat} (src syn : Nat) (own : Bool) (s : State) (hkind : kind < 4) :
    (latch c kind src syn own s).1.dget (collIdx c) kind = latchedWord (s.dget (collIdx c) kind) kind src syn s.time := by
  obtain ⟨u, posted, cases⟩ := latch_cases c kind src syn own s
  have word := posted.dget (collIdx c) kind (by omega) (.inl (collIdx_lt c))
  rw [State.dget_dset_self] at word
  obtain e | e := cases
  · rw [e, word]
  · rw [e, State.dget_bump_ne, word]
    intro h
    have := (dk_inj (by omega) (by decide) h).2
    omega

/-! ## What one raise latches (18 R464 to R473) -/

theorem srcKind_lt (src : Nat) : srcKind src < 4 := by
  unfold srcKind
  split
  · decide
  · split
    · decide
    · split <;> decide

section Delivered

variable {s u : State}

theorem Delivered.time (a : Delivered s u) : u.time = s.time := by
  obtain ⟨_, _, _, _, _, _, _, _, _, rfl⟩ := a.rest; rfl

theorem Delivered.mem (a : Delivered s u) : u.mem = s.mem := by
  obtain ⟨_, _, _, _, _, _, _, _, _, rfl⟩ := a.rest; rfl

theorem Delivered.cow (a : Delivered s u) : u.cow = s.cow := by
  obtain ⟨_, _, _, _, _, _, _, _, _, rfl⟩ := a.rest; rfl

theorem Delivered.halts (a : Delivered s u) : u.halts = s.halts := by
  obtain ⟨_, _, _, _, _, _, _, _, _, rfl⟩ := a.rest; rfl

theorem Delivered.isoPorts (a : Delivered s u) : u.isoPorts = s.isoPorts := by
  obtain ⟨_, _, _, _, _, _, _, _, _, rfl⟩ := a.rest; rfl

theorem Delivered.pet (a : Delivered s u) (p : Petal) : u.pet p = s.pet p := by
  obtain ⟨_, _, _, _, _, _, _, _, _, rfl⟩ := a.rest; rfl

end Delivered

/-- A raise counted, with its detail written. -/
def raiseCounted (src : Nat) (detail : List Byte) (s : State) : State :=
  (countSource src s).domWrite 0x2400 5 (src * 16) ((detail ++ List.replicate 16 0).take 16)

theorem raiseCounted_posted (src : Nat) (detail : List Byte) (s : State) : Posted s (raiseCounted src detail s) :=
  (domWrite_posted _ _ _ _ s).trans (domWrite_posted _ _ _ _ _)

theorem raiseCounted_delivered (src : Nat) (detail : List Byte) (s : State) : Delivered s (raiseCounted src detail s) :=
  (countSource_delivered src s).trans (.domWrite _ _ _ _ _)

/-- A petal that runs is due to halt once its FATAL source is raised (18 R477). -/
def dueHalt (p : Petal) (kind : Nat) (s : State) : State :=
  if kind = 3 && !s.haltDue.contains p.val && Tab.get 0 s.halts p.val == 0 then { s with haltDue := s.haltDue ++ [p.val] } else s

theorem dueHalt_dget (p : Petal) (kind i j : Nat) (s : State) : (dueHalt p kind s).dget i j = s.dget i j := by
  unfold dueHalt
  split <;> rfl

theorem dueHalt_mem {p : Petal} {kind q : Nat} {s : State} (h : q ∈ (dueHalt p kind s).haltDue) :
    q ∈ s.haltDue ∨ Tab.get 0 s.halts q = 0 := by
  unfold dueHalt at h
  split at h
  · next hd =>
    obtain ⟨-, running⟩ := Bool.and_eq_true_iff.mp hd
    obtain h | h := List.mem_append.mp h
    · exact .inl h
    · rw [List.mem_singleton.mp h]
      exact .inr (beq_iff_eq.mp running)
  · exact .inl h

section RaiseOne

variable {src : Nat} (syn : Nat) (org : Option Petal) (p : Petal) (detail : List Byte) (s : State)

/-- An event without a class latches nothing. -/
theorem raiseOne_of_event (hk : srcKind src = 0) :
    raiseOne src syn org detail s = (route src syn (raiseCounted src detail s), false) := by
  simp only [raiseOne, hk, if_true, raiseCounted]

/-- An error of a stem unit is latched by the device collector, as its own. -/
theorem raiseOne_of_stem (hk : srcKind src ≠ 0) : (raiseOne src syn none detail s).1 =
    route src syn (latch .device (srcKind src) src syn true (raiseCounted src detail s)).1 := by
  simp only [raiseOne, hk, if_false, raiseCounted]

/-- An error of a petal's unit is latched by the petal's collector and by the device collector. -/
theorem raiseOne_of_petal (hk : srcKind src ≠ 0) : (raiseOne src syn (some p) detail s).1 =
    route src syn (dueHalt p (srcKind src) (latch .device (srcKind src) src syn false
      (latch (.petal p) (srcKind src) src syn true (raiseCounted src detail s)).1).1) := by
  unfold raiseOne dueHalt
  simp only [if_neg hk]
  rfl

/-- A raise leaves every entry but the event log's, the pipelines', the words of its class and the counts of lost entries. -/
theorem raiseOne_dget_ne {i j : Nat} (hj : j < 256) (hi : OffLog i)
    (hc : ∀ c, i = collIdx c → j ≠ srcKind src ∧ j ≠ 0x0A) : (raiseOne src syn org detail s).1.dget i j = s.dget i j := by
  have counted := (raiseCounted_posted src detail s).dget i j hj hi
  by_cases hk : srcKind src = 0
  · rw [raiseOne_of_event syn org detail s hk, (route_posted _ _ _).dget i j hj hi, counted]
  · cases org with
    | none =>
      rw [raiseOne_of_stem syn detail s hk, (route_posted _ _ _).dget i j hj hi,
        latch_dget_ne _ _ _ _ (srcKind_lt src) hj hi (hc _), counted]
    | some p =>
      rw [raiseOne_of_petal syn p detail s hk, (route_posted _ _ _).dget i j hj hi, dueHalt_dget,
        latch_dget_ne _ _ _ _ (srcKind_lt src) hj hi (hc _), latch_dget_ne _ _ _ _ (srcKind_lt src) hj hi (hc _), counted]

/-- A raise of a class writes the device collector's word of that class. -/
theorem raiseOne_dget_device (hk : srcKind src ≠ 0) : (raiseOne src syn org detail s).1.dget 0x2200 (srcKind src) =
    latchedWord (s.dget 0x2200 (srcKind src)) (srcKind src) src syn s.time := by
  have hlt := srcKind_lt src
  have hj : srcKind src < 256 := by omega
  have hi : OffLog 0x2200 := by decide
  have counted := (raiseCounted_posted src detail s).dget 0x2200 (srcKind src) hj hi
  have time := (raiseCounted_delivered src detail s).time
  have word := fun own u => latch_dget_self .device src syn own u hlt
  rw [collIdx] at word
  cases org with
  | none => rw [raiseOne_of_stem syn detail s hk, (route_posted _ _ _).dget _ _ hj hi, word, counted, time]
  | some p =>
    have other : 0x2200 = collIdx (.petal p) → srcKind src ≠ srcKind src ∧ srcKind src ≠ 0x0A := by rw [collIdx]; omega
    rw [raiseOne_of_petal syn p detail s hk, (route_posted _ _ _).dget _ _ hj hi, dueHalt_dget, word,
      latch_dget_ne _ _ _ _ hlt hj hi other, (latch_delivered _ _ _ _ _ _).time, counted, time]

/-- A raise makes no halted petal due to halt. -/
theorem raiseOne_haltDue {q : Nat} (h : q ∈ (raiseOne src syn org detail s).1.haltDue) :
    q ∈ s.haltDue ∨ Tab.get 0 s.halts q = 0 := by
  have counted := (raiseCounted_posted src detail s).haltDue
  by_cases hk : srcKind src = 0
  · rw [raiseOne_of_event syn org detail s hk, (route_posted _ _ _).haltDue, counted] at h
    exact .inl h
  · cases org with
    | none =>
      rw [raiseOne_of_stem syn detail s hk, (route_posted _ _ _).haltDue, latch_haltDue, counted] at h
      exact .inl h
    | some p =>
      have latched := (raiseCounted_delivered src detail s).trans ((latch_delivered (.petal p) (srcKind src) src syn true _).trans
        (latch_delivered .device (srcKind src) src syn false _))
      rw [raiseOne_of_petal syn p detail s hk, (route_posted _ _ _).haltDue] at h
      have due := dueHalt_mem h
      rwa [latch_haltDue, latch_haltDue, counted, latched.halts] at due

end RaiseOne

/-- The source of a petal's FATAL raises is of class FATAL. -/
theorem srcKind_fatal (p : Petal) : srcKind (0x140 + p.val) = 3 := by
  revert p
  decide

section Raise

variable (src syn : Nat) (org : Option Petal) (detail : List Byte) (s : State)

/-- What a raise of a source is: one raise, and for a petal whose list overflowed one of its FATAL source (18 R469). -/
theorem raiseD_cases : raiseD src syn org detail s = (raiseOne src syn org detail s).1 ∨
    ∃ p, (raiseOne src syn org detail s).2 = true ∧
      raiseD src syn org detail s = raiseFatal p 2 src (raiseOne src syn org detail s).1 := by
  unfold raiseD
  generalize raiseOne src syn org detail s = r
  cases org with
  | none => exact .inl rfl
  | some p =>
    dsimp only
    split
    · next overflowed => exact .inr ⟨p, overflowed, rfl⟩
    · exact .inl rfl

/-- A petal's FATAL raise leaves every entry but the event log's, the pipelines', the FATAL words and the counts of lost entries. -/
theorem raiseFatal_dget_ne (p : Petal) (cause x : Nat) {i j : Nat} (hj : j < 256) (hi : OffLog i)
    (hc : ∀ c, i = collIdx c → j ≠ 3 ∧ j ≠ 0x0A) : (raiseFatal p cause x s).dget i j = s.dget i j :=
  raiseOne_dget_ne _ _ _ _ hj hi (by rwa [srcKind_fatal])

/-- A raise of an event without a class is only logged, delivered and counted. -/
theorem raiseD_posted (hk : srcKind src = 0) : Posted s (raiseD src syn org detail s) := by
  have one := raiseOne_of_event syn org detail s hk
  obtain e | ⟨_, overflowed, _⟩ := raiseD_cases src syn org detail s
  · rw [e, congrArg Prod.fst one]
    exact (raiseCounted_posted src detail s).trans (route_posted src syn _)
  · rw [one] at overflowed
    exact nomatch overflowed

/-- A raise leaves every entry of the dictionary beyond the collectors', the event log's and the pipelines'. -/
theorem raiseD_dget_ne {i j : Nat} (hj : j < 256) (hi : 0x4000 ≤ i) : (raiseD src syn org detail s).dget i j = s.dget i j := by
  have hc : ∀ c, i ≠ collIdx c := fun c h => by have := collIdx_lt c; omega
  have one := raiseOne_dget_ne (src := src) syn org detail s hj (.inr hi) (fun c h => absurd h (hc c))
  obtain e | ⟨p, _, e⟩ := raiseD_cases src syn org detail s
  · rw [e, one]
  · rw [e, raiseFatal_dget_ne _ p _ _ hj (.inr hi) (fun c h => absurd h (hc c)), one]

/-- A raise of class CE or UCC latches the device collector's word of the class. -/
theorem raiseD_dget_device {k : Nat} (hsrc : srcKind src = k) (hk : k = 1 ∨ k = 2) :
    (raiseD src syn org detail s).dget 0x2200 k = latchedWord (s.dget 0x2200 k) k src syn s.time := by
  have one := raiseOne_dget_device syn org detail s (src := src) (by omega)
  rw [hsrc] at one
  obtain e | ⟨p, _, e⟩ := raiseD_cases src syn org detail s
  · rw [e, one]
  · rw [e, raiseFatal_dget_ne _ p _ _ (by omega) (by decide) (fun _ _ => by omega), one]

/-- A raise makes no halted petal due to halt. -/
theorem raiseD_haltDue {q : Nat} (h : q ∈ (raiseD src syn org detail s).haltDue) : q ∈ s.haltDue ∨ Tab.get 0 s.halts q = 0 := by
  obtain e | ⟨p, _, e⟩ := raiseD_cases src syn org detail s
  · rw [e] at h
    exact raiseOne_haltDue _ _ _ _ h
  · rw [e] at h
    obtain h | h := raiseOne_haltDue _ _ _ _ h
    · exact raiseOne_haltDue _ _ _ _ h
    · rw [(raiseOne_delivered _ _ _ _ _).halts] at h
      exact .inr h

end Raise

/-! ## What leaves the halts (18 R477, R480) -/

/-- Between `s` and `u` no petal halts or restarts and no port is isolated or reset, no halted petal becomes due to halt, the
table generations stay, and no petal takes or loses a task or a received packet. -/
structure HaltsKept (s u : State) : Prop where
  halts : u.halts = s.halts
  isoPorts : u.isoPorts = s.isoPorts
  due : ∀ q ∈ u.haltDue, q ∈ s.haltDue ∨ Tab.get 0 s.halts q = 0
  gens : ∀ i j, i = 0x5000 ∨ i = 0x5001 → j < 256 → u.dget i j = s.dget i j
  tasks : ∀ q, (u.pet q).tasks = (s.pet q).tasks
  rx : ∀ q, (u.pet q).rx = (s.pet q).rx

section HaltsKept

variable {s u v : State}

theorem HaltsKept.refl (s : State) : HaltsKept s s := ⟨rfl, rfl, fun _ h => .inl h, fun _ _ _ _ => rfl, fun _ => rfl, fun _ => rfl⟩

theorem HaltsKept.trans (a : HaltsKept s u) (b : HaltsKept u v) : HaltsKept s v where
  halts := b.halts.trans a.halts
  isoPorts := b.isoPorts.trans a.isoPorts
  due q h := (b.due q h).elim (a.due q) (fun running => .inr (a.halts ▸ running))
  gens i j hi hj := (b.gens i j hi hj).trans (a.gens i j hi hj)
  tasks q := (b.tasks q).trans (a.tasks q)
  rx q := (b.rx q).trans (a.rx q)

theorem HaltsKept.ite {c : Prop} [Decidable c] (a : HaltsKept s u) (b : HaltsKept s v) : HaltsKept s (if c then u else v) := by
  split
  · exact a
  · exact b

theorem HaltsKept.foldl {α : Type} (l : List α) (f : State → α → State) (hf : ∀ w, ∀ x ∈ l, HaltsKept w (f w x)) :
    HaltsKept s (l.foldl f s) :=
  List.foldlRecOn (motive := HaltsKept s) _ _ (.refl s) (fun w a x hx => a.trans (hf w x hx))

/-- A change of other fields. -/
theorem haltsKept_of_fields (h : (u.halts, u.isoPorts, u.haltDue, u.dict, u.petals) = (s.halts, s.isoPorts, s.haltDue, s.dict, s.petals)) :
    HaltsKept s u := by
  simp only [Prod.mk.injEq] at h
  obtain ⟨hh, hi, hq, hd, hp⟩ := h
  exact ⟨hh, hi, fun q h => .inl (hq ▸ h), fun i j _ _ => by rw [State.dget, hd, State.dget],
    fun q => by rw [State.pet, hp, State.pet], fun q => by rw [State.pet, hp, State.pet]⟩

/-- A change of other fields, and then work that leaves the halts. -/
theorem HaltsKept.after (a : HaltsKept v u)
    (h : (v.halts, v.isoPorts, v.haltDue, v.dict, v.petals) = (s.halts, s.isoPorts, s.haltDue, s.dict, s.petals)) : HaltsKept s u :=
  (haltsKept_of_fields h).trans a

end HaltsKept

/-! ### The operations on the state -/

theorem domWrite_haltsKept (i j o : Nat) (l : List Byte) (s : State) : HaltsKept s (s.domWrite i j o l) := by
  rw [State.domWrite_eq]
  exact haltsKept_of_fields rfl

/-- An entry that is not of the table generations (04, 0x5000 and 0x5001). -/
def OffTables (i : Nat) : Prop := i < 0x5000 ∨ 0x5001 < i

theorem dset_haltsKept {i j : Nat} (v : Nat) (s : State) (hi : OffTables i) (hj : j < 256) : HaltsKept s (s.dset i j v) where
  halts := rfl
  isoPorts := rfl
  due _ h := .inl h
  gens a b ha hb := State.dget_dset_ne s v fun h => by
    have := (dk_inj hb hj h).1
    unfold OffTables at hi
    omega
  tasks _ := rfl
  rx _ := rfl

theorem bumpBy_haltsKept {i j : Nat} (n : Nat) (s : State) (hi : OffTables i) (hj : j < 256) : HaltsKept s (s.bumpBy i j n) :=
  dset_haltsKept _ s hi hj

theorem bump_haltsKept {i j : Nat} (s : State) (hi : OffTables i) (hj : j < 256) : HaltsKept s (s.bump i j) :=
  dset_haltsKept _ s hi hj

theorem pix_offTables {base : Nat} (p : Petal) (h : base < 0x4400 := by decide) : OffTables (pix base p) := by
  have := p.isLt
  unfold pix OffTables
  omega

theorem pipeIdx_offTables (p : Petal) (c : Cluster) : OffTables (pipeIdx p c) := by
  have := pipeIdx_bounds p c
  unfold OffTables
  omega

/-- A change of a petal's record that keeps its tasks and its received packets. -/
theorem updPet_haltsKept {p : Petal} {f : PetalSt → PetalSt} {s : State}
    (h : ((f (s.pet p)).tasks, (f (s.pet p)).rx) = ((s.pet p).tasks, (s.pet p).rx)) : HaltsKept s (s.updPet p f) := by
  simp only [Prod.mk.injEq] at h
  have pet : ∀ q, ((s.updPet p f).pet q).tasks = (s.pet q).tasks ∧ ((s.updPet p f).pet q).rx = (s.pet q).rx := by
    intro q
    by_cases hq : q = p
    · rw [hq, State.pet_updPet_self]; exact h
    · rw [State.pet_updPet_ne s f hq]; exact ⟨rfl, rfl⟩
  exact ⟨rfl, rfl, fun _ h => .inl h, fun _ _ _ _ => rfl, fun q => (pet q).1, fun q => (pet q).2⟩

/-! ### Raises, waits and histograms -/

theorem raiseD_haltsKept (src syn : Nat) (org : Option Petal) (detail : List Byte) (s : State) :
    HaltsKept s (raiseD src syn org detail s) where
  halts := (raiseD_delivered src syn org detail s).halts
  isoPorts := (raiseD_delivered src syn org detail s).isoPorts
  due _ h := raiseD_haltDue src syn org detail s h
  gens _ _ hi hj := raiseD_dget_ne src syn org detail s hj (by omega)
  tasks q := by rw [(raiseD_delivered src syn org detail s).pet]
  rx q := by rw [(raiseD_delivered src syn org detail s).pet]

theorem msix_haltsKept (fn vec : Nat) (s : State) : HaltsKept s (msix fn vec s) :=
  .ite (haltsKept_of_fields rfl) (.ite (.refl s) (haltsKept_of_fields rfl))

theorem waitDone_haltsKept (h : Hart) (s : State) : HaltsKept s (waitDone h s) := by
  cases h with
  | golne => exact haltsKept_of_fields rfl
  | thr t =>
    have counted : HaltsKept s ((s.updThr (.thr t) Thread.doneWait).bump (pipeIdx t.p t.c) 2) :=
      (bump_haltsKept _ (pipeIdx_offTables t.p t.c) (by decide)).after rfl
    exact .ite (counted.trans (haltsKept_of_fields rfl)) counted

theorem histAdd_haltsKept (p : Petal) (src : Nat) (val : Option Nat) (since : Nat) (s : State) :
    HaltsKept s (histAdd p src val since s) := by
  unfold histAdd
  refine .foldl _ _ fun u n hn => ?_
  have off : OffTables (0x7600 + 0x10 * p.val + n) := .inr (by omega)
  have filtered : HaltsKept u (if val.isNone = true then u.tick else u) := .ite (haltsKept_of_fields rfl) (.refl u)
  dsimp only
  generalize (if val.isNone = true then u.tick else u) = v at filtered ⊢
  generalize (bitOf (u.dget _ 2) 31 || _) = pass
  exact .ite (.ite ((filtered.trans (domWrite_haltsKept _ _ _ _ v)).trans (dset_haltsKept _ _ off (by decide))) filtered) (.refl u)

/-! ### The lock units (11 R291 to R300) -/

theorem writeImage_haltsKept (key : Nat) (aban : Bool) (s : State) : HaltsKept s (writeImage key aban s) := haltsKept_of_fields rfl

theorem inherit_haltsKept (n key : Nat) (s : State) : HaltsKept s (inherit n key s) := by
  induction n generalizing key s with
  | zero => exact bump_haltsKept s (pix_offTables _) (by decide)
  | succ n ih =>
    rw [inherit]
    split
    · exact .refl s
    · dsimp only
      split
      · exact writeImage_haltsKept _ _ s
      · split
        · exact haltsKept_of_fields rfl
        · exact (ih _ _).after rfl

theorem reInherit_haltsKept (mid : Nat) (s : State) : HaltsKept s (reInherit mid s) := by
  unfold reInherit
  split
  · exact .refl s
  · exact haltsKept_of_fields rfl

theorem wakeWaiter_haltsKept (w : Waiter) (res : Nat) (s : State) : HaltsKept s (wakeWaiter w res s) := by
  unfold wakeWaiter
  split
  · split
    · exact (waitDone_haltsKept _ _).after rfl
    · exact .refl s
  · split
    · exact msix_haltsKept _ _ s
    · exact .refl s

theorem passOn_haltsKept (key : Nat) (aban : Bool) (s : State) : HaltsKept s (passOn key aban s) := by
  unfold passOn
  split
  · exact (writeImage_haltsKept _ _ _).after rfl
  · refine .trans (.trans (.trans (.trans ?_ (histAdd_haltsKept _ _ _ _ _)) (writeImage_haltsKept _ _ _))
      (wakeWaiter_haltsKept _ _ _)) (inherit_haltsKept _ _ _)
    exact (bump_haltsKept _ (pix_offTables _) (by decide)).after rfl

theorem lockAbandon_haltsKept (key : Nat) (s : State) : HaltsKept s (lockAbandon key s) := by
  unfold lockAbandon
  split
  · exact .refl s
  · have passed : HaltsKept s (passOn key true { s with holders := Tab.erase s.holders key }) := (passOn_haltsKept _ _ _).after rfl
    exact passed.trans (reInherit_haltsKept _ _)

theorem withdrawSel_haltsKept (sel : Waiter → Bool) (s : State) : HaltsKept s (withdrawSel sel s) := by
  unfold withdrawSel
  exact .after (.foldl _ _ fun u k _ => inherit_haltsKept 8 k u) rfl

theorem holderResetAll_haltsKept (rep : Nat) (mids : List Nat) (s : State) : HaltsKept s (holderResetAll rep mids s) := by
  unfold holderResetAll
  refine .trans (.trans (.foldl _ _ fun u m _ => withdrawSel_haltsKept _ u) (.foldl _ _ fun u k _ => lockAbandon_haltsKept k u))
    (.foldl _ _ fun u p _ => ?_)
  exact .ite (.refl u) ((bumpBy_haltsKept _ u (pix_offTables _) (by decide)).trans (raiseD_haltsKept _ _ _ _ _))

/-! ### Queues, buffers and Cowslip (12 R322, 13 R353, 14 R365 to R387) -/

theorem updQ_haltsKept (g : Nat) (f : QueueSt → QueueSt) (s : State) : HaltsKept s (s.updQ g f) := updPet_haltsKept rfl

theorem setQWord_haltsKept (g w v : Nat) (s : State) : HaltsKept s (setQWord g w v s) := domWrite_haltsKept _ _ _ _ s

theorem queueIrq_haltsKept (g : Nat) (s : State) : HaltsKept s (queueIrq g s) := by
  unfold queueIrq
  dsimp only
  split
  · exact .refl s
  · split
    · exact (msix_haltsKept _ _ s).trans (updQ_haltsKept _ _ _)
    · exact updQ_haltsKept _ _ s

theorem emit_haltsKept (o : Output) (s : State) : HaltsKept s (s.emit o) := haltsKept_of_fields rfl

theorem writeCpls_haltsKept (n g : Nat) (s : State) : HaltsKept s (writeCpls n g s) := by
  induction n generalizing s with
  | zero => exact .refl s
  | succ n ih =>
    rw [writeCpls]
    split
    · exact .refl s
    · next c l _ =>
      dsimp only
      split
      · exact .refl s
      · refine .trans ?_ (ih _)
        have written : ∀ a v, HaltsKept s (setQWord g 6 v ((s.updQ g (fun q => { q with cpls := l })).emit a)) :=
          fun a v => .trans (.trans (updQ_haltsKept g _ s) (emit_haltsKept a _)) (setQWord_haltsKept g 6 v _)
        split
        · exact (written _ _).trans (queueIrq_haltsKept _ _)
        · exact written _ _

theorem tsFill_haltsKept (pkt : Pkt) (status flags : Nat) (time : List Byte) (s : State) :
    HaltsKept s (tsFill pkt status flags time s) := by
  unfold tsFill
  split
  · exact (updQ_haltsKept _ _ s).trans (writeCpls_haltsKept _ _ _)
  · exact .refl s

theorem updPool_haltsKept (p : Petal) (k : Nat) (f : Pool → Pool) (s : State) : HaltsKept s (updPool p k f s) := by
  unfold updPool
  exact updPet_haltsKept rfl

theorem spillWatch_haltsKept (p : Petal) (s : State) : HaltsKept s (spillWatch p s) := by
  unfold spillWatch
  dsimp only
  split
  · exact .refl s
  · exact updPet_haltsKept rfl

theorem homeWrite_haltsKept (a : Nat) (l : List Byte) (s : State) : HaltsKept s (homeWrite a l s) := haltsKept_of_fields rfl

theorem putBuf_haltsKept (p : Petal) {k : Nat} (i : Nat) (s : State) (hk : k < 5) : HaltsKept s (putBuf p k i s) := by
  unfold putBuf
  dsimp only
  generalize leBytes 8 (freeLink k i (poolOf s p k).head) = link
  have linked : HaltsKept s (if (poolOf s p k).rebuild = true then s else homeWrite (bufAddr s p k i) link s) :=
    .ite (.refl s) (homeWrite_haltsKept _ _ _)
  generalize (if (poolOf s p k).rebuild = true then s else homeWrite (bufAddr s p k i) link s) = u at linked ⊢
  have put := linked.trans (updPool_haltsKept p k (fun y =>
    { y with states := Tab.set 0 y.states i 2, head := if y.rebuild then y.head else some i }) u)
  generalize updPool p k _ u = v at put ⊢
  exact .trans (.trans (put.trans (updPet_haltsKept rfl)) (dset_haltsKept _ _ (pix_offTables p) (by omega))) (spillWatch_haltsKept p _)

theorem freeRefused_haltsKept (p : Petal) (reason mid b : Nat) (s : State) : HaltsKept s (freeRefused p reason mid b s) := by
  unfold freeRefused
  exact .trans (.trans (bump_haltsKept s (pix_offTables p) (by decide)) (dset_haltsKept _ _ (pix_offTables p) (by decide)))
    (raiseD_haltsKept _ _ _ _ _)

/-- A BUF word names a buffer of one of the five pools. -/
theorem bufName_lt {s : State} {p : Petal} {b k i : Nat} (h : bufName s p b = some (k, i)) : k < 5 := by
  unfold bufName at h
  dsimp only at h
  split at h
  · next hb =>
    cases h
    exact of_decide_eq_true (Bool.and_eq_true_iff.mp hb).1
  · exact nomatch h

theorem freeChain_haltsKept (n : Nat) (p : Petal) (mid b : Nat) (s : State) : HaltsKept s (freeChain n p mid b s) := by
  induction n generalizing b s with
  | zero => exact .refl s
  | succ n ih =>
    rw [freeChain]
    split
    · exact freeRefused_haltsKept _ _ _ _ s
    · next k i hb =>
      have put := putBuf_haltsKept p i s (bufName_lt hb)
      exact .ite (freeRefused_haltsKept _ _ _ _ s) (.ite (freeRefused_haltsKept _ _ _ _ s) (.ite (put.trans (ih _ _)) put))

theorem dropPkt_haltsKept (pkt : Pkt) (s : State) : HaltsKept s (dropPkt pkt s) :=
  (freeChain_haltsKept _ _ _ _ s).trans (tsFill_haltsKept _ _ _ _ _)

theorem saView_haltsKept (i : Nat) (s : State) : HaltsKept s (saView i s) := by
  unfold saView
  split
  · exact haltsKept_of_fields rfl
  · exact domWrite_haltsKept _ _ _ _ s

theorem saDrained_haltsKept (i : Nat) (s : State) : HaltsKept s (saDrained i s) := by
  unfold saDrained
  split
  · exact .ite ((saView_haltsKept _ _).after rfl) (.refl s)
  · exact .refl s

theorem dropOps_haltsKept (sel : CowOp → Bool) (s : State) : HaltsKept s (dropOps sel s) := by
  unfold dropOps
  exact .after (.foldl _ _ fun u i _ => saDrained_haltsKept i u) rfl

theorem discardQ_haltsKept (g : Nat) (x : QPkt) (s : State) : HaltsKept s (discardQ g x s) := by
  unfold discardQ
  have dropped := dropOps_haltsKept (fun o => o.srv == .egress g x.seq) s
  dsimp only
  split
  · have freed : ∀ p l u, HaltsKept u (freeSlots p l u) := fun p l u =>
      (updPet_haltsKept rfl).trans (dset_haltsKept _ _ (pix_offTables p) (by decide))
    exact (dropped.trans (freed _ _ _)).trans (tsFill_haltsKept _ _ _ _ _)
  · exact dropped.trans (dropPkt_haltsKept _ _)

theorem flushQueue_haltsKept (g : Nat) (s : State) : HaltsKept s (flushQueue g s) := by
  unfold flushQueue
  dsimp only
  exact .trans (.trans ((updQ_haltsKept g _ s).trans (.foldl _ _ fun u x _ => discardQ_haltsKept g x u)) (setQWord_haltsKept _ _ _ _))
    (setQWord_haltsKept _ _ _ _)

theorem disableQueue_haltsKept (g : Nat) (s : State) : HaltsKept s (disableQueue g s) := by
  unfold disableQueue
  have cleared := setQWord_haltsKept g 0 (qWord s g 0 % 2 ^ 63) s
  exact .ite (cleared.trans (flushQueue_haltsKept _ _)) cleared

/-! ### Function resets and links (14 R379, R390) -/

theorem stopFns_haltsKept (fns : List Nat) (s : State) : HaltsKept s (stopFns fns s) := by
  unfold stopFns
  exact .trans (.trans (.foldl _ _ fun u g _ => disableQueue_haltsKept g u) (.foldl _ _ fun u g _ => updQ_haltsKept g _ u))
    (haltsKept_of_fields rfl)

theorem resetFns_haltsKept (rep : Nat) (fns : List Nat) (s : State) : HaltsKept s (resetFns rep fns s) := by
  have ended : ∀ sel u, HaltsKept u (endSessions sel u) := fun sel u => (dset_haltsKept _ _ (.inl (by decide)) (by decide)).after rfl
  unfold resetFns
  exact .trans (.trans ((stopFns_haltsKept fns s).trans (holderResetAll_haltsKept rep fns _)) (ended _ _)) (haltsKept_of_fields rfl)

theorem linkDown_haltsKept {h : Nat} (link : Nat) (s : State) (hh : h < 2) (hl : link < 2) : HaltsKept s (linkDown h link s) := by
  have off : OffTables (hostIdx h) := by unfold hostIdx; exact .inl (by omega)
  have reset : HaltsKept s (if pfsOfLink s h link = [] then s else resetFns (0x1000 + 4 * h) (fnsOfPfs s (pfsOf h)) s) :=
    .ite (.refl s) (resetFns_haltsKept _ _ s)
  exact (reset.trans (dset_haltsKept _ _ off (by omega))).trans (dset_haltsKept _ _ off (by omega))

/-! ### Threads (06 R189, 09 R249, 19 R508) -/

theorem endWait_haltsKept (t : ThreadId) (s : State) : HaltsKept s (endWait t s) := by
  unfold endWait
  dsimp only
  split
  · exact haltsKept_of_fields rfl
  · exact haltsKept_of_fields rfl
  · exact (withdrawSel_haltsKept _ s).trans (haltsKept_of_fields rfl)
  · exact haltsKept_of_fields rfl

theorem squash_haltsKept (t : ThreadId) (a : Addr) (s : State) : HaltsKept s (squash t a s) := by
  have off : OffTables (0x3388 + 0x400 * t.p.val + t.c.val) := .inl (by omega)
  unfold squash
  dsimp only
  split
  · exact .refl s
  · have helped : ∀ n v, HaltsKept v (v.bumpBy (0x3388 + 0x400 * t.p.val + t.c.val) 2 n) := fun n v =>
      bumpBy_haltsKept n v off (by decide)
    have custom : ∀ n v, HaltsKept v (v.bumpBy (pix 0x3380 t.p) 8 n) := fun n v => bumpBy_haltsKept n v (pix_offTables t.p) (by decide)
    exact ((helped _ _).trans (custom _ _)).after rfl

theorem updThr_haltsKept (h : Hart) (f : Thread → Thread) (s : State) : HaltsKept s (s.updThr h f) := haltsKept_of_fields rfl

theorem parkThread_haltsKept (t : ThreadId) (s : State) : HaltsKept s (parkThread t s) := by
  unfold parkThread
  dsimp only
  split
  · exact .refl s
  · exact .refl s
  · exact updThr_haltsKept _ _ s
  · exact updThr_haltsKept _ _ s
  · exact updThr_haltsKept _ _ s
  · exact (squash_haltsKept _ _ s).trans (updThr_haltsKept _ _ _)
  · exact (endWait_haltsKept _ s).trans (updThr_haltsKept _ _ _)

theorem unhaltThread_haltsKept (t : ThreadId) (cause : Nat) (s : State) : HaltsKept s (unhaltThread t cause s) := by
  unfold unhaltThread
  dsimp only
  split
  · have runs := updThr_haltsKept (.thr t) (fun x => { x with st := x.haltFrom, haltCause := cause, passBp := true }) s
    split
    · exact (runs.trans (updThr_haltsKept _ _ _)).trans (parkThread_haltsKept _ _)
    · exact runs
  · exact .refl s

/-! ### Modes (02 R42 to R60) -/

theorem setOwnBit_haltsKept (u : ModeUnit) (bit : Nat) (on : Bool) (s : State) : HaltsKept s (setOwnBit u bit on s) :=
  haltsKept_of_fields rfl

theorem holdOn_haltsKept (p : Petal) (c : Cluster) (r : Nat) (on : Bool) (s : State) : HaltsKept s (holdOn p c r on s) :=
  haltsKept_of_fields rfl

theorem setTrans_haltsKept (u : ModeUnit) (bit : Nat) (dir : Option Bool) (s : State) : HaltsKept s (setTrans u bit dir s) :=
  haltsKept_of_fields rfl

theorem debugExit_haltsKept (p : Petal) (c : Cluster) (s : State) : HaltsKept s (debugExit p c s) := by
  unfold debugExit
  refine .trans (.foldl _ _ fun u t _ => unhaltThread_haltsKept t 0 u) (.foldl _ _ fun u k _ => .foldl _ _ fun v b hb => ?_)
  have := List.mem_range.mp hb
  exact dset_haltsKept _ v (.inr (by omega)) (by omega)

theorem promptSync_haltsKept (u : ModeUnit) (s : State) : HaltsKept s (promptSync u s) := by
  unfold promptSync
  dsimp only
  refine .trans ?_ (.foldl _ _ fun v b _ => setOwnBit_haltsKept u b _ v)
  split
  · exact .ite (debugExit_haltsKept _ _ s) (.refl s)
  · exact .refl s

theorem detSync_haltsKept (p : Petal) (c : Cluster) (s : State) : HaltsKept s (detSync p c s) := by
  unfold detSync
  exact .ite (.refl s) ((setTrans_haltsKept _ _ _ s).trans (holdOn_haltsKept _ _ _ _ _))

theorem invalidateCore_haltsKept (k : CoreId) (s : State) : HaltsKept s (invalidateCore k s) := by
  unfold invalidateCore
  exact .after (.foldl _ _ fun u t _ => updThr_haltsKept _ _ u) rfl

theorem updClus_haltsKept (p : Petal) (c : Cluster) (f : ClusterSt → ClusterSt) (s : State) : HaltsKept s (s.updClus p c f) :=
  haltsKept_of_fields rfl

theorem unpark_haltsKept (p : Petal) (c : Cluster) (r : Nat) (s : State) : HaltsKept s (unpark p c r s) := by
  unfold unpark
  dsimp only
  split
  · have left := updClus_haltsKept p c (fun x => { x with parked := x.parked.filter (· != r) }) s
    generalize s.updClus p c _ = u at left ⊢
    have unread : ∀ v, HaltsKept s (u.dset (pix 0x3010 p) (0x10 + c.val) v) := fun v =>
      left.trans (dset_haltsKept v u (pix_offTables p) (by omega))
    split
    · exact ((unread 0).trans (.foldl _ _ fun v k _ => invalidateCore_haltsKept k v)).trans (updClus_haltsKept _ _ _ _)
    · exact left
  · exact .refl s

theorem ecoUnit_haltsKept (u : ModeUnit) (s : State) : HaltsKept s (ecoUnit u s) :=
  (setOwnBit_haltsKept _ _ _ s).trans (setTrans_haltsKept _ _ _ _)

theorem ecoSync_haltsKept (s : State) : HaltsKept s (ecoSync s) := by
  have clusters : ∀ p u, HaltsKept u (ecoClusters p u) := fun p u => .foldl _ _ fun v c _ =>
    .ite (holdOn_haltsKept _ _ _ _ v) ((holdOn_haltsKept _ _ _ _ v).trans (unpark_haltsKept _ _ _ _))
  exact .trans (.trans (.foldl _ _ fun u p _ => clusters p u) (.foldl _ _ fun u p _ => ecoUnit_haltsKept (.petal p) u))
    (ecoUnit_haltsKept .device _)

theorem refreshPause_haltsKept (p : Petal) (s : State) : HaltsKept s (refreshPause p s) := by
  have sent : ∀ k c q u, c < 8 → HaltsKept u (sendPfc p k c q u) := fun k c q u hc =>
    (emit_haltsKept _ u).trans (bump_haltsKept _ (pix_offTables p) (by omega))
  unfold refreshPause
  dsimp only
  exact .trans (.trans (updPet_haltsKept rfl) (.foldl _ _ fun u i _ => sent _ _ _ u (Nat.mod_lt _ (by decide))))
    (.foldl _ _ fun u i _ => sent _ _ _ u (Nat.mod_lt _ (by decide)))

theorem drainPetal_haltsKept (p : Petal) (s : State) : HaltsKept s (drainPetal p s) := by
  have status : ∀ v, HaltsKept s (s.dset (pix 0x3000 p) 7 v) := fun v => dset_haltsKept v s (pix_offTables p) (by decide)
  have entered : HaltsKept s (drainEnter p s) :=
    .trans ((status 1).trans (.foldl _ _ fun u c _ => .foldl _ _ fun v t _ => unhaltThread_haltsKept t 7 v)) (refreshPause_haltsKept p _)
  unfold drainPetal
  dsimp only
  exact .trans (.ite entered (.ite ((status 0).trans (refreshPause_haltsKept p _)) (.refl s))) (setOwnBit_haltsKept _ _ _ _)

theorem drainSync_haltsKept (s : State) : HaltsKept s (drainSync s) := by
  have status : ∀ v, HaltsKept s (s.dset 0x2000 7 v) := fun v => dset_haltsKept v s (.inl (by decide)) (by decide)
  unfold drainSync
  dsimp only
  exact .trans (.trans (.ite (status 1) (.ite (status 0) (.refl s))) (setOwnBit_haltsKept _ _ _ _))
    (.foldl _ _ fun u p _ => drainPetal_haltsKept p u)

theorem modeIdx_lt (u : ModeUnit) : modeIdx u < 0x4000 := by
  cases u with
  | device => decide
  | petal p => have := p.isLt; simp only [modeIdx]; omega
  | cluster p c => have := p.isLt; have := c.isLt; simp only [modeIdx]; omega

/-- The generation of a mode word lies in the word's own unit. -/
theorem genEntry_modeIdx {u : ModeUnit} {i g : Nat} (h : genEntry (modeIdx u) 1 = some (i, g)) : i = modeIdx u ∧ g = 3 := by
  have hlt := modeIdx_lt u
  generalize modeIdx u = x at h hlt ⊢
  unfold genEntry at h
  split at h
  · exact nomatch h
  · split at h
    · omega
    · split at h
      · next hne => exact absurd rfl hne
      · split at h
        · cases h; exact ⟨rfl, rfl⟩
        · split at h
          · dsimp only at h
            split at h
            · cases h; exact ⟨rfl, rfl⟩
            · exact nomatch h
          · split at h
            · omega
            · split at h
              · next hhost => simp only [Bool.or_eq_true, decide_eq_true_eq] at hhost; omega
              · exact nomatch h

theorem showUnit_haltsKept (ex : ModeUnit → Bool) (u : ModeUnit) (s : State) : HaltsKept s (showUnit ex u s) := by
  have off : OffTables (modeIdx u) := .inl (Nat.lt_trans (modeIdx_lt u) (by decide))
  have entry : ∀ {j} v w, j < 256 → HaltsKept w (w.dset (modeIdx u) j v) := fun v w hj => dset_haltsKept v w off hj
  have counted : ∀ w, HaltsKept w (bumpGen (modeIdx u) 1 w) := by
    intro w
    unfold bumpGen
    split
    · next i g h =>
      obtain ⟨rfl, rfl⟩ := genEntry_modeIdx h
      exact entry _ w (by decide)
    · exact .refl w
  have words : ∀ a b w, HaltsKept w ((w.dset (modeIdx u) 2 a).dset (modeIdx u) 4 b) := fun a b w =>
    (entry a w (by decide)).trans (entry b _ (by decide))
  have forced : ∀ a b w, HaltsKept w ((w.dset (modeIdx u) 5 a).dset (modeIdx u) 6 b) := fun a b w =>
    (entry a w (by decide)).trans (entry b _ (by decide))
  have advanced : ∀ {c : Prop} [Decidable c] {w}, HaltsKept s w → HaltsKept s (if c then bumpGen (modeIdx u) 1 w else w) :=
    fun shown => .ite (shown.trans (counted _)) shown
  unfold showUnit
  cases u with
  | device => exact advanced ((words _ _ s).trans (forced _ _ _))
  | petal p => exact advanced ((words _ _ s).trans (forced _ _ _))
  | cluster p c => exact advanced (words _ _ s)

theorem syncModes_haltsKept (ex : ModeUnit → Bool) (s : State) : HaltsKept s (syncModes ex s) := by
  unfold syncModes
  exact .trans (.trans (.trans (.trans (.foldl _ _ fun u m _ => promptSync_haltsKept m u)
    (.foldl _ _ fun u p _ => .foldl _ _ fun v c _ => detSync_haltsKept p c v)) (ecoSync_haltsKept _)) (drainSync_haltsKept _))
    (.foldl _ _ fun u m _ => showUnit_haltsKept ex m u)

/-! ### Swaps that a halt abandons (18 R489) -/

theorem setMap_haltsKept (r unit st : Nat) (s : State) : HaltsKept s (setMap r unit st s) := by
  unfold setMap
  have written := domWrite_haltsKept 0x2303 0 (8 * r) (leBytes 4 unit ++ leBytes 1 st) s
  dsimp only
  split
  · next range =>
    simp only [Bool.and_eq_true, decide_eq_true_eq] at range
    exact written.trans (dset_haltsKept _ _ (.inl (by unfold grpIdx; omega)) (by decide))
  · split
    · exact written.trans (dset_haltsKept _ _ (.inl (by decide)) (by decide))
    · split
      · exact written.trans (domWrite_haltsKept _ _ _ _ _)
      · exact written

theorem abandonSwaps_haltsKept (sel : Swap → Bool) (s : State) : HaltsKept s (abandonSwaps sel s) := by
  unfold abandonSwaps
  refine .foldl _ _ fun u w _ => ?_
  have logged : ∀ r v, HaltsKept v (logSwap w r v).1 := fun r v => (domWrite_haltsKept _ _ _ _ _).after rfl
  have mapped : HaltsKept u (if unitKind w.unit = 8 then u
      else setMap ((sparePool w.unit).1 + w.new) 0 1 (setMap ((sparePool w.unit).1 + w.old) w.unit 0 u)) :=
    .ite (.refl u) ((setMap_haltsKept _ _ _ u).trans (setMap_haltsKept _ _ _ _))
  dsimp only
  generalize (if unitKind w.unit = 8 then u else _ : State) = v at mapped ⊢
  have freed : ∀ f, HaltsKept u (if unitKind w.unit = 3 then v.updTab f else v) := fun f =>
    .ite (mapped.trans (haltsKept_of_fields rfl)) mapped
  exact (freed _).trans ((logged 1 _).after rfl)

/-! ### What a halt ends in its petal (18 R477) -/

/-- A halted petal that is not due to halt does not become so. -/
theorem HaltsKept.not_due {s u : State} {q : Nat} (a : HaltsKept s u) (halted : Tab.get 0 s.halts q ≠ 0) (h : q ∉ s.haltDue) :
    q ∉ u.haltDue := fun due => (a.due q due).elim h halted

theorem flushPetal_haltsKept (p : Petal) (s : State) : HaltsKept s (flushPetal p s) := by
  unfold flushPetal
  dsimp only
  exact .trans (.foldl _ _ fun u g _ => flushQueue_haltsKept g u) (.foldl _ _ fun u g _ => disableQueue_haltsKept g u)

theorem memWrite_haltsKept (a : Nat) (l : List Byte) (s : State) : HaltsKept s (s.memWrite a l) := haltsKept_of_fields rfl

theorem ctxHalt_haltsKept (p : Petal) (s : State) : HaltsKept s (ctxHalt p s) := by
  unfold ctxHalt
  exact .trans (.foldl _ _ fun u e _ => memWrite_haltsKept _ _ u) (updPet_haltsKept rfl)

theorem freePools_haltsKept (p : Petal) (s : State) : HaltsKept s (freePools p s) := by
  unfold freePools
  refine .trans (.trans (updPet_haltsKept rfl) (dset_haltsKept _ _ (pix_offTables p) (by decide))) (.foldl _ _ fun u k hk => ?_)
  have := List.mem_range.mp hk
  exact dset_haltsKept _ u (pix_offTables p) (by omega)

theorem dropHelpers_haltsKept (p : Petal) (s : State) : HaltsKept s (dropHelpers p s) := haltsKept_of_fields rfl

/-- The mark of a petal's halt, with its time and its collector's words. -/
def haltMarked (p : Petal) (s : State) : State :=
  { s with halts := Tab.put s.halts p.val 3, haltDue := s.haltDue.filter (· ≠ p.val),
           haltTimes := s.haltTimes ++ [(p.val, s.time)], haltWords := Tab.put s.haltWords p.val (collWords s p) }

/-- What a halt leaves of a petal's record. -/
def PetalSt.halted (r : PetalSt) : PetalSt :=
  { PetalSt.reset with seqs := r.seqs, lasts := r.lasts, carved := r.carved, pools := r.pools, owners := r.owners, sketch := r.sketch,
                       marks := r.marks, shapes := r.shapes, pols := r.pols, microBad := r.microBad }

/-- A petal's table generations read the last committed one. -/
def tablesCopied (p : Petal) (s : State) : State :=
  (s.dset 0x5001 (1 + p.val) (s.dget 0x5000 1)).dset 0x5001 (5 + p.val) (s.dget 0x5000 1)

/-- The last of a halt: slots, locks and swaps go, and the petal's modes leave effect. -/
def haltReleased (p : Petal) (s : State) : State :=
  let mids := (allClusters.flatMap (clusterThreads p)).map ThreadId.mid
  let s := holderResetAll (p.val * 1024) mids { s with slots := s.slots.filter (fun e => !mids.contains e.1) }
  let again := (s.swaps.filter (fun w => unitPetal w.unit == some p)).map (fun w => (w.unit, w.trig))
  let s := abandonSwaps (fun w => unitPetal w.unit == some p) { s with requeue := s.requeue ++ again }
  let own := fun (k : Nat) => k == 24 + p.val || (k < 24 && k / 6 == p.val)
  syncModes byHardware { s with modes := s.modes.filter (fun e => !own e.1), trans := s.trans.filter (fun e => !own e.1) }

/-- A petal's halt, step by step. -/
theorem haltPetal_eq (p : Petal) (s : State) : haltPetal p s = haltReleased p (tablesCopied p (dropHelpers p (freePools p
    ((refreshPause p (haltMarked p (cowHalt p (ctxHalt p (flushPetal p s))))).updPet p PetalSt.halted)))) := rfl

theorem haltReleased_haltsKept (p : Petal) (s : State) : HaltsKept s (haltReleased p s) := by
  unfold haltReleased
  dsimp only
  generalize (allClusters.flatMap (clusterThreads p)).map ThreadId.mid = mids
  have unlocked : HaltsKept s (holderResetAll (p.val * 1024) mids { s with slots := s.slots.filter (fun e => !mids.contains e.1) }) :=
    (holderResetAll_haltsKept _ _ _).after rfl
  generalize holderResetAll (p.val * 1024) mids _ = u at unlocked ⊢
  have abandoned := fun sel l => unlocked.trans ((abandonSwaps_haltsKept sel { u with requeue := l }).after rfl)
  exact (abandoned _ _).trans ((syncModes_haltsKept _ _).after rfl)

/-- A petal's halt marks it as halted and no other, ends its FATAL raise's claim, and leaves its tasks and received packets gone
and its table generations at the last committed one. -/
theorem haltPetal_spec (p : Petal) (s : State) : (haltPetal p s).halts = Tab.put s.halts p.val 3 ∧ p.val ∉ (haltPetal p s).haltDue ∧
    ((haltPetal p s).pet p).tasks = [] ∧ ((haltPetal p s).pet p).rx = [] ∧
    (haltPetal p s).dget 0x5001 (1 + p.val) = s.dget 0x5000 1 := by
  have hp := p.isLt
  rw [haltPetal_eq]
  have flushed := ((flushPetal_haltsKept p s).trans (ctxHalt_haltsKept p _)).trans (dropOps_haltsKept (fun o => o.owner == p.val) _)
  rw [cowHalt]
  generalize dropOps _ (ctxHalt p (flushPetal p s)) = a at flushed ⊢
  have paused := refreshPause_haltsKept p (haltMarked p a)
  generalize refreshPause p (haltMarked p a) = b at paused ⊢
  have freed := (freePools_haltsKept p (b.updPet p PetalSt.halted)).trans (dropHelpers_haltsKept p _)
  generalize dropHelpers p _ = c at freed ⊢
  have released := haltReleased_haltsKept p (tablesCopied p c)
  generalize haltReleased p _ = u at released ⊢
  have halts : u.halts = Tab.put s.halts p.val 3 := by
    rw [released.halts, ← flushed.halts]
    exact freed.halts.trans paused.halts
  have marked : Tab.get 0 (haltMarked p a).halts p.val ≠ 0 := by
    rw [haltMarked, Tab.get_put_self]
    decide
  have notDue : p.val ∉ c.haltDue :=
    freed.not_due (paused.halts ▸ marked) (paused.not_due marked fun due => by simp [haltMarked] at due)
  refine ⟨halts, released.not_due ?_ notDue, ?_, ?_, ?_⟩
  · rw [tablesCopied, State.dset_halts, State.dset_halts, freed.halts, State.updPet_halts, paused.halts]
    exact marked
  · rw [released.tasks]
    exact (freed.tasks p).trans (by rw [State.pet_updPet_self]; rfl)
  · rw [released.rx]
    exact (freed.rx p).trans (by rw [State.pet_updPet_self]; rfl)
  · have kept : c.dget 0x5000 1 = s.dget 0x5000 1 := by
      rw [freed.gens _ _ (.inl rfl) (by decide), ← flushed.gens _ _ (.inl rfl) (by decide)]
      exact paused.gens _ _ (.inl rfl) (by decide)
    rw [released.gens _ _ (.inr rfl) (by omega), tablesCopied, State.dget_dset_ne, State.dget_dset_self, kept]
    unfold dk
    omega

/-- A petal's halt halts that petal and no other. -/
theorem petalHalted_haltPetal (p : Petal) (s : State) (c : Petal) : petalHalted (haltPetal p s) c = (petalHalted s c || c == p) := by
  rw [petalHalted, (haltPetal_spec p s).1, petalHalted]
  by_cases h : c = p
  · rw [h, Tab.get_put_self, beq_self_eq_true, Bool.or_true]
    rfl
  · rw [Tab.get_put_ne _ _ _ (fun e => h (Fin.ext e)), beq_eq_false_iff_ne.mpr h, Bool.or_false]

theorem execPetalHalt_idle {p : Petal} {s : State} (h : s.haltDue.contains p.val = false ∨ petalHalted s p = true) :
    execPetalHalt p s = .next s := by
  have idle : ¬ (s.haltDue.contains p.val && !petalHalted s p) = true := by
    obtain h | h := h
    · rw [h, Bool.false_and]; decide
    · rw [h, Bool.not_true, Bool.and_false]; decide
  exact if_neg idle

theorem execPetalHalt_due {p : Petal} {s : State} (due : s.haltDue.contains p.val = true) (running : petalHalted s p = false) :
    execPetalHalt p s = .next (haltPetal p s) := if_pos (by rw [due, running]; rfl)

/-! ### Isolated ports (18 R480) -/

theorem raiseFatal_isoPorts (p : Petal) (cause x : Nat) (s : State) : (raiseFatal p cause x s).isoPorts = s.isoPorts :=
  (raiseFatal_delivered p cause x s).isoPorts

/-- Isolating a port lists it, whatever lies behind it. -/
theorem shutPort_isoPorts {n : Nat} {s : State} (h : n ∉ s.isoPorts) : (shutPort n s).isoPorts = s.isoPorts ++ [n] := by
  unfold shutPort
  rw [if_neg (by simpa using h)]
  dsimp only
  split
  · exact raiseFatal_isoPorts ..
  · split
    · refine List.foldlRecOn (motive := fun (u : State) => u.isoPorts = s.isoPorts ++ [n]) _ _ ?_ fun u hu p _ => ?_
      · rfl
      · exact (raiseFatal_isoPorts p 0 n u).trans hu
    · split
      · exact ((linkDown_haltsKept 0 _ (by omega) (by decide)).trans (linkDown_haltsKept 1 _ (by omega) (by decide))).isoPorts
      · split
        · rfl
        · rfl

theorem mem_isoPorts_isolatePort {n : Nat} {s : State} (h : n ∉ s.isoPorts) : n ∈ (isolatePort n s).isoPorts := by
  have raised : (raise 0x14F n none s).isoPorts = s.isoPorts := (raise_delivered _ _ _ _).isoPorts
  unfold isolatePort
  rw [if_neg (by simpa using h), shutPort_isoPorts (by rwa [raised])]
  exact List.mem_append_right _ (List.mem_singleton_self n)

/-! ## What an error does in the unit that holds it (18 R467) -/

/-- An error's own effect leaves memory and the device collector's words. -/
structure WordsKept (s u : State) : Prop where
  mem : u.mem = s.mem
  words : ∀ j, j < 256 → u.dget 0x2200 j = s.dget 0x2200 j

theorem WordsKept.refl (s : State) : WordsKept s s := ⟨rfl, fun _ _ => rfl⟩

theorem WordsKept.trans {s u v : State} (a : WordsKept s u) (b : WordsKept u v) : WordsKept s v :=
  ⟨b.mem.trans a.mem, fun j hj => (b.words j hj).trans (a.words j hj)⟩

theorem WordsKept.ite {s u v : State} {c : Prop} [Decidable c] (a : WordsKept s u) (b : WordsKept s v) :
    WordsKept s (if c then u else v) := by
  split
  · exact a
  · exact b

theorem wordsKept_of_fields {s u : State} (h : (u.mem, u.dict) = (s.mem, s.dict)) : WordsKept s u := by
  obtain ⟨hm, hd⟩ := Prod.mk.inj h
  exact ⟨hm, fun j _ => by rw [State.dget, hd, State.dget]⟩

/-- A change of other fields, and then such an effect. -/
theorem WordsKept.after {s v u : State} (a : WordsKept v u) (h : (v.mem, v.dict) = (s.mem, s.dict)) : WordsKept s u :=
  (wordsKept_of_fields h).trans a

theorem Posted.wordsKept {s u : State} (a : Posted s u) (hm : u.mem = s.mem) : WordsKept s u :=
  ⟨hm, fun j hj => a.dget 0x2200 j hj (by decide)⟩

theorem bump_wordsKept {i j : Nat} (s : State) (hi : i ≠ 0x2200) (hj : j < 256) : WordsKept s (s.bump i j) :=
  ⟨rfl, fun _ hb => State.dget_bump_ne s fun h => hi (dk_inj hb hj h).1.symm⟩

theorem saView_wordsKept (i : Nat) (s : State) : WordsKept s (saView i s) := by
  unfold saView
  split
  · exact wordsKept_of_fields rfl
  · exact wordsKept_of_fields (by rw [State.domWrite_mem, State.domWrite_dict])

/-- The sources of faulted threads are events without a class. -/
theorem srcKind_fault (p : Petal) : srcKind (0x068 + p.val) = 0 := by
  revert p
  decide

theorem faultThread_wordsKept (t : ThreadId) (cause addr : Nat) (tpc tfpc : Addr) (s : State) :
    WordsKept s (faultThread t cause addr tpc tfpc s) := by
  have counted : ∀ j v, j < 256 → Posted v (v.bump (pix 0x3300 t.p) j) := fun j v hj =>
    bump_posted v (by have := t.p.isLt; unfold pix; omega) hj
  have posted : ∀ v, Posted v (faultNotify t cause v) := fun v => by
    unfold faultNotify
    dsimp only
    split
    · exact ((counted 4 v (by decide)).trans (raiseD_posted _ _ _ _ _ (srcKind_fault t.p))).trans (deliver_posted _ _ _ _)
    · exact (counted 3 v (by decide)).trans (pushFaultNote_posted _ _ _)
  have notified : ∀ v, WordsKept v (faultNotify t cause v) := fun v => (posted v).wordsKept (faultNotify_delivered t cause v).mem
  unfold faultThread
  exact (notified _).after rfl

theorem channelPoison_wordsKept (p : Petal) (ch : Nat) (s : State) : WordsKept s (channelPoison p ch s) := by
  unfold channelPoison
  refine .ite (.refl s) (.ite (wordsKept_of_fields rfl) (.ite ?_ ?_))
  · split
    · exact wordsKept_of_fields rfl
    · exact .refl s
  · split
    · exact wordsKept_of_fields rfl
    · exact .refl s

theorem imemBadWord_wordsKept (p : Petal) (syn : Nat) (s : State) : WordsKept s (imemBadWord p syn s) := by
  unfold imemBadWord
  dsimp only
  split
  · next h =>
    have off : pipeIdx p ⟨syn / 2 ^ 16 % 8, h⟩ ≠ 0x2200 := by have := pipeIdx_bounds p ⟨syn / 2 ^ 16 % 8, h⟩; omega
    exact (bump_wordsKept (j := 9) _ off (by decide)).after rfl
  · exact .refl s

theorem dirtyPoison_wordsKept (p : Petal) (s : State) : WordsKept s (dirtyPoison p s) := by
  unfold dirtyPoison
  dsimp only
  split
  · exact .refl s
  · exact wordsKept_of_fields rfl

theorem scratchError_wordsKept (p : Petal) (s : State) : WordsKept s (scratchError p s) := by
  unfold scratchError
  dsimp only
  split
  · exact .refl s
  · exact wordsKept_of_fields rfl

theorem packetError_wordsKept (p : Petal) (s : State) : WordsKept s (packetError p s) := by
  unfold packetError
  dsimp only
  split
  · exact .refl s
  · exact wordsKept_of_fields rfl

theorem cRegisterFault_wordsKept (p : Petal) (s : State) : WordsKept s (cRegisterFault p s) := by
  unfold cRegisterFault
  dsimp only
  split
  · exact .refl s
  · exact (faultThread_wordsKept _ _ _ _ _ s).trans (wordsKept_of_fields rfl)

/-- The errors whose effect frees a lock, flushes a queue or isolates a port (11 R313, 14 R395, 01 R41). -/
def releasing : List Nat := [0x09B, 0x110, 0x111, 0x112, 0x113, 0x14F]

/-- The effect of any other error leaves memory and the device collector's words. -/
theorem errorEffect_wordsKept {src : Nat} (syn : Nat) (s : State) (h : src ∉ releasing) : WordsKept s (errorEffect src syn s) := by
  have other : ∀ x ∈ releasing, src ≠ x := fun x hx e => h (e ▸ hx)
  unfold errorEffect
  refine .ite (bump_wordsKept s (by decide) (by decide)) ?_
  rw [if_neg (other 0x14F (by decide))]
  refine .ite (bump_wordsKept s (by decide) (by decide)) (.ite ?sa (.ite ?registers ?_))
  case sa =>
    split
    · exact (saView_wordsKept _ _).after rfl
    · exact .refl s
  case registers =>
    split
    · exact .ite (faultThread_wordsKept _ _ _ _ _ s) (.refl s)
    · exact .refl s
  refine .ite (channelPoison_wordsKept _ _ s) (.ite (imemBadWord_wordsKept _ _ s) (.ite (dirtyPoison_wordsKept _ s)
    (.ite (scratchError_wordsKept _ s) (.ite (cRegisterFault_wordsKept _ s) (.ite (wordsKept_of_fields rfl) ?_)))))
  rw [if_neg (other 0x09B (by decide))]
  refine .ite (packetError_wordsKept _ s) ?_
  have queue := fun x hx => other (0x110 + x) hx
  have noQueue : ¬ ((decide (0x110 ≤ src) && decide (src ≤ 0x113)) = true) := by
    have := queue 0 (by decide)
    have := queue 1 (by decide)
    have := queue 2 (by decide)
    have := queue 3 (by decide)
    rw [Bool.and_eq_true, decide_eq_true_eq, decide_eq_true_eq]
    omega
  rw [if_neg noQueue]
  exact .refl s

/-- A corrected error of a unit changes the list of its errors and Sorrel's queue alone (18 R484). -/
theorem ceError_wordsKept (u : Nat) (s : State) : WordsKept s (ceError u s) := by
  have queued : ∀ v, WordsKept v (trigger u 2 v) := fun v =>
    .ite (.refl v) (.ite (wordsKept_of_fields rfl) (wordsKept_of_fields rfl))
  have checked : ∀ v, WordsKept v (triggerIf 0 u 2 v) := fun v => .ite (queued v) (.refl v)
  unfold ceError
  exact .ite (.refl s) (.ite ((checked _).after rfl) (wordsKept_of_fields rfl))

/-! ## Raised errors (18 R465 to R473, R482, R484) -/

/-- The state in which a source is raised and has had its effect in the unit that holds it. -/
def errorRaised (src syn : Nat) (unit : Option Nat) (s : State) : State :=
  errorEffect src syn (raise src syn (srcPetal src syn unit) s)

theorem exec_errorRaise (r : ErrReport) (syn : BitVec 19) (unit : Option (BitVec 32)) (s : State) :
    exec (.errorRaise r syn unit) s = execErrorRaise r syn unit s := rfl

section ErrorRaise

variable {src : BitVec 9} {syn : BitVec 19} {unit : Option (BitVec 32)} {s : State}

/-- An uncorrected error is raised and has its effect. -/
theorem exec_errorRaise_uncorrected (hk : srcKind src.toNat = 2) : exec (.errorRaise (.source src) syn unit) s =
    .next (errorRaised src.toNat syn.toNat (unit.map (fun x => x.toNat)) s) := by
  have reset : src.toNat ≠ 0x15F := fun e => by rw [e] at hk; exact absurd hk (by decide)
  have known : srcKind src.toNat ≠ 0 := by omega
  have lasting : srcKind src.toNat ≠ 1 := by omega
  simp only [exec_errorRaise, execErrorRaise, known, reset, lasting, if_false]
  rfl

/-- A corrected error with a source is raised, has its effect, and counts for its unit's rate. -/
theorem exec_errorRaise_corrected (hk : srcKind src.toNat = 1) : ∃ u, exec (.errorRaise (.source src) syn unit) s = .next u ∧
    WordsKept (errorRaised src.toNat syn.toNat (unit.map (fun x => x.toNat)) s) u := by
  have reset : src.toNat ≠ 0x15F := fun e => by rw [e] at hk; exact absurd hk (by decide)
  have known : srcKind src.toNat ≠ 0 := by omega
  simp only [exec_errorRaise, execErrorRaise, known, reset, if_false, if_pos hk]
  refine ⟨_, rfl, ?_⟩
  cases unit with
  | none => exact .refl _
  | some x => exact ceError_wordsKept _ _

theorem bitOf_eq_testBit (v i : Nat) : bitOf v i = v.testBit i := by
  rw [bitOf, Nat.testBit_eq_decide_div_mod_eq]
  rfl

/-- An error of class CE or UCC latches the device collector's word and leaves memory (18 R466, R467). -/
theorem exec_errorRaise_latches {k : Nat} (hsrc : srcKind src.toNat = k) (hk : k = 1 ∨ k = 2) (hr : src.toNat ∉ releasing) :
    ∃ u, exec (.errorRaise (.source src) syn unit) s = .next u ∧ u.mem = s.mem ∧
      u.dget 0x2200 k = if (s.dget 0x2200 k).testBit 63 then s.dget 0x2200 k ||| 2 ^ 62
        else statusWord k src.toNat syn.toNat s.time := by
  have effect := errorEffect_wordsKept syn.toNat
    (raise src.toNat syn.toNat (srcPetal src.toNat syn.toNat (unit.map (fun x => x.toNat))) s) hr
  have ran : ∃ u, exec (.errorRaise (.source src) syn unit) s = .next u ∧
      WordsKept (errorRaised src.toNat syn.toNat (unit.map (fun x => x.toNat)) s) u := by
    obtain rfl | rfl := hk
    · exact exec_errorRaise_corrected hsrc
    · exact ⟨_, exec_errorRaise_uncorrected hsrc, .refl _⟩
  obtain ⟨u, hu, kept⟩ := ran
  have kept := effect.trans kept
  refine ⟨u, hu, ?_, ?_⟩
  · rw [kept.mem, (raise_delivered _ _ _ _).mem]
  · rw [kept.words k (by omega), raise, raiseD_dget_device _ _ _ _ _ hsrc hk, latchedWord, bitOf_eq_testBit]

end ErrorRaise

theorem srcKind_releasing {src : Nat} (h : src ∈ releasing) : srcKind src = 2 := by
  revert src
  decide

theorem srcKind_registers (p : Petal) : srcKind (0x06C + p.val) = 2 := by
  revert p
  decide

/-- A bad SA is stopped (13 R363). -/
theorem errorEffect_sa {syn : Nat} {a : Sa} {s : State} (h : Tab.find s.cow.sas syn = some a) :
    Tab.find (errorEffect 0x0B9 syn s).cow.sas syn = some { a with stopped := true } := by
  have viewed : ∀ v, (saView syn v).cow = v.cow := by
    intro v
    unfold saView
    split
    · rfl
    · exact State.domWrite_cow ..
  unfold errorEffect
  rw [if_neg (by decide), if_neg (by decide), if_neg (by decide), if_pos rfl, h]
  dsimp only
  rw [viewed]
  exact Tab.find_put_self ..

/-- A running thread whose register is bad faults with REGFILE (06 R191). -/
theorem errorEffect_registers {t : ThreadId} {syn : Nat} {s : State} (ht : threadOf (syn % 2 ^ 16) = some t)
    (hst : (s.thr (.thr t)).st = .running) :
    errorEffect (0x06C + t.p.val) syn s = faultThread t 0x0B 0 (s.thr (.thr t)).pc (s.thr (.thr t)).pc s := by
  have hp := t.p.isLt
  have own : (⟨(0x06C + t.p.val) % 4, Nat.mod_lt _ (by decide)⟩ : Petal) = t.p := Fin.ext (by dsimp only; omega)
  have range : (decide (0x06C ≤ 0x06C + t.p.val) && decide (0x06C + t.p.val ≤ 0x06F)) = true := by
    rw [Bool.and_eq_true, decide_eq_true_eq, decide_eq_true_eq]
    omega
  unfold errorEffect
  rw [if_neg (by omega), if_neg (by omega), if_neg (by omega), if_neg (by omega), if_pos range, ht]
  dsimp only
  rw [own, hst]
  exact if_pos (by simp)

theorem errorRaised_registers {t : ThreadId} {syn : Nat} {unit : Option Nat} {s : State}
    (ht : threadOf (syn % 2 ^ 16) = some t) (hst : (s.thr (.thr t)).st = .running) :
    ∃ q, (errorRaised (0x06C + t.p.val) syn unit s).thr (.thr t) = { s.thr (.thr t) with
      st := .parkedFault, wait := .none, resv := none, parkAsked := false, haltAsked := 0,
      tcause := faultWord false false 0x0B 0, tpc := (s.thr (.thr t)).pc, tfpc := (s.thr (.thr t)).pc, evq := q } := by
  have raised := raise_delivered (0x06C + t.p.val) syn (srcPetal (0x06C + t.p.val) syn unit) s
  obtain ⟨q, record⟩ := raised.thr (.thr t) (by rw [hst]; exact nofun)
  rw [errorRaised]
  generalize raise (0x06C + t.p.val) syn _ s = v at record ⊢
  obtain ⟨q', parked⟩ := (faultThread_spec t 0x0B 0 (v.thr (.thr t)).pc (v.thr (.thr t)).pc v).1
  rw [errorEffect_registers ht (by rw [record]; exact hst), parked, record]
  exact ⟨q', rfl⟩

/-! ## Status words and escalation (18 R468 to R471) -/

theorem clsSub_lt (cls : ErrClass) : clsSub cls < 256 := by
  cases cls with
  | ce => decide
  | ucc => decide
  | fatal => decide

/-- The record of a collector after its class's word is cleared (18 R468). -/
def Coll.cleared (cls : ErrClass) (r : Coll) : Coll :=
  match cls with
  | .ce => { r with ceTimer := false }
  | .ucc => { r with uccTimer := false, ucc := [] }
  | .fatal => { r with fatalTimer := false, fatal := [] }

/-- A clear writes the word, changes the collector's record, and shows its lists. -/
theorem clearWord_eq (col : Collector) (cls : ErrClass) (s : State) : ∃ dm, clearWord col cls s =
    { (s.dset (collIdx col) (clsSub cls) 0).updColl col (Coll.cleared cls) with doms := dm } := by
  have shown : ∀ v, ∃ dm, showLists col v = { v with doms := dm } := by
    intro v
    unfold showLists
    dsimp only
    rw [State.domWrite_eq, State.domWrite_eq]
    exact ⟨_, rfl⟩
  exact shown _

theorem clearWord_dget (col : Collector) (cls : ErrClass) (i j : Nat) (s : State) :
    (clearWord col cls s).dget i j = (s.dset (collIdx col) (clsSub cls) 0).dget i j := by
  obtain ⟨dm, e⟩ := clearWord_eq col cls s
  rw [e]
  rfl

theorem clearWord_dget_self (col : Collector) (cls : ErrClass) (s : State) :
    (clearWord col cls s).dget (collIdx col) (clsSub cls) = 0 := by
  rw [clearWord_dget, State.dget_dset_self]

/-- A clear leaves every other entry. -/
theorem clearWord_dget_ne {col : Collector} {cls : ErrClass} {i j : Nat} (s : State) (hj : j < 256)
    (h : i ≠ collIdx col ∨ j ≠ clsSub cls) : (clearWord col cls s).dget i j = s.dget i j := by
  rw [clearWord_dget, State.dget_dset_ne]
  intro e
  obtain ⟨index, sub⟩ := dk_inj hj (clsSub_lt cls) e
  exact h.elim (· index) (· sub)

theorem clearWord_coll (col : Collector) (cls : ErrClass) (s : State) :
    (clearWord col cls s).coll col = Coll.cleared cls (s.coll col) := by
  obtain ⟨dm, e⟩ := clearWord_eq col cls s
  rw [e]
  exact State.coll_updColl_self ..

theorem timerRuns_cleared (col : Collector) (cls : ErrClass) (s : State) : timerRuns (clearWord col cls s) col cls = false := by
  unfold timerRuns
  rw [clearWord_coll]
  cases cls with
  | ce => rfl
  | ucc => rfl
  | fatal => rfl

/-- A clear leaves its word at 0, its timer stopped, its list empty, and memory and every other entry as they are (18 R468). -/
theorem clearWord_spec (col : Collector) (cls : ErrClass) (s : State) :
    (clearWord col cls s).dget (collIdx col) (clsSub cls) = 0 ∧ timerRuns (clearWord col cls s) col cls = false ∧
      (clearWord col cls s).mem = s.mem ∧ (cls = .ucc → ((clearWord col cls s).coll col).ucc = []) ∧
      (cls = .fatal → ((clearWord col cls s).coll col).fatal = []) ∧
      ∀ j m, m < 256 → (j ≠ collIdx col ∨ m ≠ clsSub cls) → (clearWord col cls s).dget j m = s.dget j m := by
  refine ⟨clearWord_dget_self .., timerRuns_cleared .., ?_, ?_, ?_, fun _ _ hm h => clearWord_dget_ne s hm h⟩
  · obtain ⟨dm, e⟩ := clearWord_eq col cls s
    rw [e]
    rfl
  · rintro rfl
    rw [clearWord_coll]
    rfl
  · rintro rfl
    rw [clearWord_coll]
    rfl

section StatusWord

variable {w : Writer} {col : Collector} {cls : ErrClass} {v : BitVec 64} {s : State}

theorem exec_statusWordClear : exec (.statusWordClear w col cls v) s =
    .next (dictCmd w (collIdx col) (clsSub cls) 0 (leBytes 8 v.toNat) none (effClear col cls (leBytes 8 v.toNat)) s) := rfl

/-- A status word takes the exact value that was read, and nothing else (18 R468). -/
theorem effClear_eq : effClear col cls (leBytes 8 v.toNat) s =
    if v.toNat ≠ s.dget (collIdx col) (clsSub cls) then .error 0x08000021 else .ok (clearWord col cls s) := by
  rw [effClear, leNat_leBytes_word]

/-- An expiry of a timer that does not run changes nothing. -/
theorem execEscalationExpiry_stopped {units : List (Option (BitVec 32))} (h : timerRuns s col cls = false) :
    execEscalationExpiry col cls units s = .next s := by
  unfold execEscalationExpiry
  rw [h]
  rfl

/-- An expired timer clears a CE or UCC word, a FATAL word's timer stops, and the expiry counts and is reported (18 R471). -/
theorem execEscalationExpiry_running {units : List (Option (BitVec 32))} (h : timerRuns s col cls = true) :
    ∃ y, execEscalationExpiry col cls units s = .next (raise 0x14B (collKey col * 2 ^ 16 + clsSub cls) none (y.bump (collIdx col) 9)) ∧
      timerRuns y col cls = false ∧ (cls ≠ .fatal → y.dget (collIdx col) (clsSub cls) = 0) ∧
      (cls = .fatal → y.dget (collIdx col) (clsSub cls) = s.dget (collIdx col) (clsSub cls)) := by
  unfold execEscalationExpiry
  rw [h]
  cases cls with
  | ce => exact ⟨_, rfl, timerRuns_cleared .., fun _ => clearWord_dget_self .., nofun⟩
  | ucc => exact ⟨_, rfl, timerRuns_cleared .., fun _ => clearWord_dget_self .., nofun⟩
  | fatal =>
    refine ⟨_, rfl, ?_, fun h => absurd rfl h, fun _ => rfl⟩
    rw [timerRuns, State.coll_updColl_self]

end StatusWord

/-! ## Fault collectors -/

/-- Settles O35: raises, clears and expiries of the collectors, hangs, isolated ports and petal halts. -/
theorem faultCollectors : Obligations.FaultCollectors := by
  unfold Obligations.FaultCollectors
  intro w src syn unit col cls v units x p port n c1 s k
  refine ⟨fun hk => ?event, fun hsrc => ?reset, fun hk hr => exec_errorRaise_latches rfl hk hr, fun hr => ?releasing,
    fun a hsrc ha => ?sa, fun t hsrc ht hp hst => ?registers, ⟨rfl, rfl, rfl, rfl, rfl, rfl, rfl, rfl, rfl⟩, ?words,
    rfl, fun h => ?isolated, fun h => ⟨_, rfl, mem_isoPorts_isolatePort h⟩, checked_of_dictCmd rfl, fun ha => ?portReset,
    fun h => ?running, fun due running => ?halts, fun ha => ?haltCommand⟩
  case event => rw [exec_errorRaise, execErrorRaise]; exact if_pos hk
  case reset =>
    subst hsrc
    rfl
  case releasing => exact exec_errorRaise_uncorrected (srcKind_releasing hr)
  case sa =>
    subst hsrc
    refine ⟨_, exec_errorRaise_uncorrected (by decide), ?_⟩
    exact errorEffect_sa (by rwa [(raise_delivered _ _ _ _).cow])
  case registers =>
    subst hp
    obtain ⟨q, parked⟩ := errorRaised_registers (unit := unit.map (fun x => x.toNat)) ht hst
    rw [← hsrc] at parked
    refine ⟨_, exec_errorRaise_uncorrected (by rw [hsrc]; exact srcKind_registers t.p), ?_, ?_, ?_, ?_⟩ <;> rw [parked]
  case words =>
    refine ⟨checked_of_dictCmd exec_statusWordClear, fun ha => ⟨fun differs => ?_, fun same => ?_⟩,
      fun h => execEscalationExpiry_stopped h, fun h => execEscalationExpiry_running h⟩
    · exact refused_of_error exec_statusWordClear ha (effClear_eq.trans (if_pos differs))
    · have cleared := effClear_eq.trans (if_neg (not_not_intro same))
      exact ⟨_, exec_of_accepted exec_statusWordClear ha cleared, clearWord_spec col cls s⟩
  case isolated => exact congrArg Host.Outcome.next (if_pos (by simpa using h))
  case portReset =>
    rw [exec_of_accepted (c := .portResetCommand w x) rfl ha rfl, leNat_leBytes_byte]
  case running => exact execPetalHalt_idle h
  case halts =>
    obtain ⟨-, notDue, tasks, rx, gens⟩ := haltPetal_spec p s
    refine ⟨_, execPetalHalt_due due running, ?_, ?_, tasks, rx, gens, petalHalted_haltPetal p s⟩
    · rw [petalHalted_haltPetal, beq_self_eq_true, Bool.or_true]
    · simpa using notDue
  case haltCommand =>
    rw [exec_of_accepted (c := .petalHaltCommand w x) rfl ha rfl]
    simp only [leNat_leBytes_byte]

end Sys2Proof.Machine
